-- ==== Sys2Proof/Word.lean ====
section
/-!
DEFINITION. The word types of the TH2532 model and nothing more: bytes, 32-bit words and 64-bit words as bit vectors.
-/
namespace Sys2Proof

/-- One byte of memory. -/
abbrev Byte := BitVec 8

/-- A 32-bit register, parameter word or FP32 encoding. -/
abbrev Word := BitVec 32

/-- A 64-bit count or reply field. -/
abbrev DWord := BitVec 64

end Sys2Proof
end

