-- ==== Sys2Proof/Syntax.lean ====
section
/-!
DEFINITION. The commands and events that the block takes: one constructor of `Instr` per row of spec/opcode_table.json,
with the operands each row needs, and the operand types.
-/
namespace Sys2Proof

/-- A supervisor die, and with it a half of the part (R9). -/
inductive Side where
  | north | south
deriving DecidableEq, Repr

/-- Where a command stands: a hardware queue, or the section of the image run in progress (R333, R403). -/
inductive QRef where
  | hw (qid : BitVec 20)
  | img
deriving DecidableEq, Repr

/-- One command: its queue and its slot count, or its packet number in the image section. -/
structure CmdRef where
  q : QRef
  idx : Nat
deriving DecidableEq, Repr

/-- An error pattern in the 72 bytes of a codeword (R271): what is added to the byte at each place, data byte 0 first. -/
abbrev ErrPat := List (Nat × Byte)

/-- The ring hops of a quantum's traffic (R17, R264, R384). -/
abbrev Route := Fin 4

/-- A Keystone home (0 to 3) or a Borug stack, whose lines a scrub reads in order (R276). -/
structure ScrubUnit where
  keystone : Bool
  unit : Fin 32
deriving DecidableEq, Repr

/-- What a scrub read finds: the errors of the line, and whether a write reached the line after the read (R277). -/
structure ScrubFind where
  err : ErrPat := []
  overtaken : Bool := false
deriving DecidableEq, Repr

/-- What the surroundings contribute to one step of a command (log 3): faults found by the checks of R88, R92, R272 and
R280, the partner supervisor's answer, and bytes that come over the Viaduct. The defaults are a step without faults. -/
structure Circ where
  /-- the command starts and is left in progress at this position -/
  hold : Option Nat := none
  /-- visit, and array tile within it, of a checksum mismatch in the first and in the second execution (R88, R89) -/
  mis1 : Option (Nat × Nat) := none
  mis2 : Option (Nat × Nat) := none
  /-- operand-buffer bytes whose parity is wrong, as offsets in the command's core (R92) -/
  parity : List Nat := []
  /-- errors that the reads of this step find, by line number (address / 64), and lines, by address, that are late beyond
  the lower-tier timeout (R272, R280) -/
  errs : List (Nat × ErrPat) := []
  late : List Nat := []
  /-- lines of the command's own row requests that have timed out: the block fills this in (R132) -/
  gone : List Nat := []
  /-- a device fault confined to the command (R347, ST_INTERNAL) -/
  broken : Bool := false
  /-- the partner supervisor answers within 1 ms (R433, R439) -/
  ack : Bool := true
  /-- a flash program or erase failure (R433) -/
  flashBad : Bool := false
  /-- bytes read from another part over the Viaduct (R417) -/
  remote : List Byte := []
deriving DecidableEq, Repr

/-- The energy classes of R384. -/
inductive EClass where
  | a8 | a4 | a16 | ab | ex | ve | sf | mk | mb | vd | me | md | ms | ct
deriving DecidableEq, Repr

/-- A hello of a domain formation (R398), with the member's RED_MIN (R399) and the members on its trained ports (R400). -/
structure Hello where
  part : Nat
  sizeM1 : Nat
  master : Bool
  domId : Word
  fw : Word
  nl2 : Bool
  nl3 : Bool
  fmts : List Nat
  redMin : Nat
  links : List (Nat × Nat)
deriving DecidableEq, Repr

/-- Messages of collectives (R410, R411). `k` counts the pairs of a peer and channel since the formation. -/
inductive ColMsg where
  /-- the peer's COL.SEND `k` has length `len`; lines `off` of it carry `bytes` -/
  | data (peer channel k len off : Nat) (bytes : List Byte)
  /-- the peer's COL.RECV `k` has length `len` and has acknowledged `lines` lines -/
  | ack (peer channel k len lines : Nat)
  /-- rank `rank` of the COL.REDUCE `k` on a channel has parameters `par` and contributes `xs` -/
  | vec (rank channel k par : Nat) (xs : List Word)
deriving DecidableEq, Repr

/-- One path's copy of a heartbeat (R436). -/
structure Beat where
  term : Word
  leader : Side
  seq : Nat
  fenced : Bool
deriving DecidableEq, Repr

/-- What Instar 0 finds (R422, R429): whether flash can be read, and per supervisor how many of the 262,144 bits of SRAM that it
reads differ from its enrolment. -/
structure BootCheck where
  flashOk : Bool
  nDiff : Nat
  sDiff : Nat
deriving DecidableEq, Repr

/-- What Instar 1 finds (R361, R423): units that fail self-test, and link training. -/
structure SelfTest where
  /-- failed cores as (compute die, physical core) -/
  badCores : List (Nat × Nat)
  /-- compute dies whose shared logic fails -/
  badDies : List Nat
  storeBad : Bool
  badStacks : List Nat
  /-- failed encode pipes, decode pipes and scalers -/
  badEnc : List Nat
  badDec : List Nat
  badScl : List Nat
  badPorts : List Nat
  fabricBad : Bool
  halfBad : Bool
  nLeadFn : Bool
  sLeadFn : Bool
  /-- Emcia training: the host end offers a generation, and the lanes that train -/
  linkGen : BitVec 2
  linkLanes : BitVec 32
  /-- training values of the stacks, the Emcia link and the Viaduct ports -/
  training : List Nat
  /-- the test record could be written to flash -/
  recordOk : Bool
deriving DecidableEq, Repr

/-- The timing of a release of MOD_RESET_N against R448: whether the clock, the hold and the pulse were long enough, and
the straps SB_ADDR sampled (R452). -/
structure Release where
  clockOk : Bool
  holdOk : Bool
  pulseOk : Bool
  straps : BitVec 3
deriving DecidableEq, Repr

/-- The commands and events: the rows of spec/opcode_table.json. -/
inductive Instr where
  | movTile (c : CmdRef) (e : Circ)
  | movExpand (c : CmdRef) (e : Circ)
  | movGather (c : CmdRef) (e : Circ)
  | movFill (c : CmdRef) (e : Circ)
  | mtxRun (c : CmdRef) (e : Circ)
  | mtxChain2 (c : CmdRef) (e : Circ)
  | mtxMv (c : CmdRef) (e : Circ)
  | vecRun (c : CmdRef) (e : Circ)
  | vecStats (c : CmdRef) (e : Circ)
  | vecUpdate (c : CmdRef) (e : Circ)
  | vecSched (c : CmdRef) (e : Circ)
  | attFwd (c : CmdRef) (e : Circ)
  | attBwd (c : CmdRef) (e : Circ)
  | kvAppend (c : CmdRef) (e : Circ)
  | kvMap (c : CmdRef) (e : Circ)
  | cnvFuse (c : CmdRef) (e : Circ)
  | abtRun (c : CmdRef) (e : Circ)
  | rngSet (c : CmdRef) (e : Circ)
  | smpGumbel (c : CmdRef) (e : Circ)
  | medDec (c : CmdRef) (e : Circ)
  | medEnc (c : CmdRef) (e : Circ)
  | medScale (c : CmdRef) (e : Circ)
  | medLock (c : CmdRef) (e : Circ)
  | synSignal (c : CmdRef) (e : Circ)
  | synWait (c : CmdRef) (e : Circ)
  | synFence (c : CmdRef) (e : Circ)
  | tskBegin (c : CmdRef) (e : Circ)
  | tskCommit (c : CmdRef) (e : Circ)
  | tskDiscard (c : CmdRef) (e : Circ)
  | ctxSave (c : CmdRef) (e : Circ)
  | ctxRestore (c : CmdRef) (e : Circ)
  | colSend (c : CmdRef) (e : Circ)
  | colRecv (c : CmdRef) (e : Circ)
  | colReduce (c : CmdRef) (e : Circ)
  | schLoad (c : CmdRef) (e : Circ)
  | schRun (c : CmdRef) (e : Circ)
  | tglLimit (c : CmdRef) (e : Circ)
  | tglReserve (c : CmdRef) (e : Circ)
  | supState (c : CmdRef) (e : Circ)
  | supElect (c : CmdRef) (e : Circ)
  | supFwstage (c : CmdRef) (e : Circ)
  | supAttest (c : CmdRef) (e : Circ)
  | supQueue (c : CmdRef) (e : Circ)
  /-- a 64-bit doorbell store with KIND 0; `stores` are the companion's own writes to its memory made before it -/
  | commandDoorbell (stores : List (Nat × Byte)) (v : DWord)
  | completionDoorbell (v : DWord)
  | slotFetch (qid : BitVec 20)
  /-- the record of command `c` in the completion ring of queue `qid` -/
  | completionRecordWrite (qid : BitVec 20) (c : CmdRef)
  | irqModerationExpiry (qid : BitVec 20)
  | queueDrainComplete (qid : BitVec 20)
  | bePlacementTimeout (c : CmdRef)
  | beYield (c : CmdRef) (tile : Nat)
  | beResume (c : CmdRef)
  /-- a quantum of class `k` and `units` units on die `die` (compute dies 0 to 15, store dies 16 to 19, supervisor dies,
  media dies, fabric die) is offered; its traffic goes along `hops`; `first` says that it carries its
  command's fixed energy -/
  | quantumGrant (c : CmdRef) (k : EClass) (units : Nat) (hops : Route) (first : Bool) (die : Fin 25)
  | runMsExpiry
  | crossingDrainEnd
  | crossingPendingActions (e : Circ)
  | nextRunStart
  | serviceRunEnd
  | imageRunStart
  | taskRelease (task : Nat)
  | abortReceive (part : BitVec 9) (tag : Word) (status : BitVec 8)
  | collectiveRelease (c : CmdRef)
  /-- a write of TMB_CTRL with LOAD, PPS_EN or SOURCE set as the row says; `v` is the whole word -/
  | tmbLoad (v : Word)
  | timeLoadApply
  | tmbPpsEnable (v : Word)
  | tmbSourceSelect (v : Word)
  | tmbNowLoRead
  | refclkLoss
  | refclkRestore
  /-- a TB_PPS rising edge that lasts at least 1 µs, at the present count plus `dt` ticks -/
  | ppsEdge (dt : Nat)
  | ppsLoss
  | registerWrite (addr : BitVec 48) (v : Word)
  | counterClearWrite (addr : BitVec 48) (v : Word)
  /-- a companion access of `bytes` bytes at `addr`, a write of `v` when `write` -/
  | companionReservedAccess (write : Bool) (addr : BitVec 48) (bytes : Nat) (v : DWord)
  | errMemLastLoRead
  | controlQueueOpen (v : Word)
  | controlRingConfigWrite (off : BitVec 16) (v : Word)
  | qtbBaseWrite (hi : Bool) (v : Word)
  /-- FORM is written; `links` are the trained ports with the part index at the other end -/
  | domainForm (links : List (Nat × Nat))
  | domainLeave
  | helloReceive (h : Hello)
  | formationTimeout
  /-- the time master's count at the adoption -/
  | timeMasterAdopt (count : DWord)
  | timeMessage
  | timeMessageTimeout
  | viaductLinkDown (port : Nat)
  | collectiveDataArrival (m : ColMsg)
  | collectiveTimeout (c : CmdRef)
  | chrysalisMirrorCopyEnd
  | heartbeatSend (side : Side)
  /-- the receiver's view of one heartbeat period: the copies over the direct link and over the store-die path -/
  | heartbeatReceive (receiver : Side) (direct store : Option Beat)
  | heartbeatTimeout (receiver : Side)
  | leaderSilenceTimeout
  | supervisorCrossCheck (agree : Bool)
  | bottomTreeReady (side : Side)
  /-- a fault not confined to one command; `path` says that a supervisor control path still works -/
  | deviceFault (path : Bool)
  | inputApplied
  /-- MOD_EN rises after `lowMs` milliseconds low -/
  | modEnRise (lowMs : Nat)
  | prechargeEnd
  | prechargeTimeout
  | railsInRegulation
  | modResetNAssert
  | modResetNRelease (r : Release)
  | instar0Complete (b : BootCheck)
  | instar1Complete (t : SelfTest)
  /-- P_BASE measured over 1 ms, in watts -/
  | instar2Complete (pBase : BitVec 12)
  | inputOvervoltage
  | inputUndervoltage
  | lowToleranceTimeout
  | breakerTrip
  | railFault
  | modEnFall
  | inputRemoval
  | thermalTrip
  /-- per die the measured energy of the window and the die's share of P_BASE in it, in nJ; and P_BASE as measured when
  nothing was granted -/
  | budgetWindowEnd (dies : List (Nat × Nat)) (pBase : BitVec 12)
  /-- input voltage in 10 mV and current in 0.1 A -/
  | powerSample (vin iin : BitVec 13)
  | brakeEngage
  | brakeDisengage
  /-- the sensors of each of the 25 dies, in 0.25 °C -/
  | thermalSensorRead (temps : List (List (BitVec 12)))
  | thermalLimitRelax
  /-- a scrub reads the next line of a Keystone home or stack -/
  | scrubRead (unit : ScrubUnit) (found : ScrubFind)
  /-- a Borug request for a line, of which no command's own row tells (log 3), is unanswered -/
  | lowerTierTimeout (line : Nat) (write : Bool)
  | stackRetrainEnd (stack : Fin 32) (ok : Bool)
  /-- `found`: the error patterns of the lines that are not poisoned yet -/
  | recoveryScrubEnd (keystone : Bool) (unit : Fin 32) (found : List (Nat × ErrPat))
  | gatherRowArrival (c : CmdRef) (row : Nat)
  | passThroughGrant (die : Fin 4)
  | emciaLinkDown
  | emciaLinkUp (gen : BitVec 2) (lanes : BitVec 32)
  | lockGroupPictureStart (ctx : Nat)
  | modId (addr7 : BitVec 7)
  | stepping (addr7 : BitVec 7)
  | dstate (addr7 : BitVec 7)
  | status (addr7 : BitVec 7)
  | vin (addr7 : BitVec 7)
  | iin (addr7 : BitVec 7)
  | power (addr7 : BitVec 7)
  | tempMax (addr7 : BitVec 7)
  | lastOff (addr7 : BitVec 7)
  | bootFail (addr7 : BitVec 7)
  | serial (addr7 : BitVec 7)
  | smbusAlertResponse
  | smbusReject
  | smbusTimeout
  /-- a test access instruction loaded into die `die` of the chain of R455 -/
  | bypass (die : Fin 5)
  | idcode (die : Fin 5)
  | samplePreload (die : Fin 5)
  | extest (die : Fin 5)
  | clamp (die : Fin 5)
  | highz (die : Fin 5)
deriving DecidableEq, Repr

end Sys2Proof
end

