-- ==== Sys2Proof/Decode.lean ====
section
/-!
DEFINITION. The block has no words to decode: spec/opcode_table.json gives no row any bits (every row's fields are
empty), so no word spells a command.
-/
namespace Sys2Proof

/-- The command that a word spells by the table's bits: none, since no row gives bits. -/
def decodeTableWord (_nbits _w : Nat) : Option Instr := none

end Sys2Proof
end

