-- ==== Sys2Proof/Config.lean ====
section
/-!
DEFINITION. What the spec leaves open. Every constant here has no body, so no proof can rest on a value of it; each is
named in a row of notes/assumptions/ (log 11).
-/
namespace Sys2Proof.Config

/-- Whether line number `line` of a failed request holds its new bits (R281, R352), at draw `n` of the state's counter. -/
opaque newBits : Nat → Nat → Bool

/-- The scale byte of a block of stored values that KV.APPEND copies from a source whose blocks run the other way (R197,
R203): the source's scale bytes of the block's elements, head, column, block. -/
opaque valueScale : List Nat → Nat → Nat → Nat → Byte

/-- Bytes of a work region, row scratch or intermediate tensor that no rule gives after a command: header, parameters and
place. -/
opaque scratch : Nat → Nat → Nat → Byte

/-- A reply field that no rule gives, or that gives what a failed read returned (R219): header, parameters and status. -/
opaque unread : Nat → Nat → Nat → DWord

/-- What an engine's cells, vector registers and counters hold after a command's work (R29, R71, R128, R284), by header and
parameters of the command, kind of cell and place. -/
opaque cell : Nat → Nat → Nat → Nat → Word

/-- The GAP quotient of R164 whose divisor is zero, per numerator encoding. -/
opaque gapByZero : Word → Word

/-- What a codec standard reads in a unit (R286 to R289, R320, R321, R324): item `i` of field `f` of the grammar of the unit
that a list of inputs spells (OPEN parameters, the unit's bytes, the stream's carried state). -/
opaque unitSyntax : List Nat → Nat → Nat → Nat

/-- A decoded sample of picture `i` of a unit: inputs with the reference pictures, plane, row, column (R289); and of how many of
the first luma columns of the reference pictures it is a function, by the unit and the carried state (plane 3: what a slot holds
behind the samples). -/
opaque decodedSample : List Nat → Nat → Nat → Nat → Nat → Nat
opaque refColumns : List Nat → Nat → Nat → Nat → Nat → Nat

/-- A byte of a picture slot behind its samples, by inputs with the reference pictures and place; a byte of the state that a
stream carries from picture to picture, by inputs without them and place (R295, R324); and whether a unit, given by codec and
bytes, is decoded without that state. -/
opaque slotByte : List Nat → Nat → Byte
opaque streamByte : List Nat → Nat → Byte
opaque standsAlone : List Nat → Bool

/-- A sample with AV1 film grain (R288): grain parameters, width, height, depth; plane, row, column; the luma samples that it
depends on and the sample itself. -/
opaque grainSample : List Nat → Nat → Nat → Nat → List Nat → Nat

/-- What an encode pipe decides (R298, R303, R305), a function of the inputs and the row QPs so far: coded bits and entropy-engine
bits of a block row; from all rows' QPs: bits outside the rows and the known bits of the frame header, byte `i` of the coded
picture at an attempt, and the bits of the frame header that no rule gives, by place (R290). -/
opaque rowBits : List Nat → List Int → Nat → Nat
opaque rowSyntax : List Nat → List Int → Nat → Nat
opaque headerBits : List Nat → List Int → Nat
opaque encodedByte : List Nat → List Int → Nat → Nat → Byte
opaque frameField : List Nat → List Int → Nat → List Bool

/-- The bits of a parameter set or sequence header that no rule gives, by the OPEN parameters, the signalled level, the kind of
set and the place among them (R287, R290, R291). -/
opaque headerField : Nat → Nat → Nat → Nat → List Bool

/-- Length and bytes of the entry points or tile sizes before tile `i` of a tiled access unit, by the lengths of its tiles
(R318). -/
opaque tileHead : List Nat → Nat → List Byte

/-- Tag and status that ABORT carries when STOP or PARK with IMMEDIATE = 1 aborts an image run (R441), at a draw. -/
opaque stopAbort : Nat → Nat × Nat

/-- Of tree `t` of the HSS key of a PUF seed (R430; 0: the top tree, `t + 1`: bottom tree `t`): identifier I and secret seed;
and the randomizer of its signature with leaf `q`. RFC 8554 leaves all three to the signer. -/
opaque treeIdent : BitVec 256 → Nat → BitVec 128
opaque treeSeed : BitVec 256 → Nat → BitVec 256
opaque randomizer : BitVec 256 → Nat → Nat → BitVec 256

/-- What a supervisor reconstructs with other helper data than that of its enrolment, or from a read with too many differing
bits (R429): enrolled seed, helper data, number of differing bits. -/
opaque otherSeed : BitVec 256 → Nat → Nat → BitVec 256

/-- Byte `i` of the fault log in flash that holds the given events, oldest first (R425), and byte `i` of what the identity area
of a supervisor holds behind its named items: the rest of the certificate chain, the nodes of the cached trees. -/
opaque faultLogByte : List (List Nat) → Nat → Byte
opaque identByte : Bool → List Nat → Nat → Byte

/-- Byte `i` of a record in flash whose contents the spec names and whose layout it does not give (R279, R424). -/
opaque recordByte : List Nat → Nat → Byte

/-- The Borug row in which a line lies, by the line's number (R279): the spec gives no row size. -/
opaque borugRow : Nat → Nat

/-- The low bit of the byte with which the module answers the Alert Response Address (R459). -/
opaque alertBit : Bool

/-- What the boundary cells of a die of the test access chain hold at a draw (R455). -/
opaque boundaryWord : Nat → Nat

/-- Whether South is the supervisor recorded as the first to fence after a cross-check mismatch (R399, R437), at a draw. -/
opaque firstFence : Nat → Bool

end Sys2Proof.Config
end

