-- ==== Sys2Proof/Machine/Code.lean ====
section
/-!
DEFINITION. The line code of R271 and R272: Reed-Solomon over GF(2^8), 64 data bytes and 8 check bytes. Check bytes are a
function of the data, so State holds the data and, for a line found uncorrectable, its poison mark (log 69).
-/
namespace Sys2Proof.Machine

/-! ### The field GF(2^8) of x^8 + x^4 + x^3 + x^2 + 1 -/

/-- Times α. -/
def gfTwice (a : Nat) : Nat := if a < 128 then 2 * a else (2 * a) ^^^ 0x11D

def gfMulAux : Nat → Nat → Nat → Nat
  | 0, _, _ => 0
  | n + 1, a, b => (if b % 2 = 1 then a else 0) ^^^ gfMulAux n (gfTwice a) (b / 2)

def gfMul (a b : Nat) : Nat := gfMulAux 8 a b

def gfPow (a : Nat) : Nat → Nat
  | 0 => 1
  | n + 1 => gfMul a (gfPow a n)

/-- α^i. -/
def gfExp (i : Nat) : Nat := gfPow 2 (i % 255)

/-- 1 / a = a^254, for a ≠ 0. -/
def gfInv (a : Nat) : Nat := gfPow a 254

/-! ### Polynomials, lowest coefficient first -/

def polyAdd (p q : List Nat) : List Nat := (List.range (max p.length q.length)).map fun i => p.getD i 0 ^^^ q.getD i 0
def polyScale (c : Nat) (p : List Nat) : List Nat := p.map (gfMul c)
def polyShift (n : Nat) (p : List Nat) : List Nat := List.replicate n 0 ++ p
def polyEval (p : List Nat) (x : Nat) : Nat := p.foldr (fun c acc => c ^^^ gfMul x acc) 0
def polyMul (p q : List Nat) : List Nat := p.zipIdx.foldl (fun acc x => polyAdd acc (polyShift x.2 (polyScale x.1 q))) []

/-- (x − α^0)(x − α^1)…(x − α^7). -/
def rsGenerator : List Nat := (List.range 8).foldl (fun g i => polyMul [gfExp i, 1] g) [1]

/-- One step of the division by the generator; the register holds the highest coefficient first. -/
def rsStep (g : List Nat) (reg : List Nat) (d : Byte) : List Nat :=
  let f := d.toNat ^^^ reg.headD 0
  (List.range 8).map fun j => reg.getD (j + 1) 0 ^^^ gfMul f (g.getD (7 - j) 0)

/-- The 8 check bytes of a line's 64 data bytes; data byte 0 is the highest coefficient of the codeword (R271). -/
def rsCheck (data : List Byte) : List Byte :=
  ((data.foldl (rsStep rsGenerator) (List.replicate 8 0)).map fun n => BitVec.ofNat 8 n)

/-! ### Decoding (R272) -/

/-- A pattern with one nonzero entry per byte in error. -/
def normPat (p : ErrPat) : ErrPat :=
  ((List.range 72).map fun i => (i, (p.filter fun x => x.1 = i).foldl (fun v x => v ^^^ x.2) (0 : Byte))).filter fun x => x.2 != 0

/-- The eight syndromes of a pattern. -/
def rsSyndromes (p : ErrPat) : List Nat :=
  (List.range 8).map fun j => p.foldl (fun v x => v ^^^ gfMul x.2.toNat (gfExp (j * (71 - x.1)))) 0

/-- State of the Berlekamp-Massey iteration. -/
structure RsIter where
  c : List Nat := [1]
  b : List Nat := [1]
  len : Nat := 0
  m : Nat := 1
  d : Nat := 1

def RsIter.step (s : List Nat) (x : RsIter) (n : Nat) : RsIter :=
  let d := (List.range (x.len + 1)).foldl (fun v i => v ^^^ gfMul (x.c.getD i 0) (s.getD (n - i) 0)) 0
  if d = 0 then { x with m := x.m + 1 }
  else
    let c := polyAdd x.c (polyShift x.m (polyScale (gfMul d (gfInv x.d)) x.b))
    if 2 * x.len ≤ n then { c := c, b := x.c, len := n + 1 - x.len, m := 1, d := d } else { x with c := c, m := x.m + 1 }

/-- The formal derivative. -/
def polyDeriv (p : List Nat) : List Nat := (List.range (p.length - 1)).map fun i => if i % 2 = 0 then p.getD (i + 1) 0 else 0

/-- The error that the decoder finds in a word with these syndromes: at most four bytes, `none` when there is no such error. -/
def rsFind (s : List Nat) : Option ErrPat :=
  let x := (List.range 8).foldl (RsIter.step s) {}
  let roots := (List.range 72).filter fun i => polyEval x.c (gfExp (255 - (71 - i))) = 0
  if x.len = 0 ∨ 4 < x.len ∨ roots.length ≠ x.len then none
  else
    let o := (polyMul s x.c).take 8
    some (roots.map fun i =>
      let z := gfExp (255 - (71 - i))
      (i, BitVec.ofNat 8 (gfMul (gfExp (71 - i)) (gfMul (polyEval o z) (gfInv (polyEval (polyDeriv x.c) z))))))

/-- What a read of a codeword with an error pattern gives. -/
inductive ReadRes where
  | clean
  | corrected
  | uncorrectable
  /-- taken for a correctable pattern: the bytes that end up wrong, and by what -/
  | miscorrected (r : ErrPat)
deriving DecidableEq, Repr

/-- R272: at most four bytes in error are corrected; five or more are reported, unless the decoder takes them for four or
fewer others. -/
def readRes (p : ErrPat) : ReadRes :=
  let n := if p.isEmpty then [] else normPat p
  if n.isEmpty then .clean
  else if n.length ≤ 4 then .corrected
  else match rsFind (rsSyndromes n) with
    | none => .uncorrectable
    | some f => .miscorrected (normPat (n ++ f))

end Sys2Proof.Machine
end

