-- ==== Sys2Proof/Machine/Sha.lean ====
section
/-! DEFINITION. SHA-256 and HMAC-SHA-256, which the boot records, the seed check, the attestation report and the firmware
signatures use (R427 to R430, R432). The functions are those of FIPS 180-4 and RFC 2104 (log 74), written over big-endian
numbers: a message is its length and one number, the eight chaining words are one number of 256 bits, and the last sixteen
schedule words one of 512. -/
namespace Sys2Proof.Machine

/-- The number that bytes spell, first byte most significant, and the bytes of such a number. -/
def beNat (l : List Byte) : Nat := l.foldl (fun n b => n * 256 + b.toNat) 0
def beBytes (n v : Nat) : List Byte := (List.range n).map fun i => BitVec.ofNat 8 (v >>> (8 * (n - 1 - i)))

/-- The round constants, eight to a number. -/
def shaTable : List Nat :=
  [0x428a2f9871374491b5c0fbcfe9b5dba53956c25b59f111f1923f82a4ab1c5ed5,
   0xd807aa9812835b01243185be550c7dc372be5d7480deb1fe9bdc06a7c19bf174,
   0xe49b69c1efbe47860fc19dc6240ca1cc2de92c6f4a7484aa5cb0a9dc76f988da,
   0x983e5152a831c66db00327c8bf597fc7c6e00bf3d5a7914706ca635114292967,
   0x27b70a852e1b21384d2c6dfc53380d13650a7354766a0abb81c2c92e92722c85,
   0xa2bfe8a1a81a664bc24b8b70c76c51a3d192e819d6990624f40e3585106aa070,
   0x19a4c1161e376c082748774c34b0bcb5391c0cb34ed8aa4a5b9cca4f682e6ff3,
   0x748f82ee78a5636f84c878148cc7020890befffaa4506cebbef9a3f7c67178f2]

/-- The first chaining value. -/
def shaStart : Nat := 0x6a09e667bb67ae853c6ef372a54ff53a510e527f9b05688c1f83d9ab5be0cd19

/-- Word `j` of a number of words of 32 bits, counted from its low end. -/
def word32 (v j : Nat) : Nat := v >>> (32 * j) % 2 ^ 32

/-- The sum modulo 2 of a word turned right by each amount. -/
def turns (l : List Nat) (x : Nat) : Nat := l.foldl (fun y n => y ^^^ ((x * (2 ^ 32 + 1)) >>> n % 2 ^ 32)) 0

/-- A round on chaining number (word 7 is a, word 0 is h) and schedule (word 15 is used now): every word moves one place down,
the new a and e come in, and the schedule takes in the word that is due 16 rounds later. -/
def shaRound (x : Nat × Nat) (i : Nat) : Nat × Nat :=
  let v := x.1
  let w := x.2
  let choice := word32 v 1 ^^^ (word32 v 3 &&& (word32 v 2 ^^^ word32 v 1))
  let most := (word32 v 7 &&& word32 v 6) ||| (word32 v 5 &&& (word32 v 7 ||| word32 v 6))
  let t := word32 v 0 + turns [6, 11, 25] (word32 v 3) + choice + word32 (shaTable.getD (i / 8) 0) (7 - i % 8) + word32 w 15
  let u := t + turns [2, 13, 22] (word32 v 7) + most
  let near := turns [7, 18] (word32 w 14) ^^^ (word32 w 14 >>> 3)
  let far := turns [17, 19] (word32 w 1) ^^^ (word32 w 1 >>> 10)
  ((u % 2 ^ 32) <<< 224 + (v >>> 160) <<< 128 + ((word32 v 4 + t) % 2 ^ 32) <<< 96 + (v >>> 32) % 2 ^ 96,
   (w % 2 ^ 480) <<< 32 + (word32 w 15 + near + word32 w 6 + far) % 2 ^ 32)

/-- One block of 512 bits: 64 rounds, then the words of the chaining value before them are added. -/
def shaBlock (v m : Nat) : Nat :=
  let z := ((List.range 64).foldl shaRound (v, m)).1
  ((List.range 8).map fun j => ((word32 v j + word32 z j) % 2 ^ 32) <<< (32 * j)).sum

/-- The digest of the `n` bytes that `m` spells: the message, a one bit, zeros and its length fill whole blocks. -/
def shaNat (n m : Nat) : Nat :=
  let blocks := (n + 8) / 64 + 1
  let p := (m * 256 + 128) <<< (8 * (64 * blocks - n - 1)) + 8 * n
  (List.range blocks).foldl (fun v i => shaBlock v (p >>> (512 * (blocks - 1 - i)) % 2 ^ 512)) shaStart

def sha256 (m : List Byte) : List Byte := beBytes 32 (shaNat m.length (beNat m))

/-- HMAC-SHA-256 under a key of at most 64 bytes: the key fills a block, once with 0x36 and once with 0x5C in every byte. -/
def hmac (key m : List Byte) : List Byte :=
  let pad := fun (b : Byte) => (List.range 64).map fun i => key.getD i 0 ^^^ b
  sha256 (pad 0x5C ++ sha256 (pad 0x36 ++ m))

/-- The ASCII bytes BOOTREC and CHECK. -/
def asciiBootrec : List Byte := [0x42, 0x4F, 0x4F, 0x54, 0x52, 0x45, 0x43]
def asciiCheck : List Byte := [0x43, 0x48, 0x45, 0x43, 0x4B]

end Sys2Proof.Machine
end

