-- ==== Sys2Proof/Machine/Hss.lean ====
section
/-! DEFINITION. Signatures of RFC 8554 with the parameters of R427: HSS of two levels, each LMS_SHA256_M32_H15 (type 7) over
LMOTS_SHA256_N32_W4 (type 3). Their verification, and signing from a PUF seed (R430). The RFC is named and not repeated in
the spec (log 76). Keys, messages and signatures are big-endian numbers of known lengths. -/
namespace Sys2Proof.Machine

/-- Bytes `off` to `off + n - 1` of a number of `len` bytes. -/
def beField (len v off n : Nat) : Nat := v >>> (8 * (len - off - n)) % 2 ^ (8 * n)

/-- 32-byte values one after the other. -/
def joinWords (l : List Nat) : Nat := l.foldl (fun v x => v <<< 256 + x) 0

/-- Every hash of a tree: its identifier I, a number of 32 bits, a tag of 16 bits, and `n` bytes. -/
def lmsHash (ident num tag n m : Nat) : Nat := shaNat (22 + n) (((ident <<< 32 + num) <<< 16 + tag) <<< (8 * n) + m)

/-! ### One-time signatures -/

/-- Steps `a` to `b - 1` of chain `i` of the one-time key `q`. -/
def otsChain (ident q i a b x : Nat) : Nat :=
  (List.range (b - a)).foldl (fun y j => lmsHash ident q i 33 ((a + j) <<< 256 + y)) x

/-- The 64 digits of a digest and the three of their checksum. -/
def otsDigits (d : Nat) : List Nat :=
  let sum := ((List.range 64).map fun i => 15 - d >>> (4 * i) % 16).sum
  (List.range 67).map fun i => (d <<< 12 + sum) >>> (4 * (66 - i)) % 16

/-- The randomized digest of a message of `n` bytes. -/
def otsDigest (ident q c n m : Nat) : Nat := lmsHash ident q 0x8181 (32 + n) (c <<< (8 * n) + m)

/-- Leaf `q` of a tree from the ends of the chains. -/
def lmsLeaf (ident q : Nat) (ends : List Nat) : Nat :=
  lmsHash ident (2 ^ 15 + q) 0x8282 32 (lmsHash ident q 0x8080 2144 (joinWords ends))

/-- The node above two nodes. -/
def lmsAbove (ident num left right : Nat) : Nat := lmsHash ident num 0x8383 64 (left <<< 256 + right)

/-! ### Verification -/

/-- An LMS signature: leaf number, randomizer, one-time values, path from the leaf to the root. -/
structure LmsSig where
  q : Nat
  c : Nat
  ys : List Nat
  path : List Nat
deriving DecidableEq, Repr

/-- The 2,668 bytes of a signature, with the types that R427 names. -/
def LmsSig.parse (v : Nat) : Option LmsSig :=
  let at' := beField 2668 v
  if at' 4 4 = 3 ∧ at' 2184 4 = 7 ∧ at' 0 4 < 2 ^ 15 then
    some ⟨at' 0 4, at' 8 32, (List.range 67).map fun i => at' (40 + 32 * i) 32, (List.range 15).map fun i => at' (2188 + 32 * i) 32⟩
  else none

def LmsSig.bytes (g : LmsSig) : Nat :=
  ((((g.q <<< 32 + 3) <<< 256 + g.c) <<< 17152 + joinWords g.ys) <<< 32 + 7) <<< 3840 + joinWords g.path

/-- The root that a signature of a message leads to. -/
def LmsSig.root (g : LmsSig) (ident n m : Nat) : Nat :=
  let ends := (otsDigits (otsDigest ident g.q g.c n m)).zipIdx.map fun x => otsChain ident g.q x.2 x.1 15 (g.ys.getD x.2 0)
  (g.path.foldl (fun (x : Nat × Nat) sib =>
    (x.1 / 2, if x.1 % 2 = 1 then lmsAbove ident (x.1 / 2) sib x.2 else lmsAbove ident (x.1 / 2) x.2 sib))
    (2 ^ 15 + g.q, lmsLeaf ident g.q ends)).2

/-- A public key of a tree, 56 bytes: the two types, I, the root. -/
def lmsPublic (ident root : Nat) : Nat := (7 <<< 32 + 3) <<< 384 + ident <<< 256 + root

def lmsOk (key n m sig : Nat) : Bool :=
  match LmsSig.parse sig with
  | none => false
  | some g => beField 56 key 0 8 == 7 <<< 32 + 3 && g.root (beField 56 key 8 16) n m == beField 56 key 24 32

/-- A signature of 5,396 bytes over `n` bytes under a public key of 60 bytes: Nspk = 1, the signed child key, the final one. -/
def hssOk (key n m sig : Nat) : Bool :=
  let child := beField 5396 sig 2672 56
  beField 60 key 0 4 == 2 && beField 5396 sig 0 4 == 1 && lmsOk (key % 2 ^ 448) 56 child (beField 5396 sig 4 2668) &&
    lmsOk child n m (beField 5396 sig 2728 2668)

/-! ### Signing (R430) -/

/-- A tree with its secret seed. -/
structure LmsTree where
  ident : Nat
  seed : Nat
deriving DecidableEq, Repr

/-- The first value of chain `i` of the one-time key `q`, by the pseudorandom key generation of RFC 8554. -/
def LmsTree.first (k : LmsTree) (q i : Nat) : Nat := lmsHash k.ident q i 33 (0xFF <<< 256 + k.seed)

/-- Node `r` at height `h`. -/
def LmsTree.node (k : LmsTree) : Nat → Nat → Nat
  | 0, r => lmsLeaf k.ident (r - 2 ^ 15) ((List.range 67).map fun i => otsChain k.ident (r - 2 ^ 15) i 0 15 (k.first (r - 2 ^ 15) i))
  | h + 1, r => lmsAbove k.ident r (k.node h (2 * r)) (k.node h (2 * r + 1))

def LmsTree.public (k : LmsTree) : Nat := lmsPublic k.ident (k.node 15 1)

/-- The signature of a message of `n` bytes with leaf `q` and randomizer `c`. -/
def LmsTree.sign (k : LmsTree) (q c n m : Nat) : LmsSig where
  q := q
  c := c
  ys := (otsDigits (otsDigest k.ident q c n m)).zipIdx.map fun x => otsChain k.ident q x.2 0 x.1 (k.first q x.2)
  path := (List.range 15).map fun h => k.node h ((2 ^ 15 + q) >>> h ^^^ 1)

/-- The trees of a seed: 0 is the top tree, `t + 1` the bottom tree that the top-tree index `t` signs. -/
def treeOf (seed : BitVec 256) (t : Nat) : LmsTree := ⟨(Config.treeIdent seed t).toNat, (Config.treeSeed seed t).toNat⟩

/-- The public key of a seed's root, 60 bytes. -/
def hssPublic (seed : BitVec 256) : Nat := 2 <<< 448 + (treeOf seed 0).public

/-- The child key of the bottom tree `t`, signed with the top-tree index `t` (R430). -/
def signedChild (seed : BitVec 256) (t : Nat) : Nat :=
  let child := (treeOf seed (t + 1)).public
  ((treeOf seed 0).sign t (Config.randomizer seed 0 t).toNat 56 child).bytes <<< 448 + child

/-- The HSS signature of a message of `n` bytes with index `i` of a seed's key, 5,396 bytes. -/
def hssSign (seed : BitVec 256) (i n m : Nat) : Nat :=
  let t := i / 32768
  let last := (treeOf seed (t + 1)).sign (i % 32768) (Config.randomizer seed (t + 1) (i % 32768)).toNat n m
  (1 <<< 21792 + signedChild seed t) <<< 21344 + last.bytes

end Sys2Proof.Machine
end

