-- ==== Sys2Proof/Machine/Delivered.lean ====
section
/-! DEFINITION. The public key in the boot ROM of State.reset and the signatures of its firmware images (R427). The spec gives
neither: they are a key pair made for the model (log 12). -/
namespace Sys2Proof.Machine

/-- The public key, 60 bytes. -/
def romKey : BitVec 480 := 0x000000020000000700000003cfa90e379d02af160b43a835b6238e3ccad8650b6672c754160a7a2fffe4324e7274d59c533be54170dca655d053a20e

/-- Numbers of 60 bytes each, the last of `n`, as one number. -/
def joinRows (n : Nat) (l : List Nat) : Nat := (l.dropLast.foldl (fun v x => v <<< 480 + x) 0) <<< (8 * n) + l.getLastD 0

/-- Nspk, the signature of the child key, the child key: 2,728 bytes. -/
def childRows : List Nat :=
  [0x0000000100000000000000036f5325e95fe2d3b3de85830d47207ce546daaf0d6a25c3efe72519150ca8be774b35c0dae0671a02dd51de12be593a1b,
   0xcc1a1877c0ca2cb3e4d70ff2c9dfd7a2cd19a3e1a68630a7c7b84bd7bfcb4782df3d1ee386d825bfaef7f50ee9ae3218af6c3d899f311d7632357ddc,
   0x98bd2ce2acbefe57e3896298eb920bbe0215f8b730cb3aa494b5788b9a2519d603736853f74274b7aa1f128d95eb61f1a0712ce26ac8cd545c4d71ee,
   0x07f94f0401b29abfb6974cea799e22a73c17072ba52dcf48a0ddeb9b32237d61b20cd9c66456c78b62092cb0a061308601519f7ba0af3f044ac7750c,
   0x4b286b613cf3138c5f53e956c1bd7727f1db402936ba48b5ac7765250ca795881866bfafe866a3797922721f502e3a8317f29e163575b77fa8993440,
   0x2d606877966926692f710985fe691747b661b8e31236655b9cb81f9a72f506a4e362af6d0fb31da782e9df09681b48863bb694cf200dd58b4c52aac3,
   0xc1ecee86de1867e632b4c7d3d4c230c9167fbc0cf04315351f541de569ae2d0dc23d3fdf6a16694b38efa3198a7a47b60189f0971f14b5a845b67891,
   0x9a5e0129748bfc079b35797e5547dda190062c118dfcd7fe15ec3f7c8b8b21416e8fe1dbc1c7032ef7e740f9c0f6295dd1faa13ffd4d0009d8a605e9,
   0xdb986b0185fbac6f5f2216b5f0cbef10aec7358c05849dfe6e0fbc6087c8a40ee3f21b4cadb9a12f9d5090e16b1b14a3a0325a2609fcb14c0f3fd680,
   0x58eb3f2dae350057313c829b3de56a212f43c61d95973a9f4e7b90a92396a083bae6ccfa8871e65dfbf1a3bd03cc4a9ba8a3829430442d5f98d4b667,
   0xc31a6b6d68226e401badf56fece56ce9219edd634d3624394b9885789ed7f804c0ab1fe0109cf7a86e8591b365a93b140b86318d9b8b163062c917bf,
   0x0fb8ba3884a7bd1e119a9e78dffb9055247d434f68d21fcb6289ddaa9f6088031e9f32435acc28cc3e30761f30a63056d4ae1c9b43c8d09f4ce0e06f] ++
  [0xa6456001b87cb1dc18f667bc2024187d69147eb54af6aa8d102eb465d3c105a7721ac0998157a90aa3be30750e9084e73b43968870efbc27222331a4,
   0x847aa0e3d0a6e007e6916435fa2774f1779f541c2be07d5ea267193c6f361b163ce361a92dfff20e7df2635c978003b539d09bfd370d5d6f85b07335,
   0x44862a3b8415a89b156dd098826dbac0f10f2265a621a47d44740396a25901dcfa8af0d34355e7bb60fff246b315162ce90a4de135c5963f5fe50b97,
   0x97224b93f71552b014d94802290513115b21bbc999a73b6029e76481fda24c0655eb997cad48df58d3607bc351a1e60240c3344d057eb5c657c77891,
   0x6c428e4ef723a83013e3ed94be47c1ed5cc9af7102ec49572aedb941b4a1151c4db9f10f745059dff1d1d5556cfcf939a32f79213bb9d8c95467ee9d,
   0xd41943146782ce37b97861c7b48bfb1bfbb40d991dbaab2ddd8be69ad6be70b22b8500e017687b34c34f6b4bebacf7e11346f68d4ad8b4c3bc18e21c,
   0x082858af5cf1edf122e94111ae55ce718b6369a797c497902827c546ae64ec1691c27df6d5fe9dcd92b7ce5b3f5e5b8df181f84e28d0ccb64a2587e5,
   0x678b594763c3c2e636cc681babdbf7599f59e9215b0169aa3da1112966e4754f28bfe738edec44697762a7dae673b7ef5ed5b5cd2216f440a5937e03,
   0xdb50f49852e7dd2c94904003800e723471cd8a0a2533c61c99604683b867a6947dd75e433aeacec4d8545b743105a02c793623c7d23c84d3a97306a6,
   0x41f0d917e0a0975eea24d06bf0eea55c5ffb7cdb352d688d91411d2ebf3dd222b8b1b4766e002663ba5a9c586ab9cde6b6b13c00d92c1c5b9c48991f,
   0xa18e7054a5dab7ea8b04b0bace798eae556ee010ccedbaff9f4ce8eca4af1966c473c044b257533bfb960ada2b32196c9b5aa7e79267e42b652b48b4,
   0xe956dc53ccf7443502cd2780135d85d7e9e7b008ac174af2e4b2eb9f3f764656ec5cc8e0883089e3a335208f67d69407af690ed6c77a025f7d9af0f6] ++
  [0x2bc0b094dd96915965b466d90f88b0dff7035523e286cd150a9c87abbb98bb318005836568314b466cde544a4a8a2c82d0d867122280876fa5537ba4,
   0x6e2e133996fe2eba49bf42ba1c26970b3e1dd8288e88dcf57e1d8432373b22fdd3b32b2ea1be7cbfdbe9e6c000505c95d0b649f817e82f03c99e585a,
   0x8bba830d0cec9eda1ebf32f96af13cd010b3d4a8ea1b59d4e0365717cddfbf033ed6fada7be5323341a13245449019d2c3cf06631bbc3cf4da7a243d,
   0x76a29c10439b4c20c68cd045c00e8e42231db624ad0107a7aa5015a14012bc3613a045ae34d98e896fe3d33fdec1bf62fb0dccd75851d5367d837e75,
   0x52e375cb82973be15d3a5f0aa61a92156f32fa5ca49a612d52591e96915d08d6c54034319e966c3bc18cc8cc0797322f0a173ea7c26154c09d339da5,
   0x3c67ca282070d18c86626865b535a432b39caf19276f9afb27de02e74ba313ae3ef61b2749aa01802389c0570f6319fd5f3d7ef6907f72af1555095c,
   0x9ecef9f3bdccbb4e21988055ae9a443ee3b8b48b08b47e9abf3874e99074c2f9fadb908d8f1a08c11497a57af733d87b2ca4197f2faa496e0492cafb,
   0xe2e180982075a33e1ad88cc9038f98679c7f8ff3a9b6fe2f728fbe19add50a49bf4fc15ba8ccedcf65a145c5a59efb66c702f2ac308f8e8587d532f1,
   0xc954fbae96d2744445b5a53dc98910aa9e96d2dcf6d14e1b3f0ae3f769b7daca72f280d856f1265e531ec7d47179034e0c644bae11659371c46307a4,
   0xd6525842caa199c24ff5afc446dfb2771c74bc9c6d2e06f831e7fc6564fc42f777f621fde9ffc0230a8780401bef8158ce7924f8ee210a88f6dd0f67,
   0xb7adb96e90267bd0cfea11e6706605af03617e2680075fb7481e3c937a7a7ee36dafa28c26b6487366ce4904a5c6d39e84f81a5f7f160b34928693f5,
   0x4fd10acbc6fe51d632547be305a3b42914023fa3e5bf438a339fc321ef5f296accbed6fc0eb950a8e9f94dbcab592e7169586e943cb2175cad2d3baa] ++
  [0x3305daa42ae0a766feaa56cf9801722e3553e11cef7fad436d8bed42000000074e731b653662e6f21bbc221ad5053777d9976973513cfb3be17c28d2,
   0x38940cfcdbc91f2a980d8d0ab7781d92876daeb34acb251358134f2a7b81f5a9270521a1f978e07adc78eefb37c0f4f84fc3b8bd4c31d4cb80836d32,
   0x402a6378f6e396e840338cbc5cf3fccaeb2d3a6f8b2ff692e273c66d34f94fc192f6a560f74533269df249bad29d90367687211160e4711ef9eb13ca,
   0x61da62ef1a6caa756892d92bb289aa1e566a46f2dee86ca684766ba617cfc44a9ac677c012e568a69f6f715b714ea3f697587adda61248a4326a355e,
   0x2a7b8166d45a131cabb970b305728d238faa736e79954aea0644b4fb5e04d64cf163a1a158ccc84f7d65eca5e5ea274936023168be54d8992b25c05e,
   0xd3a4ed1762e5dd6329b4e488ce611447af5da5f72364f68cc09006ed21ea046024df79c94a6f18d87c3336b33dd66ad262e418c629f6f4add23735d0,
   0xd49a2a985d6e0b672fb09b78a4ac314336607597697c61d872f725cb14571e3aa93af74a4173b5bbe1b00c5cfb4539274b156b2da67853dfea6b677d,
   0xa60c02e25f88257da879752e0f4af222a533d03229d016d563c80856c3c2225baec0c39a7d085e059d6262d2a49d5fb8166450c6d646be682d6547d0,
   0x194c9b74fc5785f77f6d8341cc8d7fd778f55e0f5c0ecdc5b9899a59bc704589000000070000000329f109ee1a7b0ac1cd5992e79975d920e7a6d772,
   0xb1b92ad5695e628b2b5964f5e4fc7a4fb52310f13d0460d8d7dcfc50]

/-- The final signature of the Instar 1 image: 2,668 bytes. -/
def instarRows : List Nat :=
  [0x0000000000000003601853dcc6f358e9c89c06221433a5c0608f94bb72bd3eedc978f15ecb3dc503c73519112be72db642258b54cae095c01c10ae08,
   0x4d67a80542f67db7997c26cece77a963bd1ed69d86f26c53322b17b9677e34075e50683b87f8d1f43610d9a519b749a4df10e78a968980d18cb86a75,
   0x4ba24aed68ebf49c319fd74afb890c54b96ed7892504dddb2dd39bf8537de899b429f682e6a9ad4ef805fd17ad1de176cff86deab04e027f05b530e2,
   0x8c5a5f29ee8c092daa0ff1c09c093991294a23029ecb12f06eb5cf12373faf48bfaa6069f2cb0594c5ae685d71e38ae0036375958737cf106edbc506,
   0xb8858eb20e3a268740fa4a6ae06ec2b2c4260565cfedfa7704f72b7817b3c31cf5a742fc7f09d08fb6b6913d38e2f6b9f28dbd18565be74ea70aaf4f,
   0xe4fbdd40cf1e29935b7ca0c8f1cebb0df17561da8ed8296d9cd2ed13b01e67df9fd8708a8d41052038e0c0d6121ee8229833e16c43752d79036cd73a,
   0x19a5ed7cf9cfd3add36382af78dde653cc04fbc7a94fd739ae2630589f11176d57cf219484cb13b22381a2b89aa9c33fba020ecfb1d414029cc7e3cb,
   0xf5c64276a52d748ea496963defd4559e986689f9bf8dd90af6d1b47445b6efd1b6461496d157203aeb7fb8af29ac5aa98f10aaf41f104b75109273c1,
   0x0e25169f42d5ae8ad3a189a210fa8587b52e5de68c5de529392261d4cab9660cf43ab065f55a63afea5313e9419164929033ed76bc6849d4dc43f5d3,
   0x8caebf787f8e121989e38eb3370fdef1584142da6f8bbe34bb15c737f67374a3aa176fd55e417826730c7eea35a03774210602e0b054a52daa0ba656,
   0x0e7f52b380a6ccc64e745856f7eb52a3d95db0afaca9d5077c84fa62736ea456e08eef00cbcc38d9d5bcda9a8116e2350a50e0974a4fe3eef1a2cda2,
   0x4bb2e13ce19a71a3076a48efd2fcd8647a1f815ca1988f4e6ceb77758bcaee06415d988c3d90f856a9a2ea18530cd7d6571e168e127ce0cd3e2c6f2c] ++
  [0x5d9a0a728ceaf1d4ecff6dcf2e80508bafa5f61bc846466d2fe21996b1058b9dbf5a4ea3fe9b5d13b2771091c23fb8500c18b5d19ee5136f868dfdce,
   0xb3ab4d593c90b5878b372a07d3b7710ba31c20aae07ab719b02f1a1d73ac274964bc55dd74d64b9408cfa096269d9e2d842c16f32fd80b963601ae3d,
   0x31ed98ea2cc1b1bf171abeea6e7c0124c3e0e1e9f478c8286169b1c0216e5a529e62e6286d9e3f8257bf08d9a0ffef14df8210262599867f7e17dde4,
   0x6bba51d77eef648443a06b6d6b2543e5a3f08086c5adb0d186151141761230e92b80532660a9e7d7bbce6641a08c9fef2e54a718ea7ad780429cb902,
   0xde6bcdf96b0e5239247e5b86fa8d617350b28f623305989a56a2b569ebd3c7b9e987444ec785088b8c1509340a787fd4f5b128de35c49b7a0d6ecdb0,
   0xaee9d263a923f9a9d644ad5da6ded2f7b787cf6c95f80e70637dedb88068fc428b76a105108cce9db02ba6b4f92dd76af7c6c01853d75b574945a9a3,
   0x4148ccc8db19669675589d8bb4866009aae02bcd2437f503ac4b5f5a8691438a2c74ec4f54acb824c7fb6f800513be0af9dfb5795af6c0c05e428831,
   0xb1ec72dbd98ee25cd125fdaa2f9d7afb978cfaabb3f50fa2f48dc4bda74ebfbd06d92adb9e11b25263576493c699be57aa02c625bd71cf4ecfb63328,
   0xc938b825854b21154c173ebbcf972e9d981756282e4c6bb297d28e0f1515daab80cfebe4c656ae6555ae9f1e8fa57f9b666d4be0ce86facf5ba77481,
   0xe8d44566a42b7764162abd50755887c43d746ef18cf5254c16491a37a0111a7308b06527a4cc34d46ba3743b7264d10dbbed01f08edee6f17bc56ecb,
   0x2da80345df2230eba2f3ef88ec81b2d687a86fad5e1317cde657d2a2e31aff902ac1900bd0d2aae2529f1bf3ba5445741cea6f9cc1548dacf4df6fcb,
   0xccd85b2b4e01c4724205521dfb13db1cc46031a04cd421f13d19f2ee620dfc7a0a36176a10a7a4a906cf396361ac07992952ed7febcf7f68a303e815] ++
  [0x6791c73a1da41792a1f5811b198e87d2273a221b3200c788ca6dacf667de8fa766f070b9fcebc09abf0ba526fbca3ef3ff954671a1a497b882999b84,
   0xa6b85771bc3811285ba8722d196d061db05a36a38bbcf72ac29b63dbfaa3ce97154f552fc0699f57517c96c090bb51f34cdaabea5a761ce46d9c2818,
   0x4241717e12ebcf19bff4802cc70721f19d9c86b77a3010ab62451365a87216a787cb93eca97067b0d39abadb55f05538f0601b8bd106c00a48394a22,
   0xba8a523c3344c9c1db0956e4cec11b5d9c60ec550b126394e513035b0719e06837407ab01179f21aea41387ccb21a54e186fdf5301143808a5f43103,
   0x065915e473ce19008c061c143136f580b356e72d1990395fec57c979663dc7608d9e63ae4dfb481993d4b1895c5b7a3ecf24775b170486c3121263dc,
   0xc5709daa9c30b45be35d9384704ce0babbde405391645055ea8088c61dbab5afce5fd38ebe6fb37bfe320c5251e66ef554795608d6ac2d59ca952a20,
   0x6dd449c3194c23e246abef258cfc2138f8a7e44a2ec9eab45f4c89b9e1498c222bf78865f381219b915304ad09ec920d5d0aa4ceb35a2c40e051c02d,
   0xc35b90153ed7b609be99d850760aa4290f85a5a40368ff2a99ff19dbd801f75d30801af6e73311aaa9c894947be188f46770be45a278c1be35b9899d,
   0xbe1c31584f3de51b7b2e79deb18e06d28894c6dca331a897336bdcdcdf8d09a7802cb44be995c867b5618d720c23230ab6ea2fdaee032932369a176c,
   0x38e1e77b9f43117b3bef63ea35f5b19e6f2d5ce26ce0806eaad7405213de0c3df7967c13d4c92b8f4234630e867edf5a2a55228e39832bf961369131,
   0xe11e850ab5218cecd35b21f545f63cfd994d3714dc424c0e249485c453f90166ac39d2095bffccf4cfd703a837a29889fb464e71866147a88b73214b,
   0x31f7250abe290110d66d0342dcdd6d40c757b93a33bc6b415b61c81c5ea9c77b22f7f3da4bd7f41339156b04c2b2f16bf715f4a5fa8e219a9b8e00f3] ++
  [0xfcc2add96c4a0a9741a303e4fcbadcf4875d68e45dca270d00000007cdc8192b00e62d320ca5f1de746c84f69793595e3e0714ab3f1d2be725f58b4e,
   0x6ac378ddbe6e25698efd28bdc70ee088fa8783c7a1f5e018615ac1b86148f0ef92bbaaeeeebe848b6fc6128fe0b4c011c8b4fc61f519e779b6e4160b,
   0x6823f0f06891ea21f79d09203df4c961919f30cb3b03d9c4808d3099d05f6db3f4c3edb1054027f609419b4d8507b740443e596d586d4908d956b01d,
   0xefb1d85ad475305331f039b640d93edf6a4666fc1f6aa0bc429bfeb94d0d350193621f77296bdc8a20f6dce35385a00ea3e6fbb092dfcf75097c4673,
   0x3612984268d46bc799615185b44dfa0ac586fe9633ca5b1615a5c6d3d6943c0bd011d476aa3a54a5094bed517a489b2665998cf1206b9d040baceea2,
   0x9454354b34c83182c5dfbafb7a09e822b2ef72938f17d5dbf6597707e13d56241e1a09a14ab7ed0133f1ed4f825d086a8fd4e2e3c372314b14522f9b,
   0xf54036457d8c9da607e5fc114292fa261fec1780ceec055cc036bbab9bd671be4a630c47f3fea79052f1c39705140be6eeeb953d30babeaa113a2510,
   0xb7991b534aebaf6396f6ab0c82d9b172d524684ee515a1c9611da81ac9573078c49dd067479ba03b9116b6eb91dbc8ce26414f8a1d2e1e2a46eab473,
   0xf991e7bb5b9044b94b6e60a130c28924a33b7e809236af146fc7aed9]

/-- The final signature of the runtime image: 2,668 bytes. -/
def runtimeRows : List Nat :=
  [0x0000000100000003c44c80db873d03800652169fe6495b9aa9a6228e5295ac2a3ef9b2e0804db19abfbc63d409d5e53eac52b696ca53a63f843d89ca,
   0x2f70256a971aa5a9b2f526ffcb57c7c3b81930b0a5c0f6b6d3bf68e59e6909f8f0172df560334c9163313ccf15c16be73025b90256618af9aa74f98a,
   0x4c30beb6c9bdff32ba3ad68048ef7f21973c66227092298d5fc3247d8e1d866829b3b41a68f0def9090d70dbcbcb1c02fb85b1604eb5ef4df14c17ae,
   0x4c5c4d5650b31d21333d2d97b21869d949c9f33d31cf5e4a5e5d1d379c283fa048328f4a9c09d44924b7dbe6f87fec9935e800b76eae1815e3cb9579,
   0x111f50477ea41450a2ea6a7198ee3340a385e58e66a052ae1e79ebe59693a3cb7275f26370abe0aea683307128bc81108d65691e46c36316e56e7bc9,
   0x4ce159585e6dcc40646e71bbf7ae666eeb804ae2f475de0430118102bc0dfc3fed7c3b778df283afbe2dabad0765ddc5925509adb0f4a05185ce40b4,
   0x1a4496ee91a26e5c4f1e866de7ca65c13d0e428abf06610fcdcf7e1b51b0315e0112ce152d78614a207a19c416e8c9f17b6e007e75bd6d52776c85b8,
   0x96557dec855371946a56e28553650afad6c01009926af5cbfe8bfd0595e73d9b3ee5412dcda7456ce175f7363ad6527888b032b173340a9872bba462,
   0x31841ffaad5ed55823d13129630fe8df0a48d2284e7f1ee7af62310648b3077683f3521a76dbeb09110c5c6e8befd629e9158d3c2110535701833dd6,
   0xbcdc795786bab8e96316177aa5bc4cfacc700940bcad779b0957aef984726490fe7472785cf273f3bd3205e48703ebaf10d4fa17c52548d9cd6a6375,
   0x88c8f6120f5a8addca3941dbfdbc67c7c51e17fc611894d06721d6ce6984434f8056d68680ffc762296a26162dd75329c4012e008f073b2b88a7f929,
   0x5ddae176803dd40f8b1154579d00309452a4badd9fa6639a79483cad69bc7f52a165518f25cafd4f93580a03de5cddbf83f00d2b1d0e41a2932635c5] ++
  [0x6051f14cba791a2f00546d76e7f2ce38a386dc0f2e5eb863d30b911de3ee08cb9cdaeb2ec2f1f731527130d6719a781e34e170b7ff96876030384198,
   0xd7e10c1fb9244f4bc56fd9bb1c1fbcdba386df45c989e745c2dc6c55f34341c8a46442c78c6ad339b2d162a3777f8abacf0269c49926db7b9b973f1b,
   0x73fb103e9bbf3aa8c488c4d008ed42fcf4e512533fc6c229316e5c42543e571d2d89c02089fb2b646adf328389d939835ec9687305d2ad28671b6da1,
   0x6de8c5e687fca2d5707a115cc10414bdee0fb0d87e8d1c7eb32e777445520af0c93cd04ace746c84bd238d78b170db76b6728ee9c2bfe4c7697c2146,
   0x8f8e079acdd0d4738b26cbf4881182ee0b4091a53a3df3d88749c28ecd54abf22af8b62cd6ed852c03f65ce914d410190e62e065268ce4bcd24fc5ef,
   0xcc30b97b64e8f5f9253412413c27e43f863e692a43426f638032630f7fae9fee7f4e307e552f12fe3f01949f93b5e0767bcc6d3b0a3c5438c210a6b8,
   0xa51106f25314c2ae85e29d50afbb23b6e0e5b6d92ffda3ccebcf1d820c01b241ffd0fd2c1e6462c13b6d9796d28712153b647d4451a882f3c1da6799,
   0x91b45f33ff8b51fa4bc7d93649f4e00f764154e520975a1182a906a1ae9baebb5a39842f4e51064f68e9be6bd4c7527f0a5e831777c6700af217e53f,
   0xaf171a7827899a4237ac0822740846d2ad425bdbb799ae4b9dba027d37a5d77cec6f004189e438e9e2020f8fe4c0188ec9728471cff0c65f28993d8f,
   0x49ea23311b6ae5990ca416409364cfbe4e600d2426e3dcb93676fae540edd244c1466f70cc8d3b95f8d111d9679cb092c423e24efeb06058cb1399b7,
   0x42b6642e9e3b463f118b53544ecd051a4c96e01fa301a37ddf1d429f32275aa1a30e878d51a304890d8a6c36d2552d365c1994921b6b84f419a4b2e4,
   0x7640cff177ebca7e34a98bc8b1d457ec7a5ab6a8a727c464b011d15806605454246a0b51dc85f30da93bae2fd8c4add3a413c3b4fe891d179b69001d] ++
  [0xe0492e31a343bca8a89b37e0853ece8bdcc90c9bdd8725791f1cfd373b7a8e1d03fd7f88983ee929df91446ecb1af5ff72862accf3a98c555a7494fe,
   0xd351093f30a61af1d30fc48b15ad3b5d3be138c4c32b88200a3ba6ef0c194e1978d3aceb5134f73d23690934a7a0cfbb4e5a7905888d24f97503c926,
   0xbaf31ead82b3a2a1387e9950a65a51a6ca7d8abe8a1d46e1d77f15f80f9dfcd6b3b8a39623a31ad2ffc18f53e49efdf2578ca49720b81ebf6bf70ab6,
   0xf39087ba75dab556d3ed1ed9b488d8aa442650ecf100c3c8e01b5d47e3dadc9e4ca6956931e157a1c0fbf04a54aebf66606a635bf854f04e9a3b88bd,
   0x66c8d96152987d967480429b15b6f34f6c70f34ee9e99e039faaf65e2d273ed2fbb55ee0fe2a48fbd776e54ec7f69394a08ff40149d1cf19101de491,
   0x064e302ad7978ffd19cdc34a4b3847ef22439fa763282fa3f1082082e270a43d387f149e01d6aa72560cb626759837d5199613685f6b57354be183e3,
   0x9c8d9121d82d12cd6996c3a912600e6b4702f8ba5bbf771f8f1c5b6f394f6235875e2ecad54f1f96e2e2caeca78cfacf8cc6c1ad2c0c24a5b04f6712,
   0x334af0a0537efe58762825e5523491e1acfc023e3ca3825bb0f8c3ff84063309acda244bbd8d51abce6fb42696bbb67a6d35c8ab5be74c74b5f012ff,
   0xf890eb290d2575bfab71cb305fc816ffe20add81155c18b6df35e2d7a4f70f39d81f3de9f1dbc635c569f2779f5cfbbc46d6fb448df68f6c40408dd6,
   0xec99866cfc9a1fd49b3fcc126f67f6ff01ea8e3621ebec4c686fed3c7968427654e4607ccc5b8aef0f05bfd886f3993a00757f76d68116c854e835cf,
   0xe4279ba258994ad77990d8a4b4222edc7e9efb0a531099922149a50592ac5845240b4c1bdde45da4d6094d4d1e33bd20b43b25f6fee8384cacf75f88,
   0x5992b40017da04c1236805c9d4f50be3e34c499893d43547787403d999dc4b182f170dea2c731a433eea38a28ae4ca986a5500afe426f45aa779f302] ++
  [0x8c3af1aacd3acb17ba7346d53abfb73dff3d868659fc54d40000000767601f26c093ac2b001f0aed2cb0820b6fde7f0086f16382b32f55a17dfbe180,
   0x6ac378ddbe6e25698efd28bdc70ee088fa8783c7a1f5e018615ac1b86148f0ef92bbaaeeeebe848b6fc6128fe0b4c011c8b4fc61f519e779b6e4160b,
   0x6823f0f06891ea21f79d09203df4c961919f30cb3b03d9c4808d3099d05f6db3f4c3edb1054027f609419b4d8507b740443e596d586d4908d956b01d,
   0xefb1d85ad475305331f039b640d93edf6a4666fc1f6aa0bc429bfeb94d0d350193621f77296bdc8a20f6dce35385a00ea3e6fbb092dfcf75097c4673,
   0x3612984268d46bc799615185b44dfa0ac586fe9633ca5b1615a5c6d3d6943c0bd011d476aa3a54a5094bed517a489b2665998cf1206b9d040baceea2,
   0x9454354b34c83182c5dfbafb7a09e822b2ef72938f17d5dbf6597707e13d56241e1a09a14ab7ed0133f1ed4f825d086a8fd4e2e3c372314b14522f9b,
   0xf54036457d8c9da607e5fc114292fa261fec1780ceec055cc036bbab9bd671be4a630c47f3fea79052f1c39705140be6eeeb953d30babeaa113a2510,
   0xb7991b534aebaf6396f6ab0c82d9b172d524684ee515a1c9611da81ac9573078c49dd067479ba03b9116b6eb91dbc8ce26414f8a1d2e1e2a46eab473,
   0xf991e7bb5b9044b94b6e60a130c28924a33b7e809236af146fc7aed9]

/-- The HSS signature of a delivered image of a stage, 5,396 bytes. -/
def deliveredSig (stage : Nat) : Nat :=
  joinRows 28 childRows <<< 21344 + joinRows 28 (if stage = 1 then instarRows else runtimeRows)

end Sys2Proof.Machine
end

