-- ==== Sys2Proof/Machine/State.lean ====
section
/-!
DEFINITION. The state of the TH2532 block as plain data, the reasons a step can stop, and the state after reset.
INVENTORY.md lists every field with its rule; notes/assumptions/ names every reset value the spec does not give.
-/
namespace Sys2Proof.Machine

/-- Why a step stops with a fault. The model has none: every failure the spec describes is a status, a register, an
interrupt message or a device state, and nothing raises a fault (safe). -/
inductive Fault where
deriving DecidableEq, Repr

/-- Why a step is refused. -/
inductive Refusal where
  /-- Raised by an arm of `exec` whose row has no meaning yet; safe, since it stops where the hardware goes on. -/
  | notModelled (mnemonic : String)
deriving DecidableEq, Repr

/-- A byte memory: address and byte pairs, addresses strictly rising, no entry equal to the unlisted byte. -/
abbrev Mem := List Host.Cell

/-! ### Power, pins and sideband -/

/-- Instruction registers of the test access port (R455). -/
inductive Tap where
  | bypass | idcode | sample | extest | clamp | highz
deriving DecidableEq, Repr

structure Power where
  /-- TGL_VIN (R395) -/
  vin : BitVec 13 := 0
  iin : BitVec 13 := 0
  /-- the input is in range, and in the low-tolerance or the high-tolerance region, or below both though nothing has opened the
  switch for it (R443) -/
  inputOk : Bool := true
  lowTol : Bool := false
  highTol : Bool := false
  sagging : Bool := false
  modEn : Bool := true
  /-- level of MOD_RESET_N (R447) -/
  resetN : Bool := true
  pgood : Bool := true
  switchClosed : Bool := true
  precharging : Bool := false
  /-- regulators ramping after precharge (R445) -/
  ramping : Bool := false
  latched : Bool := false
  /-- the 1 µs sample in which the switch last opened is not over, and a die has signalled a trip in it (R446) -/
  opened : Bool := false
  tripDue : Bool := false
  /-- the latch was set by a trip and holds, and a trip has set it since the input was applied (R464, R465) -/
  tripLatch : Bool := false
  tripped : Bool := false
  /-- LAST_OFF of R458 -/
  lastOff : BitVec 8 := 0
  /-- TB_REFCLK is present (R26, R448) -/
  refclk : Bool := true
  /-- the last release of MOD_RESET_N broke R448 -/
  badRelease : Bool := false
  sbAddr : BitVec 3 := 0
  /-- SB_ALERT_N asserted, and STATUS as last compared (R459) -/
  alert : Bool := false
  status : BitVec 8 := 0
  /-- the bytes of the last SMBus answer, PEC last; `none`: not acknowledged (R458) -/
  smb : Option (List Byte) := none
  /-- the test access instruction of each die of the chain, and the last IDCODE or boundary word read (R455) -/
  tap : List Tap := List.replicate 5 .bypass
  tdo : Nat := 0
deriving DecidableEq, Repr

/-! ### Time base -/

structure TimeBase where
  /-- the count of 1 ns ticks (R23, R25) -/
  now : DWord := 0
  nowHi : Word := 0
  loadLo : Word := 0
  loadHi : Word := 0
  /-- TMB_CTRL (R26) -/
  loadReq : Bool := false
  ppsEn : Bool := false
  source : BitVec 2 := 0
  /-- TMB_STATUS (R26) -/
  refOk : Bool := false
  ppsSeen : Bool := false
  /-- the master's time messages arrive (R401) -/
  msgOk : Bool := false
  /-- c_0 of R457, ticks of the last edge, and the ticks still to be slewed in -/
  ppsBase : Option Nat := none
  slew : Int := 0
  /-- the count has been held at a slewing tick -/
  slewHeld : Bool := false
deriving DecidableEq, Repr

/-! ### Commands and queues -/

/-- Queue states (R335, R354). -/
inductive QState where
  | closed | opened | paused | draining
deriving DecidableEq, Repr

/-- Task states (R356). -/
inductive TState where
  | none | speculative | committed | discarded
deriving DecidableEq, Repr

/-- Where a command stands between its fetch and its record (R343, R353). -/
inductive Phase where
  | waiting
  /-- started, left at a position -/
  | running (pos : Nat)
  /-- yielded at an array tile (R87) -/
  | yielded (pos : Nat)
  /-- to be performed at the next crossing -/
  | crossing
  | done
deriving DecidableEq, Repr

/-- Where a unit writes: device address or operand-buffer offset. -/
inductive Dest where
  | dev (a : Nat)
  | ob (off : Nat)
deriving DecidableEq, Repr

/-- A write of a unit. `next` says that its bytes also come from the unit after (R270, RAW); `firm`, that it takes place only
with its unit: a stream context keeps its bytes when its command fails (R296). -/
structure Wr where
  d : Dest
  bytes : List Byte
  next : Bool := false
  firm : Bool := false
deriving DecidableEq, Repr

/-- A unit, visit, row or tile of a command's work: what it reads and writes, and a status it meets before it starts. `arrived`
says that what it reads in the Borug memory has been read by row requests that have arrived (R131). -/
structure Piece where
  fault : Option (Nat × Nat) := none
  arrived : Bool := false
  reads : List (Nat × Nat) := []
  obReads : List (Nat × Nat) := []
  writes : List Wr := []
deriving DecidableEq, Repr

/-- Work that a command is still to be granted (R384): its class by number, the ring hops of its traffic, the units left, and
the units of one quantum. -/
structure Charge where
  k : EClass
  hops : Nat := 0
  units : Nat
  quantum : Nat
deriving DecidableEq, Repr

structure Cmd where
  idx : Nat
  /-- header and parameters as little-endian numbers (R6, R339) -/
  hdr : Nat
  par : Nat
  ph : Phase := .waiting
  /-- the command passed stage 1 of R344 and entered its dependencies -/
  entered : Bool := true
  /-- the earlier commands its tags name (R340) -/
  deps : List Nat := []
  /-- serial of its task, 0 when it has none (R341) -/
  task : Nat := 0
  /-- its last completion: status, STATE, CMD -/
  status : Nat := 0
  code : Nat := 0
  reply : Nat := 0
  /-- the root of a refusal (R345), as the root field of R346 -/
  root : Nat := 0
  /-- the status on which dependents resolve (R345): that of the first completion, or of the second record after
  ST_CHECKSUM with RERUN = 1 -/
  settled : Option Nat := none
  /-- this execution is a re-run or replay whose record carries SECOND = 1 (R90, R372) -/
  second : Bool := false
  /-- the command has started in this execution, the service state and the tick of its start -/
  begun : Bool := false
  svc : Option Nat := none
  start : Nat := 0
  /-- the vector thread that carries it or its chain (R128, R129) -/
  thread : Option Nat := none
  /-- it yielded at least once (R99) -/
  hasYielded : Bool := false
  /-- the collective release of an image has come (R410) -/
  released : Bool := true
  /-- the tick at which it was placed in the engine queue of its core or die (R364) -/
  placedAt : Option Nat := none
  /-- the bound Luna record as read at its start: address and the number its bytes spell, and how the read failed (R223) -/
  luna : Option (Nat × Nat) := none
  lunaBad : Option (Nat × Nat) := none
  /-- the step record as read at its start, and how the read failed (R240) -/
  step : Option Nat := none
  stepBad : Option (Nat × Nat) := none
  /-- the die of the Abutment engine that carries it (R370) -/
  die : Option Nat := none
  /-- the pipe and the scaler that carry a media command (R322) -/
  pipe : Option Nat := none
  scl : Option Nat := none
  /-- the tick of its release, for a collective (R410, R412) -/
  dueAt : Option Int := none
  /-- the quanta that have not been offered to the Tollgate, `none` before the first offer, and the classes of the others -/
  charges : Option (List Charge) := none
  /-- all its quanta, from the first offer on -/
  work : List Charge := []
  classes : List Nat := []
  /-- the banks that it claims at its start, known from its placement (R366) -/
  banks : List Nat := []
  /-- it has started on a core in this execution (R372) -/
  cored : Bool := false
  /-- its pieces as they stood when it first yielded (R68, R87) -/
  kept : Option (List Piece) := none
  /-- the supervisor that executes a control command (R438) -/
  doer : Option Side := none
deriving DecidableEq, Repr

structure Task where
  serial : Nat
  id : Nat
  /-- still open in slot order (R341) -/
  isOpen : Bool := true
  state : TState := .none
  /-- its LAST command has completed -/
  finished : Bool := false
  /-- class of the task, from its queue or its image record (R363) -/
  lc : Bool := false
  /-- physical core number 13 * die + core where it is placed, and the affinity quadrant (R370) -/
  core : Option Nat := none
  quad : Option Nat := none
  /-- waited 100 µs for a core in its quadrant (R371) -/
  roam : Bool := false
  /-- the tick at which its first command started in this run (R346) -/
  start : Option Nat := none
  /-- a core that failed a command of the task, and whether the task runs again in the next run (R90) -/
  avoid : Option Nat := none
  rerun : Bool := false
  /-- image tasks: logical core, beat offset, release (R403, R407) -/
  lcore : Nat := 0
  beat : Nat := 0
  released : Bool := true
  /-- the instant of its release, where its core then had to wait: its first command records the slip (R413) -/
  slipDue : Option Int := none
  /-- its core was only busy with a task of the other logical core then: a slip if it starts later than its release (R413) -/
  slipBusy : Bool := false
deriving DecidableEq, Repr

/-- A completion record before its PHASE bit (R346), with the records it must follow (R345). -/
structure Rec where
  c : CmdRef
  after : List CmdRef
  /-- those that had not completed when it did: their records come behind it in the list -/
  waits : List CmdRef := []
  tag : Nat
  status : Nat
  code : Nat
  last : Bool
  second : Bool
  cmd : Nat
  tstart : Nat
  tend : Nat
  irq : Bool
deriving DecidableEq, Repr

structure Queue where
  /-- descriptor fields of R335 -/
  state : QState := .closed
  lc : Bool := false
  nl : Nat := 3
  gen : Nat := 3
  log2 : Nat := 4
  irqEn : Bool := false
  job : Nat := 0
  cmdAddr : Nat := 0
  cplAddr : Nat := 0
  irqVec : Nat := 0
  irqMod : Nat := 0
  /-- slots fetched and records written, unwrapped: HEAD and CPL_COUNT are these modulo 2^32 -/
  fetched : Nat := 0
  written : Nat := 0
  tail : Word := 0
  cplHead : Word := 0
  cmds : List Cmd := []
  tasks : List Task := []
  /-- records not yet written -/
  recs : List Rec := []
  /-- commands that failed since the last SYN.FENCE (R351) -/
  failed : List Nat := []
  /-- serial number of the next task -/
  serial : Nat := 1
  /-- tick of the last interrupt message, and whether one is due at the interval's end (R360) -/
  lastMsg : Option Int := none
  irqDue : Bool := false
deriving DecidableEq, Repr

structure Queues where
  qs : List (Nat × Queue) := []
  /-- interrupt messages held while the link is down: vector, QID (R362) -/
  irqHeld : List (Nat × Nat) := []
deriving DecidableEq, Repr

/-! ### Supervisors -/

/-- Device states (R352). -/
inductive DState where
  | off | instar | ready | running | draining | fenced | parked | faulted
deriving DecidableEq, Repr

/-- What a run is (R168, R170, R407). -/
inductive RunKind where
  | queueFed | image | service
deriving DecidableEq, Repr

structure Run where
  kind : RunKind
  start : Nat
  /-- service state code of R168 -/
  svc : Nat
  /-- RUN_MS in force, 0 for no limit (R440) -/
  ms : Nat := 0
deriving DecidableEq, Repr

/-- A crossing in progress (R29 to R31). -/
structure Cross where
  began : Int
  /-- beat boundary at which the drain ended -/
  drained : Option Int := none
  /-- the pending actions have been performed -/
  acted : Bool := false
deriving DecidableEq, Repr

/-- A command that waits to be performed at a crossing (R31, R353). -/
structure Pend where
  c : CmdRef
  e : Circ
deriving DecidableEq, Repr

/-- What a pending STOP or PARK asks for (R440). -/
inductive StopReq where
  | stop | park
deriving DecidableEq, Repr

/-- Signing state of one supervisor (R430, R431). -/
structure Keys where
  next : Nat := 0
  reservedEnd : Nat := 0
  /-- the journal entry written next (R431) -/
  entry : Nat := 0
deriving DecidableEq, Repr

/-- A supervisor's PUF: the seed to which the helper data of its enrolment leads (R429). -/
structure Puf where
  seed : BitVec 256 := 0
  helper : Nat := 0
deriving DecidableEq, Repr

/-- A supervisor's part of the identity area of flash (R425): PUF helper data, seed check value, SERIAL of its certificate, and
the bottom trees whose nodes are cached with those of the top tree (R430). The root public key that its certificate names is
that of its seed (`identArea`). -/
structure Ident where
  helper : Nat := 0
  check : BitVec 256
  serial : DWord := 1
  trees : List Nat := [0]
deriving DecidableEq, Repr

/-- The test-and-repair results of this power-up (R424), with the training values. -/
structure TestRec where
  cores : List (Nat × Nat) := []
  dies : List Nat := []
  offl : List Nat := []
  enc : List Nat := []
  dec : List Nat := []
  scl : List Nat := []
  ports : List Nat := []
  train : List Nat := []
deriving DecidableEq, Repr

structure Sup where
  dstate : DState := .instar
  /-- a supervisor control path works (R352) -/
  ctlPath : Bool := true
  /-- SUP_BOOT (R424) -/
  stage : Nat := 0
  fail : Nat := 0
  nLeadOk : Bool := false
  sLeadOk : Bool := false
  nId : Bool := false
  sId : Bool := false
  i1Copy : Bool := false
  rtCopy : Bool := false
  fwI1 : Word := 0
  fwRt : Word := 0
  fwFloor : Word := 0
  /-- FLOOR_SET of the running images (R426, R433) -/
  setI1 : Word := 0
  setRt : Word := 0
  brSeq : Word := 0
  /-- capabilities of the running runtime: NL2, NL3, format 2, format 3 (R426) -/
  caps : BitVec 4 := 0xF
  /-- slot of the boot record in use, and the slot that South took at this power-up (R422, R428) -/
  brSlot : Bool := false
  brSouth : Bool := false
  /-- SUP_STATUS and SUP_TERM (R357, R435) -/
  service : Nat := 0
  leader : Side := .north
  term : Word := 0
  storeTerm : List Word := List.replicate 4 0
  hbMiss : Word := 0
  /-- SUP_FENCE (R437) -/
  fenceCause : Nat := 0
  fenceSide : Side := .north
  directUp : Bool := false
  nPathUp : Bool := false
  sPathUp : Bool := false
  nFenced : Bool := false
  sFenced : Bool := false
  /-- heartbeats sent by each supervisor, and the last one (R436) -/
  nSeq : Nat := 0
  sSeq : Nat := 0
  nBeat : Option Beat := none
  sBeat : Option Beat := none
  run : Option Run := none
  cross : Option Cross := none
  /-- a RUN accepted whose run has not started; TEST and RUN_MS of the runs to come (R440) -/
  runReq : Bool := false
  runTest : Bool := false
  runMs : Nat := 0
  stopReq : Option StopReq := none
  startupDue : Bool := true
  recoveryDue : Bool := false
  /-- scrub and checksum-verification readers hold stream ports (R168, R170) -/
  portHold : Bool := false
  pend : List Pend := []
  /-- activations pending per stage (R434); the inactive copies that are verified, and the primary ones (R433) -/
  i1Pend : Bool := false
  rtPend : Bool := false
  i1Ver : Bool := false
  rtVer : Bool := false
  i1VerPrim : Bool := false
  rtVerPrim : Bool := false
  /-- the leader has been silent for 1 ms (R438) -/
  silence : Bool := false
  /-- tick at which READY was entered from INSTAR (R392) -/
  readyTick : Int := 0
  /-- module flash but for the identity area and the fault log (`flashByte` gives every byte) -/
  flash : Mem := []
  /-- the public key in the boot ROM (R427) -/
  rom : BitVec 480
  /-- PUF, identity and reconstructed seed of the two supervisors (R429) -/
  nPuf : Puf := {}
  sPuf : Puf := {}
  nIdent : Ident
  sIdent : Ident
  nSeed : BitVec 256 := 0
  sSeed : BitVec 256 := 0
  nKeys : Keys := {}
  sKeys : Keys := {}
  test : TestRec := {}
  /-- index of the next test record in its ring (R424) -/
  testNext : Nat := 0
deriving DecidableEq, Repr

/-! ### Registers -/

/-- Events logged in the ERR block. -/
inductive ErrEvent where
  | refclkLost | reservedAccess (write : Bool) (addr : Nat) | ignoredWrite (addr : Nat) | ppsIgnored
  | irqDropped (vec : Nat) | uncorrectable (line : Nat) | offline (stack : Nat) | scrubFound (line : Nat)
  | internal (q : QRef) (idx : Nat) | chrysalisSkipped | testRecordLost | deviceFault
  | linkRetry (port : Nat) | heartbeatMissed (sender : Side)
deriving DecidableEq, Repr

structure Regs where
  /-- SUP_CQ (R357) -/
  cqCmd : BitVec 48 := 0
  cqCpl : BitVec 48 := 0
  cqLog2 : Nat := 4
  cqIrqEn : Bool := false
  /-- SUP_EMCIA_BASE in effect, as stored, (R357, R358) -/
  emcia : DWord := 0
  emciaSet : DWord := 0
  irqAddr : BitVec 48 := 0
  irqEn : Bool := false
  evEn : BitVec 7 := 0
  /-- QTB (R357) -/
  qtbBase : BitVec 48 := 0x017FFC000000
  badDb : Word := 0
  badQid : BitVec 20 := 0
  /-- MED_CFG in effect and as stored (R332) -/
  medCfg : Word := 0x122
  medSet : Word := 0x122
  /-- ERR block, memory (R283) -/
  errCfg : Word := 0x0A3C00C8
  errSet : Word := 0x0A3C00C8
  offline : Word := 0
  ksPend : BitVec 4 := 0
  bgPend : Word := 0
  corr : Word := 0
  uncorr : BitVec 16 := 0
  timeouts : BitVec 16 := 0
  lastAddr : BitVec 48 := 0
  lastKind : BitVec 2 := 0
  lastHi : Word := 0
  /-- domain configuration (R397) -/
  domCfg : BitVec 22 := 0x80000
  domId : Word := 0
  /-- ERR block, domain (R413) -/
  colTimeout : BitVec 16 := 0x03E8
  colSet : BitVec 16 := 0x03E8
  slips : Word := 0
  slipMax : Word := 0
  slipTag : Word := 0
  abortPart : BitVec 9 := 0
  abortValid : Bool := false
  /-- the ERR block's log -/
  errLog : List ErrEvent := []
  /-- what the last companion read returned: the words, and the link's error flag (R39) -/
  resp : Option (Nat × Bool) := none
deriving DecidableEq, Repr

/-! ### Memory -/

/-- An address space that commands write. -/
inductive Space where
  | dev | comp | ob
deriving DecidableEq, Repr

/-- A request for a row in the Borug memory (R14, R131): the store die, the command, the row and the row's lines there. -/
structure RowReq where
  die : Nat
  c : CmdRef
  row : Nat
  lines : List Nat
deriving DecidableEq, Repr

structure Memory where
  /-- Keystone and Borug bytes by device address (R34) -/
  dev : Mem := []
  /-- companion physical memory (R37) -/
  comp : Mem := []
  /-- operand buffers: 0x600000 * physical core + offset (R81) -/
  ob : Mem := []
  /-- poisoned lines, as address / 64, ascending (R273) -/
  poison : List Nat := []
  /-- stacks whose interface retrains (R282) -/
  retrain : List Nat := []
  /-- recovery scrubs running: keystone or stack, and the unit (R278) -/
  scrubs : List (Bool × Nat) := []
  /-- lines of unacknowledged writes that wait to be poisoned (R280) -/
  lateWrites : List Nat := []
  /-- the next line of each scrub, by index in its home (0 to 3) or stack (4 on), and the passes made (R276) -/
  scrubPos : List Nat := List.replicate 36 0
  scrubPass : List Nat := List.replicate 36 0
  /-- per Borug row: consecutive scrub passes that corrected one of its lines, and the last such pass (R279) -/
  rowFix : List (Nat × Nat × Nat) := []
  /-- rows recorded in the row-sparing area, oldest first, and those that Instar 1 has replaced (R279) -/
  spare : List Nat := []
  spared : List Nat := []
  /-- row requests that hold pass-through lines of a store die, and those that wait for lines, oldest first (R14) -/
  passHeld : List RowReq := []
  passWait : List RowReq := []
  /-- row and line of row requests that timed out, for commands in progress (R132) -/
  timedOut : List (CmdRef × Nat × Nat) := []
  /-- rows that have arrived for commands in progress (R131), and the uncorrectable lines among what arrived (R132) -/
  gathered : List (CmdRef × Nat) := []
  rowBad : List (CmdRef × Nat × Nat) := []
deriving DecidableEq, Repr

/-! ### Cores, Cocoons, Luna -/

structure Bank where
  core : Nat
  bank : Nat
  q : QRef
  task : Nat
deriving DecidableEq, Repr

/-- What the array of a core holds: its 2,048 FP32 accumulators and the cells of its checksum row and column (R71), the array
tile of results in its drain (R86), and the weight tiles in the staging of its B feeder. -/
structure Cells where
  acc : List Word
  row : List Word
  col : List Word
  drain : List Word
  feeder : List Word
deriving DecidableEq, Repr

structure Cores where
  /-- enabled physical cores of each compute die, ascending (R11, R12) -/
  usable : List (List Nat) := List.replicate 16 []
  /-- physical cores marked for retirement, as 13 * die + core (R12) -/
  marked : List Nat := []
  /-- dies whose Abutment engine is unusable, or marked (R123, R423) -/
  abtBad : List Nat := []
  abtMarked : List Nat := []
  /-- operand-buffer banks held by tasks (R366) -/
  banks : List Bank := []
  /-- the core of each job's previous task (R371) -/
  prev : List (Nat × Nat) := []
  lcBanks : Nat := 16
  lcSet : Nat := 16
  /-- arrays that hold anything but zeros, by core, with the job that left them (R71, R365); vector registers v0 to v15 by core
  and thread (R128); weight and line stores of the Abutment engines by die (R120); Luna counters by core (R29): those not
  listed are zero -/
  arrays : List (Nat × Nat × Cells) := []
  vregs : List ((Nat × Nat) × Nat × List Word) := []
  stores : List (Nat × Nat × List Word × List Word) := []
  draws : List (Nat × DWord) := []
deriving DecidableEq, Repr

/-- One shadowed granule of 4 KiB: the original and its copy by number address / 4096, and the lines written (R375). -/
structure Granule where
  orig : Nat
  copy : Nat
  marks : BitVec 64
deriving DecidableEq, Repr

structure Cocoon where
  num : Nat
  q : QRef
  task : Nat
  ks : Nat
  ksN : Nat
  bg : Nat
  bgN : Nat
  granules : List Granule := []
deriving DecidableEq, Repr

/-! ### Tollgate -/

/-- A quantum (R384): its command, class by number, units, ring hops, whether it carries the fixed energy, its die. -/
structure Offer where
  c : CmdRef
  k : EClass
  units : Nat
  hops : Nat
  first : Bool
  die : Nat
deriving DecidableEq, Repr

/-- A granted quantum that has not finished: predicted energy with and without guard (R388, R389). -/
structure Quantum where
  c : CmdRef
  k : Nat
  e : Nat
  plain : Nat
  die : Nat
deriving DecidableEq, Repr

structure Tollgate where
  /-- settings in effect (R393 to R395) -/
  limit : Nat := 3200
  lcPct : Nat := 40
  releaseUs : Nat := 100
  brakeA : Nat := 92
  /-- settings for the next budget window -/
  limitSet : Nat := 3200
  lcPctSet : Nat := 40
  releaseSet : Nat := 100
  brakeSet : Nat := 92
  pBase : Nat := 0
  /-- learned factors and completed commands per class, in the order of R384 (R389, R392) -/
  factors : List Nat := List.replicate 14 1024
  counts : List Nat := List.replicate 14 0
  /-- the window's account (R386 to R388): energy granted, its LC part, blocks drawn and left per half, energy per die -/
  window : Nat := 0
  granted : Nat := 0
  grantedLc : Nat := 0
  drawn : Nat := 0
  blockN : Nat := 0
  blockS : Nat := 0
  dieGrant : List Nat := List.replicate 16 0
  /-- granted quanta not yet finished (E_open of R388), quanta that wait for a grant (R387), and E_m in nJ -/
  openE : List Quantum := []
  waiting : List Offer := []
  measured : Nat := 0
  /-- predicted energy of the quanta that ran in the window, without guard, per die and class (R389) -/
  ran : List (Nat × Nat × Nat) := []
  /-- TGL_STATUS, counters (R388, R391, R395) -/
  hold : Bool := false
  brake : Bool := false
  brakes : Word := 0
  holds : Word := 0
  /-- consecutive 1 µs samples above BRAKE_A, and consecutive intervals that do not hold (R391) -/
  overUs : Nat := 0
  relaxUs : Nat := 0
  /-- array issue is held in this interval -/
  arrayHeld : Bool := false
  /-- TGL_WIN and the samples behind it -/
  powerW : Nat := 0
  lcUsed : Nat := 0
  ipeak : Nat := 0
  peakNow : Nat := 0
  samples : Nat := 0
  /-- thermal narrowing (R390) -/
  therm : Bool := true
  tLo : Nat := 85
  tHi : Nat := 92
  dieTemp : List Nat := List.replicate 25 0
  dieTheta : List Nat := List.replicate 25 128
  diePower : List Nat := List.replicate 25 0
  /-- per die and sensor, consecutive reads at or above 110 °C (R464) -/
  trips : List (List Nat) := List.replicate 25 []
deriving DecidableEq, Repr

/-! ### Domain -/

/-- A collective in progress (R410 to R412). -/
structure Coll where
  c : CmdRef
  kind : Nat
  peer : Nat
  channel : Nat
  /-- its number among the pairs of peer and channel since the formation -/
  k : Nat
  released : Int
  /-- lines that have arrived or been acknowledged, or ranks heard with their parameters and vectors -/
  lines : List Nat := []
  ranks : List (Nat × Nat × List Word) := []
  /-- the circumstances that its command's row gave, for the requests which arrivals make it issue (R280, log 3) -/
  e : Circ := {}
deriving DecidableEq, Repr

/-- Messages the part sends over the Viaduct. -/
inductive DomMsg where
  | hello (h : Hello)
  | time
  | abort (part tag qid status : Nat)
  | data (c : CmdRef) (peer channel k len off : Nat) (bytes : List Byte)
  | ack (peer channel k len lines : Nat)
  | vec (rank channel k par : Nat) (xs : List Word)
  | mirror (slot : Bool) (bytes : List Byte)
deriving DecidableEq, Repr

structure Dom where
  /-- SUP_DOM_STATUS (R397) -/
  dstate : Nat := 0
  nlDom : Nat := 0
  ifDom : Nat := 0
  red : Nat := 0
  members : Nat := 0
  fail : Nat := 0
  ports : BitVec 36 := 0
  /-- ports that failed their loopback test (R423) -/
  excluded : List Nat := []
  hellos : List Hello := []
  formTick : Int := 0
  index : Nat := 0
  size : Nat := 1
  /-- MASTER at the formation -/
  master : Bool := true
  /-- common format set (R398) -/
  fmts : List Nat := [2, 3]
  /-- first-hop ports per member: primary and secondary (R400), and ports that went down since -/
  routes : List (Nat × Option Nat × Option Nat) := []
  down : List Nat := []
  /-- a formed member still to adopt the master's count (R401) -/
  adopt : Bool := false
  /-- collective counts per kind, peer and channel (R410) -/
  counts : List ((Nat × Nat × Nat) × Nat) := []
  cols : List Coll := []
  /-- peers' messages that arrived before the local collective was released -/
  inbox : List ColMsg := []
  /-- messages sent, newest first -/
  out : List DomMsg := []
deriving DecidableEq, Repr

/-! ### Images -/

/-- A loaded image (R404). -/
structure Slot where
  addr : Nat
  imgId : Nat
  job : Nat
  nl : Nat
  lcores : Nat
  period : Nat
  ksFirst : Nat
  ksCount : Nat
  /-- largest number of streams with USE ≠ 0 (R170) -/
  streams : Nat
  /-- state regions: address and length in 4 KiB units -/
  regions : List (Nat × Nat)
  /-- IMG_FMT, the header generation of its commands (R402) -/
  fmt : Nat := 2
deriving DecidableEq, Repr

/-- The SCH.RUN pending or in progress (R407). -/
structure ImgRun where
  c : CmdRef
  slot : Nat
  count : Nat
  startBeat : Nat
  ckEn : Bool
  ckAddr : Nat
  ckSlot : Nat
  job : Nat
  /-- index of the run to start or in progress, and whether it is in progress -/
  k : Nat := 0
  active : Bool := false
  /-- S_k, the actual start as a beat number -/
  beat : Int := 0
  /-- this run continues an earlier one of the same index (R408) -/
  again : Bool := false
  /-- the section's commands and tasks of the run in progress -/
  q : Queue := {}
  /-- the SCH.RUN has started a run, or a service run for one -/
  begun : Bool := false
  /-- status with which the SCH.RUN completes when it is stopped: status, STATE, CMD (R409) -/
  ended : Option (Nat × Nat × Option Nat) := none
  /-- automatic saves (R418): planned start of the last save's run, slot B next -/
  lastSave : Nat := 0
  slotB : Bool := false
  /-- cores of the logical-core map (R406) -/
  map : List Nat := []
  /-- the circumstances that the SCH.RUN's row gave, for the reads of the image in its runs (R272, R280, log 3) -/
  e : Circ := {}
deriving DecidableEq, Repr

/-- The copy of an automatic save to its mirror (R418): where the save lies, its length, that of a slot, slot B. -/
structure Copy where
  src : Nat
  len : Nat
  size : Nat
  b : Bool
deriving DecidableEq, Repr

structure Img where
  slots : List (Nat × Slot) := []
  /-- claimed Keystone MiBs: MiB, job, claim owner slot (4: CTX.RESTORE) (R405) -/
  claims : List (Nat × Nat × Nat) := []
  run : Option ImgRun := none
  /-- serial number of the next image task -/
  serial : Nat := 1
  /-- saves of each job since its SCH.RUN (SEQ of R415) -/
  seqs : List (Nat × Nat) := []
  /-- the mirror copy that runs -/
  copy : Option Copy := none
deriving DecidableEq, Repr

/-! ### Media -/

/-- A member's picture that waits for the other members of its lock group (R317): the command, the writes of its stream
context, its reply, and its tile (R318). -/
structure Part where
  c : CmdRef
  writes : List (Nat × List Byte)
  reply : Nat
  tile : List Byte := []
deriving DecidableEq, Repr

/-- A lock group (R315): member context addresses in order and the encode pipe of each. -/
structure Group where
  members : List Nat
  pipes : List Nat
  tiled : Bool
  /-- the picture that the members have started together (R316) -/
  started : Option Nat := none
  /-- members that have coded it (R317) -/
  parts : List Part := []
  /-- members, with display indices, whose command for that picture fails because another member's did (R317) -/
  owed : List (Nat × Nat) := []
deriving DecidableEq, Repr

structure Media where
  groups : List Group := []
  badEnc : List Nat := []
  badDec : List Nat := []
  badScl : List Nat := []
  /-- pipes whose syntax buffer and pipe state hold anything but zeros (R29, R284), decode pipes from 0, encode pipes from 16,
  with header and parameters of the command that filled them: `pipeCell` gives what they hold -/
  pipes : List (Nat × Nat × Nat) := []
deriving DecidableEq, Repr

/-- SUP_LINK (R357). -/
structure Link where
  gen : Nat := 0
  lanes : Nat := 0
  up : Bool := false
  downs : Nat := 0
deriving DecidableEq, Repr

structure State where
  /-- commands that wait, first in first out -/
  pending : List Instr
  power : Power
  time : TimeBase
  sup : Sup
  regs : Regs
  mem : Memory
  queues : Queues
  cores : Cores
  cocoons : List Cocoon
  /-- the bound Luna record of each job (R223) -/
  luna : List (Nat × Nat)
  tgl : Tollgate
  dom : Dom
  img : Img
  media : Media
  link : Link
  /-- the model's own counter of free values drawn -/
  freeCtr : Nat
deriving DecidableEq, Repr

/-! ### Reset -/

/-- The bytes of a little-endian number from an address on, without the bytes that equal `0xFF`, which erased flash
reads as. -/
def flashBytes (addr n v : Nat) : Mem :=
  (List.range n).filterMap fun i =>
    let b : Byte := BitVec.ofNat 8 (v >>> (8 * i))
    if b = 0xFF#8 then none else some (addr + i, b)

/-- A firmware header of version 1 with every capability and an empty body (R426). -/
def flashHeader (stage : Nat) : Nat :=
  0x4B5A4657 + stage <<< 32 + 1 <<< 64 + 1 <<< 96 + 0xF <<< 128

/-- HMAC-SHA-256 of the first boot record under the boot key of an all-zero seed, and SHA-256 of that seed and CHECK, as
little-endian numbers (R428, R429). -/
def macReset : Nat := 0xbd030bad3b98908dcca287f1cdf6434101bf5764808f215171fbf2c05cdb690c
def checkReset : Nat := 0x3d9cbf999826e4f50c89db63e544c4d29afe1124434bbba8211903e1fcff5bfd

/-- A delivered image: its header and its signature, whose bytes stand in big-endian order (R426, R427). -/
def flashImage (addr stage : Nat) : Mem :=
  flashBytes addr 128 (flashHeader stage) ++
    (List.range 5396).filterMap fun i =>
      let b : Byte := BitVec.ofNat 8 (deliveredSig stage >>> (8 * (5395 - i)))
      if b = 0xFF#8 then none else some (addr + 128 + i, b)

/-- The flash of a module as delivered (log 12): a boot record with SEQ 1 in slot 0, and images of version 1 with no body in
copy A of each stage. -/
def flashReset : Mem :=
  flashBytes 0 128 (0x4B5A4252 + 1 <<< 32 + 1 <<< 96 + 1 <<< 128 + macReset <<< 192 + macReset <<< 448)
    ++ flashImage 0x00100000 1 ++ flashImage 0x02000000 2

/-- The identity of a supervisor as delivered: the check value of its seed (R429, log 12). -/
def identReset : Ident := { check := BitVec.ofNat 256 checkReset }

/-- The machine just after a correct power-up release of MOD_RESET_N (R421, and the Reset columns of every register). -/
def State.reset : State where
  pending := []
  power := {}
  time := {}
  sup := { flash := flashReset, rom := romKey, nIdent := identReset, sIdent := identReset }
  regs := {}
  mem := {}
  queues := {}
  cores := {}
  cocoons := []
  luna := []
  tgl := {}
  dom := {}
  img := {}
  media := {}
  link := {}
  freeCtr := 0

end Sys2Proof.Machine
end

