-- ==== Sys2Proof/Machine/Ops.lean ====
section
/-!
DEFINITION. Memory: canonical byte lists, the address map (R34 to R38), poison (R273), Cocoon shadows (R375, R376), and
the one operation that writes device memory line by line.
-/
namespace Sys2Proof.Machine

/-! ### Canonical byte lists -/

/-- The byte at `a`; `z` where nothing is listed. -/
def memGet (z : Byte) : Mem → Nat → Byte
  | [], _ => z
  | (k, b) :: r, a => if a = k then b else if a < k then z else memGet z r a

/-- `m` with byte `b` at `a`, in canonical form. -/
def memSet (z : Byte) : Mem → Nat → Byte → Mem
  | [], a, b => if b = z then [] else [(a, b)]
  | (k, c) :: r, a, b =>
    if a < k then (if b = z then (k, c) :: r else (a, b) :: (k, c) :: r)
    else if a = k then (if b = z then r else (k, b) :: r)
    else (k, c) :: memSet z r a b

/-- The canonical form: addresses strictly rising, no entry equal to the unlisted byte. -/
def Memory.wfOf (z : Byte) : Mem → Bool
  | [] => true
  | (k, b) :: r => b != z && r.all (fun x => decide (k < x.1)) && Memory.wfOf z r

/-- Every byte memory of the machine is canonical. -/
def Memory.wf (m : Memory) : Bool := Memory.wfOf 0 m.dev && Memory.wfOf 0 m.comp && Memory.wfOf 0 m.ob

/-- `m` with the bytes `bs` from `a` on. -/
def memWrite (z : Byte) (m : Mem) (a : Nat) : List Byte → Mem
  | [] => m
  | b :: r => memWrite z (memSet z m a b) (a + 1) r

def memRead (z : Byte) (m : Mem) (a n : Nat) : List Byte := (List.range n).map fun i => memGet z m (a + i)

/-- `m` without the bytes of `[a, a + n)`: they read as unlisted. -/
def memClear (m : Mem) (a n : Nat) : Mem := m.filter fun x => !(decide (a ≤ x.1) && decide (x.1 < a + n))

/-- Little-endian bytes and numbers (R6). -/
def leBytes : Nat → Nat → List Byte
  | 0, _ => []
  | n + 1, v => BitVec.ofNat 8 v :: leBytes n (v / 256)

def leNat : List Byte → Nat
  | [] => 0
  | b :: r => b.toNat + 256 * leNat r

/-- Bits [hi:lo] of a number. -/
def fld (v hi lo : Nat) : Nat := (v >>> lo) % 2 ^ (hi + 1 - lo)
def bit (v i : Nat) : Bool := v.testBit i

/-! ### Ascending lists of numbers -/

def insNat (a : Nat) : List Nat → List Nat
  | [] => [a]
  | b :: r => if a < b then a :: b :: r else if a = b then b :: r else b :: insNat a r

def delNat (a : Nat) (l : List Nat) : List Nat := l.filter (· ≠ a)

/-! ### Association lists -/

def look {α : Type} (l : List (Nat × α)) (k : Nat) : Option α :=
  match l with
  | [] => none
  | (j, x) :: r => if j = k then some x else look r k

def put {α : Type} (k : Nat) (x : α) (l : List (Nat × α)) : List (Nat × α) :=
  match l with
  | [] => [(k, x)]
  | (j, y) :: r => if j = k then (k, x) :: r else (j, y) :: put k x r

def setAt {α : Type} (l : List α) (i : Nat) (x : α) : List α := l.set i x

/-! ### Address map (R34 to R38) -/

def ksBase : Nat := 0x020000000000
def winBase : Nat := 0x040000000000
def inBorug (a : Nat) : Bool := decide (a < 0x018000000000)
def inKs (a : Nat) : Bool := decide (ksBase ≤ a) && decide (a < 0x020100000000)
def inWin (a : Nat) : Bool := decide (winBase ≤ a) && decide (a < 0x080000000000)
def spanBorug (a n : Nat) : Bool := inBorug a && inBorug (a + n - 1)
def spanKs (a n : Nat) : Bool := inKs a && inKs (a + n - 1)
def spanWin (a n : Nat) : Bool := inWin a && inWin (a + n - 1)
/-- A span within one mapped range (R38). -/
def spanOk (a n : Nat) : Bool := spanBorug a n || spanKs a n || spanWin a n
def spanMem (a n : Nat) : Bool := spanBorug a n || spanKs a n

/-- Quadrant of a Borug address, and its stack (R35). -/
def quadOf (a : Nat) : Nat := a / 0x006000000000
def stackOf (a : Nat) : Nat := 8 * quadOf a + ((a - quadOf a * 0x006000000000) >>> 11) % 8
/-- Byte within the stack (R35). -/
def stackByte (a : Nat) : Nat :=
  let off := a - quadOf a * 0x006000000000
  (off >>> 14) <<< 11 + off % 0x800
/-- Home of a Keystone address (R36). -/
def homeOf (a : Nat) : Nat := (a >>> 30) % 4
/-- Quadrant that serves an address: home or Borug quadrant. -/
def servedBy (a : Nat) : Nat := if inBorug a then quadOf a else homeOf a
/-- Companion physical address behind a window address (R37). -/
def compAddr (s : State) (a : Nat) : Nat := (a - winBase + s.regs.emcia.toNat) % 2 ^ 64
/-- WHERE of R270. -/
def whereOf (a : Nat) : Nat := if inBorug a then stackOf a else if inKs a then 0x40 + homeOf a else 0x70

def overlap (a n b m : Nat) : Bool := decide (0 < n) && decide (0 < m) && decide (a < b + m) && decide (b < a + n)

/-- Numbers of the 64-byte lines that a span touches. -/
def linesOf (a n : Nat) : List Nat := if n = 0 then [] else (List.range ((a + n - 1) / 64 - a / 64 + 1)).map (a / 64 + ·)

/-! ### Cocoons (R375, R376) -/

/-- The task for which a command reads and writes: queue and task serial. -/
abbrev Owner := Option (QRef × Nat)

def cocoonOf (s : State) : Owner → Option Cocoon
  | none => none
  | some (q, t) => s.cocoons.find? fun k => decide (k.q = q) && decide (k.task = t)

def Cocoon.granule (k : Cocoon) (g : Nat) : Option Granule := k.granules.find? fun x => decide (x.orig = g)

/-- The address where a task finds the byte of address `a`: its Cocoon's copy, else the original (R376). -/
def viewAddr (s : State) (o : Owner) (a : Nat) : Nat :=
  match cocoonOf s o with
  | none => a
  | some k => match k.granule (a / 4096) with
    | some g => g.copy * 4096 + a % 4096
    | none => a

/-- One byte of device memory or of the companion window as a task reads it. -/
def readByte (s : State) (o : Owner) (a : Nat) : Byte :=
  if inWin a then memGet 0 s.mem.comp (compAddr s a) else memGet 0 s.mem.dev (viewAddr s o a)

def readBytes (s : State) (o : Owner) (a n : Nat) : List Byte := (List.range n).map fun i => readByte s o (a + i)
def readNat (s : State) (o : Owner) (a n : Nat) : Nat := leNat (readBytes s o a n)

/-- Key of an operand-buffer byte: 6 MiB per physical core (R81). -/
def obKey (core off : Nat) : Nat := core * 0x600000 + off
def obByte (s : State) (core off : Nat) : Byte := memGet 0 s.mem.ob (obKey core off)
def obBytes (s : State) (core off n : Nat) : List Byte := (List.range n).map fun i => obByte s core (off + i)
def obNat (s : State) (core off n : Nat) : Nat := leNat (obBytes s core off n)

/-! ### Setters of the memory group -/

def State.setDev (s : State) (m : Mem) : State := { s with mem := { s.mem with dev := m } }
def State.setComp (s : State) (m : Mem) : State := { s with mem := { s.mem with comp := m } }
def State.setOb (s : State) (m : Mem) : State := { s with mem := { s.mem with ob := m } }
def State.setPoison (s : State) (l : List Nat) : State := { s with mem := { s.mem with poison := l } }

def putOb (core off : Nat) (bs : List Byte) (s : State) : State := s.setOb (memWrite 0 s.mem.ob (obKey core off) bs)
def putComp (a : Nat) (bs : List Byte) (s : State) : State := s.setComp (memWrite 0 s.mem.comp a bs)
/-- A write of device bytes at their storage, without any check. -/
def putRaw (a : Nat) (bs : List Byte) (s : State) : State := s.setDev (memWrite 0 s.mem.dev a bs)

/-- The check bytes that stand with a line in its storage (R271). -/
def checkBytes (s : State) (line : Nat) : List Byte := rsCheck (memRead 0 s.mem.dev (line * 64) 64)

def poisoned (s : State) (line : Nat) : Bool := s.mem.poison.contains line

/-! ### Saturating counters and logs -/

def satAdd (w n v : Nat) : Nat := min (2 ^ w - 1) (v + n)
def sat32 (v : Word) (n : Nat) : Word := BitVec.ofNat 32 (satAdd 32 n v.toNat)

def logErr (x : ErrEvent) (s : State) : State := { s with regs := { s.regs with errLog := x :: s.regs.errLog } }

end Sys2Proof.Machine
end

