-- ==== Sys2Proof/Machine/Flags.lean ====
section
/-!
DEFINITION. Status and state codes (R347, R352), status registers computed from the state (R26, R357, R395, R397, R424,
R437, R458), interrupt messages (R359, R362), SB_ALERT_N (R459), and the error counters and logs of R283.
-/
namespace Sys2Proof.Machine

/-- Ticks per beat (R24). -/
def beat : Nat := 1024

/-! ### Status codes (R347) -/
def stOk : Nat := 0x0000
def stRefusedState : Nat := 0x0010
def stRefusedDep : Nat := 0x0011
def stRefusedVersion : Nat := 0x0012
def stRefusedNl : Nat := 0x0013
def stBadParam : Nat := 0x0020
def stBadOpcode : Nat := 0x0021
def stBufOverflow : Nat := 0x0030
def stChainLimit : Nat := 0x0031
def stChainStat : Nat := 0x0032
def stUncorr : Nat := 0x0040
def stTimeout : Nat := 0x0041
def stChecksum : Nat := 0x0050
def stDiscarded : Nat := 0x0060
def stFenced : Nat := 0x0080
def stMedia : Nat := 0x0090
def stLink : Nat := 0x00A0
def stInternal : Nat := 0x00F0

/-- Device-state code (R352). -/
def DState.code : DState → Nat
  | .off => 0x10 | .instar => 0x11 | .ready => 0x12 | .running => 0x13
  | .draining => 0x14 | .fenced => 0x15 | .parked => 0x16 | .faulted => 0x17

/-- Queue-state code (R352), and the STATE field of the descriptor (R335). -/
def QState.code : QState → Nat
  | .closed => 0x20 | .opened => 0x21 | .paused => 0x22 | .draining => 0x23
def QState.field (q : QState) : Nat := q.code - 0x20

/-- Task-state code (R352). -/
def TState.code : TState → Nat
  | .none => 0x30 | .speculative => 0x31 | .committed => 0x32 | .discarded => 0x33

def sideBit : Side → Nat
  | .north => 0
  | .south => 1
def otherSide : Side → Side
  | .north => .south
  | .south => .north

def ofBool (b : Bool) : Nat := if b then 1 else 0

/-! ### Status registers -/

def formed (s : State) : Bool := s.dom.dstate == 2
def domMaster (s : State) : Bool := s.dom.master

/-- TMB_STATUS.ALIGNED (R26). -/
def aligned (s : State) : Bool :=
  s.time.refOk && (!(formed s && !domMaster s) || (s.time.source == 1 && s.time.msgOk))

def tmbStatus (s : State) : Nat := ofBool s.time.refOk + 2 * ofBool s.time.ppsSeen + 4 * ofBool (aligned s)

def queueOf (s : State) (qid : Nat) : Queue := (look s.queues.qs qid).getD {}
def cqOpen (s : State) : Bool := (queueOf s 0).state != .closed

def supStatus (s : State) : Nat :=
  s.sup.dstate.code + s.sup.service <<< 8 + sideBit s.sup.leader <<< 12 + ofBool (cqOpen s) <<< 13

def supBoot (s : State) : Nat :=
  s.sup.stage + ofBool s.sup.nLeadOk <<< 3 + ofBool s.sup.sLeadOk <<< 4 + ofBool s.sup.nId <<< 5
    + ofBool s.sup.sId <<< 6 + ofBool s.sup.i1Copy <<< 7 + ofBool s.sup.rtCopy <<< 8 + s.sup.fail <<< 16

def supFence (s : State) : Nat :=
  s.sup.fenceCause + sideBit s.sup.fenceSide <<< 4 + ofBool s.sup.directUp <<< 5 + ofBool s.sup.nPathUp <<< 6
    + ofBool s.sup.sPathUp <<< 7

def domStatus (s : State) : Nat :=
  s.dom.dstate + s.dom.nlDom <<< 2 + s.dom.ifDom <<< 4 + s.dom.red <<< 8 + s.dom.members <<< 10 + s.dom.fail <<< 20

/-- Guard g_c of class number `c` in 1/256 (R392); `elapsed` is the time since READY in ticks. -/
def guardOf (n elapsed : Nat) : Nat := 64 - min 64 (max (64 * n / 2000) (64 * elapsed / 200000000))

def sinceReady (s : State) : Nat := ((s.time.now.toNat : Int) - s.sup.readyTick).toNat

/-- A companion access reaches the part (R39): it is powered, the link is up and a supervisor control path works. -/
def reachable (s : State) : Bool := s.link.up && s.sup.dstate != .off && s.sup.ctlPath

def tglStatus (s : State) : Nat :=
  ofBool (s.tgl.counts.any fun n => decide (0 < guardOf n (sinceReady s))) + 2 * ofBool s.tgl.therm
    + 4 * ofBool s.tgl.brake + 8 * ofBool s.tgl.hold

/-- Some compute die is at or above T_HI (R390). -/
def isHot (s : State) (die : Nat) : Bool := decide (4 * s.tgl.tHi ≤ s.tgl.dieTemp.getD die 0)
def narrowed (s : State) : Bool := (List.range 16).any (isHot s)

def fencedAny (s : State) : Bool := s.sup.nFenced || s.sup.sFenced

/-- The STATUS byte of R458. -/
def statusByte (s : State) : Nat :=
  ofBool (narrowed s) + 2 * ofBool s.tgl.brake + 4 * ofBool (s.sup.dstate == .faulted) + 8 * ofBool (fencedAny s)
    + 16 * ofBool (decide (s.sup.stage = 3) && !s.time.refOk) + 32 * ofBool s.power.lowTol

/-- SB_ALERT_N follows a bit of STATUS that changes from 0 to 1 (R459). -/
def refreshAlert (s : State) : State :=
  let b : BitVec 8 := BitVec.ofNat 8 (statusByte s)
  { s with power := { s.power with status := b, alert := s.power.alert || (b &&& ~~~s.power.status) != 0 } }

def qtbCfg (s : State) : Nat := s.regs.cqLog2 + ofBool (cqOpen s) <<< 5 + ofBool s.regs.cqIrqEn <<< 6

/-- What a companion read of a register returns (R26, R283, R332, R357, R395, R397, R413, R424, R437); `none` at an
offset the manual does not assign. The latching reads have rows of their own. -/
def regRead (s : State) (a : Nat) : Option Nat :=
  if a / 0x10000 = 0xF000000 then
    match a % 0x10000 with
    | 0x000 => some 0x001A2532
    | 0x004 => some (supStatus s)
    | 0x008 => some s.sup.term.toNat
    | 0x010 => some (s.regs.cqCmd.toNat % 2 ^ 32)
    | 0x014 => some (s.regs.cqCmd.toNat / 2 ^ 32)
    | 0x018 => some (s.regs.cqCpl.toNat % 2 ^ 32)
    | 0x01C => some (s.regs.cqCpl.toNat / 2 ^ 32)
    | 0x020 => some (qtbCfg s)
    | 0x040 => some (s.regs.emciaSet.toNat % 2 ^ 32)
    | 0x044 => some (s.regs.emciaSet.toNat / 2 ^ 32)
    | 0x050 => some (s.regs.irqAddr.toNat % 2 ^ 32)
    | 0x054 => some (s.regs.irqAddr.toNat / 2 ^ 32)
    | 0x058 => some (ofBool s.regs.irqEn + 2 * s.regs.evEn.toNat)
    | 0x060 => some (s.link.gen + s.link.lanes <<< 2 + ofBool s.link.up <<< 8 + s.link.downs <<< 16)
    | 0x100 => some s.regs.domCfg.toNat
    | 0x104 => some s.regs.domId.toNat
    | 0x108 => some (ofBool (s.dom.dstate == 1))
    | 0x10C => some (domStatus s)
    | 0x110 => some (s.dom.ports.toNat % 2 ^ 32)
    | 0x114 => some (s.dom.ports.toNat / 2 ^ 32)
    | 0x200 => some (supBoot s)
    | 0x204 => some s.sup.fwI1.toNat
    | 0x208 => some s.sup.fwRt.toNat
    | 0x20C => some s.sup.fwFloor.toNat
    | 0x210 => some (supFence s)
    | 0x218 => some s.sup.hbMiss.toNat
    | _ => none
  else if a / 0x10000 = 0xF000001 then
    match a % 0x10000 with
    | 0x000 => some 0
    | 0x010 => some (s.regs.qtbBase.toNat % 2 ^ 32)
    | 0x014 => some (s.regs.qtbBase.toNat / 2 ^ 32)
    | 0x020 => some s.regs.badDb.toNat
    | 0x024 => some s.regs.badQid.toNat
    | _ => none
  else if a / 0x10000 = 0xF000002 then
    let o := a % 0x10000
    if 0x100 ≤ o ∧ o < 0x164 ∧ o % 4 = 0 then
      let d := (o - 0x100) / 4
      some (s.tgl.diePower.getD d 0 + s.tgl.dieTemp.getD d 0 <<< 12 + s.tgl.dieTheta.getD d 128 <<< 24)
    else match o with
    | 0x000 => some (s.tgl.limit + s.tgl.lcPct <<< 12 + s.tgl.releaseUs <<< 19)
    | 0x004 => some (s.cores.lcBanks + s.tgl.brakeA <<< 7)
    | 0x008 => some (tglStatus s)
    | 0x00C => some s.tgl.pBase
    | 0x010 => some (s.tgl.powerW + s.tgl.lcUsed <<< 12 + s.tgl.ipeak <<< 19)
    | 0x014 => some s.tgl.brakes.toNat
    | 0x018 => some s.tgl.holds.toNat
    | 0x01C => some (s.power.vin.toNat + s.power.iin.toNat <<< 13)
    | 0x020 => some (s.tgl.tLo + s.tgl.tHi <<< 8 + 300 <<< 16)
    | _ => none
  else if a / 0x10000 = 0xF000003 then
    match a % 0x10000 with
    | 0x000 => some (s.time.now.toNat % 2 ^ 32)
    | 0x004 => some s.time.nowHi.toNat
    | 0x008 => some s.time.loadLo.toNat
    | 0x00C => some s.time.loadHi.toNat
    | 0x010 => some (ofBool s.time.loadReq + 2 * ofBool s.time.ppsEn + 4 * s.time.source.toNat)
    | 0x014 => some (tmbStatus s)
    | _ => none
  else if a / 0x10000 = 0xF000004 then
    match a % 0x10000 with
    | 0x000 => some s.regs.medSet.toNat
    | 0x004 => some ((s.media.groups.flatMap (·.pipes)).foldl (fun v i => v ||| 1 <<< i) 0)
    | _ => none
  else if a / 0x10000 = 0xF000005 then
    match a % 0x10000 with
    | 0x200 => some s.regs.errSet.toNat
    | 0x204 => some s.regs.offline.toNat
    | 0x208 => some s.regs.ksPend.toNat
    | 0x20C => some s.regs.bgPend.toNat
    | 0x210 => some s.regs.corr.toNat
    | 0x214 => some (s.regs.uncorr.toNat + s.regs.timeouts.toNat <<< 16)
    | 0x218 => some (s.regs.lastAddr.toNat % 2 ^ 32)
    | 0x21C => some s.regs.lastHi.toNat
    | 0x300 => some s.regs.colSet.toNat
    | 0x304 => some s.regs.slips.toNat
    | 0x308 => some s.regs.slipMax.toNat
    | 0x30C => some s.regs.slipTag.toNat
    | 0x310 => some (s.regs.abortPart.toNat + 512 * ofBool s.regs.abortValid)
    | _ => none
  else none

/-! ### Interrupt messages (R359 to R362) -/

/-- One interrupt message of 16 bytes to SUP_IRQ_ADDR + 16 * VEC, while the link is up. -/
def writeIrq (vec qid : Nat) (s : State) : State :=
  if spanWin s.regs.irqAddr.toNat 0x10000 then
    putComp (compAddr s (s.regs.irqAddr.toNat + 16 * vec)) (leBytes 8 (vec + qid <<< 16) ++ leBytes 8 s.time.now.toNat) s
  else logErr (.irqDropped vec) s

/-- A message is sent when EN = 1; while the link is down it is held, one per vector (R362). -/
def sendIrq (vec qid : Nat) (s : State) : State :=
  if s.regs.irqEn then
    if s.link.up then writeIrq vec qid s
    else if s.queues.irqHeld.any fun x => decide (x.1 = vec) then s
    else { s with queues := { s.queues with irqHeld := s.queues.irqHeld ++ [(vec, qid)] } }
  else s

/-- A device event of vector `v`, enabled by EV_EN (R357, R359). -/
def devIrq (v : Nat) (s : State) : State := if s.regs.evEn.getLsbD v then sendIrq v 0 s else s

/-- The device enters a state: vector 0 on a change, and STATUS follows (R352, R359, R458). -/
def setDState (d : DState) (s : State) : State :=
  if s.sup.dstate = d then s
  else refreshAlert (devIrq 0 { s with sup := { s.sup with dstate := d } })

/-! ### Memory events (R272 to R283) -/

def setBit {w : Nat} (v : BitVec w) (i : Nat) : BitVec w := v ||| BitVec.twoPow w i
def clrBit {w : Nat} (v : BitVec w) (i : Nat) : BitVec w := v &&& ~~~(BitVec.twoPow w i)

/-- Recovery scrubs that are pending and not running start (R278). -/
def startScrubs (s : State) : State :=
  let ks := (List.range 4).filter fun i => s.regs.ksPend.getLsbD i && !s.mem.scrubs.contains (true, i)
  let bg := (List.range 32).filter fun i => s.regs.bgPend.getLsbD i && !s.mem.scrubs.contains (false, i)
  if ks.isEmpty && bg.isEmpty then s
  else devIrq 1 { s with
    mem := { s.mem with scrubs := s.mem.scrubs ++ ks.map (fun i => (true, i)) ++ bg.map (fun i => (false, i)) }
    sup := { s.sup with recoveryDue := true, portHold := true } }

/-- READY and PARKED are crossing points (R352). -/
def atRest (s : State) : Bool := s.sup.dstate == .ready || s.sup.dstate == .parked

/-- A newly poisoned line marks a recovery scrub of its home or stack, unless the stack is offline (R273). -/
def markScrub (line : Nat) (s : State) : State :=
  let a := line * 64
  let s1 :=
    if inBorug a then
      if s.regs.offline.getLsbD (stackOf a) then s
      else { s with regs := { s.regs with bgPend := setBit s.regs.bgPend (stackOf a) } }
    else { s with regs := { s.regs with ksPend := setBit s.regs.ksPend (homeOf a) } }
  if atRest s1 then startScrubs s1 else s1

def noteLast (line kind : Nat) (s : State) : State :=
  { s with regs := { s.regs with lastAddr := BitVec.ofNat 48 (line * 64), lastKind := BitVec.ofNat 2 kind } }

/-- A line becomes poisoned (R273): mark, log, vector 1, recovery scrub. -/
def poisonLine (line : Nat) (s : State) : State :=
  if poisoned s line then s
  else devIrq 1 (logErr (.uncorrectable line) (markScrub line (s.setPoison (insNat line s.mem.poison))))

/-- An uncorrectable read of a line (R273, R283). -/
def noteUncorr (line : Nat) (s : State) : State :=
  let s1 := noteLast line 1 s
  poisonLine line { s1 with regs := { s1.regs with uncorr := BitVec.ofNat 16 (satAdd 16 1 s1.regs.uncorr.toNat) } }

/-- A corrected read (R272, R283). -/
def noteCorr (n : Nat) (s : State) : State := { s with regs := { s.regs with corr := sat32 s.regs.corr n } }

/-- A request to a stack that timed out (R280, R282): the stack retrains; an unacknowledged write waits to be poisoned. -/
def noteTimeout (line : Nat) (write : Bool) (s : State) : State :=
  let s1 := noteLast line 2 s
  { s1 with
    regs := { s1.regs with timeouts := BitVec.ofNat 16 (satAdd 16 1 s1.regs.timeouts.toNat) }
    mem := { s1.mem with
      retrain := insNat (stackOf (line * 64)) s1.mem.retrain
      lateWrites := if write then insNat line s1.mem.lateWrites else s1.mem.lateWrites } }

end Sys2Proof.Machine
end

