-- ==== Sys2Proof/Machine/Lines.lean ====
section
/-!
DEFINITION. Reads and writes of memory as a command makes them: failures line by line (R273, R280 to R282, R362),
copy-on-write into a Cocoon (R375, R381), and the execution of a command's work unit by unit (R281).
-/
namespace Sys2Proof.Machine

/-- Whether a list of line addresses holds a line. -/
def hasLine (l : List Nat) (line : Nat) : Bool := l.any fun a => decide (a / 64 = line)

/-- What a read of a line in this step finds in its codeword (R272). -/
def lineRes (e : Circ) (line : Nat) : ReadRes :=
  match e.errs.find? fun x => decide (x.1 = line) with
  | none => .clean
  | some x => readRes x.2

def lineBad (e : Circ) (line : Nat) : Bool := lineRes e line == .uncorrectable

/-- The read is corrected, rightly or wrongly, and the line is written back. -/
def lineFixed (e : Circ) (line : Nat) : Bool :=
  match lineRes e line with
  | .corrected => true
  | .miscorrected _ => true
  | _ => false

def offlineAt (s : State) (a : Nat) : Bool := inBorug a && s.regs.offline.getLsbD (stackOf a)

/-- The status with which a read of the line at `a` fails for a task, 0 when it succeeds. -/
def lineFault (s : State) (o : Owner) (e : Circ) (a : Nat) : Nat :=
  if inWin a then (if s.link.up then 0 else stLink)
  else
    let b := viewAddr s o a
    if hasLine e.gone (b / 64) then stTimeout
    else if offlineAt s b || poisoned s (b / 64) || lineBad e (b / 64) then stUncorr
    else if inBorug b && hasLine e.late (b / 64) then stTimeout
    else 0

/-- The first failing line of a span: status and place (WHERE of R270). -/
def readFault (s : State) (o : Owner) (e : Circ) (a n : Nat) : Option (Nat × Nat) :=
  (linesOf a n).findSome? fun l =>
    let st := lineFault s o e (l * 64)
    if st = 0 then none else some (st, whereOf (viewAddr s o (l * 64)))

/-- What the reads of one line leave behind: counters, poison, retraining. -/
def noteRead (o : Owner) (e : Circ) (s : State) (a : Nat) : State :=
  if inWin a then s
  else
    let b := viewAddr s o a
    let l := b / 64
    if offlineAt s b || hasLine e.gone l then s
    else if poisoned s l || lineBad e l then noteUncorr l s
    else if inBorug b && hasLine e.late l then noteTimeout l false s
    else if lineFixed e l then noteCorr 1 s
    else s

def noteReads (o : Owner) (e : Circ) (spans : List (Nat × Nat)) (s : State) : State :=
  if e.errs.isEmpty && e.late.isEmpty && s.mem.poison.isEmpty then s
  else (spans.flatMap fun x => linesOf x.1 x.2).foldl (fun t l => noteRead o e t (l * 64)) s

/-- Bytes of a line that a miscorrected read leaves wrong, in its storage too, since the line is written back (R272). -/
def spoil (line : Nat) (r : ErrPat) (s : State) : State :=
  r.foldl (fun t x => if x.1 < 64 then
    putRaw (line * 64 + x.1) [memGet 0 t.mem.dev (line * 64 + x.1) ^^^ x.2] t else t) s

/-- The miscorrected lines of a step, before its reads are used. -/
def miscorrect (e : Circ) (s : State) : State :=
  e.errs.foldl (fun t x =>
    match lineRes e x.1 with
    | .miscorrected r => if spanMem (x.1 * 64) 64 && !poisoned t x.1 && !offlineAt t (x.1 * 64) then spoil x.1 r t else t
    | _ => t) s

/-- A request to a stack that retrains waits, unless it times out meanwhile or has done so (R132, R282). -/
def mustWait (s : State) (o : Owner) (e : Circ) (spans : List (Nat × Nat)) : Bool :=
  !s.mem.retrain.isEmpty && spans.any fun x => (linesOf x.1 x.2).any fun l =>
    let b := viewAddr s o (l * 64)
    inBorug b && s.mem.retrain.contains (stackOf b) && !offlineAt s b && !hasLine e.late (b / 64) && !hasLine e.gone (b / 64)

/-! ### Rows that have arrived (R131 to R133) -/

/-- The state, and the circumstances, in which the Borug lines of an arrived row were read: what became of their stacks since does
not touch them. -/
def servedState (s : State) : State :=
  { s with regs := { s.regs with offline := 0 }, mem := { s.mem with poison := s.mem.poison.filter fun l => !inBorug (l * 64) } }
def servedCirc (e : Circ) : Circ := { e with late := [], gone := [] }

/-- What the reads of an arrived row leave behind: the codewords found in its lines, and its reads of the Keystone. -/
def noteServed (o : Owner) (e : Circ) (s : State) (a : Nat) : State :=
  if inWin a then s
  else
    let l := viewAddr s o a / 64
    if lineBad e l || (!inBorug (l * 64) && poisoned s l) then noteUncorr l s
    else if lineFixed e l then noteCorr 1 s
    else s

/-- What the reads of rows that had arrived leave behind. -/
def noteArrived (o : Owner) (e : Circ) (spans : List (Nat × Nat)) (s : State) : State :=
  (spans.flatMap fun x => linesOf x.1 x.2).foldl (fun t l => noteServed o e t (l * 64)) s

/-- The pieces of a command by rows, those marked whose rows have arrived; a line of such a row that was uncorrectable fails it. -/
def markArrived (c : CmdRef) (s : State) (ps : List Piece) : List Piece :=
  if s.mem.gathered.isEmpty then ps
  else ps.zipIdx.map fun (p, i) =>
    if s.mem.gathered.contains (c, i) && s.mem.timedOut.all (fun x => decide (x.1 ≠ c) || decide (x.2.1 ≠ i)) then
      { p with
        arrived := true
        fault := p.fault <|> (s.mem.rowBad.find? fun x => decide (x.1 = c) && decide (x.2.1 = i)).map fun x =>
          (stUncorr, whereOf (x.2.2 * 64)) }
    else p

/-! ### Copy-on-write (R375) -/

def putCocoon (k : Cocoon) (s : State) : State :=
  { s with cocoons := s.cocoons.map fun x => if x.num = k.num then k else x }

/-- One line of a granule is copied with its poison mark; a line found uncorrectable, as every line of an offline stack is
(R282), is poisoned in both (R375); a corrected one counts (R283). -/
def copyLine (e : Circ) (src dst : Nat) (s : State) : State :=
  let s1 := if poisoned s src then s
    else if lineBad e src || offlineAt s (src * 64) then noteUncorr src s
    else if lineFixed e src then noteCorr 1 s else s
  let s2 := putRaw (dst * 64) (memRead 0 s1.mem.dev (src * 64) 64) s1
  s2.setPoison (if poisoned s2 src then insNat dst s2.mem.poison else delNat dst s2.mem.poison)

def copyGranule (e : Circ) (src dst : Nat) (s : State) : State :=
  (List.range 64).foldl (fun t i => copyLine e (src * 64 + i) (dst * 64 + i) t) s

/-- The next free granule of a Cocoon's pool for an original granule (R375, R381). -/
def Cocoon.nextFree (k : Cocoon) (g : Nat) : Option Nat :=
  let ks := inKs (g * 4096)
  let used := (k.granules.filter fun x => decide (inKs (x.orig * 4096) = ks)).length
  if ks then (if used < k.ksN then some (k.ks / 4096 + used) else none)
  else (if used < k.bgN then some (k.bg / 4096 + used) else none)

/-- The state in which the task's granule of `a` is shadowed; `none` when the pool has no granule left. -/
def shadow (o : Owner) (e : Circ) (a : Nat) (s : State) : Option State :=
  match cocoonOf s o with
  | none => some s
  | some k => match k.granule (a / 4096) with
    | some _ => some s
    | none => match k.nextFree (a / 4096) with
      | none => none
      | some c =>
        some (putCocoon { k with granules := k.granules ++ [⟨a / 4096, c, 0⟩] } (copyGranule e (a / 4096) c s))

/-- The granules of a span. -/
def granulesOf (w : Nat × Nat) : List Nat :=
  if w.2 = 0 then [] else (List.range ((w.1 + w.2 - 1) / 4096 - w.1 / 4096 + 1)).map (w.1 / 4096 + ·)

/-- What the copies into a Cocoon that writes of these spans need read and write: originals and pool granules (R375, R381). -/
def cowSpans (s : State) (o : Owner) (ws : List (Nat × Nat)) : List (Nat × Nat) :=
  match cocoonOf s o with
  | none => []
  | some k =>
    let gs := (((ws.filter fun w => !inWin w.1).flatMap granulesOf).filter fun g => (k.granule g).isNone).dedup
    (gs.foldl (fun (z : Cocoon × List (Nat × Nat)) g => match z.1.nextFree g with
      | none => z
      | some c => ({ z.1 with granules := z.1.granules ++ [⟨g, c, 0⟩] }, z.2 ++ [(g * 4096, 4096), (c * 4096, 4096)])) (k, [])).2

/-- The line of `a` is marked as written by the task (R375). -/
def markLine (o : Owner) (a : Nat) (s : State) : State :=
  match cocoonOf s o with
  | none => s
  | some k => putCocoon { k with granules := k.granules.map fun g =>
      if g.orig = a / 4096 then { g with marks := setBit g.marks (a % 4096 / 64) } else g } s

/-! ### Writes -/

/-- A write within one line; a part of a line is read first, which counts when it is corrected. The second component is its status,
0 when it took place (R273, R280 to R283, R362, R381). -/
def putLine (o : Owner) (e : Circ) (a : Nat) (bs : List Byte) (s : State) : State × Nat :=
  if inWin a then (if s.link.up then (putComp (compAddr s a) bs s, 0) else (s, stLink))
  else match shadow o e a s with
    | none => (s, stBufOverflow)
    | some s1 =>
      let b := viewAddr s1 o a
      let l := b / 64
      if offlineAt s1 b then (s1, stUncorr)
      else if inBorug b && hasLine e.late l then (noteTimeout l true s1, stTimeout)
      else if bs.length < 64 && (poisoned s1 l || lineBad e l) then (noteUncorr l s1, stUncorr)
      else
        let s2 := if bs.length < 64 && lineFixed e l then noteCorr 1 s1 else s1
        (markLine o a ((putRaw b bs s2).setPoison (delNat l s2.mem.poison)), 0)

/-- The pieces of a span that lie in one line each. -/
def linePieces (a : Nat) : Nat → List Byte → List (Nat × List Byte)
  | 0, _ => []
  | n + 1, bs =>
    let k := 64 - a % 64
    if bs.length ≤ k then (if bs.isEmpty then [] else [(a, bs)])
    else (a, bs.take k) :: linePieces (a + k) n (bs.drop k)

def pieces (a : Nat) (bs : List Byte) : List (Nat × List Byte) := linePieces a (bs.length / 64 + 2) bs

/-- A write of a span, line by line in ascending order, stopping at the first line that fails: status and place. -/
def putSpan (o : Owner) (e : Circ) : List (Nat × List Byte) → State → State × Option (Nat × Nat)
  | [], s => (s, none)
  | (a, bs) :: r, s =>
    match putLine o e a bs s with
    | (s1, 0) => putSpan o e r s1
    | (s1, st) => (s1, some (st, whereOf (viewAddr s1 o a)))

def putDev (o : Owner) (e : Circ) (a : Nat) (bs : List Byte) (s : State) : State × Option (Nat × Nat) :=
  putSpan o e (pieces a bs) s

/-! ### Work, unit by unit -/

/-- How a piece fails before it writes: its own fault, a failed read, or operand-buffer parity (R92, R132). -/
def Piece.faultOf (s : State) (o : Owner) (e : Circ) (p : Piece) : Option (Nat × Nat) :=
  p.fault <|> (p.reads.findSome? fun x => if p.arrived then readFault (servedState s) o (servedCirc e) x.1 x.2
    else readFault s o e x.1 x.2) <|>
    (if p.obReads.any fun x => e.parity.any fun off => decide (x.1 ≤ off) && decide (off < x.1 + x.2)
      then some (stUncorr, 0x60) else none)

/-- Index, status and place of the first piece that fails before it writes. -/
def firstFault (s : State) (o : Owner) (e : Circ) (ps : List Piece) : Option (Nat × Nat × Nat) :=
  ps.zipIdx.findSome? fun (p, i) => (p.faultOf s o e).map fun f => (i, f)

def putWr (o : Owner) (e : Circ) (core : Nat) (w : Wr) (s : State) : State × Option (Nat × Nat) :=
  match w.d with
  | .ob off => (putOb core off w.bytes s, none)
  | .dev a => putDev o e a w.bytes s

def putWrs (o : Owner) (e : Circ) (core : Nat) : List Wr → State → State × Option (Nat × Nat)
  | [], s => (s, none)
  | w :: r, s =>
    match putWr o e core w s with
    | (s1, none) => putWrs o e core r s1
    | (s1, some f) => (s1, some f)

/-- The writes of the pieces below `stop`, in order; a failed write ends them. -/
def putPieces (o : Owner) (e : Circ) (core stop : Nat) : List (Piece × Nat) → State → State × Option (Nat × Nat × Nat)
  | [], s => (s, none)
  | (p, i) :: r, s =>
    if stop ≤ i then (s, none)
    else match putWrs o e core (p.writes.filter fun w => !(w.next && decide (stop ≤ i + 1))) s with
      | (s1, none) => putPieces o e core stop r s1
      | (s1, some f) => (s1, some (i, f))

/-- Old or new bits, line by line, at and above the failing unit of a move (R281): the choice is free. -/
def scatterWr (o : Owner) (e : Circ) (core n : Nat) (w : Wr) (s : State) : State :=
  match w.d with
  | .ob off => (pieces (obKey core off) w.bytes).foldl (fun t x =>
      if Config.newBits n (x.1 / 64) then t.setOb (memWrite 0 t.mem.ob x.1 x.2) else t) s
  | .dev a => (pieces a w.bytes).foldl (fun t x =>
      if Config.newBits n (x.1 / 64) then (putLine o e x.1 x.2 t).1 else t) s

def scatter (o : Owner) (e : Circ) (core : Nat) (ws : List Wr) (s : State) : State :=
  let s1 := (ws.filter fun w => !w.firm).foldl (fun t w => scatterWr o e core s.freeCtr w t) s
  { s1 with freeCtr := s1.freeCtr + 1 }

/-- What the reads of pieces leave behind, those of arrived rows as they were then. -/
def notePieces (o : Owner) (e : Circ) (ps : List Piece) (s : State) : State :=
  noteArrived o e ((ps.filter (·.arrived)).flatMap (·.reads)) (noteReads o e ((ps.filter fun p => !p.arrived).flatMap (·.reads)) s)

/-- Work that writes its pieces in order and ends at the first failure: the state and the failure. With `mixed`, lines at
and above the failing unit hold old or new bits (moves, R281); otherwise they keep theirs. -/
def runPieces (mixed : Bool) (o : Owner) (e : Circ) (core : Nat) (ps : List Piece) (s : State) :
    State × Option (Nat × Nat × Nat) :=
  let rf := firstFault s o e ps
  let stop := (rf.map (·.1)).getD ps.length
  match putPieces o e core stop ps.zipIdx (notePieces o e (if mixed then ps else ps.take (stop + 1)) s) with
  | (s1, wf) =>
    match wf <|> rf with
    | none => (s1, none)
    | some f => (if mixed then scatter o e core (((ps.drop (f.1 - 1)).take 1).flatMap (fun p => p.writes.filter (·.next))
        ++ (ps.drop f.1).flatMap (·.writes)) s1 else s1, some f)

end Sys2Proof.Machine
end

