-- ==== Sys2Proof/Machine/Num.lean ====
section
/-!
DEFINITION. Number formats and the arithmetic contract (spec/02_numerics.md): exact values, rounding (R51), the format
codes (R40 to R46), the dot product (R49 to R57), pass modes (R54, R55) and output conversion (R58 to R61).
-/
namespace Sys2Proof.Machine

/-- An exact value of the arithmetic: NaN, an infinity of a sign, or `m * 2 ^ e` (R41, R52). It carries no signed zero,
because an exact zero result of arithmetic is +0 (R51). -/
inductive Ext where
  | nan
  | inf (neg : Bool)
  | fin (m : Int) (e : Int)
deriving DecidableEq, Repr

def Ext.zero : Ext := .fin 0 0
def Ext.ofInt (n : Int) : Ext := .fin n 0

/-- Exact addition; opposite infinities give NaN (R52). -/
def Ext.add : Ext → Ext → Ext
  | .nan, _ => .nan
  | _, .nan => .nan
  | .inf a, .inf b => if a = b then .inf a else .nan
  | .inf a, .fin _ _ => .inf a
  | .fin _ _, .inf b => .inf b
  | .fin m e, .fin n f =>
    if e ≤ f then .fin (m + n * (2 ^ (f - e).toNat : Nat)) e else .fin (m * (2 ^ (e - f).toNat : Nat) + n) f

/-- Exact multiplication; 0 times an infinity is NaN (R52). -/
def Ext.mul : Ext → Ext → Ext
  | .nan, _ => .nan
  | _, .nan => .nan
  | .inf a, .inf b => .inf (a != b)
  | .inf a, .fin n _ => if n = 0 then .nan else .inf (a != decide (n < 0))
  | .fin m _, .inf b => if m = 0 then .nan else .inf (b != decide (m < 0))
  | .fin m e, .fin n f => .fin (m * n) (e + f)

def Ext.neg : Ext → Ext
  | .nan => .nan
  | .inf a => .inf (!a)
  | .fin m e => .fin (-m) e

def Ext.sub (a b : Ext) : Ext := a.add b.neg

/-- `a < b` of two values neither of which is NaN; false when one is. -/
def Ext.lt : Ext → Ext → Bool
  | .nan, _ => false
  | _, .nan => false
  | .inf a, .inf b => a && !b
  | .inf a, .fin _ _ => a
  | .fin _ _, .inf b => !b
  | .fin m e, .fin n f =>
    if e ≤ f then decide (m < n * (2 ^ (f - e).toNat : Nat)) else decide (m * (2 ^ (e - f).toNat : Nat) < n)

def Ext.isNan : Ext → Bool
  | .nan => true
  | _ => false

def Ext.isFin : Ext → Bool
  | .fin _ _ => true
  | _ => false

def Ext.isZero : Ext → Bool
  | .fin m _ => m == 0
  | _ => false

/-- The exact sum of a list (R49 step 2, R118 step 2). -/
def Ext.sum (l : List Ext) : Ext := l.foldl Ext.add .zero

/-- `m` shifted right by `k` places to nearest with ties to even; a negative `k` shifts left. -/
def rneShift (m : Nat) (k : Int) : Nat :=
  if k ≤ 0 then m <<< (-k).toNat
  else
    let k := k.toNat
    let h := m >>> k
    let r := m - h <<< k
    if 2 ^ k < 2 * r ∨ (2 * r = 2 ^ k ∧ h % 2 = 1) then h + 1 else h

/-- The magnitude code of `m * 2 ^ e` in a format of `f` fraction bits whose smallest step is `2 ^ qmin`, rounded to
nearest even (R51); codes run on past the format's largest. -/
def magCode (f : Nat) (qmin : Int) (m : Nat) (e : Int) : Nat :=
  if m = 0 then 0
  else
    let q := max (e + (Nat.log2 m : Int) - f) qmin
    (q - qmin).toNat * 2 ^ f + rneShift m (q - e)

/-- The quotient `num / den` as a dyadic number with a sticky last bit, of at least `bits` significant bits. -/
def quotSticky (bits : Nat) (num den : Nat) : Nat × Int :=
  if num = 0 ∨ den = 0 then (0, 0)
  else
    let k := Nat.log2 den + bits + 2 - Nat.log2 num
    let n := num <<< k
    let q := n / den
    (2 * q + (if n % den = 0 then 0 else 1), -(k : Int) - 1)

/-- An IEEE-style wide format: exponent bits and fraction bits (R41). -/
structure WideFmt where
  ebits : Nat
  fbits : Nat
deriving DecidableEq, Repr

def WideFmt.bias (w : WideFmt) : Int := 2 ^ (w.ebits - 1) - 1
def WideFmt.qmin (w : WideFmt) : Int := 1 - w.bias - w.fbits
def WideFmt.infCode (w : WideFmt) : Nat := (2 ^ w.ebits - 1) * 2 ^ w.fbits
/-- The canonical quiet NaN (R42). -/
def WideFmt.nanCode (w : WideFmt) : Nat := w.infCode + 2 ^ (w.fbits - 1)
def WideFmt.signBit (w : WideFmt) : Nat := 2 ^ (w.ebits + w.fbits)

def wide32 : WideFmt := ⟨8, 23⟩
def wideBf : WideFmt := ⟨8, 7⟩
def wide16 : WideFmt := ⟨5, 10⟩

def signed (neg : Bool) (sb code : Nat) : Nat := if neg then sb + code else code

/-- Rounding of an exact value to a wide format (R51): overflow to an infinity, exact zero to +0. -/
def WideFmt.encode (w : WideFmt) : Ext → Nat
  | .nan => w.nanCode
  | .inf n => signed n w.signBit w.infCode
  | .fin m e =>
    if m = 0 then 0
    else signed (m < 0) w.signBit (min w.infCode (magCode w.fbits w.qmin m.natAbs e))

/-- The exact value of a wide encoding (R41). -/
def WideFmt.decode (w : WideFmt) (c : Nat) : Ext :=
  let neg := c / w.signBit % 2 = 1
  let ex := c / 2 ^ w.fbits % 2 ^ w.ebits
  let fr := c % 2 ^ w.fbits
  if ex = 2 ^ w.ebits - 1 then (if fr = 0 then .inf neg else .nan)
  else
    let m : Int := if ex = 0 then fr else fr + 2 ^ w.fbits
    .fin (if neg then -m else m) (if ex = 0 then w.qmin else w.qmin + ex - 1)

/-- Conversion of one wide encoding to another (R59): a NaN is canonical, a zero keeps its sign. -/
def WideFmt.convert (a b : WideFmt) (c : Nat) : Nat :=
  match a.decode c with
  | .fin 0 _ => if c / a.signBit % 2 = 1 then b.signBit else 0
  | .fin m e => signed (m < 0) b.signBit (min b.infCode (magCode b.fbits b.qmin m.natAbs e))
  | x => b.encode x

/-- The FP32 rounding `rne32` (R51). -/
def rne32 (x : Ext) : Word := BitVec.ofNat 32 (wide32.encode x)

/-- `rne32` of the quotient of two exact values (R252, R147); a zero divisor is the caller's case. -/
def rne32Div (a b : Ext) : Word :=
  match a, b with
  | .nan, _ => rne32 .nan
  | _, .nan => rne32 .nan
  | .inf _, .inf _ => rne32 .nan
  | .inf s, .fin n _ => rne32 (.inf (s != decide (n < 0)))
  | .fin _ _, .inf _ => 0
  | .fin m e, .fin n f =>
    let (q, k) := quotSticky 30 m.natAbs n.natAbs
    rne32 (.fin (if (m < 0) = (n < 0) then q else -q) (k + e - f))

/-- The exact value of an FP32 encoding. -/
def val32 (w : Word) : Ext := wide32.decode w.toNat

def nan32 : Word := 0x7FC00000#32
def one32 : Word := 0x3F800000#32

def fadd (a b : Word) : Word := rne32 ((val32 a).add (val32 b))
def fsub (a b : Word) : Word := rne32 ((val32 a).sub (val32 b))
def fmul (a b : Word) : Word := rne32 ((val32 a).mul (val32 b))

def isNan32 (a : Word) : Bool := (val32 a).isNan
def flt (a b : Word) : Bool := (val32 a).lt (val32 b)
/-- Above +0, by value: both zeros fail (R8). -/
def isPos32 (a : Word) : Bool := Ext.zero.lt (val32 a)
/-- Negative by value: -0 is not negative (R8). -/
def isNeg32 (a : Word) : Bool := (val32 a).lt .zero
def isFin32 (a : Word) : Bool := (val32 a).isFin
def isZero32 (a : Word) : Bool := (val32 a).isZero
def signOf (a : Word) : Bool := a.msb
def negate (a : Word) : Word := a ^^^ 0x80000000#32
def absW (a : Word) : Word := a &&& 0x7FFFFFFF#32

/-- MAX of R150: NaN if either is NaN, max(-0, +0) = +0. -/
def fmax (a b : Word) : Word :=
  if isNan32 a || isNan32 b then nan32
  else if flt a b then b
  else if flt b a then a
  else if signOf a then b else a

/-- MIN of R150: NaN if either is NaN, min(-0, +0) = -0. -/
def fmin (a b : Word) : Word :=
  if isNan32 a || isNan32 b then nan32
  else if flt b a then b
  else if flt a b then a
  else if signOf a then a else b

/-- The clamp of R58 step 3: NaN stays NaN (canonical), a zero within the bounds keeps its sign. -/
def fclamp (lo hi t : Word) : Word :=
  if isNan32 t then nan32 else if flt t lo then lo else if flt hi t then hi else t

/-- Clamp bounds that R48 refuses. -/
def badClip (lo hi : Word) : Bool := isNan32 lo || isNan32 hi || flt hi lo

/-! ### Format codes (R40) and element encodings (R43) -/

inductive Elem where
  | e4m3 | e5m2 | e3m2 | e2m3 | e2m1 | int8
deriving DecidableEq, Repr

inductive Fmt where
  | fp32 | bf16 | fp16
  | mx (e : Elem)
  | tb (e : Elem)
deriving DecidableEq, Repr

/-- The format code table of R40; `none` for a reserved code. -/
def Fmt.ofCode : Nat → Option Fmt
  | 0 => some .fp32
  | 1 => some .bf16
  | 2 => some .fp16
  | 3 => some (.mx .e4m3)
  | 4 => some (.mx .e5m2)
  | 5 => some (.mx .e3m2)
  | 6 => some (.mx .e2m3)
  | 7 => some (.mx .e2m1)
  | 8 => some (.mx .int8)
  | 11 => some (.tb .e4m3)
  | 12 => some (.tb .e5m2)
  | 13 => some (.tb .e2m1)
  | _ => none

/-- Exponent bits, fraction bits, bias and largest magnitude code of an element (R43); MXINT8 apart. -/
def Elem.ebits : Elem → Nat
  | .e4m3 => 4 | .e5m2 => 5 | .e3m2 => 3 | .e2m3 => 2 | .e2m1 => 2 | .int8 => 0
def Elem.fbits : Elem → Nat
  | .e4m3 => 3 | .e5m2 => 2 | .e3m2 => 2 | .e2m3 => 3 | .e2m1 => 1 | .int8 => 7
def Elem.bias : Elem → Int
  | .e4m3 => 7 | .e5m2 => 15 | .e3m2 => 3 | .e2m3 => 1 | .e2m1 => 1 | .int8 => 0
def Elem.maxCode : Elem → Nat
  | .e4m3 => 0x7E | .e5m2 => 0x7B | .e3m2 => 0x1F | .e2m3 => 0x1F | .e2m1 => 7 | .int8 => 127
/-- emax_elem of R43. -/
def Elem.emax : Elem → Int
  | .e4m3 => 8 | .e5m2 => 15 | .e3m2 => 4 | .e2m3 => 2 | .e2m1 => 2 | .int8 => 0
def Elem.width : Elem → Nat
  | .e4m3 => 8 | .e5m2 => 8 | .e3m2 => 6 | .e2m3 => 6 | .e2m1 => 4 | .int8 => 8
def Elem.qmin (k : Elem) : Int := 1 - k.bias - k.fbits

/-- Element bits w of R259. -/
def Fmt.width : Fmt → Nat
  | .fp32 => 32 | .bf16 => 16 | .fp16 => 16 | .mx e => e.width | .tb e => e.width
/-- Block length, 0 for a wide format. -/
def Fmt.bs : Fmt → Nat
  | .mx _ => 32 | .tb _ => 16 | _ => 0
def Fmt.isWide : Fmt → Bool
  | .mx _ => false | .tb _ => false | _ => true
def Fmt.isTb : Fmt → Bool
  | .tb _ => true | _ => false
def Fmt.isMx : Fmt → Bool
  | .mx _ => true | _ => false
/-- Positions P of a full tile (R259). -/
def Fmt.tileP : Fmt → Nat
  | .fp32 => 64 | .bf16 => 128 | .fp16 => 128 | .mx _ => 256 | .tb _ => 128
/-- Scale bytes that go with `n` elements, and 0 in a wide format. -/
def Fmt.scales (f : Fmt) (n : Nat) : Nat := if f.bs = 0 then 0 else n / f.bs
/-- Whether `n` elements make whole blocks. -/
def Fmt.whole (f : Fmt) (n : Nat) : Bool := f.bs == 0 || n % f.bs == 0
def Fmt.wideFmt : Fmt → WideFmt
  | .bf16 => wideBf | .fp16 => wide16 | _ => wide32

/-- The decoded value of an element (R43, R46). -/
def Elem.decode (k : Elem) (c : Nat) : Ext :=
  match k with
  | .int8 => .fin (if c % 256 < 128 then (c % 256 : Nat) else (c % 256 : Nat) - 256) (-6)
  | _ =>
    let neg := c / 2 ^ (k.ebits + k.fbits) % 2 = 1
    let ex := c / 2 ^ k.fbits % 2 ^ k.ebits
    let fr := c % 2 ^ k.fbits
    if (k = .e4m3 ∧ ex = 15 ∧ fr = 7) ∨ (k = .e5m2 ∧ ex = 31) then .nan
    else
      let m : Int := if ex = 0 then fr else fr + 2 ^ k.fbits
      .fin (if neg then -m else m) (if ex = 0 then k.qmin else k.qmin + ex - 1)

/-- The value of an element of a format under its block scale byte (R44); wide formats ignore the scale. -/
def Fmt.value (f : Fmt) (c scale : Nat) : Ext :=
  match f with
  | .mx k => if scale = 255 then .nan else (k.decode c).mul (.fin 1 ((scale : Int) - 127))
  | .tb k => if scale = 255 then .nan else (k.decode c).mul (.fin 1 ((scale : Int) - 127))
  | _ => f.wideFmt.decode c

/-- Load conversion to FP32 (R127): a NaN is canonical, a wide zero keeps its sign. -/
def Fmt.load (f : Fmt) (c scale : Nat) : Word :=
  let neg (k : Elem) : Bool := match k with
    | .int8 => false
    | _ => c / 2 ^ (k.ebits + k.fbits) % 2 = 1
  let blk (k : Elem) : Word := match f.value c scale with
    | .fin 0 _ => if neg k then 0x80000000#32 else 0
    | x => rne32 x
  match f with
  | .mx k => blk k
  | .tb k => blk k
  | _ => BitVec.ofNat 32 (f.wideFmt.convert wide32 c)

/-- One element of a block-format output under scale exponent `E` (R60 steps 4 and 5). -/
def Elem.encode (k : Elem) (E : Int) (w : Word) : Nat :=
  match val32 w with
  | .fin m e =>
    match k with
    | .int8 =>
      let n := min 127 (rneShift m.natAbs (-6 + E - e))
      if m < 0 then (256 - n) % 256 else n
    | _ => signed (signOf w) (2 ^ (k.ebits + k.fbits)) (min k.maxCode (magCode k.fbits k.qmin m.natAbs (e - E)))
  | _ => 0

/-- Floor of log2 of the largest magnitude of a list of finite values; `none` when all are zero. -/
def topExp (l : List Word) : Option Int :=
  l.foldl (fun a w => match val32 w with
    | .fin m e => if m = 0 then a else
        let t := e + (Nat.log2 m.natAbs : Int)
        match a with
        | none => some t
        | some u => some (max t u)
    | _ => a) none

/-- The scale exponent E of R60 step 3. -/
def blockExp (k : Elem) (top : Int) : Int := max (-127) (min 127 (top - k.emax))

/-- Conversion of one output block (R60, R61) with the element rounding `enc`: the scale byte and the elements. -/
def blockWith (k : Elem) (enc : Nat → Int → Word → Nat) (l : List Word) : Nat × List Nat :=
  if l.all isFin32 then
    match topExp l with
    | none => (0, l.map fun w => if k ≠ .int8 ∧ signOf w then 2 ^ (k.ebits + k.fbits) else 0)
    | some t =>
      let E := blockExp k t
      ((E + 127).toNat, l.zipIdx.map fun (w, i) => enc i E w)
  else (255, l.map fun _ => 0)

def block (k : Elem) (l : List Word) : Nat × List Nat := blockWith k (fun _ => k.encode) l

/-- The magnitude code of `m * 2 ^ e` under the stochastic rounding of R243 with the 16-bit field `r`. -/
def magCodeSr (f : Nat) (qmin : Int) (r m : Nat) (e : Int) : Nat :=
  if m = 0 then 0
  else
    let q := max (e + (Nat.log2 m : Int) - f) qmin
    let base := (q - qmin).toNat * 2 ^ f
    if q ≤ e then base + m <<< (e - q).toNat
    else
      let sh := (q - e).toNat
      let h := m >>> sh
      base + h + (if (2 ^ 16 - r) <<< sh ≤ (m - h <<< sh) * 2 ^ 16 then 1 else 0)

/-- One element of a block-format output under scale exponent `E`, rounded stochastically by field `r` (R60, R243). -/
def Elem.encodeSr (k : Elem) (r : Nat) (E : Int) (w : Word) : Nat :=
  match val32 w with
  | .fin m e =>
    match k with
    | .int8 =>
      let n := min 127 (magCodeSr 200 (-6) r m.natAbs (e - E))
      if m < 0 then (256 - n) % 256 else n
    | _ => signed (signOf w) (2 ^ (k.ebits + k.fbits)) (min k.maxCode (magCodeSr k.fbits k.qmin r m.natAbs (e - E)))
  | _ => 0

/-- Conversion of one value to a wide format (R59). -/
def Fmt.storeWide (f : Fmt) (w : Word) : Nat := wide32.convert f.wideFmt w.toNat

/-- `RNDBF` and the stage rounding of R162: rounded to the wide format and widened exactly. -/
def roundTo (f : Fmt) (w : Word) : Word := BitVec.ofNat 32 (f.wideFmt.convert wide32 (f.storeWide w))

def chunks {α : Type} (n : Nat) (l : List α) : List (List α) :=
  (List.range ((l.length + n - 1) / n)).map fun i => (l.drop (i * n)).take n

/-- A line of values converted to a format along the line: scale bytes and element codes (R59 to R61). -/
def Fmt.storeLine (f : Fmt) (l : List Word) : List Nat × List Nat :=
  match f with
  | .mx k => let b := (chunks 32 l).map (block k); (b.map (·.1), (b.map (·.2)).flatten)
  | .tb k => let b := (chunks 16 l).map (block k); (b.map (·.1), (b.map (·.2)).flatten)
  | _ => ([], l.map f.storeWide)

/-! ### The dot product (R49 to R57) -/

/-- One block of R49: the exact block sum added with one rounding. -/
def blockStep (a b : Nat → Ext) (bs : Nat) (acc : Word) (k : Nat) : Word :=
  rne32 ((val32 acc).add (Ext.sum ((List.range bs).map fun i => (a (k + i)).mul (b (k + i)))))

def blockGrain (a b : Nat → Ext) (bs k0 k1 : Nat) : Word :=
  (List.range ((k1 - k0) / bs)).foldl (fun acc j => blockStep a b bs acc (k0 + j * bs)) 0

/-- Truncation toward zero to a multiple of `2 ^ q` (R50 step 3). -/
def truncTo (q : Int) : Ext → Ext
  | .fin m e => if q ≤ e then .fin m e else
      let n := m.natAbs >>> (q - e).toNat
      .fin (if m < 0 then -n else n) q
  | x => x

/-- The group value of four products (R50 steps 2 to 4, R52). -/
def bfGroup (p : List Ext) : Ext :=
  if p.all Ext.isFin then
    let tops := p.filterMap fun x => match x with
      | .fin m e => if m = 0 then none else some (e + (Nat.log2 m.natAbs : Int))
      | _ => none
    match tops with
    | [] => .zero
    | t :: ts => Ext.sum (p.map (truncTo (ts.foldl max t - 50)))
  else Ext.sum p

def bfGrain (a b : Nat → Ext) (k0 k1 : Nat) (acc : Word) : Word :=
  (List.range ((k1 - k0) / 4)).foldl (fun acc j =>
    rne32 ((val32 acc).add (bfGroup ((List.range 4).map fun i => (a (k0 + 4 * j + i)).mul (b (k0 + 4 * j + i)))))) acc

/-- The high part of R54: the top 16 bits of the FP32 encoding. -/
def hiPart (x : Ext) : Ext :=
  match x with
  | .fin _ _ => wide32.decode (wide32.encode x / 2 ^ 16 * 2 ^ 16)
  | y => y

/-- The low part of R54: the remainder rounded to BF16, +0 for a non-finite operand. -/
def loPart (x : Ext) : Ext :=
  match x with
  | .fin _ _ => wideBf.decode (wideBf.encode (x.sub (hiPart x)))
  | _ => .zero

/-- How a product's operands are read (R47, R48): block length of both (0 wide) and the number of passes. -/
structure DotMode where
  bs : Nat
  passes : Nat
deriving DecidableEq, Repr

/-- The partial sum P_g of the K range `k0 .. k1` (R49, R50, R55). -/
def grain (d : DotMode) (a b : Nat → Ext) (k0 k1 : Nat) : Word :=
  if d.bs = 0 then
    let ah := fun k => hiPart (a k)
    let bh := fun k => hiPart (b k)
    let p1 := bfGrain ah bh k0 k1 0
    let p2 := if 2 ≤ d.passes then bfGrain ah (fun k => loPart (b k)) k0 k1 p1 else p1
    if 3 ≤ d.passes then bfGrain (fun k => loPart (a k)) bh k0 k1 p2 else p2
  else blockGrain a b d.bs k0 k1

/-- One level of a pairwise tree (R57). -/
def treeLevel {α : Type} (f : α → α → α) : List α → List α
  | a :: b :: r => f a b :: treeLevel f r
  | l => l

/-- The pairwise tree of R57 with `fuel` levels. -/
def treeFuel {α : Type} (f : α → α → α) : Nat → List α → List α
  | 0, l => l
  | n + 1, l => match l with
    | [] => []
    | [x] => [x]
    | l => treeFuel f n (treeLevel f l)

/-- The root of the pairwise tree over a list; `z` for the empty list. -/
def tree {α : Type} (f : α → α → α) (z : α) (l : List α) : α := (treeFuel f l.length l).headD z

/-- Ceiling division. -/
def cdiv (a b : Nat) : Nat := (a + b - 1) / b

/-- The node over the grains `lo .. hi` of a dot product of length `k` with grain `gk` (R56, R57, R79). The operands are
indexed by the logical K index. -/
def dotNode (d : DotMode) (a b : Nat → Ext) (k gk lo hi : Nat) : Word :=
  tree fadd 0 ((List.range (hi - lo)).map fun g => grain d a b ((lo + g) * gk) (min k ((lo + g + 1) * gk)))

/-- The whole dot product (R57). -/
def dot (d : DotMode) (a b : Nat → Ext) (k gk : Nat) : Word := dotNode d a b k gk 0 (cdiv k gk)

/-- The sum of R118 and RSUM: exact sums of chunks of 128, added in order with one rounding each. -/
def chunkSum (l : List Word) : Word :=
  (chunks 128 l).foldl (fun acc c => rne32 ((val32 acc).add (Ext.sum (c.map val32)))) 0

end Sys2Proof.Machine
end

