-- ==== Sys2Proof/Machine/Operands.lean ====
section
/-!
DEFINITION. Operand forms: header fields (R339), the numerics block (R48), tensors in tile layout (R258 to R260) and in
row-major form (R261), operand-buffer offsets (R81), and the checks that several commands share.
-/
namespace Sys2Proof.Machine

/-! ### Field checks (R8) -/

/-- Every listed field [hi:lo] is zero. -/
def zeros (v : Nat) (l : List (Nat × Nat)) : Bool := l.all fun x => decide (fld v x.1 x.2 = 0)

/-- `n` lies in `lo..hi`. -/
def within (n lo hi : Nat) : Bool := decide (lo ≤ n) && decide (n ≤ hi)

def divides (d n : Nat) : Bool := decide (n % d = 0)

/-- The first nonzero status of a list of (condition that fails the command, status). -/
def firstSt (l : List (Bool × Nat)) : Nat := ((l.find? (·.1)).map (·.2)).getD 0

/-! ### Header (R339) -/

def hOpcode (h : Nat) : Nat := fld h 15 0
def hGen (h : Nat) : Nat := fld h 19 16
def hFirst (h : Nat) : Bool := bit h 20
def hLast (h : Nat) : Bool := bit h 21
def hIrq (h : Nat) : Bool := bit h 22
def hNdep (h : Nat) : Nat := fld h 26 24
def hQid (h : Nat) : Nat := fld h 51 32
def hJob (h : Nat) : Nat := fld h 79 64
def hTag (h : Nat) : Nat := fld h 127 96
def hTask (h : Nat) : Nat := fld h 159 128
def hPlen (h : Nat) : Nat := fld h 163 160
def hDep (h i : Nat) : Nat := fld h (223 + 32 * i) (192 + 32 * i)

/-- A header without its generation, by which what is free may not differ (R67). -/
def plainHdr (h : Nat) : Nat := h - hGen h <<< 16

def fmtOf (code : Nat) : Fmt := (Fmt.ofCode code).getD .fp32
def fmtOk (code : Nat) : Bool := (Fmt.ofCode code).isSome

/-! ### Operand buffer (R81) -/

def obSize : Nat := 0x600000
/-- An operand-buffer offset: a multiple of 128 whose span lies in the buffer. -/
def obOk (off n : Nat) : Bool := divides 128 off && decide (off + n ≤ obSize)

/-! ### Element access -/

/-- `w` bits of a byte sequence from bit `b` on. -/
def bitsAt (rd : Nat → Byte) (b w : Nat) : Nat :=
  (leNat ((List.range ((b % 8 + w + 7) / 8)).map fun i => rd (b / 8 + i)) >>> (b % 8)) % 2 ^ w

/-- Codes of `w` bits packed as R45 says. -/
def packCodes (w : Nat) (l : List Nat) : List Byte :=
  leBytes (l.length * w / 8) (l.foldr (fun c acc => c + acc <<< w) 0)

/-- Bytes of `n` elements of a format without their scales, and with them. -/
def Fmt.dataBytes (f : Fmt) (n : Nat) : Nat := n * f.width / 8
def Fmt.rowBytes (f : Fmt) (n : Nat) : Nat := f.dataBytes n + f.scales n

def roundUp (a n : Nat) : Nat := cdiv n a * a

/-- Size of a tensor in tile layout (R260). -/
def Fmt.tensorBytes (f : Fmt) (lines run : Nat) : Nat := roundUp 128 (lines * f.rowBytes run)

/-- Where an element and its scale lie in tile layout: bit offset and byte offset (R258 to R260). -/
def Fmt.tilePos (f : Fmt) (lines run line pos : Nat) : Nat × Nat :=
  let p := line / 16
  let l := min 16 (lines - 16 * p)
  let t := pos / f.tileP
  let n := min f.tileP (run - t * f.tileP)
  let start := 16 * p * f.rowBytes run + l * f.rowBytes (t * f.tileP)
  (start * 8 + (line % 16 * n + pos % f.tileP) * f.width,
    start + l * f.dataBytes n + line % 16 * f.scales n + (if f.bs = 0 then 0 else pos % f.tileP / f.bs))

/-- Code and scale byte of an element in tile layout. -/
def Fmt.tileCode (f : Fmt) (rd : Nat → Byte) (lines run line pos : Nat) : Nat × Nat :=
  let x := f.tilePos lines run line pos
  (bitsAt rd x.1 f.width, if f.bs = 0 then 0 else (rd x.2).toNat)

/-- Exact value of an element in tile layout. -/
def Fmt.tileVal (f : Fmt) (rd : Nat → Byte) (lines run line pos : Nat) : Ext :=
  let x := f.tileCode rd lines run line pos
  f.value x.1 x.2

/-- The element as loaded to FP32 (R127). -/
def Fmt.tileLoad (f : Fmt) (rd : Nat → Byte) (lines run line pos : Nat) : Word :=
  let x := f.tileCode rd lines run line pos
  f.load x.1 x.2

/-- Code and scale byte of an element in row-major form (R261). -/
def Fmt.rowCode (f : Fmt) (rd : Nat → Byte) (rowElems pitch row col : Nat) : Nat × Nat :=
  (bitsAt rd (row * pitch * 8 + col * f.width) f.width,
    if f.bs = 0 then 0 else (rd (row * pitch + f.dataBytes rowElems + col / f.bs)).toNat)

/-- The tiles of a tensor in order, each as (first line, lines, first position, positions) (R258). -/
def Fmt.tiles (f : Fmt) (lines run : Nat) : List (Nat × Nat × Nat × Nat) :=
  (List.range (cdiv lines 16)).flatMap fun p =>
    (List.range (cdiv run f.tileP)).map fun t =>
      (16 * p, min 16 (lines - 16 * p), t * f.tileP, min f.tileP (run - t * f.tileP))

/-- Byte offset of a tile from the tensor's start. -/
def Fmt.tileStart (f : Fmt) (run : Nat) (t : Nat × Nat × Nat × Nat) : Nat :=
  t.1 * f.rowBytes run + t.2.1 * f.rowBytes t.2.2.1

/-- The bytes of one tile whose element at (line, position) has code and scale `el` (R259, R260). -/
def Fmt.tileOf (f : Fmt) (el : Nat → Nat → Nat × Nat) (t : Nat × Nat × Nat × Nat) : List Byte :=
  let rows := (List.range t.2.1).map fun i => (List.range t.2.2.2).map fun j => el (t.1 + i) (t.2.2.1 + j)
  (rows.flatMap fun r => packCodes f.width (r.map (·.1))) ++
    (if f.bs = 0 then [] else
      rows.flatMap fun r => (List.range (t.2.2.2 / f.bs)).map fun b => BitVec.ofNat 8 (r.getD (b * f.bs) (0, 0)).2)

/-- Bytes that round a tensor up to a multiple of 128, written 0 (R260). -/
def Fmt.padBytes (f : Fmt) (lines run : Nat) : List Byte :=
  List.replicate (f.tensorBytes lines run - lines * f.rowBytes run) 0

/-- The writes of one line in tile layout, as offsets from the tensor's start; the last line brings the padding. -/
def Fmt.lineWr (f : Fmt) (lines run line : Nat) (el : Nat → Nat × Nat) : List (Nat × List Byte) :=
  let p := line / 16
  let l := min 16 (lines - 16 * p)
  ((List.range (cdiv run f.tileP)).flatMap fun t =>
    let n := min f.tileP (run - t * f.tileP)
    let start := 16 * p * f.rowBytes run + l * f.rowBytes (t * f.tileP)
    let es := (List.range n).map fun i => el (t * f.tileP + i)
    (start + line % 16 * f.dataBytes n, packCodes f.width (es.map (·.1))) ::
      (if f.bs = 0 then [] else [(start + l * f.dataBytes n + line % 16 * f.scales n,
        (List.range (f.scales n)).map fun b => BitVec.ofNat 8 (es.getD (b * f.bs) (0, 0)).2)])) ++
  (if line + 1 = lines then [(lines * f.rowBytes run, f.padBytes lines run)] else [])

/-- The bytes of positions `p0 .. p0 + n` of a line in tile layout, as spans from the tensor's start: codes, and the scale bytes of
every block that they touch. -/
def Fmt.lineSpans (f : Fmt) (lines run line p0 n : Nat) : List (Nat × Nat) :=
  let p := line / 16
  let l := min 16 (lines - 16 * p)
  (List.range (cdiv run f.tileP)).flatMap fun t =>
    let m := min f.tileP (run - t * f.tileP)
    let a := max p0 (t * f.tileP) - t * f.tileP
    let b := min (p0 + n) (t * f.tileP + m) - t * f.tileP
    let start := 16 * p * f.rowBytes run + l * f.rowBytes (t * f.tileP)
    if a < b then
      (start + f.dataBytes (line % 16 * m + a), f.dataBytes (b - a)) ::
        (if f.bs = 0 then [] else [(start + l * f.dataBytes m + line % 16 * f.scales m + a / f.bs, cdiv b f.bs - a / f.bs)])
    else []

/-- The writes of positions `p0 ..` of a line in tile layout, given as scales and codes, as offsets from the tensor's start. -/
def Fmt.segWr (f : Fmt) (lines run line p0 : Nat) (q : List Nat × List Nat) : List (Nat × List Byte) :=
  let p := line / 16
  let l := min 16 (lines - 16 * p)
  (List.range (cdiv run f.tileP)).flatMap fun t =>
    let m := min f.tileP (run - t * f.tileP)
    let a := max p0 (t * f.tileP) - t * f.tileP
    let b := min (p0 + q.2.length) (t * f.tileP + m) - t * f.tileP
    let skip := t * f.tileP + a - p0
    let start := 16 * p * f.rowBytes run + l * f.rowBytes (t * f.tileP)
    if a < b then
      (start + f.dataBytes (line % 16 * m + a), packCodes f.width ((q.2.drop skip).take (b - a))) ::
        (if f.bs = 0 then [] else [(start + l * f.dataBytes m + line % 16 * f.scales m + a / f.bs,
          ((q.1.drop (skip / f.bs)).take (f.scales (b - a))).map (BitVec.ofNat 8))])
    else []

/-- A line of FP32 values as element codes with their scales, by position. -/
def Fmt.storeEl (f : Fmt) (vals : List Word) : Nat → Nat × Nat :=
  let r := f.storeLine vals
  fun i => (r.2.getD i 0, if f.bs = 0 then 0 else r.1.getD (i / f.bs) 0)

/-- The bytes of one tile: data of its lines, then the sideband (R259, R260). `get line` gives scales and codes. -/
def Fmt.tileBytes (f : Fmt) (get : Nat → List Nat × List Nat) (t : Nat × Nat × Nat × Nat) : List Byte :=
  let rows := (List.range t.2.1).map fun i => get (t.1 + i)
  (rows.flatMap fun r => packCodes f.width ((r.2.drop t.2.2.1).take t.2.2.2)) ++
    (if f.bs = 0 then [] else
      rows.flatMap fun r => ((r.1.drop (t.2.2.1 / f.bs)).take (t.2.2.2 / f.bs)).map (BitVec.ofNat 8))

/-- A whole tensor in tile layout, padded with zeros to a multiple of 128 bytes (R260). -/
def Fmt.tensor (f : Fmt) (lines run : Nat) (get : Nat → List Nat × List Nat) : List Byte :=
  let d := (f.tiles lines run).flatMap (f.tileBytes get)
  d ++ List.replicate (f.tensorBytes lines run - d.length) 0

/-- A tensor of FP32 values converted to a format along its lines. -/
def Fmt.tensorOf (f : Fmt) (rows : List (List Word)) : List Byte :=
  let rs := rows.map f.storeLine
  f.tensor rows.length ((rows.headD []).length) fun i => rs.getD i ([], [])

/-- FP32 vector of `n` values as bytes, and read back. -/
def wordsBytes (l : List Word) : List Byte := l.flatMap fun w => leBytes 4 w.toNat
def rdWord (rd : Nat → Byte) (i : Nat) : Word := BitVec.ofNat 32 (bitsAt rd (32 * i) 32)

/-! ### Numerics block (R48) -/

structure Numerics where
  a : Fmt
  b : Fmt
  out : Fmt
  passes : Nat
  axisM : Bool
  gk : Nat
  scaleEn : Bool
  scaleVec : Bool
  biasEn : Bool
  clipEn : Bool
  scale : Word
  lo : Word
  hi : Word
deriving DecidableEq, Repr

/-- The block as its map reads; `none` for a reserved encoding. -/
def Numerics.parse (v : Nat) : Option Numerics :=
  match Fmt.ofCode (fld v 3 0), Fmt.ofCode (fld v 7 4), Fmt.ofCode (fld v 11 8) with
  | some a, some b, some o =>
    if fld v 13 12 = 0 ∨ bit v 15 then none
    else some ⟨a, b, o, fld v 13 12, bit v 14, fld v 27 16, bit v 28, bit v 29, bit v 30, bit v 31,
      BitVec.ofNat 32 (v >>> 32), BitVec.ofNat 32 (v >>> 64), BitVec.ofNat 32 (v >>> 96)⟩
  | _, _, _ => none

/-- The pairings of R47. -/
def pairOk (a b : Fmt) (passes : Nat) : Bool :=
  if a.isWide && b.isWide then (a == .bf16 && b == .bf16) || decide (2 ≤ passes)
  else ((a.isMx && b.isMx) || (a.isTb && b.isTb)) && passes == 1

/-- The cases of R48 that fail a block; `nt` is the N tile. -/
def Numerics.bad (n : Numerics) (nt : Nat) : Bool :=
  (n.clipEn && badClip n.lo n.hi) || (n.axisM && n.out.isWide) || (!n.axisM && !n.out.whole nt)

/-- Levels (R56, R63): TB16 and the grain under NL2. -/
def fmtNl (nl : Nat) (l : List Fmt) : Bool := nl == 2 && l.any Fmt.isTb
def Numerics.badNl (n : Numerics) (nl : Nat) : Bool :=
  fmtNl nl [n.a, n.b, n.out] || (nl == 2 && !(n.gk == 0 || n.gk == 32))

/-- The grain G_K in force (R56). -/
def grainOf (nl gk : Nat) : Nat := if nl = 2 then 1024 else if gk = 0 then 2048 else 32 * gk

def Numerics.mode (n : Numerics) : DotMode := ⟨n.a.bs, n.passes⟩

/-- Steps 1 to 3 of R58. -/
def Numerics.convert (n : Numerics) (scale bias : Word) (t : Word) : Word :=
  let t1 := if n.scaleEn then fmul t (if n.scaleVec then scale else n.scale) else t
  let t2 := if n.biasEn then fadd t1 bias else t1
  if n.clipEn then fclamp n.lo n.hi t2 else t2

/-- An output block of `rows` × `cols` values in the layout of R82: lines are rows, or columns with OUT_AXIS = 1. -/
def outBlock (f : Fmt) (axisM : Bool) (rows cols : Nat) (v : Nat → Nat → Word) : List Byte :=
  if axisM then f.tensorOf ((List.range cols).map fun j => (List.range rows).map fun i => v i j)
  else f.tensorOf ((List.range rows).map fun i => (List.range cols).map fun j => v i j)

end Sys2Proof.Machine
end

