-- ==== Sys2Proof/Machine/Commands.lean ====
section
/-!
DEFINITION. The way of a command from its queue to its completion: lookup, dependencies (R345, R379), legality by device
state (R353), placement and banks (R366 to R371), start, work, completion and its record (R343 to R346).
-/
namespace Sys2Proof.Machine

/-! ### Lookup -/

def getQ (s : State) : QRef → Queue
  | .hw qid => queueOf s qid.toNat
  | .img => (s.img.run.map (·.q)).getD {}

def setQ (r : QRef) (q : Queue) (s : State) : State :=
  match r with
  | .hw qid => { s with queues := { s.queues with qs := put qid.toNat q s.queues.qs } }
  | .img => { s with img := { s.img with run := s.img.run.map fun x => { x with q := q } } }

def cmdOf (s : State) (c : CmdRef) : Option Cmd := (getQ s c.q).cmds.find? fun k => decide (k.idx = c.idx)

def modCmd (c : CmdRef) (f : Cmd → Cmd) (s : State) : State :=
  let q := getQ s c.q
  setQ c.q { q with cmds := q.cmds.map fun k => if k.idx = c.idx then f k else k } s

def taskOf (s : State) (r : QRef) (t : Nat) : Option Task := (getQ s r).tasks.find? fun x => decide (x.serial = t)

def modTask (r : QRef) (t : Nat) (f : Task → Task) (s : State) : State :=
  let q := getQ s r
  setQ r { q with tasks := q.tasks.map fun x => if x.serial = t then f x else x } s

/-- The hardware queue in whose ring a command's record goes: for an image packet, that of its SCH.RUN (R403). -/
def ringOf (s : State) (r : QRef) : Nat :=
  match r with
  | .hw qid => qid.toNat
  | .img => match s.img.run with
    | some x => match x.c.q with
      | .hw qid => qid.toNat
      | .img => 0
    | none => 0

/-- Every queue with commands, the image section included. -/
def allQueues (s : State) : List (QRef × Queue) :=
  s.queues.qs.map (fun x => (QRef.hw (BitVec.ofNat 20 x.1), x.2)) ++
    (match s.img.run with
      | some r => [(QRef.img, r.q)]
      | none => [])

/-- The root field of R346. -/
def rootField (tag qid status : Nat) : Nat := tag + qid <<< 32 + (status % 256) <<< 52

/-! ### Outcomes -/

/-- How a command completes. Without a reply, the command-specific field holds what its map gives a command that did no
work (`restReply`). -/
structure Out where
  status : Nat := 0
  code : Nat := 0
  reply : Option Nat := none
  rerun : Bool := false
deriving DecidableEq, Repr

def refuse (code : Nat) : Out := { status := stRefusedState, code := code }

/-! ### Crossings and runs -/

/-- A change to every queue, the image section included. -/
def mapQueues (f : Queue → Queue) (s : State) : State :=
  { s with
    queues := { s.queues with qs := s.queues.qs.map fun x => (x.1, f x.2) }
    img := { s.img with run := s.img.run.map fun r => { r with q := f r.q } } }

/-- Tasks that a crossing interrupts run again (R372): a core command has started, the LAST command has not completed. -/
def markReplay (q : Queue) : Queue :=
  { q with tasks := q.tasks.map fun t =>
      if (q.cmds.any fun k => decide (k.task = t.serial) && k.cored) && !t.finished && t.state != .discarded then
        { t with rerun := true }
      else t }

/-- The run ends and the drain begins, in DRAINING or FENCED (R30, R352). -/
def beginDrain (d : DState) (s : State) : State :=
  let s1 := mapQueues markReplay s
  setDState d { s1 with sup := { s1.sup with run := none, cross := some { began := s.time.now.toNat } } }

/-- A crossing begins (R30): no further command starts, DRAINING is entered. -/
def beginCrossing (s : State) : State := if s.sup.dstate = .running then beginDrain .draining s else s

/-- Messages over the Viaduct to every member. -/
def sendDom (m : DomMsg) (s : State) : State := { s with dom := { s.dom with out := m :: s.dom.out } }

/-- The image run in progress stops (R409): the SCH.RUN will complete as `x` says, and a crossing begins. -/
def stopImage (x : Nat × Nat × Option Nat) (s : State) : State :=
  match s.img.run with
  | none => s
  | some r =>
    beginCrossing { s with img := { s.img with run := some { r with ended := r.ended <|> some x } } }

/-- A failing image command aborts the run on every member (R409). -/
def abortImage (k : Cmd) (status code : Nat) (s : State) : State :=
  stopImage (status, if status = stRefusedState ∨ status = stChainLimit then code else 0, none)
    (sendDom (.abort s.dom.index (hTag k.hdr) s.dom.index status) s)

/-- The sectionOfs tasks have all completed (R407). -/
def imageDone (s : State) : Bool :=
  match s.img.run with
  | some r => r.active && r.q.tasks.all (fun t => t.released && t.finished) && r.q.cmds.all (fun k => k.ph == .done)
  | none => false

/-! ### Banks (R366 to R368) -/

def banksOf (l : List (Nat × Nat)) : List Nat :=
  l.flatMap fun x => if x.2 = 0 then [] else (List.range ((x.1 + x.2 - 1) / 0x10000 - x.1 / 0x10000 + 1)).map (x.1 / 0x10000 + ·)

/-- The task that holds a bank, if any. -/
def bankHolder (s : State) (core b : Nat) : Option (QRef × Nat) :=
  (s.cores.banks.find? fun x => decide (x.core = core) && decide (x.bank = b)).map fun x => (x.q, x.task)

def banksFree (s : State) (core : Nat) (r : QRef) (t : Nat) (bs : List Nat) : Bool :=
  bs.all fun b => match bankHolder s core b with
    | none => true
    | some h => decide (h = (r, t))

/-- Claims a bank if it is free: zeroed and tagged (R366). -/
def claimBank (core : Nat) (r : QRef) (t : Nat) (s : State) (b : Nat) : State :=
  match bankHolder s core b with
  | some _ => s
  | none =>
    let s1 := s.setOb (memClear s.mem.ob (obKey core (b * 0x10000)) 0x10000)
    { s1 with cores := { s1.cores with banks := ⟨core, b, r, t⟩ :: s1.cores.banks } }

/-- A task whose LAST command has completed releases its banks, unless one of its commands is still in progress, whose bytes
no other task may see (R368, R369, log 49). -/
def releaseBanks (r : QRef) (t : Nat) (s : State) : State :=
  if (getQ s r).cmds.any fun k => decide (k.task = t) && k.begun && k.ph != .done then s
  else { s with cores := { s.cores with banks := s.cores.banks.filter fun x => !(decide (x.q = r) && decide (x.task = t)) } }

/-! ### Energy classes (R384, R392) -/

/-- Position of a class in the order of R384. -/
def classNum : EClass → Nat
  | .a8 => 0 | .a4 => 1 | .a16 => 2 | .ab => 3 | .ex => 4 | .ve => 5 | .sf => 6 | .mk => 7 | .mb => 8 | .vd => 9
  | .me => 10 | .md => 11 | .ms => 12 | .ct => 13

/-- Counts a completed command in its classes (n_c of R392): those in which quanta of it were offered. -/
def countClasses (k : Cmd) (s : State) : State :=
  let n := k.classes.foldl (fun l c => l.set c (l.getD c 0 + 1)) s.tgl.counts
  { s with tgl := { s.tgl with counts := n } }

/-! ### Quanta (R385, R388, R389) -/

/-- The command holds a grant for its next quantum. -/
def granted (s : State) (c : CmdRef) : Bool := s.tgl.openE.any fun x => decide (x.c = c)

/-- Every quantum of the command has been granted: none is left to offer and none waits (R385). -/
def paidUp (s : State) (c : CmdRef) : Bool :=
  ((cmdOf s c).bind (·.charges)) == some [] && !(s.tgl.waiting.any fun o => decide (o.c = c))

/-- The classes whose quanta measure how far a command has come: that of its first quantum, with the array classes taken together
and the classes of traffic too (log 48). -/
def leads (l : List Charge) (n : Nat) : Bool :=
  match l with
  | [] => false
  | y :: _ =>
    let k := classNum y.k
    if k < 3 then decide (n < 3) else if 7 ≤ k ∧ k < 10 then decide (7 ≤ n) && decide (n < 10) else decide (n = k)

/-- The quanta of a list of charges in those classes. -/
def quantaOf (w l : List Charge) : Nat :=
  ((l.filter fun y => leads w (classNum y.k)).map fun y => cdiv y.units (max 1 y.quantum)).sum

/-- How many of `n` equal steps of a command the quanta granted to it pay for: all of them where none of its quanta measures them. -/
def paidSteps (s : State) (c : CmdRef) (n : Nat) : Nat :=
  match cmdOf s c with
  | none => n
  | some k =>
    let all := quantaOf k.work k.work
    let open' := quantaOf k.work (k.charges.getD k.work) +
      (s.tgl.waiting.filter fun o => decide (o.c = c) && leads k.work (classNum o.k)).length
    if all = 0 then n else n * (all - open') / all

def addRan (l : List (Nat × Nat × Nat)) (d k e : Nat) : List (Nat × Nat × Nat) :=
  match l with
  | [] => [(d, k, e)]
  | x :: r => if x.1 = d ∧ x.2.1 = k then (d, k, x.2.2 + e) :: r else x :: addRan r d k e

/-- The granted quanta of a command run: their predicted energy without guard counts on their dies (R389). -/
def runQuanta (c : CmdRef) (s : State) : State :=
  let mine := s.tgl.openE.filter fun x => decide (x.c = c)
  { s with tgl := { s.tgl with
    ran := mine.foldl (fun l x => addRan l x.die x.k x.plain) s.tgl.ran
    openE := s.tgl.openE.filter fun x => !decide (x.c = c) } }

/-- A command that completes leaves no quantum open or waiting. -/
def dropQuanta (c : CmdRef) (s : State) : State :=
  { s with tgl := { s.tgl with
    openE := s.tgl.openE.filter fun x => !decide (x.c = c)
    waiting := s.tgl.waiting.filter fun x => !decide (x.c = c) } }

/-! ### Replies of the control commands -/

/-- Device core number of a physical core: 12 * die + index among the enabled cores (R9). -/
def deviceCore (s : State) (p : Nat) : Nat := 12 * (p / 13) + ((s.cores.usable.getD (p / 13) []).findIdx (· == p % 13))

/-- Reply of R440. -/
def stateReply (s : State) : Nat :=
  s.sup.dstate.code + s.sup.service <<< 8 + sideBit s.sup.leader <<< 12 + s.sup.term.toNat <<< 16

/-- Reply of R355: HEAD and STATE. -/
def queueReply (q : Queue) : Nat := q.fetched % 2 ^ 32 + q.state.field <<< 32

/-! ### Completion (R343 to R346) -/

def pushRec (ring : Nat) (x : Rec) (s : State) : State :=
  let q := queueOf s ring
  setQ (.hw (BitVec.ofNat 20 ring)) { q with recs := q.recs ++ [x] } s

/-- STATE of R346. -/
def stateCode (k : Cmd) (o : Out) (s : State) : Nat :=
  if o.status = stRefusedState ∨ o.status = stChainLimit then o.code
  else match k.svc with
    | some v => v
    | none => match s.sup.run with
      | some r => r.svc
      | none => s.sup.dstate.code

def recordOf (c : CmdRef) (k : Cmd) (o : Out) (s : State) : Rec :=
  let now := s.time.now.toNat
  let deps : List CmdRef := if k.entered then k.deps.map fun j => ⟨c.q, j⟩ else []
  { c := c
    after := deps
    waits := deps.filter fun d => ((cmdOf s d).map (·.settled)) == some none
    tag := hTag k.hdr
    status := o.status
    code := stateCode k o s
    last := hLast k.hdr
    second := k.second
    cmd := o.reply.getD 0
    tstart := if k.begun then ((taskOf s c.q k.task).bind (·.start)).getD k.start else now
    tend := now
    irq := hIrq k.hdr }

def Cmd.completed (o : Out) (code : Nat) (k : Cmd) : Cmd :=
  { k with
    ph := .done
    status := o.status
    code := code
    reply := o.reply.getD 0
    thread := none
    placedAt := none
    settled := if o.rerun then k.settled else k.settled <|> some o.status }

/-- What the completion of a command does to its task: the LAST command finishes it; a finished task
releases its banks (R368, R369); after
ST_CHECKSUM with RERUN = 1 the task runs again (R90). -/
def finishTask (r : QRef) (k : Cmd) (o : Out) (s : State) : State :=
  if o.rerun then modTask r k.task (fun t => { t with rerun := true }) s
  else if k.task = 0 then s
  else
    let s1 := if hLast k.hdr then modTask r k.task (fun t => { t with finished := !t.rerun }) s else s
    if hLast k.hdr || (taskOf s1 r k.task).any (·.finished) then releaseBanks r k.task s1 else s1

/-- What the completion of an image command does to its run (R407 to R409). -/
def afterImage (c : CmdRef) (k : Cmd) (o : Out) (s : State) : State :=
  match c.q with
  | .hw _ => s
  | .img =>
    if o.status = stOk then (if imageDone s then beginCrossing s else s)
    else if o.rerun then beginCrossing s
    else abortImage k o.status o.code s

/-- Whether a hardware queue counts the command for its next SYN.FENCE (R351). -/
def addFailed (c : CmdRef) (o : Out) (s : State) : State :=
  if o.status = stOk then s
  else let q := getQ s c.q
    setQ c.q { q with failed := q.failed ++ [c.idx] } s

/-- APPENDED and N_PAGES of the sequence table at `a` as a started KV command read them (R219): free where they cannot be
read. -/
def kvHeld (s : State) (c : CmdRef) (k : Cmd) (a : Nat) : Nat × Nat :=
  let o : Owner := some (c.q, k.task)
  if !k.begun || (readFault s o {} a 64).isSome then (0, 2 ^ 64 - 1)
  else (readNat s o a 6 + readNat s o (a + 16) 2 <<< 48, 0)

/-- PIPE of a media command, or SCALER, where one carries it (R331). -/
def unitField (at' width : Nat) : Option Nat → Nat × Nat
  | some n => (n <<< at', 0)
  | none => (0, (2 ^ width - 1) <<< at')

/-- The part of a reply that a completion without one of its own settles, and the mask of the fields that its map names and
gives no value then: those are free, a function of the command and its status (log 16); every reserved bit is 0 (R7). -/
def restReply (c : CmdRef) (k : Cmd) (s : State) : Nat × Nat :=
  let p := k.par
  let task := taskOf s c.q k.task
  let core := if k.begun then (deviceCore s ((task.bind (·.core)).getD 0) <<< 40, 0) else (0, 0xFF0000000000)
  let thread := match k.thread with
    | some n => (n <<< 48, 0)
    | none => (0, 0x7000000000000)
  let yielded := ofBool k.hasYielded <<< 35
  let bound := look s.luna (getQ s c.q).job
  let pipeOf := fun at' => unitField at' 4 k.pipe
  match hOpcode k.hdr with
  | 0x0101 => if bit p 2 || bit p 3 then (core.1, 0xFFFFFFFFFF + core.2) else (0xFF0000000000, 0xFFFFFFFFFF)
  | 0x0102 => (core.1, 0xFFFFFFFFFF + core.2)
  | 0x0103 => (core.1 + thread.1, 0xFFFFFFFF + core.2 + thread.2)
  | 0x0104 => if bit p 2 then (core.1, 0xFFFFFFFFFF + core.2) else (0xFF0000000000, 0xFFFFFFFFFF)
  | 0x0201 => (core.1 + yielded + ofBool (k.begun && bit p 258 && decide (fld p 147 128 ≤ 4)) <<< 34, 0xFFFFFFFF + core.2)
  | 0x0202 => (core.1 + yielded, 0xFFFFFFFF + core.2)
  | 0x0203 => (core.1 + yielded + ofBool k.begun <<< 34, 0xFFFFFFFF + core.2)
  | 0x0301 => (core.1 + thread.1, 0xFFFFFFFF + core.2 + thread.2)
  | 0x0302 => (core.1 + thread.1, 0xFFFFFFFF + core.2 + thread.2)
  | 0x0303 => (core.1 + thread.1, 0x1FFFFFFFF + core.2 + thread.2)
  | 0x0304 => (0, 0x1FFFFFFFFFFFFFF)
  | 0x0401 => (core.1 + yielded + ofBool (k.begun && bit p 295) <<< 34, 0xFFFFFFFF + core.2)
  | 0x0402 => (core.1 + yielded, 0xFFFFFFFF + core.2)
  | 0x0403 => kvHeld s c k (fld p 79 32)
  | 0x0404 => kvHeld s c k (fld p 111 64)
  | 0x0501 => (core.1 + yielded, 0x70FFFFFFFF + core.2)
  | 0x0502 => match k.die with
    | some d => (d <<< 40 + yielded, 0xFFFFFFFF)
    | none => (0, 0xF00FFFFFFFF)
  | 0x0601 => match bound with
    | some a => (a, 0)
    | none => (0, 0xFFFFFFFFFFFF)
  | 0x0602 => (core.1 + thread.1, 0xFFFFFFFF + core.2 + thread.2)
  | 0x0701 => ((pipeOf 40).1, 0xFFFFF000000001E0 + (pipeOf 40).2)
  | 0x0702 => ((pipeOf 52).1, 0xFFF00000000 + (pipeOf 52).2)
  | 0x0703 => unitField 32 2 k.scl
  | 0x0704 => (0, 0xF)
  | 0x0801 => (0, 0)
  | 0x0802 => (0, 0)
  | 0x0803 => (0, 0xFFFFFFFF)
  | 0x0901 => (0, 0x3F)
  | 0x0902 => (0, 0)
  | 0x0903 => (0, 0)
  | 0x0B01 => (0, 0)
  | 0x0B02 => (0, 0)
  | 0x0B03 => (0, 0)
  | 0x0C01 => if fld p 1 0 = 1 then (0, 0) else (0, 0xFFFFFFFFFFFF)
  | 0x0C02 => (0, 0xFFFFFFFF)
  | 0x0E01 => (0, 0xFFFFFFFF)
  | 0x0E02 => (0, 0xFFFFFFFF)
  | 0x0F01 => (stateReply s, 0)
  | 0x0F02 => (0, 0x1FFFFFFFF)
  | 0x0F03 => if fld p 2 0 = 3 then (0, 0x3FFFFFFFF) else (ofBool (if bit p 3 then s.sup.rtVer else s.sup.i1Ver) <<< 32 +
      ofBool (if bit p 3 then s.sup.rtPend else s.sup.i1Pend) <<< 33, 0xFFFFFFFF)
  | 0x0F04 => (0, 0xFFFFFFFF)
  | 0x0F05 => (queueReply (queueOf s (fld p 35 16)), 0)
  | _ => (0, 0xFFFFFFFFFFFFFFFF)

/-- The outcome with its reply. -/
def Out.settle (o : Out) (c : CmdRef) (k : Cmd) (s : State) : Out :=
  match o.reply with
  | some _ => o
  | none =>
    let r := restReply c k s
    { o with reply := some (r.1 + ((Config.unread (plainHdr k.hdr) k.par o.status).toNat &&& r.2)) }

/-- A command completes: its phase and result, its record, its task, its run. -/
def complete (c : CmdRef) (o0 : Out) (s0 : State) : State :=
  match cmdOf s0 c with
  | none => s0
  | some k =>
    let o := o0.settle c k s0
    let s := dropQuanta c s0
    let x := recordOf c k o s
    let s1 := pushRec (ringOf s c.q) x (addFailed c o (modCmd c (Cmd.completed o x.code) s))
    let s2 := if k.begun then countClasses k s1 else s1
    afterImage c k o (finishTask c.q k o s2)

/-! ### Dependencies (R345, R379) -/

inductive DepRes where
  | ok | wait | discard
  | fail (root : Nat)
deriving DecidableEq, Repr

def depOf (s : State) (c : CmdRef) (me : Cmd) (j : Nat) : DepRes :=
  match cmdOf s ⟨c.q, j⟩ with
  | none => .ok
  | some d =>
    let root := fun st => DepRes.fail (rootField (hTag d.hdr) (ringOf s c.q) st)
    match d.settled with
    | none => .wait
    | some st =>
      if d.task = me.task && d.entered && d.ph != .done then .wait
      else if st = stOk then
        if d.task = me.task then .ok
        else match ((taskOf s c.q d.task).map (·.state) : Option TState) with
          | some .speculative => .wait
          | some .discarded => root stDiscarded
          | _ => .ok
      else if st = stDiscarded then (if d.task = me.task then .discard else root stDiscarded)
      else if st = stRefusedDep then .fail d.reply
      else root st

/-- All dependencies together: a known failure first, then a discard, then a wait. -/
def depsOf (s : State) (c : CmdRef) (me : Cmd) : DepRes :=
  let l := me.deps.map (depOf s c me)
  match l.find? fun d => match d with
    | .fail _ => true
    | _ => false with
  | some d => d
  | none => if l.contains .discard then .discard else if l.contains .wait then .wait else .ok

/-! ### Collectives of an image and slips (R410, R413) -/

def isColl (op : Nat) : Bool := decide (0x0B01 ≤ op) && decide (op ≤ 0x0B03)

/-- A task depends on a collective of another task that has not ended. -/
def awaitsColl (q : Queue) (task : Nat) : Bool :=
  q.cmds.any fun k => decide (k.task = task) && k.deps.any fun j =>
    q.cmds.any fun d => decide (d.idx = j) && decide (d.task ≠ task) && isColl (hOpcode d.hdr) && d.settled.isNone

/-- A slip is recorded (R413). -/
def recordSlip (late : Nat) (tag : Option Nat) (s : State) : State :=
  { s with regs := { s.regs with
    slips := sat32 s.regs.slips 1
    slipMax := BitVec.ofNat 32 (max s.regs.slipMax.toNat (min late (2 ^ 32 - 1)))
    slipTag := match tag with
      | some t => BitVec.ofNat 32 t
      | none => s.regs.slipTag } }

/-- The first command of a task whose core had to wait since its release records the slip; a core that was busy has kept the task
waiting if time has passed. -/
def startSlip (r : QRef) (k : Cmd) (s : State) : State :=
  match taskOf s r k.task with
  | none => s
  | some t => match t.slipDue with
    | none => s
    | some d =>
      if isColl (hOpcode k.hdr) then s
      else if t.slipBusy && decide ((s.time.now.toNat : Int) ≤ d) then modTask r k.task (fun t => { t with slipDue := none }) s
      else
        let tag := ((getQ s r).cmds.find? fun j => decide (j.task = k.task)).map fun j => hTag j.hdr
        recordSlip (((s.time.now.toNat : Int) - d) / beat).toNat tag (modTask r k.task (fun t => { t with slipDue := none }) s)

/-! ### Legality by device state (R353); a fence in READY or PARKED stops admission as FENCED does (R437) -/

inductive Legal where
  | start | hold | pend | refuse
deriving DecidableEq, Repr

def legal (op : Nat) (s : State) : Legal :=
  match s.sup.dstate with
  | .off => .hold
  | .instar => .hold
  | .faulted => if !s.sup.ctlPath then .hold else if op = 0x0F01 then .start else .refuse
  | d =>
    if op = 0x0A01 ∨ op = 0x0A02 then
      match d with
      | .running => .pend
      | .draining => .pend
      | .fenced => .hold
      | _ => if fencedAny s then .hold else .start
    else if op = 0x0C01 then
      match d with
      | .draining => .hold
      | .fenced => .hold
      | _ => if fencedAny s then .hold else .start
    else if op = 0x0C02 then
      match d with
      | .fenced => .hold
      | .parked => .refuse
      | _ => .start
    else if op = 0x0F02 then
      match d with
      | .running => .pend
      | .draining => .pend
      | .fenced => if (s.sup.cross.map (·.acted)) == some true then .start else .hold
      | _ => .start
    else if 0x0E00 ≤ op then .start
    else match d with
      | .running => .start
      | _ => .hold

def isControl (op : Nat) : Bool := decide (0x0E00 ≤ op)

/-! ### Placement (R370, R371) -/

/-- Spare cores of a die at the redundancy level (R399), as physical core numbers 13 * die + core. -/
def sparesOf (s : State) (die : Nat) : List Nat :=
  let u := s.cores.usable.getD die []
  (u.drop (u.length - min s.dom.red u.length)).map (13 * die + ·)

/-- Cores of a die that placement may give to a task: enabled, not spare, not marked, ascending. -/
def placeable (s : State) (die : Nat) : List Nat :=
  let u := s.cores.usable.getD die []
  ((u.take (u.length - min s.dom.red u.length)).map (13 * die + ·)).filter fun p => !s.cores.marked.contains p

def quadCores (s : State) (q : Nat) : List Nat := (List.range 4).flatMap fun i => placeable s (4 * q + i)

/-- Usable cores of the part that are not spares, ascending (U of R406). -/
def partCores (s : State) : List Nat :=
  (List.range 16).flatMap fun d =>
    let u := s.cores.usable.getD d []
    (u.take (u.length - min s.dom.red u.length)).map (13 * d + ·)

def rotate (l : List Nat) (i : Nat) : List Nat := l.drop i ++ l.take i

/-- The engine queue of a core (R364): the commands that have been placed on it and have not completed, with their place. -/
def onCore (s : State) (p : Nat) : List (CmdRef × Cmd) :=
  (allQueues s).flatMap fun x => (x.2.cmds.filter fun k =>
    k.placedAt.isSome && k.ph != .done &&
      (x.2.tasks.any fun t => decide (t.serial = k.task) && decide (t.core = some p))).map fun k => (⟨x.1, k.idx⟩, k)

/-- The lowest-numbered free thread of a core that a class may take (R129). -/
def freeThread (s : State) (p : Nat) (lc : Bool) : Option Nat :=
  let used := (allQueues s).flatMap fun x => (x.2.cmds.filter fun k =>
    k.ph != .done && x.2.tasks.any fun t => decide (t.serial = k.task) && decide (t.core = some p)).filterMap (·.thread)
  (List.range 8).find? fun i => (lc || decide (2 ≤ i)) && !used.contains i

def isRunning (k : Cmd) : Bool :=
  match k.ph with
  | .running _ => true
  | _ => false

def isYielded (k : Cmd) : Bool :=
  match k.ph with
  | .yielded _ => true
  | _ => false

/-- Commands that occupy the array or the Cantilever path of a core, of which one runs at a time (R95). -/
def isMatrix (op : Nat) : Bool := decide (op ∈ [0x0201, 0x0202, 0x0203, 0x0401, 0x0402, 0x0501])

/-- Commands that release their engine for latency-critical work at a boundary of their own (R373). -/
def canYield (op : Nat) : Bool := isMatrix op || decide (op ∈ [0x0502, 0x0101, 0x0102, 0x0104])

/-! ### The context of a command in work -/

structure Ctx where
  c : CmdRef
  e : Circ
  cmd : Cmd
  par : Nat
  job : Nat
  nl : Nat
  lc : Bool
  qid : Nat
  /-- the task as owner of a Cocoon -/
  o : Owner
  /-- physical core, and device core number -/
  core : Nat
  dcore : Nat
  task : Option Task
deriving DecidableEq, Repr

def mkCtx (s : State) (c : CmdRef) (e : Circ) (k : Cmd) : Ctx :=
  let q := getQ s c.q
  let t := taskOf s c.q k.task
  let p := (t.bind (·.core)).getD 0
  { c := c, e := e, cmd := k, par := k.par, job := q.job, nl := q.nl
    lc := match c.q with
      | .hw _ => q.lc
      | .img => (t.map (·.lc)).getD false
    qid := ringOf s c.q, o := some (c.q, k.task), core := p, dcore := deviceCore s p, task := t }

/-- What a family of commands adds to the common way. -/
structure Family where
  /-- by numerics level and parameters: defects of the parameters, and a refused level (R344); a statistic that a chain
  lacks (R177) -/
  bad : Nat → Nat → Bool
  lvl : Nat → Nat → Bool := fun _ _ => false
  stat : Nat → Bool := fun _ => false
  /-- needs a core; needs a vector thread (R129, R370) -/
  core : Nat → Bool := fun _ => false
  thread : Nat → Bool := fun _ => false
  /-- device spans, and operand-buffer spans (by numerics level), that the parameters name -/
  spans : Nat → List (Nat × Nat) := fun _ => []
  ob : Nat → Nat → List (Nat × Nat) := fun _ _ => []
  /-- operand-buffer spans whose length the present state gives (attention: the head dimension of the sequence), and device
  spans that it gives (pages, kept scores, images, regions) -/
  obS : Ctx → State → List (Nat × Nat) := fun _ _ => []
  spansS : Ctx → State → List (Nat × Nat) := fun _ _ => []
  /-- the address whose quadrant is the affinity quadrant (R370) -/
  home : Nat → Option Nat := fun _ => none
  /-- the compute die that owns the work (R237) -/
  die : Nat → Option Nat := fun _ => none
  /-- the die whose Abutment engine runs it (R370) -/
  abut : Ctx → State → Option Nat := fun _ _ => none
  /-- the pipe and the scaler that it takes (R322) -/
  pipe : Ctx → State → Option Nat := fun _ _ => none
  scl : Ctx → State → Option Nat := fun _ _ => none
  /-- it draws from the bound Luna record (R223) -/
  draws : Nat → Bool := fun _ => false
  /-- the step record that it reads at its start (R240, R252) -/
  step : Nat → Option Nat := fun _ => none
  /-- its work by energy class, which the Tollgate grants quantum by quantum; control commands are one quantum (R384) -/
  charges : Ctx → State → List Charge := fun _ _ => [⟨.ct, 0, 0, 0⟩]
  /-- device spans that it still has to reach: those whose stack retrains hold it up (R282) -/
  reach : Ctx → State → List (Nat × Nat) := fun x _ => spans x.par
  /-- writes the companion window (R380) -/
  window : Nat → Bool := fun _ => false
  /-- streams with USE ≠ 0 (R169) -/
  streams : Nat → Nat := fun _ => 0
  /-- a completion that the present state gives instead of a start -/
  refuse : Ctx → State → Option Out := fun _ _ => none
  /-- the device spans that `refuse` reads -/
  peeks : Ctx → State → List (Nat × Nat) := fun _ _ => []
  /-- a start that the present state still holds back -/
  ready : Ctx → State → Bool := fun _ _ => true
  /-- the completion after a failed dependency, given the root field (R345) -/
  onFail : Ctx → Nat → State → State := fun x r s => complete x.c { status := stRefusedDep, reply := r } s
  /-- the positions of its work, array tiles, units or rows (R385); 0: one step -/
  steps : Ctx → State → Nat := fun _ _ => 0
  /-- the state in which the command yields at the end of its quantum of that number (R87, R373); `none`: it does not -/
  yieldAt : Nat → Ctx → State → Option State := fun _ _ _ => none
  /-- the work itself, with its completion -/
  work : Ctx → State → State

/-- Every operand-buffer span of a command. -/
def Family.obAll (f : Family) (x : Ctx) (s : State) : List (Nat × Nat) := f.ob x.nl x.par ++ f.obS x s

/-- A command that draws needs a bound Luna record; its refusal carries LUNA_NONE (R223). -/
def needLuna (draws : Bool) (x : Ctx) (s : State) : Option Out :=
  if draws && (look s.luna x.job).isNone then some (refuse 0x50) else none

/-- Conditions of R371 for a core. -/
def coreFits (f : Family) (x : Ctx) (s : State) (hotOk : Bool) (p : Nat) : Bool :=
  (hotOk || !isHot s (p / 13)) && banksFree s p x.c.q x.cmd.task (banksOf (f.obAll x s)) &&
    (!f.thread x.par || (freeThread s p x.lc).isSome) && decide ((onCore s p).length < 16)

/-- The search order within a quadrant: from the previous task's core there, else from index QID mod N_q. -/
def quadOrder (s : State) (x : Ctx) (q : Nat) (prev : Bool) : List Nat :=
  let l := quadCores s q
  let i := match (if prev then look s.cores.prev x.job else none) with
    | some p => if l.contains p then l.findIdx (· == p) else x.qid % max 1 l.length
    | none => x.qid % max 1 l.length
  rotate l i

/-- The affinity quadrant of a task's first core command (R370). -/
def affinity (f : Family) (x : Ctx) (s : State) : Nat :=
  match f.home x.par with
  | some a => servedBy a
  | none => match look s.cores.prev x.job with
    | some p => p / 52
    | none => x.qid % 4

/-- The compute die that owns the work of a task: that of its command, or of a VEC.UPDATE fetched for it (R237). -/
def ownerDie (f : Family) (x : Ctx) (s : State) : Option Nat :=
  f.die x.par <|> (((getQ s x.c.q).cmds.find? fun k =>
    decide (k.task = x.cmd.task) && k.entered && hOpcode k.hdr == 0x0303).map fun k => fld k.par 31 28)

/-- The spare cores that the re-run of R90 may take. -/
def rerunSpares (x : Ctx) (s : State) : List Nat :=
  match x.task.bind (·.avoid) with
  | some p => (sparesOf s (p / 13)).filter fun c => !s.cores.marked.contains c
  | none => []

/-- The core of a task that is not placed yet (R371, R406); `none` while no core qualifies. -/
def place (f : Family) (x : Ctx) (s : State) : Option Nat :=
  match x.c.q with
  | .img => (rerunSpares x s).head? <|> (s.img.run.bind fun r => r.map[(x.task.map (·.lcore)).getD 0]?)
  | .hw _ =>
    let own := ownerDie f x s
    let q0 := match own with
      | some d => d / 4
      | none => (x.task.bind (·.quad)).getD (affinity f x s)
    let near := (quadOrder s x q0 true).filter fun p => match own with
      | some d => (placeable s d).isEmpty || decide (p / 13 = d)
      | none => true
    let far := (List.range 3).flatMap fun i => quadOrder s x ((q0 + i + 1) % 4) false
    let order := rerunSpares x s ++ near ++
      (if own.isNone && (x.lc || (x.task.map (·.roam)).getD false) then far else [])
    match order.find? (coreFits f x s false) with
    | some p => some p
    | none => if x.lc && (List.range 16).all (isHot s) then order.find? (coreFits f x s true) else none

/-! ### Admission to a start (R343, R344) -/

inductive Verdict where
  | wait
  | stop (o : Out)
  | dep (root : Nat)
  | pend
  /-- it is placed in the engine queue of a core, where it waits for its engine, a thread, banks or a grant (R364) -/
  | queue (core : Nat)
  | go (core : Option Nat)

/-- The commands among `held`, and those whose record waits for a command that has not completed, or follows one of `held` (R345). -/
def heldBy (s : State) (l : List Rec) (held : List CmdRef) : List CmdRef :=
  (l.filter fun r => held.contains r.c || r.after.any held.contains ||
    r.waits.any fun d => ((cmdOf s d).map (·.settled)) == some none).map (·.c)

/-- The commands whose records the order of R345 holds back. -/
def heldRecs (s : State) (l : List Rec) : List CmdRef := l.foldl (fun h _ => heldBy s l h) []

/-- Records that the order of R345, the ring or the link keeps from being written (R336, R362). -/
def unwritable (s : State) (ring : Nat) : Nat :=
  let q := queueOf s ring
  let held := heldRecs s q.recs
  let free := (q.recs.filter fun r => !held.contains r.c).length
  if s.link.up then q.recs.length - min free (2 ^ q.log2 - (q.written - q.cplHead.toNat) % 2 ^ 32) else q.recs.length

/-- The command is among the 64 oldest of its queue that have not started (R343). -/
def inWindow (q : Queue) (k : Cmd) : Bool :=
  decide ((q.cmds.filter fun j => decide (j.idx < k.idx) && j.ph == .waiting).length < 64)

/-- A FIRST command whose task would be the 257th open one waits (R341). -/
def taskRoom (q : Queue) (k : Cmd) : Bool :=
  decide ((q.tasks.filter fun t => t.isOpen && decide (t.serial < k.task)).length < 256)

/-- Two logical cores share the core of a task (R406). -/
def folded (r : ImgRun) (t : Task) : Bool := decide (1 < (r.map.filter fun p => decide (r.map[t.lcore]? = some p)).length)

/-- On a folded core every task with a smaller BEAT_OFF has started (R406). -/
def foldedTurn (r : ImgRun) (t : Task) : Bool :=
  !folded r t || r.q.tasks.all fun u =>
    decide (r.map[u.lcore]? ≠ r.map[t.lcore]?) ||
      !(decide (u.beat < t.beat) || (decide (u.beat = t.beat) && decide (u.lcore < t.lcore))) || u.start.isSome || u.finished

/-- The core of a folded task runs a task of its other logical core (R406, R413). -/
def foldedBusy (r : ImgRun) (t : Task) : Bool :=
  r.q.tasks.any fun u => decide (r.map[u.lcore]? = r.map[t.lcore]?) && decide (u.lcore ≠ t.lcore) && u.start.isSome && !u.finished

/-- Image tasks: released, in the turn of a folded core (R406, R407); a core that waits at a task's release for a collective
starts nothing of the task (R413). -/
def imageTurn (s : State) (k : Cmd) : Bool :=
  match s.img.run with
  | none => false
  | some r =>
    match r.q.tasks.find? fun t => decide (t.serial = k.task) with
    | none => false
    | some t =>
      t.released && k.released && foldedTurn r t &&
        (isColl (hOpcode k.hdr) || t.slipDue.isNone || !awaitsColl r.q k.task)

def turn (s : State) (c : CmdRef) (k : Cmd) : Bool :=
  match c.q with
  | .hw _ =>
    let q := getQ s c.q
    (q.state == .opened || q.state == .draining) && inWindow q k && taskRoom q k
  | .img => imageTurn s k && s.sup.dstate == .running && (s.sup.run.map (·.kind)) == some .image

/-- Commands that a speculative task may not run (R380). -/
def specBarred (op : Nat) : Bool :=
  decide (op ∈ [0x0A01, 0x0A02, 0x0B01, 0x0B02, 0x0B03, 0x0C01, 0x0C02, 0x0901])

/-- A span touches the pool of an in-flight Cocoon (R380). -/
def touchesPool (s : State) (l : List (Nat × Nat)) : Bool :=
  l.any fun x => s.cocoons.any fun k => overlap x.1 x.2 k.ks (4096 * k.ksN) || overlap x.1 x.2 k.bg (4096 * k.bgN)

/-- A span touches the queue table (R333). -/
def touchesTable (s : State) (l : List (Nat × Nat)) : Bool := l.any fun x => overlap x.1 x.2 s.regs.qtbBase.toNat 0x4000000

/-- A store die has accepted a later term than the one in force, and refuses control writes (R32, R435). -/
def staleTerm (s : State) : Bool := s.sup.storeTerm.any fun t => decide (s.sup.term.toNat < t.toNat)

/-- The refusals of stage 3 (R344) in their order. A TSK.BEGIN that is replayed (R372) finds its own Cocoon. -/
def stage3 (op : Nat) (f : Family) (x : Ctx) (s : State) : Option Out :=
  let n := f.streams x.par
  let svc := (s.sup.run.map (·.svc)).getD 0
  let tstate := (x.task.map (·.state)).getD .none
  if !x.lc && (banksOf (f.obAll x s)).any (fun b => decide (b < s.cores.lcBanks)) then
    some { status := stBadParam }
  else if touchesTable s (f.spansS x s) then some { status := stBadParam }
  else if 3 < n ∨ (svc ≠ 0 ∧ 1 < n) then some { status := stChainLimit, code := svc }
  else if isControl op && x.c.q != .hw 0 then some (refuse 0x24)
  else if isControl op && staleTerm s then some { status := stFenced }
  else if op = 0x0901 && x.cmd.second && tstate = .speculative then none
  else if tstate = .speculative && (specBarred op || f.window x.par) then some (refuse 0x31)
  else if touchesPool s (f.spans x.par ++ f.spansS x s) then some (refuse 0x31)
  else f.refuse x s

/-- The code with which a state refuses a command: SUP_SPLIT for SCH.RUN while the halves disagree (R353, R437). -/
def refusalCode (op : Nat) (s : State) : Nat :=
  if op = 0x0C02 && s.sup.dstate == .parked && fencedAny s then 0x93 else s.sup.dstate.code

/-- The class of a command placed in an engine queue. -/
def lcOf (s : State) (c : CmdRef) (k : Cmd) : Bool := (mkCtx s c {} k).lc

/-- The array or the Cantilever path of a core takes no other command while one runs, and no best-effort one before a
command that has yielded (R87, R95). -/
def arrayFree (s : State) (c : CmdRef) (p : Nat) (lc : Bool) : Bool :=
  (onCore s p).all fun y => decide (y.1 = c) || !isMatrix (hOpcode y.2.hdr) || !(isRunning y.2 || (!lc && isYielded y.2))

/-- Order of an engine queue (R364): class, the tick of the placement, queue ID, then slot order. -/
def queueKey (s : State) (c : CmdRef) (k : Cmd) : List Nat :=
  [1 - ofBool (lcOf s c k), k.placedAt.getD s.time.now.toNat, ringOf s c.q, k.idx]

def keyLt : List Nat → List Nat → Bool
  | a :: r, b :: q => decide (a < b) || (decide (a = b) && keyLt r q)
  | _, _ => false

/-- No other command that waits for the array of the core and holds a grant comes before this one (R364). Commands that may not
start now whatever the array does are passed over: those whose banks another task holds, since that task's own commands may stand
behind them (R368), and those of a queue that starts nothing (R336, R354). -/
def firstInLine (s : State) (c : CmdRef) (k : Cmd) (p : Nat) : Bool :=
  (onCore s p).all fun y => decide (y.1 = c) || y.2.ph != .waiting || !isMatrix (hOpcode y.2.hdr) || !granted s y.1 ||
    !turn s y.1 y.2 || decide (64 ≤ unwritable s (ringOf s y.1.q)) || !banksFree s p y.1.q y.2.task y.2.banks || keyLt (queueKey s c k) (queueKey s y.1 y.2)

/-- The Abutment engine of a die takes no other command while one runs (R364, R373). -/
def abutFree (s : State) (c : CmdRef) (d : Nat) (lc : Bool) : Bool :=
  (allQueues s).all fun x => x.2.cmds.all fun k =>
    decide ((⟨x.1, k.idx⟩ : CmdRef) = c) || !decide (k.die = some d) || !(isRunning k || (!lc && isYielded k))

/-- Whether a core command on its core may start now, given that its engine queue has it: banks, thread, array, turn. -/
def coreReady (op : Nat) (f : Family) (x : Ctx) (p : Nat) (s : State) : Bool :=
  banksFree s p x.c.q x.cmd.task (banksOf (f.obAll x s)) && (!f.thread x.par || (freeThread s p x.lc).isSome) &&
    (!isMatrix op || (arrayFree s x.c p x.lc && firstInLine s x.c x.cmd p))

/-- A page-table walk without a core of its own takes a thread of the core on which its task stands, if it stands on one (R128,
R370, log 27). -/
def walkReady (f : Family) (x : Ctx) (s : State) : Bool :=
  match x.task.bind (·.core) with
  | some p => !f.thread x.par || (freeThread s p x.lc).isSome
  | none => true

/-- The supervisor that executes a control command: the leader, or the other one while the halves disagree and the leader has
been silent for 1 ms (R438). -/
def executor (s : State) : Side := if fencedAny s && s.sup.silence then otherSide s.sup.leader else s.sup.leader

/-- Whether the Tollgate lets the command's next quantum start (R385). Once FAULTED, nothing but SUP.STATE starts. -/
def mayRun (s : State) (c : CmdRef) : Bool := granted s c || s.sup.dstate == .faulted

/-- What a waiting command may do now. In FAULTED each command completes as R353 tables it, whatever it depends on: the supervisor that
is left completes every command in that way, and no dependency ends one there (R345; log 83). -/
def admission (op : Nat) (f : Family) (c : CmdRef) (e : Circ) (k : Cmd) (s : State) : Verdict :=
  let x := mkCtx s c e k
  match legal op s, (if s.sup.dstate = .faulted then .ok else depsOf s c k) with
  | _, .fail r => .dep r
  | _, .discard => .stop { status := stDiscarded }
  | _, .wait => .wait
  | .refuse, .ok => .stop (refuse (refusalCode op s))
  | l, .ok =>
    if (x.task.map (·.state)).getD .none = .discarded && s.sup.dstate != .faulted then .stop { status := stDiscarded }
    else if l = .hold || !turn s c k || decide (64 ≤ unwritable s (ringOf s c.q)) then .wait
    else match stage3 op f x s with
      | some o => .stop o
      | none =>
        if l = .pend then .pend
        else if !f.ready x s then .wait
        else if f.core x.par then
          match x.task.bind (·.core) <|> place f x s with
          | none => .wait
          | some p =>
            if k.placedAt.isNone && decide (16 ≤ (onCore s p).length) then .wait
            else if coreReady op f x p s && mayRun s c then .go (some p)
            else if k.placedAt.isNone then .queue p else .wait
        else if !mayRun s c || !(walkReady f x s) then .wait
        else match f.abut x s with
          | some d => if abutFree s c d x.lc then .go none else .wait
          | none => .go none

/-! ### Start and work -/

/-- A command is placed in the engine queue of a core, and its task with its first core command (R364, R370, R371). -/
def placeCmd (f : Family) (x : Ctx) (p : Nat) (s : State) : State :=
  let s1 := modCmd x.c (fun k => { k with
    placedAt := k.placedAt <|> some s.time.now.toNat, banks := banksOf (f.obAll x s) }) s
  if (x.task.bind (·.core)).isSome then s1
  else
    let s2 := modTask x.c.q x.cmd.task (fun t => { t with core := some p, quad := t.quad <|> some (affinity f x s) }) s1
    { s2 with cores := { s2.cores with prev := put x.job p s2.cores.prev } }

/-- An engine that passes to a command of another job is zeroed first (R365). -/
def zeroEngines (op job : Nat) (core thread die : Option Nat) (s : State) : State :=
  let c := s.cores
  { s with cores := { c with
    arrays := if isMatrix op then c.arrays.filter fun y => !decide (some y.1 = core) || decide (y.2.1 = job) else c.arrays
    vregs := c.vregs.filter fun y => !(decide (some y.1.1 = core) && decide (some y.1.2 = thread)) || decide (y.2.1 = job)
    stores := c.stores.filter fun y => !decide (some y.1 = die) || decide (y.2.1 = job) } }

/-- A media command works in its pipe from its start on, and fills its syntax buffer and pipe state (R284). -/
def enterPipe (k : Cmd) (pipe : Option Nat) (s : State) : State :=
  match pipe with
  | some i => { s with media := { s.media with
      pipes := put (i + (if hOpcode k.hdr = 0x0702 then 16 else 0)) (plainHdr k.hdr, k.par) s.media.pipes } }
  | none => s

/-- Word `i` of the syntax buffer (kind 9) or the state (kind 10) of a pipe: no command reads it, and what it holds is free until
a crossing clears it (R29, log 19). -/
def pipeCell (s : State) (pipe kind i : Nat) : Word :=
  match look s.media.pipes pipe with
  | some y => Config.cell y.1 y.2 kind i
  | none => 0

/-- A command that draws reads the bound Luna record at its start (R223): address and content, and how the read failed. -/
def readLuna (f : Family) (x : Ctx) (s : State) : State :=
  let a := look s.luna x.job
  let s1 := modCmd x.c (fun k => { k with
    luna := a.map fun a => (a, readNat s x.o a 128)
    lunaBad := a.bind fun a => if f.draws x.par then readFault s x.o x.e a 128 else none }) s
  match a with
  | some a => if f.draws x.par then noteReads x.o x.e [(a, 128)] s1 else s1
  | none => s1

/-- A command that works by a step record reads it at its start (R240). -/
def readStep (f : Family) (x : Ctx) (s : State) : State :=
  match f.step x.par with
  | none => s
  | some a => noteReads x.o x.e [(a, 64)]
      (modCmd x.c (fun k => { k with step := some (readNat s x.o a 64), stepBad := readFault s x.o x.e a 64 }) s)

/-- Marks the start of a command: service state, TASK_START, core, banks, thread, pipes, the Luna and the step record that it
reads (R223, R240, R346, R366). -/
def beginCmd (f : Family) (x : Ctx) (core : Option Nat) (s : State) : State :=
  let now := s.time.now.toNat
  let th := match core <|> x.task.bind (·.core) with
    | some p => if f.thread x.par then freeThread s p x.lc else none
    | none => none
  let s1 := modCmd x.c (fun k => { k with
    begun := true, start := now, svc := s.sup.run.map (·.svc), thread := th, die := f.abut x s
    pipe := f.pipe x s, scl := f.scl x s, cored := core.isSome, kept := none
    doer := if x.c.q = .hw 0 then some (executor s) else none }) (readStep f x (readLuna f x s))
  let s2 := modTask x.c.q x.cmd.task (fun t => { t with start := t.start <|> some now }) s1
  let s3 := zeroEngines (hOpcode x.cmd.hdr) x.job (core <|> x.task.bind (·.core)) th (f.abut x s) (runQuanta x.c (startSlip x.c.q x.cmd s2))
  let s4 := enterPipe x.cmd (f.pipe x s) s3
  match core with
  | none => s4
  | some p => (banksOf (f.obAll x s)).foldl (claimBank p x.c.q x.cmd.task) (placeCmd f x p s4)

/-- The work of a started command: a device fault confined to it (R347), or its family's work. -/
def workOf (f : Family) (x : Ctx) (s : State) : State :=
  if x.e.broken then complete x.c { status := stInternal } (logErr (.internal x.c.q x.c.idx) s)
  else f.work x s

/-- A command is kept for the next crossing (R353). A change of leadership ends a queue-fed run (R441). -/
def pendCmd (op : Nat) (c : CmdRef) (e : Circ) (s : State) : State :=
  let s1 := modCmd c (fun k => { k with ph := .crossing }) { s with sup := { s.sup with pend := s.sup.pend ++ [⟨c, e⟩] } }
  if op = 0x0F02 && (s.sup.run.map (·.kind)) == some .queueFed then beginCrossing s1 else s1

/-- What a command's work leaves in its engines: the cells of an array, the registers of a thread, the counter of a Luna
generator, the stores of an Abutment engine (R29, R71, R120, R128). No command reads them; what they hold is free (log 19). -/
def leaveEngines (x : Ctx) (s : State) : State :=
  let word := fun i j => Config.cell (plainHdr x.cmd.hdr) x.par i j
  let words := fun i n => (List.range n).map (word i)
  let c := s.cores
  { s with cores := { c with
    arrays := if isMatrix (hOpcode x.cmd.hdr) then put x.core (x.job, ⟨words 0 2048, words 1 16, words 2 128, words 7 2048, words 8 65536⟩) c.arrays else c.arrays
    vregs := match x.cmd.thread with
      | some n => ((x.core, n), x.job, words 3 2048) :: c.vregs.filter fun y => !decide (y.1 = (x.core, n))
      | none => c.vregs
    draws := if x.cmd.thread.isSome && x.cmd.luna.isSome then
        put x.core (BitVec.ofNat 64 ((word 4 0).toNat + (word 4 1).toNat * 2 ^ 32)) c.draws else c.draws
    stores := match x.cmd.die with
      | some d => put d (x.job, words 5 65536, words 6 65536) c.stores
      | none => c.stores } }

/-- The span of the Luna record that a drawing command reads. -/
def lunaSpan (f : Family) (x : Ctx) : List (Nat × Nat) :=
  if f.draws x.par then (x.cmd.luna.toList.map fun y => (y.1, 128)) else []

/-- Nothing keeps a started command from its end: no stack that retrains (R282), no quantum not granted yet (R385). A row request
that timed out ends it without them (R132). -/
def mayEnd (f : Family) (x : Ctx) (s : State) : Bool :=
  !mustWait s x.o x.e (f.reach x s ++ lunaSpan f x) && (paidUp s x.c || !x.e.gone.isEmpty || s.sup.dstate == .faulted)

/-- The position at which a command may stand: behind the steps that its granted quanta pay for it has not come (R385). -/
def holdAt (f : Family) (x : Ctx) (p : Nat) (s : State) : Nat :=
  let n := f.steps x s
  if n = 0 then p else min p (paidSteps s x.c n)

/-- The work of a started command goes on: it stays in progress at the position that its row gives, or waits, or ends. -/
def goOn (f : Family) (x : Ctx) (pos : Nat) (s : State) : State :=
  match x.e.hold with
  | some p => modCmd x.c (fun k => { k with ph := .running (holdAt f x p s) }) (leaveEngines x s)
  | none => if mayEnd f x s then workOf f x s else modCmd x.c (fun k => { k with ph := .running pos }) s

/-- Address and content of the bound Luna record that a command read at its start (R223). -/
def Ctx.lunaAddr (x : Ctx) : Nat := (x.cmd.luna.map (·.1)).getD 0
def Ctx.lunaRec (x : Ctx) : Nat := (x.cmd.luna.map (·.2)).getD 0

/-- The context of a command that has begun. -/
def ctxNow (c : CmdRef) (e : Circ) (k : Cmd) (s : State) : Ctx := mkCtx s c e ((cmdOf s c).getD k)

/-- A refusal that the present state gives has read what it tests (R283). -/
def notePeeks (f : Family) (x : Ctx) (o : Out) (s : State) : State :=
  if f.refuse x s == some o then noteReads x.o x.e (f.peeks x s) (miscorrect x.e s) else s

/-- One row of a queue command: a waiting command is admitted and works, or is placed in an engine queue, or is left in
progress; a command in progress runs the quanta granted to it and goes on; a command that is not there, waits on something or
is done already is left alone (log 5). -/
def runCmd (op : Nat) (f : Family) (c : CmdRef) (e : Circ) (s : State) : State :=
  match cmdOf s c with
  | none => s
  | some k =>
    if k.entered && hOpcode k.hdr == op then
      match k.ph with
      | .waiting => match admission op f c e k s with
        | .wait => s
        | .stop o => complete c o (notePeeks f (mkCtx s c e k) o s)
        | .dep r => f.onFail (mkCtx s c e k) r s
        | .pend => pendCmd op c e s
        | .queue p => placeCmd f (mkCtx s c e k) p s
        | .go core =>
          let s0 := miscorrect e s
          let s1 := beginCmd f (mkCtx s0 c e k) core s0
          goOn f (ctxNow c e k s1) 0 s1
      | .running p =>
        if s.sup.dstate = .faulted || !(granted s c || paidUp s c || !e.gone.isEmpty) then s
        else
          let s1 := runQuanta c (miscorrect e s)
          goOn f (ctxNow c e k s1) p s1
      | .yielded _ => s
      | .crossing => s
      | .done => s
    else s

/-! ### Rows read from the Borug memory (R14, R131) -/

/-- The pass-through requests of a row: per store die, the Borug lines of its spans as the task sees them. -/
def missOf (s : State) (c : CmdRef) (o : Owner) (row : Nat) (spans : List (Nat × Nat)) : List RowReq :=
  let ls := ((spans.flatMap fun x => linesOf x.1 x.2).map fun l => viewAddr s o (l * 64) / 64).filter fun l => inBorug (l * 64)
  (List.range 4).filterMap fun d =>
    let mine := ls.filter fun l => decide (quadOf (l * 64) = d)
    if mine.isEmpty then none else some ⟨d, c, row, mine⟩

def passFree (s : State) (die : Nat) : Nat :=
  65536 - ((s.mem.passHeld.filter fun x => decide (x.die = die)).map (·.lines.length)).sum

/-- A row request is answered by its stack: the row has arrived, with what is uncorrectable in it. -/
def answerRow (line : Nat) (r : RowReq) (s : State) : State :=
  { s with mem := { s.mem with gathered := s.mem.gathered ++ [(r.c, r.row)], rowBad := s.mem.rowBad ++ [(r.c, r.row, line)] } }

/-- A row request takes lines of its store die, or waits behind the requests before it; one to a stack that is offline fails at
once (R282). -/
def requestRow (r : RowReq) (s : State) : State :=
  if let some l := r.lines.find? fun l => offlineAt s (l * 64) then answerRow l r s
  else if (s.mem.passWait.any fun x => decide (x.die = r.die)) || decide (passFree s r.die < r.lines.length) then
    { s with mem := { s.mem with passWait := s.mem.passWait ++ [r] } }
  else { s with mem := { s.mem with passHeld := s.mem.passHeld ++ [r] } }

/-- The rows that a command has requested and that have not arrived. -/
def rowsOut (s : State) (c : CmdRef) : List Nat :=
  (((s.mem.passHeld ++ s.mem.passWait).filter fun x => decide (x.c = c)).map (·.row)).dedup

/-- The command's thread is out of the ready set: a row that it needs now has not arrived (R131). A command that would go on
to its end needs them all, up to one that timed out, which ends it (R132). -/
def rowOut? (s : State) (c : CmdRef) (e : Circ) : Bool :=
  let late := ((s.mem.timedOut.filter fun x => decide (x.1 = c)).map (·.2.1)).min?
  let out := (rowsOut s c).filter fun r => late.all fun l => decide (r < l)
  match cmdOf s c, e.hold with
  | some k, some _ => match k.ph with
    | .running p => out.contains p
    | _ => !out.isEmpty
  | _, _ => !out.isEmpty

/-- Rows that arrived, or timed out, for a command that is no longer in progress are forgotten. -/
def dropRows (c : CmdRef) (s : State) : State :=
  { s with mem := { s.mem with
    gathered := s.mem.gathered.filter fun x => decide (x.1 ≠ c)
    timedOut := s.mem.timedOut.filter fun x => decide (x.1 ≠ c)
    rowBad := s.mem.rowBad.filter fun x => decide (x.1 ≠ c) } }

/-- A command in progress at row `p` requests the rows from `p` on that miss, with at most 8 outstanding (R131). -/
def requestRows (c : CmdRef) (o : Owner) (rows p : Nat) (reads : Nat → List (Nat × Nat)) (s : State) : State :=
  ((List.range (min 8 (rows - p))).map (p + ·)).foldl (fun t r =>
    if 8 ≤ (rowsOut t c).length || (rowsOut t c).contains r || t.mem.gathered.contains (c, r) then t
    else (missOf t c o r (reads r)).foldl (fun u q => requestRow q u) t) s

/-- The circumstances with the lines of the command's row requests that timed out (R132). -/
def withLate (c : CmdRef) (e : Circ) (s : State) : Circ :=
  { e with gone := (s.mem.timedOut.filter fun x => decide (x.1 = c)).map (·.2.2 * 64) }

/-- A queue command that reads or writes rows in the Borug memory: left in progress at a row, it requests the rows from there
on that lie in the Borug memory, and goes on once the row has arrived or timed out. `reads` gives their number and the device
spans of each. -/
def runRows (op : Nat) (f : Family) (reads : Ctx → State → Nat × (Nat → List (Nat × Nat))) (c : CmdRef) (e : Circ)
    (s : State) : State :=
  if rowOut? s c e then s
  else
    let s1 := runCmd op f c (withLate c e s) s
    match cmdOf s1 c with
    | some k =>
      match k.ph with
      | .running p =>
        let x := mkCtx s1 c e k
        let r := reads x s1
        requestRows c x.o r.1 p r.2 s1
      | .waiting => s1
      | _ => dropRows c s1
    | none => dropRows c s1

/-! ### Replies -/

/-- Vector reply field (R155). -/
def vecReply (x : Ctx) (row : Nat) : Nat := row + x.dcore <<< 40 + (x.cmd.thread.getD 0) <<< 48

/-- Move reply field (R270). -/
def movReply (unit place core : Nat) : Nat := unit % 2 ^ 32 + place <<< 32 + core <<< 40

/-! ### Work by pieces -/

/-- How the pieces of a command ended: the failing piece with status and place, and whether R89 retried or gave up. -/
structure Res where
  fail : Option (Nat × Nat × Nat) := none
  retried : Bool := false
  rerun : Bool := false
deriving DecidableEq, Repr

/-- A command's work as pieces in order. -/
structure Plan where
  pieces : List Piece := []
  /-- lines at and above a failing unit hold old or new bits (R281) -/
  mixed : Bool := false
  /-- the checks of R88 apply -/
  checked : Bool := false
  /-- operand-buffer spans in which the command keeps what is no output: once a piece has run, they hold free bytes but for
  the outputs (log 15) -/
  scratch : List (Nat × Nat) := []
  out : Res → Out
  /-- the array tile, within its visit, that first reads an operand-buffer byte (R92) -/
  tileAt : Nat → Nat → Nat := fun _ _ => 0
  /-- the quanta at whose ends it may yield, and the pieces that are complete there; `none`: it does not yield there (R373) -/
  quanta : Nat := 0
  stop : Nat → Option Nat := fun _ => none
  /-- further effects, and those of a second checksum mismatch -/
  post : Res → State → State := fun _ s => s
  mark : State → State := fun s => s

/-- Outcome of a move of `n` units (R270, R281). -/
def movOut (n core : Nat) (r : Res) : Out :=
  match r.fail with
  | none => { reply := movReply n 0xFF core }
  | some (u, st, w) => { status := st, reply := movReply u w core }

/-- Outcome of a command that works row by row on a vector thread (R155). -/
def rowOut (x : Ctx) (n : Nat) (r : Res) : Out :=
  match r.fail with
  | none => { reply := vecReply x n }
  | some (u, st, _) => { status := st, reply := vecReply x u }

/-- The array tile of a visit at which a parity error stops the command (R92): the first that reads a bad byte. -/
def Plan.parityTile (p : Plan) (e : Circ) (v : Nat) : Option Nat :=
  ((p.pieces[v]?).map fun q => (e.parity.filter fun off =>
    q.obReads.any fun x => decide (x.1 ≤ off) && decide (off < x.1 + x.2)).map (p.tileAt v)).bind List.min?

/-- A mismatch in array tile `m.2` of visit `m.1` counts when that array tile runs: in a visit below the first failing one, or
in an array tile before the one that meets the parity error (R92). -/
def Plan.mismatch (p : Plan) (e : Circ) (m : Option (Nat × Nat)) (rf : Option (Nat × Nat × Nat)) : Option Nat :=
  match m with
  | none => none
  | some (v, t) =>
    if !(v < p.pieces.length) then none
    else match rf with
      | none => some v
      | some f =>
        if v < f.1 then some v
        else if v = f.1 && f.2 == (stUncorr, 0x60) && (p.parityTile e v).any (fun u => decide (t < u)) then some v
        else none

/-- Free bytes in operand-buffer spans, as the command leaves them. -/
def fillScratch (x : Ctx) (l : List (Nat × Nat)) (s : State) : State :=
  l.foldl (fun t y => putOb x.core y.1
    ((List.range y.2).map fun i => Config.scratch (plainHdr x.cmd.hdr) x.par (y.1 + i)) t) s

/-- The state in which the pieces run: the scratch spans are in use unless the first piece already fails. -/
def Plan.enter (p : Plan) (x : Ctx) (rf : Option (Nat × Nat × Nat)) (s : State) : State :=
  if p.scratch.isEmpty || (rf.map (·.1)) == some 0 then s else fillScratch x p.scratch s

/-- Pieces of `tiles n` quanta each that are complete at the end of quantum `k`, which is not the last. -/
def stopTiles (n : Nat) (tiles : Nat → Nat) (k : Nat) : Option Nat :=
  let sums := (List.range n).map fun i => ((List.range (i + 1)).map tiles).sum
  if k + 1 < sums.getLastD 0 then some (sums.filter fun t => decide (t ≤ k + 1)).length else none

def Wr.size (w : Wr) : Nat := w.bytes.length

/-- The quanta of `n` pieces of `tiles i` each, and of pieces that write, `unit` bytes to each. -/
def tileQuanta (n : Nat) (tiles : Nat → Nat) : Nat := ((List.range n).map tiles).sum
def byteQuanta (ps : List Piece) (unit : Nat) : Nat := cdiv ((ps.flatMap (·.writes)).map Wr.size).sum unit

/-- Pieces that are complete when `k + 1` quanta of `unit` bytes are written. -/
def stopBytes (ps : List Piece) (unit k : Nat) : Option Nat :=
  let sums := (List.range ps.length).map fun i => (((ps.take (i + 1)).flatMap (·.writes)).map Wr.size).sum
  if (k + 1) * unit < sums.getLastD 0 then some (sums.filter fun t => decide (t ≤ (k + 1) * unit)).length else none

/-- A plan as it stood when the command first yielded, so that what it wrote before does not change what follows (R68). -/
def Plan.kept (p : Plan) (x : Ctx) (s : State) : Plan :=
  match x.cmd.kept with
  | some ps => { p with pieces := markArrived x.c s ps }
  | none => p

/-- The device spans that a piece writes. -/
def Piece.devWrites (p : Piece) : List (Nat × Nat) :=
  p.writes.filterMap fun w => match w.d with
    | .dev a => some (a, w.size)
    | .ob _ => none

/-- The device spans whose stacks pieces still need, copies into a Cocoon included: not those read by row requests (R131, R282,
R375). -/
def needsOf (s : State) (o : Owner) (ps : List Piece) : List (Nat × Nat) :=
  (ps.flatMap fun p => (if p.arrived then [] else p.reads) ++ p.devWrites) ++ cowSpans s o (ps.flatMap Piece.devWrites)

/-- The device spans of a piece. -/
def Piece.spans (p : Piece) : List (Nat × Nat) :=
  p.reads ++ p.devWrites

/-- The device spans that a plan still needs, up to a piece whose request has timed out (R132, R282). -/
def planReach (mk : Ctx → State → Plan) (x : Ctx) (s : State) : List (Nat × Nat) :=
  let ps := ((mk x s).kept x s).pieces
  needsOf s x.o (match firstFault s x.o x.e ps with
    | some f => ps.take (if f.2.1 = stTimeout then f.1 else f.1 + 1)
    | none => ps)

/-- The steps of a plan: its quanta, or its pieces. -/
def planSteps (mk : Ctx → State → Plan) (x : Ctx) (s : State) : Nat :=
  let p := mk x s
  if p.quanta = 0 then p.pieces.length else p.quanta

/-- A command yields at the end of quantum `k`: what its complete pieces write is written, and its work region is in use (R87).
A command that has met a failure, whose writes wait for a stack that retrains (R282), or that holds no grant for all of that work
(R385), does not yield. -/
def yieldPlan (mk : Ctx → State → Plan) (k : Nat) (x : Ctx) (s : State) : Option State :=
  let p := (mk x s).kept x s
  (p.stop k).bind fun n =>
    let done := p.pieces.take n
    if decide (paidSteps s x.c p.quanta ≤ k) || (firstFault s x.o x.e (p.pieces.take (n + 1))).isSome || mustWait s x.o x.e (needsOf s x.o done) then none
    else
      let s1 := leaveEngines x (runPieces false x.o x.e x.core done (p.enter x none s)).1
      some (modCmd x.c (fun k => { k with kept := some p.pieces }) s1)

def execPlan (p0 : Plan) (x : Ctx) (s : State) : State :=
  let p := p0.kept x s
  let rf := firstFault s x.o x.e p.pieces
  let m1 := if p.checked then p.mismatch x.e x.e.mis1 rf else none
  match m1, (if m1.isSome then p.mismatch x.e x.e.mis2 rf else none) with
  | some v, some w =>
    let (s1, _) := runPieces p.mixed x.o x.e x.core (p.pieces.take (max v w)) (p.enter x rf s)
    let r : Res := { fail := some (w, stChecksum, 0x60), retried := true, rerun := true }
    p.post r (complete x.c { p.out r with rerun := true } (p.mark (leaveEngines x s1)))
  | m, _ =>
    let (s1, fl) := runPieces p.mixed x.o x.e x.core p.pieces (p.enter x rf s)
    let r : Res := { fail := fl, retried := m.isSome }
    p.post r (complete x.c (p.out r) (leaveEngines x s1))

/-- The device spans that the pieces of a plan read and write, as the rows of `runRows`. -/
def planRows (mk : Ctx → State → Plan) (x : Ctx) (s : State) : Nat × (Nat → List (Nat × Nat)) :=
  let ps := (mk x s).pieces
  (ps.length, fun r => (ps[r]?.map Piece.spans).getD [])

/-- A core is marked for retirement, which ends a queue-fed run (R12, R90, R441). -/
def markCore (x : Ctx) (s : State) : State :=
  let s1 := modTask x.c.q x.cmd.task (fun t => { t with avoid := some x.core })
    { s with cores := { s.cores with marked := insNat x.core s.cores.marked } }
  if (s.sup.run.map (·.kind)) == some .queueFed then beginCrossing s1 else s1

end Sys2Proof.Machine
end

