-- ==== Sys2Proof/Machine/Conv.lean ====
section
/-!
DEFINITION. The expansion descriptor and the expanded buffer of a convolution (R100 to R108), and the window rule of R111.
-/
namespace Sys2Proof.Machine

/-- One axis of a descriptor: kernel, stride, dilation, padding before and after, repeat, zero insertion, input size. -/
structure Axis where
  k : Nat
  s : Nat
  d : Nat
  p0 : Nat
  p1 : Nat
  r : Nat
  z : Nat
  n : Nat
deriving DecidableEq, Repr

structure Expd where
  y : Axis
  x : Axis
  replicate : Bool
  groups : Nat
  cin : Nat
  cout : Nat
deriving DecidableEq, Repr

/-- The map of R100. -/
def Expd.parse (v : Nat) : Expd :=
  { y := ⟨fld v 3 0, fld v 9 8 + 1, fld v 13 12 + 1, fld v 18 16, fld v 21 19, fld v 34 32 + 1, fld v 39 38 + 1, fld v 111 96⟩
    x := ⟨fld v 7 4, fld v 11 10 + 1, fld v 15 14 + 1, fld v 24 22, fld v 27 25, fld v 37 35 + 1, fld v 41 40 + 1, fld v 127 112⟩
    replicate := bit v 28
    groups := fld v 63 48
    cin := fld v 79 64
    cout := fld v 95 80 }

/-- Size of the virtual plane (R101). -/
def Axis.virt (a : Axis) : Nat := if 1 < a.r then a.n * a.r else if 1 < a.z then (a.n - 1) * a.z + 1 else a.n

/-- Size of the output plane (R101), below 1 where there is none. -/
def Axis.out (a : Axis) : Int :=
  ((a.virt : Int) + a.p0 + a.p1 - a.d * ((a.k : Int) - 1) - 1) / (a.s : Int) + 1

def Axis.outN (a : Axis) : Nat := a.out.toNat

def Axis.bad (a : Axis) : Bool := a.k == 0 || a.n == 0 || (decide (1 < a.r) && decide (1 < a.z)) || decide (a.out < 1)

def Expd.cgIn (e : Expd) : Nat := e.cin / e.groups
def Expd.cgOut (e : Expd) : Nat := e.cout / e.groups

/-- The cases of R8, R101 and R108. -/
def Expd.bad (v : Nat) : Bool :=
  let e := Expd.parse v
  !zeros v [(31, 29), (47, 42)] || e.y.bad || e.x.bad || e.groups == 0 || e.cin == 0 || e.cout == 0 ||
    !divides e.groups e.cin || !divides e.groups e.cout ||
    (decide (1 < e.groups) &&
      (if 16 ≤ e.cgOut then !divides 16 e.cgOut else !(divides e.cgOut 16 && divides 16 e.cout)))

/-- Channels per tap C_k and number of A blocks n_a (R103, R108). -/
def Expd.ck (e : Expd) : Nat :=
  if e.groups ≤ 1 then e.cin else if 16 ≤ e.cgOut then e.cgIn else e.cgIn * 16 / e.cgOut
def Expd.na (e : Expd) : Nat :=
  if e.groups ≤ 1 then 1 else if 16 ≤ e.cgOut then e.groups else e.cout / 16
/-- Columns that one A block serves (R108). -/
def Expd.colsPerBlock (e : Expd) : Nat := if e.groups ≤ 1 then e.cout else max 16 e.cgOut

def Expd.kRaw (e : Expd) : Nat := e.y.k * e.x.k * e.ck
def Expd.kPad (e : Expd) : Nat := roundUp 32 e.kRaw

/-- Expansion is skipped (R105). -/
def Expd.skip (e : Expd) : Bool :=
  let one : Axis → Bool := fun a => a.k == 1 && a.s == 1 && a.p0 == 0 && a.p1 == 0 && a.r == 1 && a.z == 1
  one e.y && one e.x && e.groups == 1 && divides 32 e.cin

/-- Size E of the expanded buffer of a window of `n` positions (R105). -/
def Expd.size (e : Expd) (f : Fmt) (n : Nat) : Nat :=
  if e.skip then 0 else e.na * f.tensorBytes (roundUp 128 n) e.kPad

/-- R104. -/
def Expd.badFmt (e : Expd) (f : Fmt) : Bool := f.bs != 0 && !divides f.bs e.ck

/-- Source row or column of an output coordinate and tap (R102); `none` reads 0. -/
def Axis.src (a : Axis) (replicate : Bool) (o k : Nat) : Option Nat :=
  let v : Int := (o : Int) * a.s - a.p0 + k * a.d
  let r : Option Int := if 1 < a.z then (if v % (a.z : Int) = 0 then some (v / (a.z : Int)) else none) else some (v / (a.r : Int))
  match r with
  | none => none
  | some i =>
    if 0 ≤ i ∧ i < a.n then some i.toNat
    else if replicate then some (max 0 (min i ((a.n : Int) - 1))).toNat else none

/-- The window rule of R111: first and last input coordinate, the last below the first when there is none. -/
def Axis.window (a : Axis) (lo hi : Int) : Int × Int :=
  let l := lo * a.s - a.p0
  let h := hi * a.s - a.p0 + a.d * ((a.k : Int) - 1)
  let c := if 1 < a.z then (-((-l) / (a.z : Int)), h / (a.z : Int)) else (l / (a.r : Int), h / (a.r : Int))
  (max c.1 0, min c.2 ((a.n : Int) - 1))

/-- A window of a plane: first row, first column, height, width. -/
structure Win where
  y : Int
  x : Int
  h : Nat
  w : Nat
deriving DecidableEq, Repr

def Win.ofBounds (y x : Int × Int) : Win := ⟨y.1, x.1, (y.2 - y.1 + 1).toNat, (x.2 - x.1 + 1).toNat⟩

/-- The input window that an output window needs (R111). -/
def Expd.inWindow (e : Expd) (o : Win) : Win :=
  Win.ofBounds (e.y.window o.y (o.y + o.h - 1)) (e.x.window o.x (o.x + o.w - 1))

/-- Index of a plane coordinate in a source window. Coordinates outside it are the plane's edge (R267); an empty window, which
R111 gives where all of it lies in the padding, reads 0 even under replicate padding (log 72). -/
def inSource (replicate : Bool) (w0 : Int) (n : Nat) (i : Nat) : Option Nat :=
  let d : Int := (i : Int) - w0
  if 0 ≤ d ∧ d < n then some d.toNat
  else if replicate && n != 0 then some (max 0 (min d ((n : Int) - 1))).toNat else none

/-- The line of a source window in tile layout that row `row` of the expanded buffer of output window `o` reads for tap
`tap` (R102, R103). -/
def Expd.line (e : Expd) (o src : Win) (row tap : Nat) : Option Nat :=
  if row < o.h * o.w then
    let oy := (o.y + (row / o.w : Nat)).toNat
    let ox := (o.x + (row % o.w : Nat)).toNat
    match (e.y.src e.replicate oy (tap / e.x.k)).bind (inSource e.replicate src.y src.h),
        (e.x.src e.replicate ox (tap % e.x.k)).bind (inSource e.replicate src.x src.w) with
    | some i, some j => some (i * src.w + j)
    | _, _ => none
  else none

/-- Code and scale of element `k` of row `row` in A block `b` of the expanded buffer; `rd` reads the source window in tile
layout (R103, R104, R108). -/
def Expd.el (e : Expd) (f : Fmt) (rd : Nat → Byte) (o src : Win) (b row k : Nat) : Nat × Nat :=
  if k < e.kRaw then
    match e.line o src row (k / e.ck) with
    | some l => f.tileCode rd (src.h * src.w) e.cin l (b * e.ck + k % e.ck)
    | none => (0, 0)
  else (0, 0)

/-- Bytes of the source window that a row of block `b` reads. -/
def Expd.reads (e : Expd) (f : Fmt) (o src : Win) (b row : Nat) : List (Nat × Nat) :=
  (List.range (e.y.k * e.x.k)).flatMap fun tap =>
    match e.line o src row tap with
    | some l => f.lineSpans (src.h * src.w) e.cin l (b * e.ck) e.ck
    | none => []

end Sys2Proof.Machine
end

