-- ==== Sys2Proof/Machine/Luna.lean ====
section
/-! DEFINITION. The Luna generator, its record and the fields of a draw (R220 to R224). -/
namespace Sys2Proof.Machine

def rotl32 (v n : Nat) : Nat := (v <<< n ||| v >>> (32 - n)) % 2 ^ 32

/-- One round of R220 on the four words. -/
def lunaRound (k : Nat → Nat) (r : Nat) (x : Nat × Nat × Nat × Nat) : Nat × Nat × Nat × Nat :=
  let m := 2 ^ 32
  let (x0, x1, x2, x3) := x
  let x0 := (x0 + x1) % m
  let x3 := rotl32 (x3 ^^^ x0) 13
  let x2 := (x2 + x3) % m
  let x1 := rotl32 (x1 ^^^ x2) 9
  let x0 := (x0 + x1) % m
  let x3 := rotl32 (x3 ^^^ x0) 21
  let x2 := (x2 + x3) % m
  let x1 := rotl32 (x1 ^^^ x2) 5
  let x1 := x1 * 0xb5d3a1e7 % m
  let add := fun x i => (x + k ((i + r + 1) % 4) + (r + 1) * 0x8f1bc5a3) % m
  (add x1 1, add x2 2, add x3 3, add x0 0)

/-- A draw of 128 bits (R220). -/
def luna (key ctr : Nat) : Nat :=
  let w := fun v i => v >>> (32 * i) % 2 ^ 32
  let k := w key
  let x := (w ctr 0 ^^^ k 0, w ctr 1 ^^^ k 1, w ctr 2 ^^^ k 2, w ctr 3 ^^^ k 3)
  let y := (List.range 10).foldl (fun x r => lunaRound k r x) x
  y.1 + y.2.1 <<< 32 + y.2.2.1 <<< 64 + y.2.2.2 <<< 96

/-- The effective stream of a stream value under a record (R222). -/
def effStream (rec s : Nat) : Nat :=
  let slot := fld s 31 28
  let off := if slot = 0 then 0 else fld rec (32 * slot + 155) (32 * slot + 128)
  slot <<< 28 + (fld s 27 0 + off) % 2 ^ 28

/-- The field of `w` bits at position `j` of a draw that serves `g` elements, with the wrap of R224. -/
def drawField (draw g w j : Nat) : Nat :=
  let b := j * 128 / g
  ((draw >>> b) ||| (draw <<< (128 - b))) % 2 ^ w

/-- The field of an element of linear index `l` (R221, R224). -/
def lunaField (rec stream tensor g w l : Nat) : Nat :=
  drawField (luna (rec % 2 ^ 128) (l / g % 2 ^ 64 + tensor <<< 64 + effStream rec stream <<< 96)) g w (l % g)

/-- The linear index of R224, modulo 2^64. -/
def linIndex (row0 r rowLen col0 c : Nat) : Nat := ((row0 + r) * rowLen + (col0 + c)) % 2 ^ 64

/-- The Luna record bound to a job. -/
def boundLuna (s : State) (job : Nat) : Option Nat := look s.luna job

def lunaRecord (s : State) (o : Owner) (a : Nat) : Nat := readNat s o a 128

end Sys2Proof.Machine
end

