-- ==== Sys2Proof/Machine/Sfu.lean ====
section
/-!
DEFINITION. The special-function unit (R134 to R143): kernels, segment tables by the rule of R136 and R139, special values
(R140) and the derived functions (R143). Kernel values are found by series in fixed point, far below the rounding of the
nodes (log 13).
-/
namespace Sys2Proof.Machine

/-! ### Fixed point with 220 fraction bits -/

def fxBits : Nat := 220
def fxOne : Int := ((2 ^ 220 : Nat) : Int)
/-- `num / den` in fixed point, rounded down. -/
def fxRat (num : Int) (den : Nat) : Int := num * fxOne / (den : Int)
def fxMul (a b : Int) : Int := a * b / fxOne
def fxDiv (a b : Int) : Int := a * fxOne / b

/-- Σ over `k < n` of `z^(2k+1) / (2k+1)`, with sign `s` per term: atanh (s = 1) or atan (s = -1). -/
def oddSeries (s : Int) (z2 : Int) : Nat → Nat → Int → Int
  | 0, _, _ => 0
  | n + 1, k, p => p / ((2 * k + 1 : Nat) : Int) + s * oddSeries s z2 n (k + 1) (fxMul p z2)

def fxAtanh (z : Int) : Int := oddSeries 1 (fxMul z z) 120 0 z
def fxAtan (z : Int) : Int := oddSeries (-1) (fxMul z z) 120 0 z

def fxLn2 : Int := 2 * fxAtanh (fxRat 1 3)
def fxPi : Int := 16 * fxAtan (fxRat 1 5) - 4 * fxAtan (fxRat 1 239)

/-- Taylor series Σ r^k / k!. -/
def expSeries (r : Int) : Nat → Nat → Int → Int
  | 0, _, _ => 0
  | n + 1, k, p => p + expSeries r n (k + 1) (fxMul p r / ((k + 1 : Nat) : Int))

/-- `e ^ y` in fixed point. -/
def fxExp (y : Int) : Int :=
  let n := y / fxLn2
  let v := expSeries (y - n * fxLn2) 70 0 fxOne
  if 0 ≤ n then v * ((2 ^ n.toNat : Nat) : Int) else v / ((2 ^ (-n).toNat : Nat) : Int)

/-- Taylor series of sine: Σ (-1)^k x^(2k+1) / (2k+1)!. -/
def sinSeries (x2 : Int) : Nat → Nat → Int → Int
  | 0, _, _ => 0
  | n + 1, k, p => p - sinSeries x2 n (k + 1) (fxMul p x2 / (((2 * k + 2) * (2 * k + 3) : Nat) : Int))

/-- Integer square root, bit by bit from bit `n - 1` down. -/
def isqrtBits (v : Nat) : Nat → Nat → Nat
  | 0, r => r
  | n + 1, r =>
    let c := r + 2 ^ n
    isqrtBits v n (if c * c ≤ v then c else r)

def isqrt (v : Nat) : Nat := isqrtBits v (Nat.log2 v / 2 + 1) 0

/-! ### Nodes: kernel values to multiples of 2^-40 (R136) -/

/-- A fixed-point value to the nearest multiple of 2^-40, ties to even. -/
def toNode (v : Int) : Int := (rneShift v.toNat 180 : Nat)

/-- The nearest multiple of 2^-40 to `num / den`, ties to even. -/
def ratNode (num den : Nat) : Int :=
  let n := num * 2 ^ 40
  let q := n / den
  let r := n % den
  ((if den < 2 * r ∨ (2 * r = den ∧ q % 2 = 1) then q + 1 else q : Nat) : Int)

/-- The nearest multiple of 2^-40 to the square root of `num / den`; ties do not arise off exact roots. -/
def sqrtNode (num den : Nat) : Int :=
  let v := isqrt (num * 2 ^ 100 / den)      -- ⌊√(num / den) · 2^50⌋
  ((rneShift (2 * v + (if v * v * den = num * 2 ^ 100 then 0 else 1)) 11 : Nat) : Int)

/-- Functions with kernels (R135). RSQRT and SQRT come with the parity of the exponent. -/
inductive Kern where
  | exp2 | log2 | rcp | sine
  | rsqrt (odd : Bool)
  | sqrt (odd : Bool)
deriving DecidableEq, Repr

/-- φ at `num / den` as a node. -/
def Kern.node (k : Kern) (num den : Nat) : Int :=
  match k with
  | .exp2 => toNode (fxExp (fxMul (fxRat num den) fxLn2))
  | .log2 =>
    if num = den then toNode (fxDiv fxOne fxLn2)
    else
      let t := fxRat num den
      toNode (fxDiv (fxDiv (2 * fxAtanh (fxDiv (t - fxOne) (t + fxOne))) fxLn2) (t - fxOne))
  | .rcp => ratNode den num
  | .sine =>
    if num = 0 then toNode (2 * fxPi)
    else
      let x := fxMul (2 * fxPi) (fxRat num den)
      toNode (fxDiv (sinSeries (fxMul x x) 60 0 x) (fxRat num den))
  | .rsqrt odd => sqrtNode den (if odd then 2 * num else num)
  | .sqrt odd => sqrtNode (if odd then 2 * num else num) den

/-- Coefficients of a segment in units of 2^-40: y0 + b u + c u². -/
structure Seg where
  y0 : Int
  b : Int
  c : Int
deriving DecidableEq, Repr

/-- A quadratic `a + b u + c u²` is negative somewhere on [0, 1]. -/
def negSomewhere (a b c : Int) : Bool :=
  decide (a < 0) || decide (a + b + c < 0) ||
    (decide (0 < c) && decide (b < 0) && decide (-b < 2 * c) && decide (4 * a * c < b * b))

/-- The test of R136: the derivative of F × p takes the strictly wrong sign. `g` is (t_j - 1) / h for LOG2 and t_j / h for
sine. -/
def Kern.wrong (k : Kern) (g : Int) (s : Seg) : Bool :=
  match k with
  | .exp2 => negSomewhere s.b (2 * s.c) 0
  | .sqrt _ => negSomewhere s.b (2 * s.c) 0
  | .rcp => negSomewhere (-s.b) (-2 * s.c) 0
  | .rsqrt _ => negSomewhere (-s.b) (-2 * s.c) 0
  | .log2 => negSomewhere (s.y0 + g * s.b) (2 * s.b + 2 * s.c * g) (3 * s.c)
  | .sine => negSomewhere (s.y0 + g * s.b) (2 * s.b + 2 * s.c * g) (3 * s.c)

/-- A segment from `t0 / den` of width `h / den` (R136, R139). -/
def Kern.seg (k : Kern) (nl : Nat) (t0 h den : Nat) (g : Int) : Seg :=
  let y0 := k.node t0 den
  let y2 := k.node (t0 + h) den
  if nl = 2 then ⟨y0, y2 - y0, 0⟩
  else
    let y1 := k.node (2 * t0 + h) (2 * den)
    let s : Seg := ⟨y0, 4 * y1 - 3 * y0 - y2, 2 * y0 - 4 * y1 + 2 * y2⟩
    if k.wrong g s then ⟨y0, y2 - y0, 0⟩ else s

/-- p(u) for u = `u / 2^w`, exactly. -/
def Seg.at (s : Seg) (u : Nat) (w : Nat) : Ext :=
  .fin (s.y0 * ((2 ^ (2 * w) : Nat) : Int) + s.b * (u : Int) * ((2 ^ w : Nat) : Int) + s.c * (u : Int) * (u : Int))
    (-40 - 2 * (w : Int))

/-- The normalised exponent and 23 fraction bits of a positive finite value `m * 2^e` of FP32. -/
def normal (m : Nat) (e : Int) : Int × Nat :=
  let l := Nat.log2 m
  (e + (l : Int), (if l ≤ 23 then m <<< (23 - l) else m >>> (l - 23)) - 2 ^ 23)

/-- Fraction bits cut into segment number and position, at `k` index bits of the low `n` bits (R137, R139). -/
def cut (f n k : Nat) : Nat × Nat := ((f % 2 ^ n) >>> (n - k), f % 2 ^ (n - k))

/-- EXP2 of a finite nonzero value (R135). -/
def exp2Fin (nl : Nat) (m : Int) (e : Int) : Ext :=
  if (Ext.fin 256 0).lt (.fin m e) then .inf false
  else if (Ext.fin m e).lt (.fin (-400) 0) then .zero
  else
    let d : Nat := (-(min e 0)).toNat
    let v : Int := if 0 ≤ e then m * ((2 ^ e.toNat : Nat) : Int) else m
    let n := v / ((2 ^ d : Nat) : Int)
    let t := (v % ((2 ^ d : Nat) : Int)).toNat
    let sb := if nl = 2 then 8 else 6
    let ub := if nl = 2 then 30 else 32
    let j := (t <<< sb) >>> d
    let u := ((t <<< sb) % 2 ^ d) <<< ub >>> d
    ((Kern.exp2.seg nl j 1 (2 ^ sb) 0).at u ub).mul (.fin 1 n)

/-- LOG2 of a positive finite value. -/
def log2Fin (nl : Nat) (m : Nat) (e : Int) : Ext :=
  let (x, f) := normal m e
  let hi := 2 ^ 22 ≤ f
  let kb := if nl = 2 then 7 else 5
  let (j, u) := cut f 22 kb
  let n := 2 ^ kb
  -- the half [0.75, 1) in steps 1 / (4 n), or [1, 1.5) in steps 1 / (2 n)
  let s := if hi then Kern.log2.seg nl (3 * n + j) 1 (4 * n) ((j : Int) - n)
    else Kern.log2.seg nl (2 * n + j) 1 (2 * n) j
  let t1 : Ext := if hi then .fin ((f : Int) + 2 ^ 23 - 2 ^ 24) (-24) else .fin (f : Int) (-23)
  (Ext.ofInt (if hi then x + 1 else x)).add (t1.mul (s.at u (22 - kb)))

/-- RCP, RSQRT and SQRT of a positive finite value. -/
def rootFin (nl : Nat) (m : Nat) (e : Int) (k : Bool → Kern) (scale : Int → Int) : Ext :=
  let (x, f) := normal m e
  let kb := if nl = 2 then 8 else 6
  let (j, u) := cut f 23 kb
  (((k (x % 2 = 1)).seg nl (2 ^ kb + j) 1 (2 ^ kb) 0).at u (23 - kb)).mul (.fin 1 (scale x))

/-- Sign and ρ of SIN and COS of a finite value in turns: `num / 2^w` (R135). -/
def turnOf (cos : Bool) (m : Int) (e : Int) : Bool × Nat × Nat :=
  if 0 ≤ e then (false, if cos then 1 else 0, 2)
  else
    let d := (-e).toNat
    let v := 4 * m
    let q := (v / ((2 ^ d : Nat) : Int)) % 4
    let r := (v % ((2 ^ d : Nat) : Int)).toNat          -- r / 2^(d + 2) of a turn
    let c := 2 ^ d - r
    if cos then (q = 1 ∨ q = 2, if q = 0 ∨ q = 2 then c else r, d + 2)
    else (q = 2 ∨ q = 3, if q = 0 ∨ q = 2 then r else c, d + 2)

def sinCos (nl : Nat) (cos : Bool) (m : Int) (e : Int) : Ext :=
  let (neg, r, w) := turnOf cos m e
  let v : Ext :=
    if 4 * r = 2 ^ w then .fin 1 0
    else
      let sb := if nl = 2 then 10 else 8
      let ub := if nl = 2 then 30 else 32
      let j := (r <<< sb) >>> w
      let u := ((r <<< sb) % 2 ^ w) <<< ub >>> w
      ((Kern.sine.seg nl j 1 (2 ^ sb) j).at u ub).mul (.fin r (-(w : Int)))
  if neg then v.neg else v

/-! ### SIGMOID, TANH, GELU, SILU (R138) -/

inductive Curve where
  | sigmoid | tanh | gelu | silu
deriving DecidableEq, Repr

def fxSigmoid (y : Int) : Int := fxDiv fxOne (fxOne + fxExp (-y))

/-- √(2/π) in fixed point. -/
def fxGeluK : Int := (isqrt ((fxDiv (2 * fxOne) fxPi).toNat * 2 ^ 220) : Nat)

/-- The exact function at `x = k / 16`, in fixed point. -/
def Curve.value (c : Curve) (k : Int) : Int :=
  if k = 0 then (if c = .sigmoid then fxOne / 2 else 0)
  else
    let x := fxRat k 16
    match c with
    | .sigmoid => fxSigmoid x
    | .tanh => 2 * fxSigmoid (2 * x) - fxOne
    | .gelu =>
      let z := fxMul fxGeluK (x + fxMul (fxRat 44715 1000000) (fxMul x (fxMul x x)))
      fxMul x (fxSigmoid (2 * z))
    | .silu => fxMul x (fxSigmoid x)

/-- Node y_i, rounded to FP32. -/
def Curve.node (c : Curve) (i : Nat) : Ext := val32 (rne32 (.fin (c.value ((i : Int) - 128)) (-220)))

def Curve.low : Curve → Word
  | .sigmoid => 0 | .tanh => 0xBF800000#32 | .gelu => 0x80000000#32 | .silu => 0x80000000#32
def Curve.high (x : Word) : Curve → Word
  | .sigmoid => one32 | .tanh => one32 | .gelu => x | .silu => x

def Curve.eval (c : Curve) (x : Word) : Word :=
  match val32 x with
  | .nan => nan32
  | v =>
    if v.lt (.fin (-8) 0) then c.low
    else if v.lt (.fin 8 0) then
      match v with
      | .fin m e =>
        -- 16 (x + 8) = m · 2^(e + 4) + 128
        let d : Nat := (-(min (e + 4) 0)).toNat
        let n : Int := (if 0 ≤ e + 4 then m * ((2 ^ (e + 4).toNat : Nat) : Int) else m) + 128 * ((2 ^ d : Nat) : Int)
        let i := (n / ((2 ^ d : Nat) : Int)).toNat
        let u : Ext := .fin (n % ((2 ^ d : Nat) : Int)) (-(d : Int))
        let y := c.node i
        rne32 (y.add (((c.node (i + 1)).sub y).mul u))
      | _ => nan32
    else c.high x

/-! ### All functions of the unit -/

inductive Sfu where
  | exp2 | log2 | rcp | rsqrt | sqrt | sin | cos
  | exp | ln | sinr | cosr
  | curve (c : Curve)
deriving DecidableEq, Repr

def inf32 (neg : Bool) : Word := rne32 (.inf neg)
def zero32 (neg : Bool) : Word := if neg then 0x80000000#32 else 0

def sfuExp2 (nl : Nat) (x : Word) : Word :=
  match val32 x with
  | .nan => nan32
  | .inf n => if n then 0 else inf32 false
  | .fin m e => if m = 0 then one32 else rne32 (exp2Fin nl m e)

def sfuLog2 (nl : Nat) (x : Word) : Word :=
  match val32 x with
  | .nan => nan32
  | .inf n => if n then nan32 else inf32 false
  | .fin m e => if m = 0 then inf32 true else if m < 0 then nan32 else rne32 (log2Fin nl m.toNat e)

def sfuRcp (nl : Nat) (x : Word) : Word :=
  match val32 x with
  | .nan => nan32
  | .inf n => zero32 n
  | .fin m e =>
    if m = 0 then inf32 (signOf x)
    else
      let v := rootFin nl m.natAbs e (fun _ => .rcp) (fun k => -k)
      rne32 (if m < 0 then v.neg else v)

def sfuRsqrt (nl : Nat) (x : Word) : Word :=
  match val32 x with
  | .nan => nan32
  | .inf n => if n then nan32 else 0
  | .fin m e =>
    if m = 0 then inf32 (signOf x)
    else if m < 0 then nan32 else rne32 (rootFin nl m.toNat e Kern.rsqrt fun k => -(k / 2))

def sfuSqrt (nl : Nat) (x : Word) : Word :=
  match val32 x with
  | .nan => nan32
  | .inf n => if n then nan32 else inf32 false
  | .fin m e =>
    if m = 0 then zero32 (signOf x)
    else if m < 0 then nan32 else rne32 (rootFin nl m.toNat e Kern.sqrt fun k => k / 2)

def sfuSin (nl : Nat) (x : Word) : Word :=
  match val32 x with
  | .fin m e => if m = 0 then zero32 (signOf x) else rne32 (sinCos nl false m e)
  | _ => nan32

def sfuCos (nl : Nat) (x : Word) : Word :=
  match val32 x with
  | .fin m e => if m = 0 then one32 else rne32 (sinCos nl true m e)
  | _ => nan32

/-- An SFU function at a numerics level. -/
def sfu (nl : Nat) (f : Sfu) (x : Word) : Word :=
  match f with
  | .exp2 => sfuExp2 nl x
  | .log2 => sfuLog2 nl x
  | .rcp => sfuRcp nl x
  | .rsqrt => sfuRsqrt nl x
  | .sqrt => sfuSqrt nl x
  | .sin => sfuSin nl x
  | .cos => sfuCos nl x
  | .exp => sfuExp2 nl (fmul x 0x3FB8AA3B#32)
  | .ln => fmul (sfuLog2 nl x) 0x3F317218#32
  | .sinr => sfuSin nl (fmul x 0x3E22F983#32)
  | .cosr => sfuCos nl (fmul x 0x3E22F983#32)
  | .curve c => c.eval x

end Sys2Proof.Machine
end

