-- ==== Sys2Proof/Machine/Stats.lean ====
section
/-! DEFINITION. Row statistics (R144 to R147). -/
namespace Sys2Proof.Machine

/-- Rounding of `m * 2^e` to the internal format of R144: 24 bits, ties to even. -/
def rndI : Ext → Ext
  | .fin m e =>
    let l := Nat.log2 m.natAbs
    if l < 24 then .fin m e
    else
      let q := rneShift m.natAbs ((l : Int) - 23)
      .fin (if m < 0 then -(q : Int) else q) (e + ((l : Int) - 23))
  | x => x

/-- `rnd_i` of an exact quotient by a count. -/
def rndDiv (x : Ext) (n : Nat) : Ext :=
  match x with
  | .fin m e =>
    let (q, k) := quotSticky 32 m.natAbs n
    rndI (.fin (if m < 0 then -(q : Int) else q) (k + e))
  | y => y

structure Node where
  count : Nat
  mean : Ext
  m2 : Ext
deriving DecidableEq, Repr

/-- One segment of at most 16 columns (R145). -/
def segStat (l : List Ext) : Node :=
  let mu := rndDiv (Ext.sum l) l.length
  ⟨l.length, mu, rndI (Ext.sum (l.map fun x => (x.sub mu).mul (x.sub mu)))⟩

/-- Chan's formula (R146). -/
def mergeStat (a b : Node) : Node :=
  let n := a.count + b.count
  let d := b.mean.sub a.mean
  let mean := rndDiv ((a.mean.mul (.ofInt n)).add (d.mul (.ofInt b.count))) n
  let m2 := rndDiv (((a.m2.add b.m2).mul (.ofInt n)).add ((d.mul d).mul (.ofInt (a.count * b.count)))) n
  ⟨n, mean, m2⟩

/-- Mean, variance and rstd of a row (R147). -/
def rowStats (nl : Nat) (l : List Word) (eps : Word) : Word × Word × Word :=
  if l.any isNan32 then (nan32, nan32, nan32)
  else if l.all isFin32 then
    let t := tree mergeStat ⟨0, .zero, .zero⟩ ((chunks 16 (l.map val32)).map segStat)
    let var := rne32Div t.m2 (.ofInt t.count)
    (rne32 t.mean, var, sfu nl .rsqrt (fadd var eps))
  else (rne32 (Ext.sum (l.filterMap fun w => if isFin32 w then none else some (val32 w))), nan32, nan32)

end Sys2Proof.Machine
end

