-- ==== Sys2Proof/Machine/Chain.lean ====
section
/-!
DEFINITION. Fused chains: the descriptor (R160, R161), its checks (R166, R177), the arithmetic of the stages (R162 to R165,
R176), staging (R173) and spans.
-/
namespace Sys2Proof.Machine

/-! ### The descriptor (R160) -/

structure Stage where
  kind : Nat
  ifmt : Nat
  stream : Nat
  stat : Nat
  func : Nat
  vec : Bool
  write : Nat
  gsel : Nat
  p : Nat → Nat
  raw : Nat

def Stage.parse (v : Nat) : Stage :=
  { kind := fld v 3 0, ifmt := fld v 7 4, stream := fld v 9 8, stat := fld v 11 10, func := fld v 14 12, vec := bit v 15
    write := fld v 18 16, gsel := fld v 20 19, p := fun i => fld v (63 + 32 * i) (32 + 32 * i), raw := v }

def Stage.w (st : Stage) (i : Nat) : Word := BitVec.ofNat 32 (st.p i)

structure Strm where
  off : Nat
  fmt : Nat
  use : Nat
  raw : Nat
deriving DecidableEq, Repr

/-- The lists of R156; the middle list differs between the running and the resident form (R161). -/
inductive Lst where
  | pro | midRun | midRes | epi
deriving DecidableEq, Repr

def Lst.use : Lst → Nat
  | .pro => 1 | .midRun => 2 | .midRes => 2 | .epi => 3

structure Chain where
  hdr : Nat
  parity : Bool
  efmt : Nat
  pfmt : Nat
  streams : List Strm
  pro : List Stage
  mid : List Stage
  epi : List Stage

def stagesAt (par byte n : Nat) : List Stage :=
  (List.range n).map fun i => Stage.parse (fld par (8 * (byte + 32 * i) + 255) (8 * (byte + 32 * i)))

/-- The chain descriptor at parameter byte 128; without it, operand A is stored in its own format (R97, R160). -/
def Chain.parse (present : Bool) (fmtA par : Nat) : Chain :=
  if present then
    let h := fld par 1535 1024
    { hdr := h, parity := bit h 12, efmt := fld h 19 16, pfmt := fld h 23 20
      streams := (List.range 3).map fun i =>
        let d := fld h (95 + 64 * i) (32 + 64 * i)
        ⟨fld d 31 0, fld d 35 32, fld d 37 36, d⟩
      pro := stagesAt par 192 (fld h 3 0), mid := stagesAt par 448 (fld h 7 4), epi := stagesAt par 704 (fld h 11 8) }
  else { hdr := 0, parity := false, efmt := 0, pfmt := fmtA, streams := [], pro := [], mid := [], epi := [] }

/-! ### Checks (R160, R161, R166) -/

/-- The kinds a list may hold (R161); `after` says that SOFTMAX stands before the stage. -/
def kindOk (l : Lst) (after : Bool) (k : Nat) : Bool :=
  if k = 0xF then true
  else match l with
    | .pro => decide (1 ≤ k) && decide (k ≤ 0xA)
    | .epi => decide (1 ≤ k) && decide (k ≤ 0xB)
    | .midRes => decide (1 ≤ k) && decide (k ≤ 0xA)
    | .midRun => if after then k == 9 else k == 1 || k == 2 || k == 3 || k == 6 || k == 0xC

/-- Parameter words that a stage uses (R161). A word that a field of the stage turns off counts as one that it does not use, and
must be 0 (DESIGN CHOICE, log 79: R160 says it of the words that a kind does not use). -/
def Stage.uses (st : Stage) : List Nat :=
  match st.kind with
  | 0x1 => if st.vec then [1] else [0]
  | 0x2 => if st.vec then [1] else [0]
  | 0x6 => [0, 1]
  | 0x7 => 0 :: ((List.range 3).filter fun i => bit st.write i).map (· + 1)
  | 0x8 => if st.stat = 1 then [1, 2] else if st.stat = 0 then [] else [0]
  | 0x9 => [0, 1, 2, 3, 4, 5, 6]
  | 0xA => [2, 3, 4, 5, 6]
  | 0xB => if bit st.write 0 then [0, 1] else [1]
  | _ => []

/-- Field width of DROP: 128 / G (R165). -/
def Stage.g (st : Stage) : Nat := 8 * 2 ^ st.gsel
def Stage.fieldW (st : Stage) : Nat := 128 / st.g

def Stage.bad (c : Chain) (l : Lst) (after last : Bool) (st : Stage) : Bool :=
  let k := st.kind
  !kindOk l after k || (k == 0xF && (!last || st.ifmt != 0)) || (k != 0xF && decide (2 < st.ifmt)) ||
  (List.range 7).any (fun i => !st.uses.contains i && st.p i != 0) || fld st.raw 31 21 != 0 ||
  (if k = 3 ∨ k = 4 then
    decide (2 < st.stream) || (c.streams.getD st.stream ⟨0, 0, 0, 0⟩).use != l.use
  else st.stream != 0) ||
  (k != 8 && st.stat != 0) ||
  (if k = 5 then decide (5 < st.func) else st.func != 0) ||
  (!(k == 1 || k == 2) && st.vec) ||
  (if k = 7 then false else if k = 0xB then decide (1 < st.write) else st.write != 0) ||
  (if k = 9 then st.gsel == 3 || decide (2 ^ st.fieldW ≤ st.p 0) else st.gsel != 0) ||
  (k == 0xA && st.ifmt != 1) ||
  (k == 6 && badClip (st.w 0) (st.w 1))

/-- A list is well formed: every stage is, and CVT stands last only. -/
def listBad (c : Chain) (l : Lst) (after : Bool) : List Stage → Bool
  | [] => false
  | st :: r => st.bad c l after r.isEmpty || listBad c l (after || st.kind == 0xC) r

def softmaxes (l : List Stage) : Nat := (l.filter fun st => st.kind == 0xC).length

def Strm.bad (s : Strm) : Bool :=
  fld s.raw 63 38 != 0 || !fmtOk s.fmt || (s.use == 0 && s.raw != 0)

/-- A stream that no stage references (R166). -/
def unreferenced (c : Chain) : Bool :=
  c.streams.zipIdx.any fun (s, i) =>
    s.use != 0 && !((c.pro ++ c.mid ++ c.epi).any fun st => (st.kind == 3 || st.kind == 4) && st.stream == i)

/-- The cases of R160 and R166 but for spans. -/
def Chain.bad (c : Chain) (fmtA : Nat) (mid : Lst) : Bool :=
  let n := fun hi lo => fld c.hdr hi lo
  decide (8 < n 3 0) || decide (8 < n 7 4) || decide (8 < n 11 8) || !zeros c.hdr [(15, 13), (31, 24), (511, 224)] ||
  (if c.parity then decide (2 < c.efmt) else c.efmt != 0) || !fmtOk c.pfmt ||
  (c.pro.isEmpty && c.pfmt != fmtA) || c.streams.any (fun s => s.bad) || unreferenced c ||
  listBad c .pro false c.pro || listBad c mid false c.mid || listBad c .epi false c.epi

/-- Formats of a chain that NL2 refuses (R63). -/
def Chain.badNl (c : Chain) (nl : Nat) : Bool := fmtNl nl (fmtOf c.pfmt :: c.streams.map fun s => fmtOf s.fmt)

def Stage.isNorm (st : Stage) (stat : Nat) : Bool := st.kind == 8 && st.stat == stat
def hasNorm (stat : Nat) (l : List Stage) : Bool := l.any fun st => st.isNorm stat

/-- R177. `whole`: SPLIT = 0b00; `plain`: SCALE_EN = BIAS_EN = CLIP_EN = 0; `midFits`, `epiFits`: the rows of the middle
list and of the epilogue lie in one N tile. -/
def Chain.stat (c : Chain) (whole plain midFits epiFits : Bool) : Bool :=
  hasNorm 0 (c.pro ++ c.mid ++ c.epi) ||
  (!whole && (hasNorm 3 c.pro || c.pro.any fun st => st.kind == 7)) ||
  hasNorm 2 (c.epi.drop 1) ||
  (hasNorm 2 c.epi && (!c.pro.isEmpty || !whole || !plain)) ||
  hasNorm 2 c.pro || hasNorm 2 c.mid ||
  (hasNorm 3 c.epi && !epiFits) || (hasNorm 3 c.mid && !midFits)

def Chain.streamCount (c : Chain) : Nat := (c.streams.filter fun s => s.use != 0).length

/-- Issues and SFU results per element of a list (R172): the stages with the final conversion, and once more those before a
two-pass NORM, which a first pass runs. -/
def lanesOf (l : List Stage) : Nat :=
  l.length + (if (l.getLast?.map (·.kind)) = some 0xF then 0 else 1) +
    (if hasNorm 3 l then ((l.reverse.dropWhile fun st => !st.isNorm 3).drop 1).length else 0)
def resultsOf (l : List Stage) : Nat := (l.filter fun st => st.kind == 5 && decide (1 ≤ st.func) && decide (st.func ≤ 4)).length
/-- SFU results per row of a list: one RSQRT for each rstd that it forms (R147, R164, R175). -/
def rowResultsOf (l : List Stage) : Nat :=
  (l.filter fun st => (st.kind == 7 && bit st.write 2) || st.isNorm 2 || st.isNorm 3).length

def Chain.draws (c : Chain) : Bool := (c.pro ++ c.mid ++ c.epi).any fun st => st.kind == 9 || st.kind == 0xA

/-! ### Spans -/

/-- Columns of each list (R156). -/
structure Ext3 where
  m : Nat
  k : Nat
  n1 : Nat
  n : Nat
deriving DecidableEq, Repr

def Ext3.cols (x : Ext3) : Nat → Nat
  | 1 => x.k | 2 => x.n1 | _ => x.n

/-- Vectors that a stage of a list of `cols` columns names: those it reads, and those it writes. -/
def Stage.readVecs (st : Stage) (m cols : Nat) : List (Nat × Nat) :=
  if (st.kind = 1 ∨ st.kind = 2) ∧ st.vec then [(st.p 1, 4 * cols)]
  else if st.isNorm 1 then [(st.p 1, 4 * m), (st.p 2, 4 * m)] else []
def Stage.writeVecs (st : Stage) (m cols : Nat) : List (Nat × Nat) :=
  if st.kind = 7 then ((List.range 3).filter fun i => bit st.write i).map fun i => (st.p (i + 1), 4 * m)
  else if st.kind = 0xB then [(st.p 1, 4 * cols)] else []

def Chain.readVecs (c : Chain) (x : Ext3) : List (Nat × Nat) :=
  c.pro.flatMap (·.readVecs x.m x.k) ++ c.mid.flatMap (·.readVecs x.m x.n1) ++ c.epi.flatMap (·.readVecs x.m x.n)
def Chain.writeVecs (c : Chain) (x : Ext3) : List (Nat × Nat) :=
  c.pro.flatMap (·.writeVecs x.m x.k) ++ c.mid.flatMap (·.writeVecs x.m x.n1) ++ c.epi.flatMap (·.writeVecs x.m x.n)
/-- Streams have the extent and layout of the tensor of their list (R167). A block format whose blocks do not divide the columns has
⌊columns / block⌋ scales a line all the same, and a last part of a block takes the scale byte behind them (DESIGN CHOICE, log 81:
R167 neither lays it out nor refuses it). -/
def Chain.streamSpans (c : Chain) (x : Ext3) : List (Nat × Nat) :=
  (c.streams.filter fun s => s.use != 0).map fun s => (s.off, (fmtOf s.fmt).tensorBytes x.m (x.cols s.use))

def Chain.spans (c : Chain) (x : Ext3) : List (Nat × Nat) := c.readVecs x ++ c.writeVecs x ++ c.streamSpans x

/-- Offsets that R81 refuses among spans and a work region. -/
def spansBad (l : List (Nat × Nat)) (work : Nat × Nat) : Bool :=
  !obOk work.1 work.2 || !divides 128 work.2 ||
    l.any fun x => !obOk x.1 x.2 || overlap x.1 x.2 work.1 work.2

/-! ### Stage arithmetic -/

/-- ACT (R116). -/
def actFn (nl f : Nat) (x : Word) : Word :=
  match f with
  | 1 => sfu nl (.curve .silu) x
  | 2 => sfu nl (.curve .gelu) x
  | 3 => sfu nl (.curve .sigmoid) x
  | 4 => sfu nl (.curve .tanh) x
  | 5 => if isNan32 x then nan32 else if isPos32 x then x else 0
  | _ => x

/-- Stochastic rounding of a value to BF16 by a 16-bit field (R165). -/
def sround (f : Nat) (x : Word) : Word :=
  if isNan32 x then nan32
  else if !isFin32 x then x
  else
    let a := (x.toNat % 2 ^ 31 + f) / 2 ^ 16 * 2 ^ 16
    BitVec.ofNat 32 (signed (signOf x) (2 ^ 31) (min a 0x7F800000))

/-- What the stages of a command read besides their input. -/
structure ChEnv where
  nl : Nat
  /-- the bound Luna record (R223) -/
  luna : Nat
  ob : Nat → Byte
  streams : List Strm
  rows : Nat
  parity : Bool
  /-- mean and rstd of a row of stored operand A with an EPS, and the column sums of R176 -/
  aStats : Nat → Word → Word × Word
  colsum : Nat → Word

def vecAt (ob : Nat → Byte) (off i : Nat) : Word := rdWord (fun b => ob (off + b)) i

/-- The random field of an element of DROP or SROUND (R165). -/
def Stage.field (st : Stage) (v : ChEnv) (r c : Nat) : Nat :=
  lunaField v.luna (st.p 2) (st.p 3) st.g st.fieldW (linIndex (st.p 4) r (st.p 6) (st.p 5) c)

/-- A stage on row `r` of a list of `cols` columns (R162, R163, R176). -/
def Stage.row (st : Stage) (v : ChEnv) (cols r : Nat) (xs : List Word) : List Word :=
  let each (f : Word → Nat → Word) : List Word := xs.zipIdx.map fun (x, c) => f x c
  let out (ys : List Word) : List Word := ys.map (roundTo (fmtOf st.ifmt))
  let elem (c : Nat) : Word :=
    let s := v.streams.getD st.stream ⟨0, 0, 0, 0⟩
    (fmtOf s.fmt).tileLoad (fun b => v.ob (s.off + b)) v.rows cols r c
  let norm (mean rstd : Word) : List Word := each fun x _ => fmul (fsub x mean) rstd
  match st.kind with
  | 0x1 => out (each fun x c => fmul x (if st.vec then vecAt v.ob (st.p 1) c else st.w 0))
  | 0x2 => out (each fun x c => fadd x (if st.vec then vecAt v.ob (st.p 1) c else st.w 0))
  | 0x3 => out (each fun x c => fadd x (elem c))
  | 0x4 => out (each fun x c => fmul x (elem c))
  | 0x5 => out (each fun x _ => actFn v.nl st.func x)
  | 0x6 => out (each fun x _ => fclamp (st.w 0) (st.w 1) x)
  | 0x8 => match st.stat with
    | 1 => out (norm (vecAt v.ob (st.p 1) r) (vecAt v.ob (st.p 2) r))
    | 2 =>
      if v.parity then xs
      else
        let z := v.aStats r (st.w 0)
        out (each fun x c => fmul (fsub x (fmul z.1 (v.colsum c))) z.2)
    | _ =>
      let z := rowStats v.nl xs (st.w 0)
      out (norm z.1 z.2.2)
  | 0x9 => out (each fun x c => if st.field v r c < st.p 0 then 0 else fmul x (st.w 1))
  | 0xA => out (each fun x c => sround (st.field v r c) x)
  | 0xF => xs
  | _ => out xs

/-- The stages of a list in order. -/
def runList (v : ChEnv) (cols r : Nat) (l : List Stage) (xs : List Word) : List Word :=
  l.foldl (fun ys st => st.row v cols r ys) xs

/-- Writes of the RSTAT and GAP stages of a list at the end of the command (R164); `inp r` is row `r` of the list's input. -/
def statWrites (v : ChEnv) (cols : Nat) (l : List Stage) (inp : Nat → List Word) : List Wr :=
  l.zipIdx.flatMap fun (st, i) =>
    let rows := (List.range v.rows).map fun r => runList v cols r (l.take i) (inp r)
    if st.kind = 7 then
      let z := rows.map fun xs => rowStats v.nl xs (st.w 0)
      let sel (j : Nat) (t : Word × Word × Word) : Word := if j = 0 then t.1 else if j = 1 then t.2.1 else t.2.2
      ((List.range 3).filter fun j => bit st.write j).map fun j =>
        { d := .ob (st.p (j + 1)), bytes := wordsBytes (z.map (sel j)) }
    else if st.kind = 0xB then
      let sums := (List.range cols).map fun c =>
        let t := chunkSum (rows.map fun xs => xs.getD c 0)
        if bit st.write 0 then rne32Q t (st.w 0) else t
      [{ d := .ob (st.p 1), bytes := wordsBytes sums }]
    else []
where
  /-- division of GAP; the quotient by a zero is free (log 13) -/
  rne32Q (a b : Word) : Word := if isZero32 b then Config.gapByZero a else rne32Div (val32 a) (val32 b)

/-! ### Staging (R173) -/

def up128 (n : Nat) : Nat := roundUp 128 n

/-- Staging allocated before visit 0, and the column sums of an N tile. `pairs` gives M_t, K_t, N1_t and N_t. -/
def Chain.staging (c : Chain) (fmtA : Fmt) (x : Ext3) (mt kt n1t nt : Nat) : Nat × Nat :=
  let deferred := hasNorm 2 c.epi
  let twoPro := hasNorm 3 c.pro || (deferred && c.parity)
  let twoAny := twoPro || hasNorm 3 c.mid || hasNorm 3 c.epi
  let stk (cols n : Nat) : Nat := n * up128 (x.m * 16 * (Nat.log2 (cdiv cols 16) + 1))
  let count (l : List Stage) : Nat := (l.filter fun st => st.kind == 7 || st.isNorm 3).length
  ((if !c.pro.isEmpty || twoPro then up128 (2 * fmtA.rowBytes (mt * kt)) else 0) +
    (if deferred || twoAny then up128 (x.m * 8) else 0) +
    stk x.k (count c.pro + if deferred && c.parity then 1 else 0) + stk x.n1 (count c.mid) + stk x.n (count c.epi) +
    (if hasNorm 3 c.epi then up128 (mt * nt * 4) else 0) + (if hasNorm 3 c.mid then up128 (mt * n1t * 4) else 0) +
    (if c.epi.any (fun st => st.kind == 0xB) then up128 (x.n * 8) else 0),
   if deferred && !c.parity then up128 (nt * 4) else 0)

end Sys2Proof.Machine
end

