-- ==== Sys2Proof/Machine/Energy.lean ====
section
/-! DEFINITION. The work of commands by energy class, as the quanta in which the Tollgate grants it (R384, R385). What the table
of R384 leaves to reading is this model's (log 48). -/
namespace Sys2Proof.Machine

/-- Ring hops between two quadrants (R17): one to an adjacent, two to the opposite one. -/
def ringHops (a b : Nat) : Nat := min ((a + 4 - b) % 4) ((b + 4 - a) % 4)

/-- Bytes of spans that lie in `[lo, hi)`. -/
def bytesIn (lo hi : Nat) (l : List (Nat × Nat)) : Nat := (l.map fun x => min (x.1 + x.2) hi - max x.1 lo).sum

/-- Keystone traffic of spans, home by home with the ring hops `hops` to it, and Borug traffic. -/
def trafficBy (hops : Nat → Nat) (l : List (Nat × Nat)) : List Charge :=
  ((List.range 4).map fun h => ⟨.mk, h, (((List.range 4).filter fun q => decide (hops q = h)).map fun q =>
    bytesIn (ksBase + q * 0x40000000) (ksBase + (q + 1) * 0x40000000) l).sum, 0x10000⟩) ++
    [⟨.mb, 0, bytesIn 0 0x018000000000 l, 0x10000⟩]

/-- Traffic of a quadrant's die, and of a spine die, whose bridges reach every home directly (R13). -/
def traffic (q : Nat) (l : List (Nat × Nat)) : List Charge := trafficBy (ringHops q) l
def spineTraffic (l : List (Nat × Nat)) : List Charge := trafficBy (fun _ => 0) l

/-- A command's charges: those with work, or its own class alone. -/
def chargeList (l : List Charge) : List Charge :=
  match l.filter fun c => decide (0 < c.units) with
  | [] => l.take 1
  | r => r

/-- Lane-operations, and the SFU results granted with their quanta. -/
def vectorWork (lanes results : Nat) : List Charge :=
  [⟨.ve, 0, lanes, 16384⟩, ⟨.sf, 0, results, max 1 (cdiv results (max 1 (cdiv lanes 16384)))⟩]

/-- The array class of two operand formats. -/
def arrayClass (a b : Fmt) : EClass := if a.isWide || b.isWide then .a16 else if a.width = 4 ∧ b.width = 4 then .a4 else .a8

/-- MACs of a product, padding included, in array tiles of `lines` rows, 16 columns and `kt` indices, pass by pass (R72, R74). -/
def arrayWork (k : EClass) (rows cols depth kt passes lines : Nat) : List Charge :=
  [⟨k, 0, passes * rows * cols * (depth / kt * kt), lines * 16 * kt⟩,
    ⟨k, 0, passes * rows * cols * (depth % kt), lines * 16 * (depth % kt)⟩]

/-- The traffic of a plan's pieces. -/
def planTraffic (mk : Ctx → State → Plan) (x : Ctx) (s : State) : List Charge :=
  traffic (x.core / 52) ((mk x s).pieces.flatMap Piece.spans)

end Sys2Proof.Machine
end

