-- ==== Sys2Proof/Machine/Mtx.lean ====
section
/-! DEFINITION. Matrix commands: MTX.RUN, MTX.MV (R71 to R99) and MTX.CHAIN2 (R178 to R191), with their chains. -/
namespace Sys2Proof.Machine
open Host

/-! ### Shared pieces -/

def numZero : Numerics := ⟨.fp32, .fp32, .fp32, 1, false, 0, false, false, false, false, 0, 0, 0⟩
def numOf (v : Nat) : Numerics := (Numerics.parse v).getD numZero

/-- N tile of a 3-bit code (R97). -/
def nTile (c : Nat) : Nat := 16 * 2 ^ c

/-- Output blocks of a product in visit order: rows and columns of tile (nt, mt) (R74, R82, R83). -/
structure Tiling where
  m : Nat
  n : Nat
  mt : Nat
  nt : Nat
deriving DecidableEq, Repr

def Tiling.mTiles (t : Tiling) : Nat := cdiv t.m t.mt
def Tiling.nTiles (t : Tiling) : Nat := cdiv t.n t.nt
def Tiling.rows (t : Tiling) (i : Nat) : Nat := min t.mt (t.m - i * t.mt)
def Tiling.cols (t : Tiling) (j : Nat) : Nat := min t.nt (t.n - j * t.nt)

/-- Size of an output block (R83), and the offset of the block of tile (nt, mt). -/
def Tiling.size (t : Tiling) (f : Fmt) (axisM : Bool) (j i : Nat) : Nat :=
  if axisM then f.tensorBytes (t.cols j) (t.rows i) else f.tensorBytes (t.rows i) (t.cols j)
def sumTo (f : Nat → Nat) (n : Nat) : Nat := (List.range n).foldl (fun a i => a + f i) 0
def Tiling.off (t : Tiling) (f : Fmt) (axisM : Bool) (j i : Nat) : Nat :=
  sumTo (fun j' => sumTo (t.size f axisM j') t.mTiles) j + sumTo (t.size f axisM j) i
def Tiling.total (t : Tiling) (f : Fmt) (axisM : Bool) : Nat := t.off f axisM t.nTiles 0

/-- The bytes of the output block of tile (nt, mt) of a matrix given by rows (R82). -/
def Tiling.block (t : Tiling) (f : Fmt) (axisM : Bool) (v : List (List Word)) (j i : Nat) : List Byte :=
  outBlock f axisM (t.rows i) (t.cols j) fun r c => (v.getD (i * t.mt + r) []).getD (j * t.nt + c) 0

/-- A list at an index, as a function that looks up once computed rows. -/
def cell {α : Type} (z : α) (l : List (List α)) (r c : Nat) : α := (l.getD r []).getD c z

/-- Exact values of a stored operand: `lines` × `run` at an operand-buffer offset. -/
def storedVals (f : Fmt) (rd : Nat → Byte) (lines run : Nat) : List (List Ext) :=
  (List.range lines).map fun l => (List.range run).map fun k => f.tileVal rd lines run l k

def loadRow (f : Fmt) (rd : Nat → Byte) (lines run l : Nat) : List Word :=
  (List.range run).map fun k => f.tileLoad rd lines run l k

/-- A row of FP32 values converted to a format, as exact values (R156, final conversion). -/
def convRow (f : Fmt) (xs : List Word) : List Ext :=
  let e := f.storeEl xs
  (List.range xs.length).map fun k => f.value (e k).1 (e k).2

/-- The prologue that runs: its stages, and under parity a deferred NORM as a two-pass NORM (R188). -/
def Chain.proRun (c : Chain) : List Stage :=
  match c.epi with
  | st :: _ => if c.parity && st.isNorm 2 then c.pro ++ [{ st with stat := 3 }] else c.pro
  | [] => c.pro

/-- Operand A as the first product reads it. -/
def Chain.aVals (c : Chain) (v : ChEnv) (fmtA : Fmt) (rd : Nat → Byte) (m k : Nat) : List (List Ext) :=
  if c.proRun.isEmpty then storedVals fmtA rd m k
  else (List.range m).map fun r => convRow fmtA (runList v k r c.proRun (loadRow (fmtOf c.pfmt) rd m k r))

/-- Values stored in a format and read back (R188): along rows, or along columns for blocks along M. -/
def storedAs (f : Fmt) (axisM : Bool) (v : List (List Word)) : List (List Word) :=
  let back (xs : List Word) : List Word :=
    let e := f.storeEl xs
    (List.range xs.length).map fun k => f.load (e k).1 (e k).2
  if axisM then
    let cs := (List.range (v.headD []).length).map fun c => back (v.map fun r => r.getD c 0)
    (List.range v.length).map fun r => cs.map fun c => c.getD r 0
  else v.map back

/-- Steps 1 to 3 of R58 on a row of results. -/
def Numerics.row (n : Numerics) (ob : Nat → Byte) (scaleOff biasOff : Nat) (xs : List Word) : List Word :=
  xs.zipIdx.map fun (t, c) => n.convert (if n.scaleEn && n.scaleVec then vecAt ob scaleOff c else 0)
    (if n.biasEn then vecAt ob biasOff c else 0) t

/-- Entry rounding of an epilogue under parity (R188). -/
def Chain.epiIn (c : Chain) (rows : List (List Word)) : List (List Word) :=
  if c.parity then storedAs (fmtOf c.efmt) false rows else rows

/-- The epilogue on rows of results after step 3 of R58. -/
def Chain.epiRows (c : Chain) (v : ChEnv) (n : Nat) (rows : List (List Word)) : List (List Word) :=
  if c.epi.isEmpty then rows else (c.epiIn rows).zipIdx.map fun (xs, r) => runList v n r c.epi xs

/-- Spans of a scale or bias vector of `n` columns. -/
def Numerics.vecs (u : Numerics) (n scaleOff biasOff : Nat) : List (Nat × Nat) :=
  (if u.scaleEn && u.scaleVec then [(scaleOff, 4 * n)] else []) ++ (if u.biasEn then [(biasOff, 4 * n)] else [])
/-- A vector offset that must be written 0 (R97). -/
def Numerics.vecsBad (u : Numerics) (scaleOff biasOff : Nat) : Bool :=
  (!(u.scaleEn && u.scaleVec) && scaleOff != 0) || (!u.biasEn && biasOff != 0)

def shift (off : Nat) (l : List (Nat × Nat)) : List (Nat × Nat) := l.map fun x => (off + x.1, x.2)

/-- Spans of lines `l0 ..` (count `l`) and positions `p0 ..` (count `p`) of a tensor at an offset. -/
def window (f : Fmt) (off lines run l0 l p0 p : Nat) : List (Nat × Nat) :=
  (List.range l).flatMap fun i => shift off (f.lineSpans lines run (l0 + i) p0 p)

def streamWindow (c : Chain) (use lines run l0 l p0 p : Nat) : List (Nat × Nat) :=
  (c.streams.filter fun s => s.use == use).flatMap fun s => window (fmtOf s.fmt) s.off lines run l0 l p0 p

/-- The ones row of R176: 1.0 in the format of A. -/
def onesDot (d : DotMode) (b : Nat → Ext) (k gk : Nat) : Word := dot d (fun _ => .fin 1 0) b k gk

/-- Matrix reply field (R99). -/
def mtxReply (x : Ctx) (visit : Nat) (r : Res) (cant : Bool) : Nat :=
  visit % 2 ^ 32 + ofBool r.retried <<< 32 + ofBool r.rerun <<< 33 + ofBool cant <<< 34 +
    ofBool x.cmd.hasYielded <<< 35 + x.dcore <<< 40

def mtxOut (x : Ctx) (visits : Nat) (cant : Bool) (r : Res) : Out :=
  match r.fail with
  | none => { reply := mtxReply x visits r cant }
  | some (v, st, _) => { status := st, reply := mtxReply x v r cant }

/-! ### MTX.RUN and MTX.MV -/

structure Mtx where
  mv : Bool
  u : Numerics
  t : Tiling
  kt : Nat
  k : Nat
  gk : Nat
  /-- grains of the whole product, and the range covered -/
  ng : Nat
  lo : Nat
  hi : Nat
  split : Nat
  cant : Bool
  aOff : Nat
  bOff : Nat
  work : Nat
  len : Nat
  join : Nat
  scale : Nat
  bias : Nat
deriving DecidableEq, Repr

/-- The maps of R97 and R98. -/
def Mtx.parse (mv : Bool) (nl v : Nat) : Mtx :=
  let u := numOf (v % 2 ^ 128)
  let m := fld v 147 128
  let k := 32 * fld v 211 192
  let gk := grainOf nl u.gk
  let ng := cdiv k gk
  let split := fld v 257 256
  { mv := mv, u := u, t := ⟨m, fld v 175 160, if mv then max 1 m else 128 * 2 ^ fld v 149 148, nTile (fld v 152 150)⟩
    kt := 32 * fld v 183 176, k := k, gk := gk, ng := ng
    lo := if split = 0 then 0 else fld v 239 224, hi := if split = 0 then ng else fld v 255 240, split := split
    cant := mv || (bit v 258 && decide (m ≤ 4)), aOff := fld v 319 288, bOff := fld v 351 320, work := fld v 383 352
    len := fld v 415 384, join := fld v 447 416, scale := fld v 479 448, bias := fld v 511 480 }

def mtxChain (v : Nat) : Chain := Chain.parse (bit v 259 || bit v 260) (fld v 3 0) v

/-- K range of the covered grains: first index and length. -/
def Mtx.k0 (p : Mtx) : Nat := p.lo * p.gk
def Mtx.kc (p : Mtx) : Nat := min p.k (p.hi * p.gk) - p.k0
def Mtx.kTiles (p : Mtx) : Nat := cdiv p.kc p.kt
def Mtx.visits (p : Mtx) : Nat := p.t.nTiles * p.kTiles * p.t.mTiles
/-- Depth D of the stacks (R78). -/
def Mtx.depth (p : Mtx) : Nat := Nat.log2 (p.hi - p.lo) + 1

/-- A grain range is a node of the tree (R79). -/
def isNode (lo hi n : Nat) : Bool :=
  decide (lo < n) && (List.range (Nat.log2 n + 2)).any fun j => divides (2 ^ j) lo && hi == min n (lo + 2 ^ j)

/-- The largest power of two that divides a positive number. -/
def lowBit (n : Nat) : Nat := 2 ^ ((List.range (Nat.log2 n + 1)).find? (fun j => n.testBit j)).getD 0

def Mtx.splitOk (p : Mtx) (v : Nat) : Bool :=
  match p.split with
  | 0 => fld v 255 224 == 0
  | 1 => isNode p.lo p.hi p.ng
  | 2 => decide (0 < p.lo) && decide (p.lo < p.ng) && p.hi == min p.ng (p.lo + lowBit p.lo)
  | _ => false

/-- The result is the root, which is converted (R79). -/
def Mtx.root (p : Mtx) : Bool :=
  p.split == 0 || (p.split == 2 && p.lo == lowBit p.lo && p.hi == p.ng)
def Mtx.out (p : Mtx) : Fmt := if p.root then p.u.out else .fp32
def Mtx.axisM (p : Mtx) : Bool := p.root && p.u.axisM

def Mtx.ext (p : Mtx) : Ext3 := ⟨p.t.m, p.kc, 0, p.t.n⟩

/-- Operand spans apart from the work region. -/
def Mtx.spans (p : Mtx) (c : Chain) : List (Nat × Nat) :=
  [(p.aOff, (fmtOf c.pfmt).tensorBytes p.t.m p.kc), (p.bOff, p.u.b.tensorBytes p.t.n p.kc)] ++
    (if p.split = 2 then [(p.join, p.t.total .fp32 false)] else []) ++ p.u.vecs p.t.n p.scale p.bias ++ c.spans p.ext

/-- A product that breaks R47, R48, R56 or R75. -/
def productBad (u : Numerics) (t : Tiling) (k gk : Nat) : Bool :=
  !pairOk u.a u.b u.passes || u.bad t.nt || decide (65535 < cdiv k gk) ||
    (u.out.bs != 0 && !divides u.out.bs (if u.axisM then t.m else t.n))

/-- R97, R98, R166. -/
def mtxBad (mv : Bool) (nl v : Nat) : Bool :=
  let p := Mtx.parse mv nl v
  let c := mtxChain v
  !zeros v [(159, 153), (191, 184), (223, 212), (287, 261), (1023, 512)] ||
  (mv && (fld v 149 148 != 0 || bit v 258 || decide (4 < p.t.m))) ||
  (Numerics.parse (v % 2 ^ 128)).isNone || p.t.m == 0 || p.t.n == 0 || decide (4 < fld v 152 150) ||
  !within (fld v 183 176) 1 128 || p.k == 0 || p.split == 3 ||
  productBad p.u p.t p.k p.gk || decide (p.k + 32 ≤ fld v 255 240 * p.gk) || !p.splitOk v ||
  (p.split != 2 && p.join != 0) || p.u.vecsBad p.scale p.bias ||
  (!p.root && (p.u.out != .fp32 || p.u.scaleEn || p.u.biasEn || p.u.clipEn || bit v 260)) ||
  (if bit v 259 || bit v 260 then
    c.bad (fld v 3 0) .midRes || !c.mid.isEmpty || bit v 259 == c.pro.isEmpty || bit v 260 == c.epi.isEmpty
  else false) ||
  spansBad (p.spans c) (p.work, p.len)

def mtxLvl (nl v : Nat) : Bool := (numOf (v % 2 ^ 128)).badNl nl || (mtxChain v).badNl nl

def mtxStat (v : Nat) : Bool :=
  let p := Mtx.parse false 3 v
  (mtxChain v).stat (p.split == 0) (!(p.u.scaleEn || p.u.biasEn || p.u.clipEn)) true (decide (p.t.n ≤ p.t.nt))

/-- Stacks of an M tile in an N tile, and the chain staging (R83, R173). -/
def Mtx.stackLen (p : Mtx) (j i : Nat) : Nat :=
  (if p.mv then p.t.m else roundUp 128 (p.t.rows i)) * roundUp 16 (p.t.cols j) * 4 * p.depth
def Mtx.staged (p : Mtx) (c : Chain) : Nat :=
  let stage := c.staging p.u.a p.ext p.t.mt p.kt 0 p.t.nt
  stage.1 + stage.2

/-- Bytes that must fit the work region at visit (nt, kt, mt): outputs, stacks and staging (R83, R84, R173). -/
def Mtx.need (p : Mtx) (c : Chain) (j kt i : Nat) : Nat :=
  let t := p.t
  t.off p.out p.axisM j 0 + (if kt + 1 = p.kTiles then sumTo (t.size p.out p.axisM j) (i + 1) else 0) +
    sumTo (p.stackLen j) (if kt = 0 then i + 1 else t.mTiles) + p.staged c

/-- What a visit reads of the work region (R78, R92, R173): its chain staging, which lies at the top, and after the first K tile
its M tile's stacks, which lie below those of the M tiles before it, one array tile's after another's (log 21). -/
def Mtx.stackAt (p : Mtx) (c : Chain) (j i : Nat) : Nat := p.work + p.len - p.staged c - sumTo (p.stackLen j) (i + 1)
def Mtx.workReads (p : Mtx) (c : Chain) (j kt i : Nat) : List (Nat × Nat) :=
  (if p.staged c = 0 then [] else [(p.work + p.len - p.staged c, p.staged c)]) ++
    (if kt = 0 then [] else [(p.stackAt c j i, p.stackLen j i)])

/-- Results of the command by rows: the tree of R57 over the covered grains, the join, the conversion and the epilogue. -/
def Mtx.env (p : Mtx) (c : Chain) (x : Ctx) (luna : Nat) (ob : Nat → Byte) (b : List (List Ext)) : ChEnv :=
  let cs := (List.range p.t.n).map fun j => onesDot p.u.mode (fun k => cell .zero b j k) p.kc p.gk
  { nl := x.nl, luna := luna, ob := ob, streams := c.streams, rows := p.t.m, parity := c.parity
    aStats := fun r eps =>
      let z := rowStats x.nl (loadRow p.u.a (fun i => ob (p.aOff + i)) p.t.m p.kc r) eps
      (z.1, z.2.2)
    colsum := fun j => cs.getD j 0 }

/-- The results after step 3 of R58 (or the node), before the epilogue. -/
def Mtx.results (p : Mtx) (c : Chain) (v : ChEnv) (b : List (List Ext)) : List (List Word) :=
  let ob := v.ob
  let a := c.aVals v p.u.a (fun i => ob (p.aOff + i)) p.t.m p.kc
  let left (r j : Nat) : Word :=
    let jt := j / p.t.nt
    let it := r / p.t.mt
    Fmt.fp32.tileLoad (fun i => ob (p.join + p.t.off .fp32 false jt it + i)) (p.t.rows it) (p.t.cols jt) (r % p.t.mt)
      (j % p.t.nt)
  (List.range p.t.m).map fun r =>
    let xs := (List.range p.t.n).map fun j =>
      let own := dotNode p.u.mode (fun k => cell .zero a r (k - p.k0)) (fun k => cell .zero b j (k - p.k0)) p.k p.gk p.lo p.hi
      if p.split = 2 then fadd (left r j) own else own
    if p.root then p.u.row ob p.scale p.bias xs else xs

/-- What the first pass of a two-pass prologue reads before visit 0 (R175): operand A, and the streams of the stages before the
last two-pass NORM. -/
def Chain.firstPass (c : Chain) (off m k : Nat) : List (Nat × Nat) :=
  if hasNorm 3 c.proRun then
    let pre := ((c.proRun.reverse.dropWhile fun st => !st.isNorm 3).drop 1).reverse
    window (fmtOf c.pfmt) off m k 0 m 0 k ++
      (c.streams.zipIdx.filter fun x => x.1.use == 1 && pre.any fun st => (st.kind == 3 || st.kind == 4) && st.stream == x.2).flatMap
        fun x => window (fmtOf x.1.fmt) x.1.off m k 0 m 0 k
  else []

/-- Row groups and column groups of a command tile: its array tiles run over the row groups of each column group (R76). -/
def Tiling.rowGroups (t : Tiling) (i : Nat) : Nat := cdiv (t.rows i) 128
def Tiling.colGroups (t : Tiling) (j : Nat) : Nat := cdiv (t.cols j) 16

/-- An operand-buffer byte lies in one of the spans. -/
def inSpans (off : Nat) (l : List (Nat × Nat)) : Bool := l.any fun x => decide (x.1 ≤ off) && decide (off < x.1 + x.2)

/-- Bytes that visit (nt, kt, mt) reads from the operand buffer (R92). At which visit the left node of a join, the scale and
the bias vectors are read is this model's choice: with the results, at the last K tile (log 21). -/
def Mtx.reads (p : Mtx) (c : Chain) (j kt i : Nat) : List (Nat × Nat) :=
  let t := p.t
  let f := fmtOf c.pfmt
  let k0 := kt * p.kt
  let kl := min p.kt (p.kc - k0)
  let first := j == 0 && kt == 0 && i == 0
  (if first then c.readVecs p.ext else []) ++
  (if first then c.firstPass p.aOff t.m p.kc else []) ++ p.workReads c j kt i ++
  window f p.aOff t.m p.kc (i * t.mt) (t.rows i) k0 kl ++
  window p.u.b p.bOff t.n p.kc (j * t.nt) (t.cols j) k0 kl ++
  streamWindow c 1 t.m p.kc (i * t.mt) (t.rows i) k0 kl ++
  (if kt + 1 = p.kTiles then
    (if p.split = 2 then [(p.join + t.off .fp32 false j i, t.rows i * t.cols j * 4)] else []) ++
    p.u.vecs (t.cols j) (p.scale + 4 * j * t.nt) (p.bias + 4 * j * t.nt) ++
    streamWindow c 3 t.m t.n (i * t.mt) (t.rows i) (j * t.nt) (t.cols j)
  else [])

/-- What array tile `a` of visit (nt, kt, mt) reads. -/
def Mtx.tileReads (p : Mtx) (c : Chain) (j kt i a : Nat) : List (Nat × Nat) :=
  let t := p.t
  let rg := a % t.rowGroups i
  let cg := a / t.rowGroups i
  let nr := min 128 (t.rows i - 128 * rg)
  let nc := min 16 (t.cols j - 16 * cg)
  let r0 := i * t.mt + 128 * rg
  let c0 := j * t.nt + 16 * cg
  let k0 := kt * p.kt
  let kl := min p.kt (p.kc - k0)
  let stk := p.stackLen j i / (t.rowGroups i * t.colGroups j)
  (if kt = 0 then [] else [(p.stackAt c j i + a * stk, stk)]) ++
  window (fmtOf c.pfmt) p.aOff t.m p.kc r0 nr k0 kl ++ window p.u.b p.bOff t.n p.kc c0 nc k0 kl ++
  streamWindow c 1 t.m p.kc r0 nr k0 kl ++
  (if kt + 1 = p.kTiles then
    (if p.split = 2 then window .fp32 (p.join + t.off .fp32 false j i) (t.rows i) (t.cols j) (128 * rg) nr (16 * cg) nc else []) ++
    p.u.vecs nc (p.scale + 4 * c0) (p.bias + 4 * c0) ++ streamWindow c 3 t.m t.n r0 nr c0 nc
  else [])

/-- The N, K and M tile of a visit (R76). -/
def Mtx.tileOf (p : Mtx) (n : Nat) : Nat × Nat × Nat :=
  (n / p.t.mTiles / p.kTiles, n / p.t.mTiles % p.kTiles, n % p.t.mTiles)

/-- Array tiles of a visit. -/
def Mtx.tiles (p : Mtx) (n : Nat) : Nat := let v := p.tileOf n; p.t.colGroups v.1 * p.t.rowGroups v.2.2

/-- The array tile of a visit that first reads a byte; what is read before the first of them counts to it. -/
def Mtx.tileAt (p : Mtx) (c : Chain) (n off : Nat) : Nat :=
  let v := p.tileOf n
  if n = 0 && inSpans off (c.readVecs p.ext ++ c.firstPass p.aOff p.t.m p.kc) then 0
  else ((List.range (p.tiles n)).find? fun a => inSpans off (p.tileReads c v.1 v.2.1 v.2.2 a)).getD 0

def Mtx.pieces (p : Mtx) (c : Chain) (x : Ctx) (s : State) : List Piece :=
  let ob := fun i => obByte s x.core i
  let b := storedVals p.u.b (fun i => ob (p.bOff + i)) p.t.n p.kc
  let v := p.env c x x.lunaRec ob b
  let res := p.results c v b
  let out := c.epiRows v p.t.n res
  let ends := statWrites v p.kc c.pro (fun r => loadRow (fmtOf c.pfmt) (fun i => ob (p.aOff + i)) p.t.m p.kc r) ++
    statWrites v p.t.n c.epi (fun r => (c.epiIn res).getD r [])
  (List.range p.visits).map fun n =>
    let i := n % p.t.mTiles
    let kt := n / p.t.mTiles % p.kTiles
    let j := n / p.t.mTiles / p.kTiles
    { fault := (if n = 0 then x.cmd.lunaBad else none) <|>
        if p.len < p.need c j kt i then some (stBufOverflow, 0x60) else none
      obReads := p.reads c j kt i
      writes := (if kt + 1 = p.kTiles then
          [{ d := .ob (p.work + p.t.off p.out p.axisM j i), bytes := p.t.block p.out p.axisM out j i }] else []) ++
        (if n + 1 = p.visits then ends else []) }

/-- The work of MTX.RUN and MTX.MV. -/
def mtxPlan (mv : Bool) (x : Ctx) (s : State) : Plan :=
  let p := Mtx.parse mv x.nl x.par
  let c := mtxChain x.par
  { pieces := p.pieces c x s, checked := true, scratch := [(p.work, p.len)], tileAt := p.tileAt c
    quanta := tileQuanta p.visits p.tiles
    stop := stopTiles p.visits p.tiles, out := mtxOut x p.visits p.cant, mark := markCore x }

/-- Vector work of the lists of a chain on `e` elements each and `m` rows (R172), with `more` SFU results of its own. -/
def Chain.lists (c : Chain) (e : Nat × Nat × Nat) (m more : Nat) : List Charge :=
  let w := fun l n => if l.isEmpty then (0, 0) else (n * lanesOf l, n * resultsOf l)
  let z := [w c.proRun e.1, w c.mid e.2.1, w c.epi e.2.2]
  vectorWork (z.map (·.1)).sum ((z.map (·.2)).sum + m * rowResultsOf (c.pro ++ c.mid ++ c.epi) + more)

/-- Array tiles, or tiles of the Cantilever path's rows, and the chain; the prologue runs for each N tile's visits (R172). -/
def Mtx.charges (p : Mtx) (c : Chain) : List Charge :=
  let lines := if p.cant then p.t.m else 128
  let rows := roundUp lines p.t.m
  let cols := roundUp 16 p.t.n
  chargeList (arrayWork (arrayClass p.u.a p.u.b) rows cols p.kc p.kt p.u.passes lines ++
    c.lists (p.t.nTiles * rows * p.kc, 0, rows * cols) p.t.m 0)

def mtxFamily (mv : Bool) : Family where
  bad := mtxBad mv
  lvl := mtxLvl
  stat := mtxStat
  core _ := true
  thread v := bit v 259 || bit v 260
  ob nl v := let p := Mtx.parse mv nl v; (p.work, p.len) :: p.spans (mtxChain v)
  streams v := (mtxChain v).streamCount
  draws v := (mtxChain v).draws
  refuse x s := needLuna (mtxChain x.par).draws x s
  charges x _ := (Mtx.parse mv x.nl x.par).charges (mtxChain x.par)
  reach := planReach (mtxPlan mv)
  steps := planSteps (mtxPlan mv)
  yieldAt := yieldPlan (mtxPlan mv)
  work x s := execPlan (mtxPlan mv x s) x s

def execMtxRun (c : CmdRef) (e : Circ) (s : State) : Outcome State Fault Refusal :=
  .next (runCmd 0x0201 (mtxFamily false) c e s)

def execMtxMv (c : CmdRef) (e : Circ) (s : State) : Outcome State Fault Refusal :=
  .next (runCmd 0x0203 (mtxFamily true) c e s)

/-! ### MTX.CHAIN2 (R178 to R191) -/

structure Chain2 where
  u1 : Numerics
  u2 : Numerics
  /-- first product: M × N1; second: M × N2 -/
  t1 : Tiling
  t2 : Tiling
  running : Bool
  k1t : Nat
  k1 : Nat
  gk1 : Nat
  gk2 : Nat
  aOff : Nat
  b1 : Nat
  b2 : Nat
  work : Nat
  len : Nat
  scale1 : Nat
  bias1 : Nat
  scale2 : Nat
  bias2 : Nat
deriving DecidableEq, Repr

/-- The map of R181. -/
def Chain2.parse (nl v : Nat) : Chain2 :=
  let u1 := numOf (v % 2 ^ 128)
  let u2 := numOf (fld v 255 128)
  let m := fld v 275 256
  let mt := 128 * 2 ^ fld v 277 276
  { u1 := u1, u2 := u2, t1 := ⟨m, fld v 303 288, mt, nTile (fld v 280 278)⟩, t2 := ⟨m, fld v 319 304, mt, nTile (fld v 283 281)⟩
    running := fld v 285 284 == 1, k1t := 32 * fld v 327 320, k1 := 32 * fld v 347 328
    gk1 := grainOf nl u1.gk, gk2 := grainOf nl u2.gk
    aOff := fld v 383 352, b1 := fld v 415 384, b2 := fld v 447 416, work := fld v 479 448, len := fld v 511 480
    scale1 := fld v 543 512, bias1 := fld v 575 544, scale2 := fld v 607 576, bias2 := fld v 639 608 }

def chain2Chain (v : Nat) : Chain := Chain.parse true (fld v 3 0) v

def Chain2.ext (p : Chain2) : Ext3 := ⟨p.t1.m, p.k1, p.t1.n, p.t2.n⟩
def Chain2.midLst (p : Chain2) : Lst := if p.running then .midRun else .midRes
/-- Sweeps of a row tile: three under parity in the running form (R189). -/
def Chain2.sweeps (p : Chain2) (c : Chain) : Nat := if p.running && c.parity then 3 else 1
def Chain2.visits (p : Chain2) (c : Chain) : Nat := p.t1.mTiles * p.sweeps c * p.t1.nTiles

def Chain2.spans (p : Chain2) (c : Chain) : List (Nat × Nat) :=
  [(p.aOff, (fmtOf c.pfmt).tensorBytes p.t1.m p.k1), (p.b1, p.u1.b.tensorBytes p.t1.n p.k1),
    (p.b2, p.u2.b.tensorBytes p.t2.n p.t1.n)] ++
    p.u1.vecs p.t1.n p.scale1 p.bias1 ++ p.u2.vecs p.t2.n p.scale2 p.bias2 ++ c.spans p.ext

/-- R182. The N1 tile is also a K tile, so it is a multiple of 32 (R73). -/
def chain2Bad (nl v : Nat) : Bool :=
  let p := Chain2.parse nl v
  let c := chain2Chain v
  !zeros v [(287, 286), (351, 348), (1023, 640)] ||
  (Numerics.parse (v % 2 ^ 128)).isNone || (Numerics.parse (fld v 255 128)).isNone ||
  p.t1.m == 0 || p.t1.n == 0 || p.t2.n == 0 || !divides 32 p.t1.n || decide (4 < fld v 280 278) || fld v 280 278 == 0 ||
  decide (4 < fld v 283 281) || !within (fld v 285 284) 1 2 || !within (fld v 327 320) 1 128 || p.k1 == 0 ||
  productBad p.u1 p.t1 p.k1 p.gk1 || productBad p.u2 p.t2 p.t1.n p.gk2 ||
  p.u1.vecsBad p.scale1 p.bias1 || p.u2.vecsBad p.scale2 p.bias2 ||
  c.bad (fld v 3 0) p.midLst || c.mid.isEmpty ||
  (if p.running then softmaxes c.mid != 1 || (p.u2.gk != 0 && !c.parity) else softmaxes c.mid != 0) ||
  spansBad (p.spans c) (p.work, p.len)

def chain2Lvl (nl v : Nat) : Bool :=
  (numOf (v % 2 ^ 128)).badNl nl || (numOf (fld v 255 128)).badNl nl || (chain2Chain v).badNl nl

def chain2Stat (v : Nat) : Bool :=
  let p := Chain2.parse 3 v
  let plain (u : Numerics) : Bool := !(u.scaleEn || u.biasEn || u.clipEn)
  (chain2Chain v).stat true (plain p.u1 && plain p.u2) (decide (p.t1.n ≤ p.t1.nt)) (decide (p.t2.n ≤ p.t2.nt))

/-- Staging and A2 double buffer; second-product accumulators; the running state, which the three-sweep form allocates too and
does not use (R189); first-product stacks (R173, R180). The three-sweep form keeps the stacks of R78 (log 22). -/
def Chain2.staged (p : Chain2) (c : Chain) : Nat :=
  let stage := c.staging p.u1.a p.ext p.t1.mt p.k1t p.t1.nt p.t2.nt
  up128 (2 * p.u2.a.rowBytes (p.t1.mt * p.t1.nt)) + stage.1 + stage.2
def Chain2.accLen (p : Chain2) (c : Chain) : Nat :=
  p.t1.mt * roundUp 16 p.t2.n * 4 * (if p.running && !c.parity then 1 else Nat.log2 (cdiv p.t1.n p.gk2) + 1)
def Chain2.runLen (p : Chain2) : Nat := if p.running then p.t1.mt * 8 else 0
def Chain2.stackLen (p : Chain2) : Nat := p.t1.mt * p.t1.nt * 4 * (Nat.log2 (cdiv p.k1 p.gk1) + 1)

/-- Allocations besides outputs and first-product stacks. -/
def Chain2.held (p : Chain2) (c : Chain) : Nat := p.staged c + p.accLen c + p.runLen

/-- What a visit reads of the work region (R92, R180), downward from its top in that order: the first-product stacks after the
first K tile, the accumulators after the first visit of the row tile's last sweep (log 21). -/
def Chain2.workReads (p : Chain2) (c : Chain) (sw j : Nat) : List (Nat × Nat) :=
  let top := p.work + p.len
  (top - p.staged c, p.staged c) ::
    (if j ≠ 0 ∧ sw + 1 = p.sweeps c then
      (top - p.staged c - p.accLen c, p.accLen c) :: (if c.parity then [] else [(top - p.held c, p.runLen)]) else []) ++
    (if p.k1t < p.k1 then [(top - p.held c - p.stackLen, p.stackLen)] else [])
/-- Outputs of the row tiles below `i` (R83, R180). -/
def Chain2.outOff (p : Chain2) (i j : Nat) : Nat :=
  sumTo (fun i' => sumTo (fun j' => p.t2.size p.u2.out p.u2.axisM j' i') p.t2.nTiles) i +
    sumTo (fun j' => p.t2.size p.u2.out p.u2.axisM j' i) j
def Chain2.needVisit (p : Chain2) (c : Chain) (i : Nat) : Nat :=
  p.outOff i 0 + p.held c + p.stackLen
def Chain2.needEpi (p : Chain2) (c : Chain) (i : Nat) : Nat := p.outOff (i + 1) 0 + p.held c

/-- The middle stages before and after SOFTMAX, and its IFMT. -/
def splitSoftmax (l : List Stage) : List Stage × List Stage × Fmt :=
  (l.takeWhile fun st => st.kind != 0xC, (l.dropWhile fun st => st.kind != 0xC).drop 1,
    fmtOf (((l.find? fun st => st.kind == 0xC).map (·.ifmt)).getD 0))

def expW (nl : Nat) (x : Word) : Word := sfu nl .exp x

/-- A slice of a row through stages that need their columns: the row is 0 outside it. -/
def runSlice (v : ChEnv) (cols r : Nat) (l : List Stage) (c0 : Nat) (xs : List Word) : List Word :=
  ((runList v cols r l (List.replicate c0 0 ++ xs)).drop c0).take xs.length

/-- Running state of a row (R184). -/
structure RunSt where
  m : Word
  l : Word
  o : List Word

/-- One visit of the running form for one row (R185). -/
def runVisit (p : Chain2) (c : Chain) (v : ChEnv) (b2 : List (List Ext)) (r : Nat) (x : List Word) (st : RunSt) (j : Nat) : RunSt :=
  let c0 := j * p.t1.nt
  let xs := (x.drop c0).take (p.t1.cols j)
  let m1 := xs.foldl fmax st.m
  if m1 = inf32 true then st
  else
    let (_, after, f) := splitSoftmax c.mid
    let k := expW v.nl (fsub st.m m1)
    let es := xs.map fun y => expW v.nl (fsub y m1)
    let a2 := convRow p.u2.a (runSlice v p.t1.n r after c0 (es.map (roundTo f)))
    let a := fun i => a2.getD (i - c0) .zero
    { m := m1
      l := rne32 ((val32 (fmul st.l k)).add (Ext.sum (es.map val32)))
      o := st.o.zipIdx.map fun (o, q) => fadd (fmul o k) (grain p.u2.mode a (cell .zero b2 q) c0 (c0 + xs.length)) }

/-- Rows of the second product, before its numerics block, from rows of the first (R178, R185, R189). -/
def Chain2.second (p : Chain2) (c : Chain) (v : ChEnv) (b2 : List (List Ext)) (y1 : List (List Word)) : List (List Word) :=
  let whole (a2 : List Ext) : List Word :=
    (List.range p.t2.n).map fun q => dot p.u2.mode (fun k => a2.getD k .zero) (cell .zero b2 q) p.t1.n p.gk2
  let y := if c.parity then storedAs p.u1.out p.u1.axisM y1 else y1
  y.zipIdx.map fun (xs, r) =>
    if p.running then
      let (pre, after, f) := splitSoftmax c.mid
      let x := runList v p.t1.n r pre xs
      if c.parity then
        let m := x.foldl fmax (inf32 true)
        let es := x.map fun t => expW v.nl (fsub t m)
        let q := sfu v.nl .rcp (chunkSum es)
        whole (convRow p.u2.a (runList v p.t1.n r after (es.map fun t => roundTo f (fmul t q))))
      else
        let z := (List.range p.t1.nTiles).foldl (runVisit p c v b2 r x)
          { m := inf32 true, l := 0, o := List.replicate p.t2.n 0 }
        z.o.map fun o => fmul o (sfu v.nl .rcp z.l)
    else whole (convRow p.u2.a (runList v p.t1.n r c.mid xs))

def Chain2.reads (p : Chain2) (c : Chain) (i sw j : Nat) : List (Nat × Nat) :=
  let t := p.t1
  let f := fmtOf c.pfmt
  let rows := t.rows i
  let r0 := i * t.mt
  let first := i == 0 && sw == 0 && j == 0
  (if first then c.readVecs p.ext else []) ++
  (if first then c.firstPass p.aOff t.m p.k1 else []) ++ p.workReads c sw j ++
  window f p.aOff t.m p.k1 r0 rows 0 p.k1 ++ window p.u1.b p.b1 t.n p.k1 (j * t.nt) (t.cols j) 0 p.k1 ++
  streamWindow c 1 t.m p.k1 r0 rows 0 p.k1 ++
  p.u1.vecs (t.cols j) (p.scale1 + 4 * j * t.nt) (p.bias1 + 4 * j * t.nt) ++
  streamWindow c 2 t.m t.n r0 rows (j * t.nt) (t.cols j) ++
  (if sw + 1 = p.sweeps c then window p.u2.b p.b2 p.t2.n t.n 0 p.t2.n (j * t.nt) (t.cols j) else []) ++
  (if sw + 1 = p.sweeps c ∧ j + 1 = t.nTiles then
    p.u2.vecs p.t2.n p.scale2 p.bias2 ++ streamWindow c 3 t.m p.t2.n r0 rows 0 p.t2.n
  else [])

/-- Row tile, sweep and N1 tile of a visit (R178, R189). -/
def Chain2.tileOf (p : Chain2) (c : Chain) (n : Nat) : Nat × Nat × Nat :=
  let per := p.sweeps c * p.t1.nTiles
  (n / per, n % per / p.t1.nTiles, n % p.t1.nTiles)

/-- Array tiles of the first and of the second product in a visit (R178). -/
def Chain2.tiles1 (p : Chain2) (i j : Nat) : Nat := cdiv p.k1 p.k1t * p.t1.colGroups j * p.t1.rowGroups i
def Chain2.tiles2 (p : Chain2) (c : Chain) (i sw : Nat) : Nat := if sw + 1 = p.sweeps c then cdiv p.t2.n 16 * p.t1.rowGroups i else 0
def Chain2.tiles (p : Chain2) (c : Chain) (n : Nat) : Nat :=
  let v := p.tileOf c n
  p.tiles1 v.1 v.2.2 + p.tiles2 c v.1 v.2.1

/-- What array tile `a` of a visit reads: the K tiles of the first product, with the middle list's streams at its last one, then
the second product. -/
def Chain2.tileReads (p : Chain2) (c : Chain) (i j a : Nat) : List (Nat × Nat) :=
  let rgs := p.t1.rowGroups i
  let rg := a % rgs
  let nr := min 128 (p.t1.rows i - 128 * rg)
  let r0 := i * p.t1.mt + 128 * rg
  if a < p.tiles1 i j then
    let cg := a / rgs % p.t1.colGroups j
    let kt := a / rgs / p.t1.colGroups j
    let k0 := kt * p.k1t
    let kl := min p.k1t (p.k1 - k0)
    let c0 := j * p.t1.nt + 16 * cg
    let nc := min 16 (p.t1.cols j - 16 * cg)
    (if kt = 0 then [] else [(p.work + p.len - p.held c - p.stackLen, p.stackLen)]) ++
    window (fmtOf c.pfmt) p.aOff p.t1.m p.k1 r0 nr k0 kl ++ window p.u1.b p.b1 p.t1.n p.k1 c0 nc k0 kl ++
    streamWindow c 1 p.t1.m p.k1 r0 nr k0 kl ++
    (if kt + 1 = cdiv p.k1 p.k1t then
      p.u1.vecs nc (p.scale1 + 4 * c0) (p.bias1 + 4 * c0) ++ streamWindow c 2 p.t1.m p.t1.n r0 nr c0 nc
    else [])
  else
    let cg := (a - p.tiles1 i j) / rgs
    [(p.work + p.len - p.held c, p.held c)] ++
    window p.u2.b p.b2 p.t2.n p.t1.n (16 * cg) (min 16 (p.t2.n - 16 * cg)) (j * p.t1.nt) (p.t1.cols j)

/-- The array tile of a visit that first reads a byte, the second product's first one for accumulators and A2 buffer; the
epilogue's reads come after all of them. -/
def Chain2.tileAt (p : Chain2) (c : Chain) (n off : Nat) : Nat :=
  let v := p.tileOf c n
  if n = 0 && inSpans off (c.readVecs p.ext ++ c.firstPass p.aOff p.t1.m p.k1) then 0
  else ((List.range (p.tiles c n)).find? fun a => inSpans off (p.tileReads c v.1 v.2.2 a)).getD (p.tiles c n)

def Chain2.pieces (p : Chain2) (c : Chain) (x : Ctx) (s : State) : List Piece :=
  let ob := fun i => obByte s x.core i
  let m := p.t1.m
  let aRd := fun i => ob (p.aOff + i)
  let b1 := storedVals p.u1.b (fun i => ob (p.b1 + i)) p.t1.n p.k1
  let b2 := storedVals p.u2.b (fun i => ob (p.b2 + i)) p.t2.n p.t1.n
  let cs := (List.range p.t2.n).map fun q => onesDot p.u2.mode (cell .zero b2 q) p.t1.n p.gk2
  let v : ChEnv :=
    { nl := x.nl, luna := x.lunaRec, ob := ob, streams := c.streams, rows := m, parity := c.parity
      aStats := fun r eps => let z := rowStats x.nl (loadRow p.u1.a aRd m p.k1 r) eps; (z.1, z.2.2)
      colsum := fun q => cs.getD q 0 }
  let a := c.aVals v p.u1.a aRd m p.k1
  let y1 := (List.range m).map fun r => p.u1.row ob p.scale1 p.bias1 ((List.range p.t1.n).map fun j =>
    dot p.u1.mode (cell .zero a r) (cell .zero b1 j) p.k1 p.gk1)
  let res := (p.second c v b2 y1).map fun xs => p.u2.row ob p.scale2 p.bias2 xs
  let out := c.epiRows v p.t2.n res
  let midIn := if c.parity then storedAs p.u1.out p.u1.axisM y1 else y1
  let ends := statWrites v p.k1 c.pro (fun r => loadRow (fmtOf c.pfmt) aRd m p.k1 r) ++
    (if p.running then [] else statWrites v p.t1.n c.mid fun r => midIn.getD r []) ++
    statWrites v p.t2.n c.epi fun r => (c.epiIn res).getD r []
  let perM := p.sweeps c * p.t1.nTiles
  let vis := (List.range (p.visits c)).map fun n =>
    let i := n / perM
    let sw := n % perM / p.t1.nTiles
    let j := n % p.t1.nTiles
    let lastOf := n % perM + 1 == perM
    { fault := (if n = 0 then x.cmd.lunaBad else none) <|>
        if p.len < p.needVisit c i then some (stBufOverflow, 0x60) else none
      obReads := p.reads c i sw j
      writes := (if lastOf && decide (p.needEpi c i ≤ p.len) then
          (List.range p.t2.nTiles).map fun q =>
            { d := .ob (p.work + p.outOff i q), bytes := p.t2.block p.u2.out p.u2.axisM out q i }
        else []) ++ (if n + 1 = p.visits c && decide (p.needEpi c i ≤ p.len) then ends else []) : Piece }
  vis ++ (if p.len < p.needEpi c (p.t1.mTiles - 1) then [{ fault := some (stBufOverflow, 0x60) }] else [])

/-- The work of MTX.CHAIN2. -/
def chain2Plan (x : Ctx) (s : State) : Plan :=
  let p := Chain2.parse x.nl x.par
  let c := chain2Chain x.par
  { pieces := p.pieces c x s, checked := true, scratch := [(p.work, p.len)], tileAt := p.tileAt c
    quanta := tileQuanta (p.visits c) (p.tiles c)
    stop := stopTiles (p.visits c) (p.tiles c), out := mtxOut x (p.visits c) false, mark := markCore x }

/-- Both products and the chain. A SOFTMAX takes an EXP per value and, per row and N1 tile, one for the correction, with an RCP per
row (R185); in the three-sweep form two EXPs per value and an RCP per row (R189). -/
def Chain2.charges (p : Chain2) (c : Chain) : List Charge :=
  let rows := roundUp 128 p.t1.m
  let n1 := roundUp 16 p.t1.n
  let n2 := roundUp 16 p.t2.n
  let sw := p.sweeps c
  chargeList (arrayWork (arrayClass p.u1.a p.u1.b) rows (sw * n1) p.k1 p.k1t p.u1.passes 128 ++
    arrayWork (arrayClass p.u2.a p.u2.b) rows n2 p.t1.n p.t1.nt p.u2.passes 128 ++
    c.lists (sw * p.t1.nTiles * rows * p.k1, sw * rows * n1, rows * n2) p.t1.m
      (if !p.running then 0 else if c.parity then rows * (2 * n1 + 1) else rows * (n1 + p.t1.nTiles + 1)))

def chain2Family : Family where
  bad := chain2Bad
  lvl := chain2Lvl
  stat := chain2Stat
  core _ := true
  thread _ := true
  ob nl v := let p := Chain2.parse nl v; (p.work, p.len) :: p.spans (chain2Chain v)
  streams v := (chain2Chain v).streamCount
  draws v := (chain2Chain v).draws
  refuse x s := needLuna (chain2Chain x.par).draws x s
  charges x _ := (Chain2.parse x.nl x.par).charges (chain2Chain x.par)
  reach := planReach chain2Plan
  steps := planSteps chain2Plan
  yieldAt := yieldPlan chain2Plan
  work x s := execPlan (chain2Plan x s) x s

def execMtxChain2 (c : CmdRef) (e : Circ) (s : State) : Outcome State Fault Refusal :=
  .next (runCmd 0x0202 chain2Family c e s)

end Sys2Proof.Machine
end

