-- ==== Sys2Proof/Machine/Att.lean ====
section
/-! DEFINITION. Key-value sequences and attention: KV.MAP, KV.APPEND, ATT.FWD, ATT.BWD (R192 to R219). -/
namespace Sys2Proof.Machine
open Host

/-! ### Sequence tables (R195 to R198) -/

structure Seq where
  app : Nat
  cap : Nat
  init : Bool
  ring : Bool
  kf : Nat
  vf : Nat
  hkv : Nat
  d : Nat
  nPages : Nat
  maxPages : Nat
deriving DecidableEq, Repr

/-- The header of R195. -/
def Seq.parse (v : Nat) : Seq :=
  { app := fld v 63 0, cap := fld v 95 64, init := bit v 96, ring := bit v 97, kf := fld v 107 104, vf := fld v 111 108
    hkv := fld v 115 112 + 1, d := 32 * (fld v 118 116 + 1), nPages := fld v 143 128, maxPages := fld v 159 144 }

def Seq.bytes (q : Seq) : List Byte :=
  leBytes 64 (q.app % 2 ^ 64 + q.cap <<< 64 + ofBool q.init <<< 96 + ofBool q.ring <<< 97 + q.kf <<< 104 + q.vf <<< 108
    + (q.hkv - 1) <<< 112 + (q.d / 32 - 1) <<< 116 + q.nPages <<< 128 + q.maxPages <<< 144)

def Seq.kFmt (q : Seq) : Fmt := fmtOf q.kf
def Seq.vFmt (q : Seq) : Fmt := fmtOf q.vf
/-- Visible count and first visible position (R198). -/
def Seq.vis (q : Seq) : Nat := if q.ring then min q.app q.cap else q.app
def Seq.first (q : Seq) : Nat := q.app - q.vis
def Seq.slot (q : Seq) (p : Nat) : Nat := if q.ring then p % q.cap else p

/-- Key part, value part and page length (R197). -/
def Seq.kPart (q : Seq) (k : Nat) : Nat := roundUp 128 (2 ^ k * q.kFmt.rowBytes q.d)
def Seq.vPart (q : Seq) (k : Nat) : Nat := roundUp 128 (q.d * q.vFmt.rowBytes (2 ^ k))
def Seq.pageLen (q : Seq) (k : Nat) : Nat := q.hkv * (q.kPart k + q.vPart k)

structure Page where
  base : Nat
  k : Nat
  start : Nat
  raw : Nat
deriving DecidableEq, Repr

/-- A page entry (R195). -/
def Page.parse (v : Nat) : Page := ⟨fld v 47 0, fld v 51 48, fld v 95 64, v⟩
def Page.value (g : Page) : Nat := g.base + g.k <<< 48 + g.start <<< 64

/-- BASE and K_LOG2 of an entry or a record obey the map of R195 and R196. -/
def Seq.pageOk (q : Seq) (base k : Nat) : Bool :=
  divides 4096 base && within k 4 12 && spanMem base (q.pageLen k)

/-- The entries with the START that R196 gives each. -/
def withStarts : Nat → List Page → List (Page × Nat)
  | _, [] => []
  | a, g :: r => (g, a) :: withStarts (a + 2 ^ g.k) r

def seqHdr (s : State) (o : Owner) (a : Nat) : Seq := Seq.parse (readNat s o a 64)
def seqPages (s : State) (o : Owner) (a n : Nat) : List Page :=
  (List.range n).map fun i => Page.parse (readNat s o (a + 64 + 16 * i) 16)

/-- Entry and index within its page of a slot. -/
def placeOf : List (Page × Nat) → Nat → Nat → Option (Nat × Nat)
  | [], _, _ => none
  | (g, a) :: r, i, slot => if slot < a + 2 ^ g.k then some (i, slot - a) else placeOf r (i + 1) slot

/-- A sequence as a command finds it: header, entries with their starts, table address. -/
structure SeqAt where
  a : Nat
  h : Seq
  pages : List (Page × Nat)

def seqAt (s : State) (o : Owner) (a : Nat) : SeqAt :=
  let h := seqHdr s o a
  ⟨a, h, withStarts 0 (seqPages s o a h.nPages)⟩

def SeqAt.place (q : SeqAt) (p : Nat) : Option (Nat × Nat) := placeOf q.pages 0 (q.h.slot p)

/-- The entries that cover a range of positions, ascending. -/
def SeqAt.needed (q : SeqAt) (p0 n : Nat) : List Nat :=
  (List.range n).foldl (fun l i => match q.place (p0 + i) with
    | some x => insNat x.1 l
    | none => l) []

/-- An entry that covers a position breaks R195 or R196, or none covers it. So does a page smaller than a block of the values, which
breaks R197 (DESIGN CHOICE, log 80: R200 names R195 and R196). -/
def SeqAt.broken (q : SeqAt) (p0 n : Nat) : Bool :=
  (List.range n).any (fun i => (q.place (p0 + i)).isNone) ||
  (q.needed p0 n).any fun i => match q.pages[i]? with
    | some (g, a) => g.start != a || fld g.raw 63 52 != 0 || fld g.raw 127 96 != 0 || !q.h.pageOk g.base g.k ||
        (q.h.vFmt.bs != 0 && decide (2 ^ g.k < q.h.vFmt.bs)) || (decide (i + 1 = q.h.nPages) && q.h.cap != a + 2 ^ g.k)
    | none => true

/-- Table lines that a command reads at its start: the header and the entries that it needs (R200). -/
def SeqAt.tableReads (q : SeqAt) (p0 n : Nat) : List (Nat × Nat) :=
  (q.a, 64) :: (q.needed p0 n).map fun i => (q.a + 64 + 16 * i, 16)

def readable (x : Ctx) (s : State) (l : List (Nat × Nat)) : Bool := l.all fun y => (readFault s x.o x.e y.1 y.2).isNone

/-- What a refusal has read of a table: its header, and the entries when it is for them (0x43) or `late`. -/
def SeqAt.peeks (q : SeqAt) (o : Option Out) (late : Bool) (p0 n : Nat) : List (Nat × Nat) :=
  if o.any fun y => decide (y.code = 0x43) || (late && decide (y.code = 0x42)) then q.tableReads p0 n else [(q.a, 64)]

/-- Addresses of the key row and of the value row of a head in a page (R197). -/
def Seq.keyAddr (q : Seq) (g : Page) (head i : Nat) : Nat := g.base + head * q.kPart g.k + i * q.kFmt.rowBytes q.d
def Seq.valAddr (q : Seq) (g : Page) (head d : Nat) : Nat :=
  g.base + q.hkv * q.kPart g.k + head * q.vPart g.k + d * q.vFmt.rowBytes (2 ^ g.k)

def pageOf (q : SeqAt) (i : Nat) : Page := ((q.pages[i]?).map (·.1)).getD ⟨0, 0, 0, 0⟩

/-- Values of the key and of the value of a head at a position. -/
def SeqAt.key (q : SeqAt) (s : State) (o : Owner) (head p : Nat) : List Ext :=
  match q.place p with
  | none => []
  | some (i, t) =>
    let g := pageOf q i
    let f := q.h.kFmt
    (List.range q.h.d).map fun d =>
      let x := f.rowCode (fun b => readByte s o (q.h.keyAddr g head 0 + b)) q.h.d (f.rowBytes q.h.d) t d
      f.value x.1 x.2
def SeqAt.val (q : SeqAt) (s : State) (o : Owner) (head p : Nat) : List Ext :=
  match q.place p with
  | none => []
  | some (i, t) =>
    let g := pageOf q i
    let f := q.h.vFmt
    (List.range q.h.d).map fun d =>
      let x := f.rowCode (fun b => readByte s o (q.h.valAddr g head 0 + b)) (2 ^ g.k) (f.rowBytes (2 ^ g.k)) d t
      f.value x.1 x.2

/-- Positions `p0 ..` as runs of adjacent tokens of one page: entry, first index, count. -/
def mergeRun (x : Nat × Nat) : List (Nat × Nat × Nat) → List (Nat × Nat × Nat)
  | (i, t, n) :: r => if x.1 = i ∧ x.2 + 1 = t then (i, x.2, n + 1) :: r else (x.1, x.2, 1) :: (i, t, n) :: r
  | [] => [(x.1, x.2, 1)]
def SeqAt.runs (q : SeqAt) (p0 n : Nat) : List (Nat × Nat × Nat) :=
  ((List.range n).filterMap fun i => q.place (p0 + i)).foldr mergeRun []

/-- Page bytes of the keys, or of the values, of a head at positions `p0 ..`. -/
def SeqAt.keyReads (q : SeqAt) (head p0 n : Nat) : List (Nat × Nat) :=
  (q.runs p0 n).map fun (i, t, m) => (q.h.keyAddr (pageOf q i) head t, m * q.h.kFmt.rowBytes q.h.d)
def SeqAt.valReads (q : SeqAt) (head p0 n : Nat) : List (Nat × Nat) :=
  let f := q.h.vFmt
  (q.runs p0 n).flatMap fun (i, t, m) => (List.range q.h.d).flatMap fun d =>
    let g := pageOf q i
    let a := q.h.valAddr g head d
    (a + t * f.width / 8, cdiv ((t + m) * f.width) 8 - t * f.width / 8) ::
      (if f.bs = 0 then [] else [(a + f.dataBytes (2 ^ g.k) + t / f.bs, cdiv (t + m) f.bs - t / f.bs)])

/-! ### Replies of KV.MAP and KV.APPEND (R219) -/

def kvReply (app n : Nat) : Nat := app % 2 ^ 48 + n <<< 48
/-- A sequence state refuses the command (R200). -/
def kvRefuse (q : Seq) (code : Nat) : Out := { status := stRefusedState, code := code, reply := kvReply q.app q.nPages }
/-- The reply of a command that failed with a status: as read at its start, free where that read failed. -/
def kvFail (x : Ctx) (s : State) (a : Nat) (q : Seq) (st : Nat) : Nat :=
  if (readFault s x.o x.e a 64).isNone then kvReply q.app q.nPages else (Config.unread (plainHdr x.cmd.hdr) x.par st).toNat

/-- The operand-buffer byte that a command without a core finds for its task: its own banks' bytes, else 0 (R369). -/
def kvOb (x : Ctx) (s : State) (off : Nat) : Byte :=
  match x.task.bind (·.core) with
  | some p => if bankHolder s p (off / 0x10000) = some (x.c.q, x.cmd.task) then obByte s p off else 0
  | none => 0
/-- Banks that another task holds on the task's core keep the command waiting (R368). -/
def kvReady (l : List (Nat × Nat)) (x : Ctx) (s : State) : Bool :=
  match x.task.bind (·.core) with
  | some p => banksFree s p x.c.q x.cmd.task (banksOf l)
  | none => true

/-! ### KV.MAP (R201) -/

structure KvMap where
  op : Nat
  ring : Bool
  kf : Nat
  vf : Nat
  hkv : Nat
  d : Nat
  maxPages : Nat
  nAdd : Nat
  seq : Nat
  src : Nat
deriving DecidableEq, Repr

def KvMap.parse (v : Nat) : KvMap :=
  { op := fld v 1 0, ring := bit v 2, kf := fld v 7 4, vf := fld v 11 8, hkv := fld v 15 12 + 1
    d := 32 * (fld v 18 16 + 1), maxPages := fld v 47 32, nAdd := fld v 63 48, seq := fld v 111 64, src := fld v 159 128 }

/-- The header that INIT writes, before its counts. -/
def KvMap.fresh (p : KvMap) : Seq :=
  { app := 0, cap := 0, init := true, ring := p.ring, kf := p.kf, vf := p.vf, hkv := p.hkv, d := p.d, nPages := 0
    maxPages := p.maxPages }

def kvMapBad (v : Nat) : Bool :=
  let p := KvMap.parse v
  let blk := (fmtOf p.vf).bs
  !zeros v [(3, 3), (31, 19), (127, 112), (255, 160)] || p.op == 3 ||
  (p.op != 0 && !zeros v [(2, 2), (18, 4), (47, 32)]) || (p.op == 2 && (p.nAdd != 0 || p.src != 0)) ||
  !inKs p.seq || !divides 64 p.seq || (p.op != 2 && !obOk p.src (8 * p.nAdd)) ||
  (p.op == 0 && (!fmtOk p.kf || !fmtOk p.vf || p.maxPages == 0 || decide (p.maxPages < p.nAdd) || (p.ring && p.nAdd == 0) ||
    !spanKs p.seq (64 + 16 * p.maxPages) || decide (4096 < blk)))

/-- A record: BASE, K_LOG2 and its reserved bits. -/
def kvRecord (x : Ctx) (s : State) (p : KvMap) (i : Nat) : Nat × Nat × Nat :=
  let v := leNat ((List.range 8).map fun b => kvOb x s (p.src + 8 * i + b))
  (fld v 47 0, fld v 51 48, fld v 63 52)

/-- The header in force and the entries to write: index, BASE, K_LOG2, START. -/
def KvMap.plan (p : KvMap) (x : Ctx) (s : State) : Seq × List (Nat × Page) :=
  let h := if p.op = 0 then p.fresh else seqHdr s x.o p.seq
  let recs := if p.op = 2 then [] else (List.range p.nAdd).map (kvRecord x s p)
  let ps := withStarts h.cap (recs.map fun r => ⟨r.1, r.2.1, 0, 0⟩)
  ({ h with cap := h.cap + (recs.map fun r => 2 ^ r.2.1).sum, nPages := h.nPages + recs.length
            app := if p.op = 2 then 0 else h.app },
    ps.zipIdx.map fun ((g, a), i) => (h.nPages + i, { g with start := a }))

/-- Refusals of KV.MAP at its records and its sequence (R200, R201); the reply has the counts of the header as it stands, free
where it cannot be read (log 16). -/
def kvMapRefuse (x : Ctx) (s : State) : Option Out :=
  let p := KvMap.parse x.par
  let h := if p.op = 0 then p.fresh else seqHdr s x.o p.seq
  let recs := if p.op = 2 then [] else (List.range p.nAdd).map (kvRecord x s p)
  let small := recs.any fun r => h.vFmt.bs != 0 && decide (2 ^ r.2.1 < h.vFmt.bs)
  let bad : Out := { status := stBadParam, reply := some (kvFail x s p.seq (seqHdr s x.o p.seq) stBadParam) }
  if p.op != 0 && !readable x s [(p.seq, 64)] then none
  else if recs.any fun r => r.2.2 != 0 || !h.pageOk r.1 r.2.1 then some bad
  else if p.op = 0 then
    (if small || (p.ring && !divides (max 1 h.vFmt.bs) (recs.map fun r => 2 ^ r.2.1).sum) then some bad else none)
  else if !h.init then some (kvRefuse h 0x40)
  else if p.op = 1 && fmtNl x.nl [h.kFmt, h.vFmt] then some { status := stRefusedNl, reply := kvReply h.app h.nPages }
  else if p.op = 1 && decide (h.maxPages < h.nPages + p.nAdd) then some (kvRefuse h 0x41)
  else if small then some (kvRefuse h 0x44)
  else if p.op = 1 && h.ring then some (kvRefuse h 0x45)
  else none

/-- The work of KV.MAP. -/
def kvMapPlan (x : Ctx) (s : State) : Plan :=
  let p := KvMap.parse x.par
  let h := seqHdr s x.o p.seq
  let z := p.plan x s
  { pieces := markArrived x.c s [
      { reads := if p.op = 0 then [] else [(p.seq, 64)]
        obReads := if p.op = 2 then [] else [(p.src, 8 * p.nAdd)]
        writes := (z.2.map fun e => { d := .dev (p.seq + 64 + 16 * e.1), bytes := leBytes 16 e.2.value }) ++
          [{ d := .dev p.seq, bytes := z.1.bytes }] }]
    out := fun r => match r.fail with
      | none => { reply := kvReply z.1.app z.1.nPages }
      | some (_, st, _) => { status := st, reply := kvFail x s p.seq h st } }

def kvMapFamily : Family where
  bad _ := kvMapBad
  lvl nl v := let p := KvMap.parse v; p.op == 0 && fmtNl nl [fmtOf p.kf, fmtOf p.vf]
  spans v := let p := KvMap.parse v; [(p.seq, 64 + 16 * p.maxPages)]
  spansS x s := let p := KvMap.parse x.par
    if p.op = 1 && (seqHdr s x.o p.seq).init then [(p.seq + 64 + 16 * (seqHdr s x.o p.seq).nPages, 16 * p.nAdd)] else []
  ob _ v := let p := KvMap.parse v; if p.op = 2 then [] else [(p.src, 8 * p.nAdd)]
  home v := some (KvMap.parse v).seq
  refuse := kvMapRefuse
  peeks x _ := let p := KvMap.parse x.par; if p.op = 0 then [] else [(p.seq, 64)]
  ready x s := let p := KvMap.parse x.par; kvReady (if p.op = 2 then [] else [(p.src, 8 * p.nAdd)]) x s
  thread _ := true
  reach := planReach kvMapPlan
  steps := planSteps kvMapPlan
  work x s := execPlan (kvMapPlan x s) x s

def execKvMap (c : CmdRef) (e : Circ) (s : State) : Outcome State Fault Refusal :=
  .next (runRows 0x0404 kvMapFamily (planRows kvMapPlan) c e s)

/-! ### KV.APPEND (R202, R203) -/

structure KvApp where
  op : Nat
  src : Nat
  h0 : Nat
  nh : Nat
  t : Nat
  seq : Nat
  kOff : Nat
  vOff : Nat
deriving DecidableEq, Repr

def KvApp.parse (v : Nat) : KvApp :=
  { op := fld v 1 0, src := fld v 5 2, h0 := fld v 9 6, nh := fld v 13 10 + 1, t := fld v 31 16, seq := fld v 79 32
    kOff := fld v 127 96, vOff := fld v 159 128 }

def KvApp.f (p : KvApp) : Fmt := fmtOf p.src
/-- Bytes of one head's source. -/
def KvApp.headLen (p : KvApp) (d : Nat) : Nat := p.f.tensorBytes p.t d
def KvApp.first (p : KvApp) (q : Seq) : Nat := if p.op = 2 then q.app - p.t else q.app

def kvAppBad (v : Nat) : Bool :=
  let p := KvApp.parse v
  !zeros v [(15, 14), (95, 80), (191, 160)] || p.op == 3 || !fmtOk p.src || p.t == 0 || !inKs p.seq || !divides 64 p.seq ||
  !divides 128 p.kOff || !divides 128 p.vOff

def kvAppRefuse (x : Ctx) (s : State) : Option Out :=
  let p := KvApp.parse x.par
  if !readable x s [(p.seq, 64)] then none
  else
    let q := seqAt s x.o p.seq
    let h := q.h
    let no (c : Nat) : Option Out := some (kvRefuse h c)
    let len := p.nh * p.headLen h.d
    let blk := max 1 h.vFmt.bs
    if !h.init then no 0x40
    else if !obOk p.kOff len || !obOk p.vOff len || (!p.f.isWide && (p.f != h.kFmt || p.f != h.vFmt)) || !divides blk p.t then
      some { status := stBadParam, reply := kvReply h.app h.nPages }
    else if fmtNl x.nl [h.kFmt, h.vFmt] then some { status := stRefusedNl, reply := kvReply h.app h.nPages }
    else if !h.ring && p.op != 2 && decide (h.cap < h.app + p.t) then no 0x41
    else if (p.op = 2 && decide (h.vis < p.t)) || (h.ring && decide (h.cap < p.t)) then no 0x42
    else if decide (h.hkv < p.h0 + p.nh) || !divides blk (p.first h) then no 0x44
    else if !readable x s (q.tableReads (p.first h) p.t) then none
    else if q.broken (p.first h) p.t then no 0x43
    else none

/-- The writes of tokens `t0 .. t0 + n` of one head: key rows, then value elements by column (R197, R203). -/
def KvApp.tokens (p : KvApp) (x : Ctx) (s : State) (q : SeqAt) (i t0 n : Nat) : List Wr :=
  let h := q.h
  let head := p.h0 + i
  let len := p.headLen h.d
  let kRd := fun b => kvOb x s (p.kOff + i * len + b)
  let vRd := fun b => kvOb x s (p.vOff + i * len + b)
  let kf := h.kFmt
  let vf := h.vFmt
  let keys := (List.range n).flatMap fun j =>
    match q.place (p.first h + t0 + j) with
    | none => []
    | some (e, t) =>
      let el : Nat → Nat × Nat := if p.f = kf then p.f.tileCode kRd p.t h.d (t0 + j)
        else kf.storeEl (loadRow p.f kRd p.t h.d (t0 + j))
      let es := (List.range h.d).map el
      let a := h.keyAddr (pageOf q e) head t
      ({ d := .dev a, bytes := packCodes kf.width (es.map (·.1)) } : Wr) ::
        (if kf.bs = 0 then [] else [{ d := .dev (a + kf.dataBytes h.d)
                                      bytes := (List.range (kf.scales h.d)).map fun b =>
                                        BitVec.ofNat 8 (es.getD (b * kf.bs) (0, 0)).2 }])
  let vals := match q.place (p.first h + t0) with
    | none => []
    | some (e, t) =>
      let g := pageOf q e
      (List.range h.d).flatMap fun d =>
        let a := h.valAddr g head d
        let same := p.f = vf
        let cs := if same then (List.range n).map fun j => p.f.tileCode vRd p.t h.d (t0 + j) d
          else
            let el := vf.storeEl ((List.range n).map fun j => p.f.tileLoad vRd p.t h.d (t0 + j) d)
            (List.range n).map el
        let scale : Byte := if same then Config.valueScale (cs.map (·.2)) head d ((p.first h + t0) / max 1 vf.bs)
          else BitVec.ofNat 8 (cs.getD 0 (0, 0)).2
        ({ d := .dev (a + t * vf.width / 8), bytes := packCodes vf.width (cs.map (·.1)) } : Wr) ::
          (if vf.bs = 0 then [] else [{ d := .dev (a + vf.dataBytes (2 ^ g.k) + t / vf.bs), bytes := [scale] }])
  keys ++ vals

/-- The work: the table, the tokens in ascending order (a block of them at a time where values have blocks), APPENDED. -/
def KvApp.pieces (p : KvApp) (x : Ctx) (s : State) : List Piece :=
  if !readable x s [(p.seq, 64)] then [{ reads := [(p.seq, 64)] }]
  else
    let q := seqAt s x.o p.seq
    let h := q.h
    let tab := q.tableReads (p.first h) p.t
    if !readable x s tab then [{ reads := tab }]
    else
      let n := max 1 h.vFmt.bs
      let len := p.headLen h.d
      [{ reads := tab }] ++
      ((List.range (p.t / n)).flatMap fun g => (List.range p.nh).map fun i =>
        { obReads := window p.f (p.kOff + i * len) p.t h.d (g * n) n 0 h.d ++ window p.f (p.vOff + i * len) p.t h.d (g * n) n 0 h.d
          writes := p.tokens x s q i (g * n) n }) ++
      (if p.op = 1 then [{ writes := [{ d := .dev p.seq, bytes := leBytes 8 (h.app + p.t) }] }] else [])

/-- The work of KV.APPEND. -/
def kvAppendPlan (x : Ctx) (s : State) : Plan :=
  let p := KvApp.parse x.par
  let h := seqHdr s x.o p.seq
  { pieces := markArrived x.c s (p.pieces x s)
    out := fun r => match r.fail with
      | none => { reply := kvReply (if p.op = 1 then h.app + p.t else h.app) h.nPages }
      | some (_, st, _) => { status := st, reply := kvFail x s p.seq h st } }

/-- Table entries and page bytes that KV.APPEND reads and writes. -/
def KvApp.pageSpans (p : KvApp) (x : Ctx) (s : State) : List (Nat × Nat) :=
  let q := seqAt s x.o p.seq
  if !q.h.init then []
  else
    let p0 := p.first q.h
    q.tableReads p0 p.t ++ (List.range p.nh).flatMap fun i => q.keyReads (p.h0 + i) p0 p.t ++ q.valReads (p.h0 + i) p0 p.t

/-- The sources of KV.APPEND, once the header gives D. -/
def KvApp.srcSpans (p : KvApp) (x : Ctx) (s : State) : List (Nat × Nat) :=
  let h := seqHdr s x.o p.seq
  if h.init then [(p.kOff, p.nh * p.headLen h.d), (p.vOff, p.nh * p.headLen h.d)] else []

def kvAppendFamily : Family where
  bad _ := kvAppBad
  lvl nl v := fmtNl nl [(KvApp.parse v).f]
  spans v := [((KvApp.parse v).seq, 64)]
  spansS x s := (KvApp.parse x.par).pageSpans x s
  obS x s := (KvApp.parse x.par).srcSpans x s
  home v := some (KvApp.parse v).seq
  refuse := kvAppRefuse
  peeks x s :=
    let p := KvApp.parse x.par
    let q := seqAt s x.o p.seq
    q.peeks (kvAppRefuse x s) false (p.first q.h) p.t
  ready x s := kvReady ((KvApp.parse x.par).srcSpans x s) x s
  thread _ := true
  charges x s := chargeList (planTraffic kvAppendPlan x s)
  reach := planReach kvAppendPlan
  steps := planSteps kvAppendPlan
  work x s := execPlan (kvAppendPlan x s) x s

def execKvAppend (c : CmdRef) (e : Circ) (s : State) : Outcome State Fault Refusal :=
  .next (runRows 0x0403 kvAppendFamily (planRows kvAppendPlan) c e s)

/-! ### Parameters that ATT.FWD and ATT.BWD share (R212, R217) -/

structure Att where
  u1 : Numerics
  u2 : Numerics
  rows : Nat
  mt : Nat
  kb : Nat
  heads : Nat
  gq : Nat
  kvh0 : Nat
  mask : Nat
  parity : Bool
  cant : Bool
  lseEn : Bool
  keep : Nat
  seq : Nat
  pos0 : Nat
  frame : Nat
  q : Nat
  lse : Nat
  work : Nat
  len : Nat
  kept : Nat
  keptRow : Nat
  keptStride : Nat
  /-- ATT.FWD: output, scale and bias offsets -/
  out : Nat
  scale : Nat
  bias : Nat
  /-- ATT.BWD: rows of the whole sum, first row, key range, offsets -/
  total : Nat
  row0 : Nat
  keyLo : Nat
  keyN : Nat
  dOut : Nat
  delta : Nat
  dq : Nat
  dk : Nat
  dv : Nat
deriving DecidableEq, Repr

def Att.parse (bwd : Bool) (v : Nat) : Att :=
  let w := fun lo => fld v (lo + 31) lo
  let cant := !bwd && bit v 295
  let rows := fld v 275 256
  { u1 := numOf (v % 2 ^ 128), u2 := numOf (fld v 255 128), rows := rows
    mt := if cant then max 1 rows else 128 * 2 ^ fld v 277 276
    kb := 64 * 2 ^ fld v 279 278, heads := fld v 283 280 + 1, gq := fld v 287 284 + 1, kvh0 := fld v 291 288
    mask := fld v 293 292, parity := !bwd && bit v 294, cant := cant, lseEn := !bwd && bit v 296, keep := fld v 319 304
    seq := fld v 367 320, pos0 := fld v 447 384, frame := w 448
    q := if bwd then w 608 else w 512, lse := if bwd then w 672 else w 576
    work := if bwd then w 832 else w 608, len := if bwd then w 864 else w 640
    kept := if bwd then fld v 943 896 else fld v 783 736, keptRow := if bwd then w 960 else w 800
    keptStride := if bwd then w 992 else w 832
    out := w 544, scale := if bwd then 0 else w 672, bias := if bwd then 0 else w 704
    total := w 480, row0 := w 512, keyLo := w 544, keyN := w 576
    dOut := w 640, delta := w 704, dq := w 736, dk := w 768, dv := w 800 }

def Att.mTiles (p : Att) : Nat := cdiv p.rows p.mt
def Att.tileRows (p : Att) (i : Nat) : Nat := min p.mt (p.rows - i * p.mt)
/-- Kept heads, ascending. -/
def Att.keptHeads (p : Att) : List Nat := (List.range p.heads).filter fun h => p.keep.testBit h
def Att.nBlk (p : Att) (n : Nat) : Nat := cdiv n p.kb
/-- The cases of R213 that the parameters of both commands decide. Without KEEP, KEPT_ADDR must be 0 in ATT.BWD too (DESIGN CHOICE,
log 79: R217 gives the field a meaning of its own). KEPT_ROW_LEN and KEPT_STRIDE may hold any value with KEEP = 0, as LSE_OFF with
W_LSE = 0 (DESIGN CHOICE, log 82: the maps of R212 and R217 say nothing of them there). -/
def Att.bad (p : Att) (v : Nat) : Bool :=
  (Numerics.parse (v % 2 ^ 128)).isNone || (Numerics.parse (fld v 255 128)).isNone ||
  p.u1.bad 32 || p.u2.bad 32 || !pairOk p.u1.a p.u1.b p.u1.passes || !pairOk p.u2.a p.u2.b p.u2.passes ||
  p.u1.biasEn || p.u1.scaleVec || p.u1.axisM || !p.u1.out.isWide || p.u2.axisM ||
  p.rows == 0 || !divides p.gq p.heads || p.mask == 3 || (if p.mask = 2 then p.frame == 0 else p.frame != 0) ||
  p.keep >>> p.heads != 0 || decide (2 < p.keptHeads.length) || (p.keep == 0 && p.kept != 0) ||
  (p.keep != 0 && !(inBorug p.kept || inKs p.kept)) || !inKs p.seq || !divides 64 p.seq

/-- Operand-buffer spans of ATT.FWD but for its work region. -/
def Att.fwdOb (p : Att) (d : Nat) : List (Nat × Nat) :=
  [(p.q, p.heads * p.u1.a.tensorBytes p.rows d), (p.out, p.heads * p.u2.out.tensorBytes p.rows d)] ++
    (if p.lseEn then [(p.lse, 4 * p.heads * p.rows)] else []) ++ p.u2.vecs d p.scale p.bias

/-- The cases of R213 that the slot decides. Offsets are judged with the least D, 32: what fails there fails for every D. -/
def attFwdBad (v : Nat) : Bool :=
  let p := Att.parse false v
  !zeros v [(303, 297), (383, 368), (511, 480), (799, 784), (1023, 864)] || p.bad v ||
  (p.u2.gk != 0 && !p.parity) || (p.cant && decide (4 < p.rows)) || p.u2.vecsBad p.scale p.bias ||
  spansBad (p.fwdOb 32) (p.work, p.len)

/-- Span of the kept scores for `cols` columns (R208). -/
def Att.keptSpan (p : Att) (cols : Nat) : Nat × Nat :=
  (p.kept, (p.keptHeads.length - 1) * p.keptStride * 4096 + ((p.rows - 1) * p.keptRow + cols) * 2)
def Att.keptAddr (p : Att) (head r j : Nat) : Nat :=
  p.kept + (p.keptHeads.findIdx (· == head)) * p.keptStride * 4096 + (r * p.keptRow + j) * 2

/-- A key at position `pos` is visible to query row `r` (R204). -/
def Att.sees (p : Att) (r pos : Nat) : Bool :=
  let q := p.pos0 + r
  match p.mask with
  | 1 => decide (pos ≤ q)
  | 2 => decide (pos / p.frame ≤ q / p.frame)
  | _ => true

/-- Key block `b` is masked for every row of an M tile (R205). -/
def Att.hidden (p : Att) (q : Seq) (mt b : Nat) : Bool :=
  (List.range (p.tileRows mt)).all fun i => (List.range (min p.kb (q.vis - b * p.kb))).all fun j =>
    !p.sees (mt * p.mt + i) (q.first + b * p.kb + j)

/-- Refusals by the sequence (R213), common to both commands. -/
def attRefuse (p : Att) (x : Ctx) (s : State) (spans : Nat → List (Nat × Nat)) (badHere short : Seq → Bool) : Option Out :=
  if !readable x s [(p.seq, 64)] then none
  else
    let q := seqAt s x.o p.seq
    let h := q.h
    if !h.init then some (refuse 0x40)
    else if short h then some (refuse 0x42)
    else if badHere h || spansBad (spans h.d) (p.work, p.len) ||
      (p.keep != 0 && (let k := p.keptSpan (p.nBlk h.vis * p.kb); !spanMem k.1 k.2)) then some { status := stBadParam }
    else if decide (h.hkv < p.kvh0 + p.heads / p.gq) || p.u1.b != h.kFmt || (p.u2.b != h.vFmt) then some (refuse 0x44)
    else if !readable x s (q.tableReads h.first h.vis) then none
    else if q.broken h.first h.vis then some (refuse 0x43)
    else if p.keep != 0 && decide (p.keptRow < p.nBlk h.vis * p.kb) then some (refuse 0x42)
    else none

def negInf : Word := inf32 true

/-- Score of a row of Q and a key after steps 1 and 3 of R58 (R204). -/
def Att.score (p : Att) (gk : Nat) (d : Nat) (q k : List Ext) : Word :=
  p.u1.convert 0 0 (dot p.u1.mode (fun i => q.getD i .zero) (fun i => k.getD i .zero) d gk)

/-- The scores of query row `r` for logical indices `0 .. n` (R204, R205, R207). -/
def Att.scores (p : Att) (gk : Nat) (h : Seq) (qrow : List Ext) (keys : List (List Ext)) (r n : Nat) : List Word :=
  (List.range n).map fun j =>
    if j < h.vis && p.sees r (h.first + j) then
      let t := p.score gk h.d qrow (keys.getD j [])
      if p.parity then roundTo p.u1.out t else t
    else negInf

/-- One key block of the running form for one row (R185, R205, R206). -/
def Att.block (p : Att) (nl : Nat) (vals : List (List Ext)) (d : Nat) (xs : List Word) (st : RunSt) (b : Nat) : RunSt :=
  let c0 := b * p.kb
  let ys := (xs.drop c0).take p.kb
  if ys.all (fun y => y == negInf) then st
  else
    let m1 := ys.foldl fmax st.m
    let k := expW nl (fsub st.m m1)
    let es := ys.map fun y => expW nl (fsub y m1)
    let a2 := convRow p.u2.a es
    { m := m1
      l := rne32 ((val32 (fmul st.l k)).add (Ext.sum (es.map val32)))
      o := (List.range d).map fun i => fadd (fmul (st.o.getD i 0) k)
        (grain p.u2.mode (fun j => a2.getD j .zero) (fun j => cell .zero vals (c0 + j) i) 0 p.kb) }

/-- Outputs of a row before NUMERICS2, and its log-sum-exp (R206, R207). -/
def Att.row (p : Att) (nl gk2 : Nat) (vals : List (List Ext)) (d : Nat) (xs : List Word) : List Word × Word :=
  let lse (m l : Word) : Word := if xs.all (fun y => y == negInf) then negInf else fadd m (sfu nl .ln l)
  if xs.isEmpty then (List.replicate d nan32, negInf)
  else if p.parity then
    let m := xs.foldl fmax negInf
    let es := xs.map fun t => expW nl (fsub t m)
    let l := chunkSum es
    let q := sfu nl .rcp l
    let a2 := convRow p.u2.a (es.map fun t => fmul t q)
    ((List.range d).map fun i =>
      dot p.u2.mode (fun j => a2.getD j .zero) (fun j => cell .zero vals j i) xs.length gk2, lse m l)
  else
    let z := (List.range (xs.length / p.kb)).foldl (p.block nl vals d xs) { m := negInf, l := 0, o := List.replicate d 0 }
    (z.o.map fun o => fmul o (sfu nl .rcp z.l), lse z.m z.l)

/-- Staging of keys and values (R210). -/
def Att.staging (p : Att) (h : Seq) : Nat :=
  let part (f : Fmt) : Nat := cdiv (p.kb * h.d * f.width) 8 + (if f.bs = 0 then 0 else cdiv (p.kb * h.d) f.bs)
  up128 (2 * (part h.kFmt + part h.vFmt))

/-- The work region of R210: what is allocated before visit 0; accumulators and running state; all of it. -/
def Att.fwdHeld (p : Att) (nl : Nat) (h : Seq) : Nat :=
  let g1 := grainOf nl p.u1.gk
  let a := p.u2.a
  p.staging h + up128 (p.mt * p.kb * 4 * (Nat.log2 (cdiv h.d g1) + 1)) +
    up128 (2 * (p.mt * p.kb * a.width / 8 + if a.bs = 0 then 0 else p.mt * p.kb / a.bs))
def Att.fwdAcc (p : Att) (nl : Nat) (h : Seq) : Nat :=
  let g2 := grainOf nl p.u2.gk
  up128 (p.mt * h.d * 4 * (if p.parity then Nat.log2 (cdiv (p.nBlk h.vis * p.kb) g2) + 1 else 1)) + up128 (p.mt * 8)
def Att.fwdNeed (p : Att) (nl : Nat) (h : Seq) : Nat := p.fwdHeld nl h + p.fwdAcc nl h

/-- What a visit that is not skipped reads of the work region, of which `held` bytes lie at the top: those, and after the first
key block the `acc` bytes below them (R92, log 21). -/
def Att.workReads (p : Att) (held acc b : Nat) : List (Nat × Nat) :=
  (p.work + p.len - held, held) :: if b = 0 then [] else [(p.work + p.len - held - acc, acc)]

def Att.headRows (f : Fmt) (x : Ctx) (s : State) (off rows d head : Nat) : List (List Ext) :=
  storedVals f (fun i => obByte s x.core (off + head * f.tensorBytes rows d + i)) rows d

/-- What ATT.FWD computes for one head: the scores, and output and log-sum-exp of every row. -/
def Att.fwdHead (p : Att) (x : Ctx) (s : State) (q : SeqAt) (head : Nat) : List (List Word) × List (List Word × Word) :=
  let h := q.h
  let kv := p.kvh0 + head / p.gq
  let keys := (List.range h.vis).map fun j => q.key s x.o kv (h.first + j)
  let vals := (List.range h.vis).map fun j => q.val s x.o kv (h.first + j)
  let qs := Att.headRows p.u1.a x s p.q p.rows h.d head
  let xs := (List.range p.rows).map fun r =>
    p.scores (grainOf x.nl p.u1.gk) h (qs.getD r []) keys r (p.nBlk h.vis * p.kb)
  (xs, xs.map fun l =>
    let z := p.row x.nl (grainOf x.nl p.u2.gk) vals h.d l
    (p.u2.row (fun i => obByte s x.core i) p.scale p.bias z.1, z.2))

/-- Output rows of one M tile, and their log-sum-exps (R206). -/
def Att.tileOut (p : Att) (h : Seq) (head mt : Nat) (res : List (List Word × Word)) : List Wr :=
  let f := p.u2.out
  let base := p.out + head * f.tensorBytes p.rows h.d
  (List.range (p.tileRows mt)).flatMap fun i =>
    let r := mt * p.mt + i
    let z := res.getD r ([], negInf)
    ((f.lineWr p.rows h.d r (f.storeEl z.1)).map fun w => ({ d := .ob (base + w.1), bytes := w.2 } : Wr)) ++
      (if p.lseEn then [{ d := .ob (p.lse + 4 * (head * p.rows + r)), bytes := leBytes 4 z.2.toNat }] else [])

/-- Kept scores of one key block of an M tile (R208). -/
def Att.keptOut (p : Att) (head mt b : Nat) (xs : List (List Word)) : List Wr :=
  if p.keep.testBit head then
    (List.range (p.tileRows mt)).map fun i =>
      let r := mt * p.mt + i
      { d := .dev (p.keptAddr head r (b * p.kb))
        bytes := ((List.range p.kb).map fun j => leBytes 2 (Fmt.bf16.storeWide (cell 0 xs r (b * p.kb + j)))).flatten }
  else []

/-- The visits of ATT.FWD in order (R210). The rows of Q count as read at the visit of a skipped key block too, and at n_vis = 0 each
M tile is one visit, which reads them, checks the work region and carries the index h × m_tiles + mt (DESIGN CHOICE, log 81: R205
says that the key block is not read, and R210 numbers no visit at n_vis = 0). -/
def Att.fwdPieces (p : Att) (x : Ctx) (s : State) : List Piece :=
  if !readable x s [(p.seq, 64)] then [{ reads := [(p.seq, 64)] }]
  else
    let q := seqAt s x.o p.seq
    let h := q.h
    let tab := q.tableReads h.first h.vis
    if !readable x s tab then [{ reads := tab }]
    else
      let nb := p.nBlk h.vis
      let sw := if p.parity then 3 else 1
      let full : Option (Nat × Nat) := if p.len < p.fwdNeed x.nl h then some (stBufOverflow, 0x60) else none
      let all := (List.range p.heads).flatMap fun head =>
        let z := p.fwdHead x s q head
        let kv := p.kvh0 + head / p.gq
        (List.range p.mTiles).flatMap fun mt =>
          let qr := window p.u1.a (p.q + head * p.u1.a.tensorBytes p.rows h.d) p.rows h.d (mt * p.mt) (p.tileRows mt) 0 h.d
          let fin := p.tileOut h head mt z.2
          if nb = 0 then [{ fault := full, reads := tab, obReads := qr ++ p.u2.vecs h.d p.scale p.bias, writes := fin }]
          else (List.range sw).flatMap fun w => (List.range nb).map fun b =>
            let n := min p.kb (h.vis - b * p.kb)
            let p0 := h.first + b * p.kb
            let lastSw := decide (w + 1 = sw)
            let fini := lastSw && decide (b + 1 = nb)
            { fault := full
              reads := (if head = 0 ∧ mt = 0 ∧ w = 0 ∧ b = 0 then tab else []) ++
                (if !p.parity && p.hidden h mt b then [] else
                  q.keyReads kv p0 n ++ if lastSw then q.valReads kv p0 n else [])
              obReads := qr ++ (if !p.parity && p.hidden h mt b then [] else p.workReads (p.fwdHeld x.nl h) (p.fwdAcc x.nl h) b) ++
                if fini then p.u2.vecs h.d p.scale p.bias else []
              writes := (if lastSw then p.keptOut head mt b z.1 else []) ++ if fini then fin else [] : Piece }
      all

def Att.fwdVisits (p : Att) (n : Nat) : Nat := p.heads * p.mTiles * (if p.parity then 3 else 1) * p.nBlk n

/-- Array tiles of a visit: Q × Kᵀ over D, and the products of `n` more outputs of D columns (R211). -/
def Att.tiles (p : Att) (d mt n : Nat) : Nat :=
  let rg := cdiv (p.tileRows mt) 128
  rg * (p.kb / 16) + n * rg * cdiv d 16

/-- The M tile, the sweep and the key block of visit `n` of ATT.FWD (R210). -/
def Att.fwdAt (p : Att) (nb n : Nat) : Nat × Nat × Nat :=
  let sw := if p.parity then 3 else 1
  (n / max 1 nb / sw % max 1 p.mTiles, n / max 1 nb % sw, n % max 1 nb)

/-- Array tiles of visit `n` of ATT.FWD; a skipped block has none (R205). -/
def Att.fwdTiles (p : Att) (h : Seq) (n : Nat) : Nat :=
  let z := p.fwdAt (p.nBlk h.vis) n
  if !p.parity && p.hidden h z.1 z.2.2 then 0
  else p.tiles h.d z.1 (if p.parity && z.2.1 != 2 then 0 else 1)

/-- The array tile of a visit that first reads an operand-buffer byte: rows of Q by row group, everything else after the
products. -/
def Att.fwdTileAt (p : Att) (h : Seq) (n off : Nat) : Nat :=
  let z := p.fwdAt (p.nBlk h.vis) n
  let rg := cdiv (p.tileRows z.1) 128
  let inRows (g : Nat) : Bool := (List.range p.heads).any fun head =>
    inSpans off (window p.u1.a (p.q + head * p.u1.a.tensorBytes p.rows h.d) p.rows h.d (z.1 * p.mt + 128 * g)
      (min 128 (p.tileRows z.1 - 128 * g)) 0 h.d)
  ((List.range rg).find? inRows).getD (p.fwdTiles h n)

/-- Pages and kept scores that a command reads or writes, for `cols` columns of kept scores. -/
def Att.pageSpans (p : Att) (x : Ctx) (s : State) : List (Nat × Nat) :=
  let q := seqAt s x.o p.seq
  if !q.h.init then []
  else
    let n := q.h.vis
    q.tableReads q.h.first n ++
      ((List.range (p.heads / p.gq)).flatMap fun c =>
        q.keyReads (p.kvh0 + c) q.h.first n ++ q.valReads (p.kvh0 + c) q.h.first n) ++
      (if p.keep = 0 then [] else [p.keptSpan (p.nBlk n * p.kb)])

/-- Operand-buffer spans, once the header gives D. -/
def Att.obSpans (p : Att) (l : Nat → List (Nat × Nat)) (x : Ctx) (s : State) : List (Nat × Nat) :=
  let h := seqHdr s x.o p.seq
  if h.init then l h.d else []

/-- The device span of the kept scores as far as the parameters give it. -/
def Att.spans (p : Att) : List (Nat × Nat) := (p.seq, 64) :: if p.keep = 0 then [] else [(p.kept, 2)]

/-- The work of ATT.FWD. -/
def attFwdPlan (x : Ctx) (s : State) : Plan :=
  let p := Att.parse false x.par
  let h := seqHdr s x.o p.seq
  { pieces := markArrived x.c s (p.fwdPieces x s), checked := true, scratch := [(p.work, p.len)], tileAt := p.fwdTileAt h
    quanta := tileQuanta (p.fwdVisits h.vis) (p.fwdTiles h)
    stop := stopTiles (p.fwdVisits h.vis) (p.fwdTiles h), out := mtxOut x (p.fwdVisits h.vis) p.cant, mark := markCore x }

/-- Both products visit by visit, six issues and one EXP per score (R211; three and two times under parity), an EXP per row for the
correction of a visit (R185), the last division and conversion of each M tile with an RCP and, for the log-sum-exp, an LN per row
(R206, R207), pages and kept scores. -/
def Att.fwdCharges (p : Att) (x : Ctx) (s : State) : List Charge :=
  let h := seqHdr s x.o p.seq
  let lines := if p.cant then p.rows else 128
  let vs := ((List.range (p.fwdVisits h.vis)).filter fun n => p.fwdTiles h n != 0).map fun n =>
    let z := p.fwdAt (p.nBlk h.vis) n
    (roundUp lines (p.tileRows z.1), !p.parity || z.2.1 == 2)
  let all := (vs.map (·.1)).sum
  let last := ((vs.filter (·.2)).map (·.1)).sum
  let rows := ((List.range p.mTiles).map fun i => roundUp lines (p.tileRows i)).sum
  chargeList (arrayWork (arrayClass p.u1.a p.u1.b) all p.kb h.d h.d p.u1.passes lines ++
    arrayWork (arrayClass p.u2.a p.u2.b) last (roundUp 16 h.d) p.kb p.kb p.u2.passes lines ++
    vectorWork (6 * all * p.kb + 2 * p.heads * rows * h.d)
      ((if p.parity then all - last else all) * p.kb + (if p.parity then 0 else all) +
        p.heads * rows * (1 + ofBool p.lseEn)) ++ planTraffic attFwdPlan x s)

def attFwdRefuse (x : Ctx) (s : State) : Option Out :=
  let p := Att.parse false x.par
  attRefuse p x s p.fwdOb (fun _ => false) (fun _ => false)

def attFwdFamily : Family where
  bad _ := attFwdBad
  lvl nl v := let p := Att.parse false v; p.u1.badNl nl || p.u2.badNl nl
  core _ := true
  thread _ := true
  spans v := (Att.parse false v).spans
  ob _ v := let p := Att.parse false v; [(p.work, p.len)]
  obS x s := let p := Att.parse false x.par; p.obSpans p.fwdOb x s
  spansS x s := (Att.parse false x.par).pageSpans x s
  home v := some (Att.parse false v).seq
  refuse := attFwdRefuse
  peeks x s := let q := seqAt s x.o (Att.parse false x.par).seq; q.peeks (attFwdRefuse x s) true q.h.first q.h.vis
  charges x s := (Att.parse false x.par).fwdCharges x s
  reach := planReach attFwdPlan
  steps := planSteps attFwdPlan
  yieldAt := yieldPlan attFwdPlan
  work x s := execPlan (attFwdPlan x s) x s

def execAttFwd (c : CmdRef) (e : Circ) (s : State) : Outcome State Fault Refusal :=
  .next (runRows 0x0401 attFwdFamily (planRows attFwdPlan) c e s)

/-! ### ATT.BWD (R214 to R217) -/

/-- Grain of the gradient sums. -/
def Att.gkb (p : Att) (nl : Nat) : Nat := grainOf nl p.u2.gk
/-- Rows of the whole row sum, and the covered range of ρ (R214). -/
def Att.kTotal (p : Att) : Nat := p.gq * p.total
def Att.rhoHi (p : Att) : Nat := if p.gq = 1 then p.row0 + p.rows else p.kTotal

/-- Operand-buffer spans of ATT.BWD but for its work region. -/
def Att.bwdOb (p : Att) (d : Nat) : List (Nat × Nat) :=
  let kvs := p.heads / p.gq * Fmt.fp32.tensorBytes p.keyN d
  [(p.q, p.heads * Fmt.bf16.tensorBytes p.rows d), (p.dOut, p.heads * Fmt.bf16.tensorBytes p.rows d),
    (p.lse, 4 * p.heads * p.rows), (p.delta, 4 * p.heads * p.rows), (p.dq, p.heads * Fmt.fp32.tensorBytes p.rows d),
    (p.dk, kvs), (p.dv, kvs)]

/-- The cases of R217 that the slot decides, with the least D for the offsets. -/
def attBwdBad (nl v : Nat) : Bool :=
  let p := Att.parse true v
  let g := p.gkb nl
  let rho0 := if p.gq = 1 then p.row0 else 0
  !zeros v [(303, 294), (383, 368), (959, 944)] || p.bad v || p.u1.clipEn || p.u1.a != .bf16 || p.u1.b != .bf16 ||
  p.u2.a != .bf16 || p.u2.b != .bf16 || p.u2.out != .fp32 || p.u2.passes != 1 || p.u2.scaleEn || p.u2.biasEn || p.u2.clipEn ||
  !divides 32 p.total || !divides p.kb g || !divides g p.keyLo ||
  (decide (1 < p.gq) && (p.row0 != 0 || p.rows != p.total)) ||
  !divides g rho0 || p.rhoHi != min p.kTotal (cdiv p.rhoHi g * g) || !isNode (rho0 / g) (cdiv p.rhoHi g) (cdiv p.kTotal g) ||
  spansBad (p.bwdOb 32) (p.work, p.len)

/-- The key range is not a node over the grains of n_vis (R215), or the stored values are not BF16 (R217). -/
def Att.bwdBadHere (p : Att) (nl : Nat) (h : Seq) : Bool :=
  let g := p.gkb nl
  let hi := cdiv (p.keyLo + p.keyN) g
  h.kFmt != .bf16 || h.vFmt != .bf16 || p.keyLo + p.keyN != min h.vis (hi * g) || !isNode (p.keyLo / g) hi (cdiv h.vis g)

/-- The work region of R216: staging and tiles; the stacks of dQ; those of dK and dV; all of it. -/
def Att.bwdHeld (p : Att) (h : Seq) : Nat := p.staging h + up128 (p.mt * p.kb * 16)
def Att.dqLen (p : Att) (nl : Nat) (h : Seq) : Nat :=
  let g := p.gkb nl
  up128 (p.heads * p.rows * h.d * 4 * (Nat.log2 (cdiv (p.keyLo + p.keyN) g - p.keyLo / g) + 1))
def Att.dkvLen (p : Att) (nl : Nat) (h : Seq) : Nat :=
  let g := p.gkb nl
  up128 (2 * p.kb * h.d * 4 * (Nat.log2 (cdiv p.rhoHi g - (if p.gq = 1 then p.row0 else 0) / g) + 1))
def Att.bwdNeed (p : Att) (nl : Nat) (h : Seq) : Nat := p.bwdHeld h + p.dqLen nl h + p.dkvLen nl h

/-- One row of a head for the covered keys: p and ds in BF16, and whether its M tile skips each key (R214). -/
structure BwdRow where
  p : List Ext
  ds : List Ext
  skip : List Bool

def toBf (w : Word) : Ext := wideBf.decode (Fmt.bf16.storeWide w)

/-- Scores of a head for the covered keys: kept ones as stored, others recomputed (R214). -/
def Att.bwdScores (p : Att) (x : Ctx) (s : State) (q : SeqAt) (head : Nat) (qs keys : List (List Ext)) : List (List Word) :=
  let h := q.h
  (List.range p.rows).map fun r =>
    if p.keep.testBit head then
      (List.range p.keyN).map fun j =>
        let c := readNat s x.o (p.keptAddr head r (p.keyLo + j)) 2
        BitVec.ofNat 32 (wideBf.convert wide32 c)
    else (p.scores (grainOf x.nl p.u1.gk) h (qs.getD r []) keys r (p.keyLo + p.keyN)).drop p.keyLo

/-- The key block `b` of the covered keys has the score −∞ for every row of the M tile, so it is not read: by the stored scores of a
kept head, and by the mask where the scores are recomputed, which reads the keys (R214, log 81). -/
def Att.bwdSkips (p : Att) (x : Ctx) (s : State) (h : Seq) (head mt b : Nat) : Bool :=
  if p.keep.testBit head then
    (List.range (p.tileRows mt)).all fun i => (List.range (min p.kb (p.keyN - b * p.kb))).all fun j =>
      readNat s x.o (p.keptAddr head (mt * p.mt + i) (p.keyLo + b * p.kb + j)) 2 == 0xFF80
  else p.hidden h mt ((p.keyLo + b * p.kb) / p.kb)

/-- The rows of a head (R214). -/
def Att.bwdHead (p : Att) (x : Ctx) (s : State) (q : SeqAt) (head : Nat) (keys vals : List (List Ext)) : List BwdRow :=
  let h := q.h
  let qs := Att.headRows .bf16 x s p.q p.rows h.d head
  let dos := Att.headRows .bf16 x s p.dOut p.rows h.d head
  let xs := p.bwdScores x s q head qs keys
  (List.range p.rows).map fun r =>
    let mt := r / p.mt
    let rows := (List.range (p.tileRows mt)).map fun i => xs.getD (mt * p.mt + i) []
    let hid := (List.range (cdiv p.keyN p.kb)).map fun b => rows.all fun l =>
      ((l.drop (b * p.kb)).take p.kb).all (fun y => y == negInf)
    let lse := vecAt (fun i => obByte s x.core i) p.lse (head * p.rows + r)
    let delta := vecAt (fun i => obByte s x.core i) p.delta (head * p.rows + r)
    let cols := (xs.getD r []).zipIdx.map fun (t, j) =>
      if hid.getD (j / p.kb) false then (Ext.zero, Ext.zero, true)
      else
        let pr := if t = negInf ∨ lse = negInf then 0 else expW x.nl (fsub t lse)
        let dp := dot p.u2.mode (cell .zero dos r) (cell .zero vals (p.keyLo + j)) h.d (p.gkb x.nl)
        (toBf pr, toBf (fmul pr (fsub dp delta)), false)
    ⟨cols.map (·.1), cols.map (·.2.1), cols.map (·.2.2)⟩

/-- The gradient rows: dK and dV of key `j` of group `c`, and dQ of a row of a head (R214, R215). -/
structure Grads where
  dk : List (List Word)
  dv : List (List Word)
  dq : List (List (List Word))

def Att.scaleRoot (p : Att) (root : Bool) (w : Word) : Word := if root && p.u1.scaleEn then fmul w p.u1.scale else w

def Att.grads (p : Att) (x : Ctx) (s : State) (q : SeqAt) (c : Nat) : Grads :=
  let h := q.h
  let g := p.gkb x.nl
  let kv := p.kvh0 + c
  let keys := (List.range (p.keyLo + p.keyN)).map fun j => q.key s x.o kv (h.first + j)
  let vals := (List.range (p.keyLo + p.keyN)).map fun j => q.val s x.o kv (h.first + j)
  let hs := (List.range p.gq).map fun i => c * p.gq + i
  let rows := hs.map fun head => p.bwdHead x s q head keys vals
  let qs := hs.map fun head => Att.headRows .bf16 x s p.q p.rows h.d head
  let dos := hs.map fun head => Att.headRows .bf16 x s p.dOut p.rows h.d head
  let rho0 := if p.gq = 1 then p.row0 else 0
  let rlo := rho0 / g
  let rhi := cdiv p.rhoHi g
  let nr := cdiv p.kTotal g
  let klo := p.keyLo / g
  let khi := cdiv (p.keyLo + p.keyN) g
  let nk := cdiv h.vis g
  /- head in the group and row of ρ -/
  let at2 (ρ : Nat) : Nat × Nat := if p.gq = 1 then (0, ρ - p.row0) else (ρ / p.total, ρ % p.total)
  let brow (ρ : Nat) : BwdRow := cell ⟨[], [], []⟩ rows (at2 ρ).1 (at2 ρ).2
  let sum (sel : BwdRow → List Ext) (m : List (List (List Ext))) (j i : Nat) : Word :=
    dotNode p.u2.mode (fun ρ => (sel (brow ρ)).getD j .zero)
      (fun ρ => if (brow ρ).skip.getD j true then .zero else cell .zero (m.getD (at2 ρ).1 []) (at2 ρ).2 i) p.kTotal g rlo rhi
  let root := rlo == 0 && rhi == nr
  let kroot := klo == 0 && khi == nk
  { dk := (List.range p.keyN).map fun j => (List.range h.d).map fun i => p.scaleRoot root (sum (·.ds) qs j i)
    dv := (List.range p.keyN).map fun j => (List.range h.d).map fun i => sum (·.p) dos j i
    dq := rows.map fun l => l.map fun b => (List.range h.d).map fun i =>
      p.scaleRoot kroot (dotNode p.u2.mode (fun j => b.ds.getD (j - p.keyLo) .zero)
        (fun j => if b.skip.getD (j - p.keyLo) true then .zero else cell .zero keys j i) (roundUp 32 h.vis) g klo khi) }

def fp32Lines (base lines d l0 n : Nat) (v : Nat → List Word) : List Wr :=
  (List.range n).flatMap fun i =>
    (Fmt.fp32.lineWr lines d (l0 + i) (Fmt.fp32.storeEl (v (l0 + i)))).map fun w => { d := .ob (base + w.1), bytes := w.2 }

/-- The visits of ATT.BWD in order (R216). -/
def Att.bwdPieces (p : Att) (x : Ctx) (s : State) : List Piece :=
  if !readable x s [(p.seq, 64)] then [{ reads := [(p.seq, 64)] }]
  else
    let q := seqAt s x.o p.seq
    let h := q.h
    let tab := q.tableReads h.first h.vis
    if !readable x s tab then [{ reads := tab }]
    else
      let nb := cdiv p.keyN p.kb
      let full : Option (Nat × Nat) := if p.len < p.bwdNeed x.nl h then some (stBufOverflow, 0x60) else none
      let qLen := Fmt.bf16.tensorBytes p.rows h.d
      let kvLen := Fmt.fp32.tensorBytes p.keyN h.d
      (List.range (p.heads / p.gq)).flatMap fun c =>
        let z := p.grads x s q c
        let kv := p.kvh0 + c
        (List.range nb).flatMap fun b => (List.range p.gq).flatMap fun g => (List.range p.mTiles).map fun mt =>
          let head := c * p.gq + g
          let n := min p.kb (p.keyN - b * p.kb)
          let j0 := p.keyLo + b * p.kb
          let kept := p.keep.testBit head
          let r0 := mt * p.mt
          let rn := p.tileRows mt
          let hid := p.bwdSkips x s h head mt b
          { fault := full
            reads := (if c = 0 ∧ b = 0 ∧ g = 0 ∧ mt = 0 then tab else []) ++
              (if kept then (List.range rn).map fun i => (p.keptAddr head (r0 + i) j0, 2 * n) else []) ++
              (if hid then [] else q.keyReads kv (h.first + j0) n ++ q.valReads kv (h.first + j0) n)
            obReads := window .bf16 (p.q + head * qLen) p.rows h.d r0 rn 0 h.d ++
              window .bf16 (p.dOut + head * qLen) p.rows h.d r0 rn 0 h.d ++
              [(p.lse + 4 * (head * p.rows + r0), 4 * rn), (p.delta + 4 * (head * p.rows + r0), 4 * rn)] ++
              (if hid then [] else p.workReads (p.bwdHeld h) (p.dqLen x.nl h) b ++
                if g + mt = 0 then [] else [(p.work + p.len - p.bwdNeed x.nl h, p.dkvLen x.nl h)])
            writes := (if g + 1 = p.gq ∧ mt + 1 = p.mTiles then
                fp32Lines (p.dk + c * kvLen) p.keyN h.d (b * p.kb) n (fun j => z.dk.getD j []) ++
                fp32Lines (p.dv + c * kvLen) p.keyN h.d (b * p.kb) n (fun j => z.dv.getD j [])
              else []) ++
              (if b + 1 = nb then
                fp32Lines (p.dq + head * Fmt.fp32.tensorBytes p.rows h.d) p.rows h.d r0 rn (fun r => (z.dq.getD g []).getD r [])
              else []) : Piece }

/-- Array tiles of visit `n` of ATT.BWD: the products of R214 and R216, one fewer for a kept head. -/
def Att.bwdTiles (p : Att) (x : Ctx) (s : State) (h : Seq) (n : Nat) : Nat :=
  let mt := n % max 1 p.mTiles
  let head := n / max 1 p.mTiles / p.gq / max 1 (cdiv p.keyN p.kb) * p.gq + n / max 1 p.mTiles % p.gq
  let b := n / max 1 p.mTiles / p.gq % max 1 (cdiv p.keyN p.kb)
  if p.bwdSkips x s h head mt b then 0
  else
    let rg := cdiv (p.tileRows mt) 128
    (if p.keep.testBit head then 1 else 2) * rg * (p.kb / 16) + (2 * cdiv p.kb 128 + rg) * cdiv h.d 16

/-- The array tile of a visit that first reads a byte: rows of Q and of dO by row group, everything else after the products. -/
def Att.bwdTileAt (p : Att) (x : Ctx) (s : State) (h : Seq) (n off : Nat) : Nat :=
  let mt := n % max 1 p.mTiles
  let rg := cdiv (p.tileRows mt) 128
  let inRows (base g : Nat) : Bool := (List.range p.heads).any fun head =>
    inSpans off (window .bf16 (base + head * Fmt.bf16.tensorBytes p.rows h.d) p.rows h.d (mt * p.mt + 128 * g)
      (min 128 (p.tileRows mt - 128 * g)) 0 h.d)
  ((List.range rg).find? fun g => inRows p.q g || inRows p.dOut g).getD (p.bwdTiles x s h n)

/-- The work of ATT.BWD. -/
def attBwdPlan (x : Ctx) (s : State) : Plan :=
  let p := Att.parse true x.par
  let h := seqHdr s x.o p.seq
  let visits := p.heads / p.gq * cdiv p.keyN p.kb * p.gq * p.mTiles
  { pieces := markArrived x.c s (p.bwdPieces x s), checked := true, scratch := [(p.work, p.len)], tileAt := p.bwdTileAt x s h
    quanta := tileQuanta visits (p.bwdTiles x s h)
    stop := stopTiles visits (p.bwdTiles x s h), out := mtxOut x visits false, mark := markCore x }

/-- The products of R216 visit by visit, with six issues and one EXP per score. -/
def Att.bwdCharges (p : Att) (x : Ctx) (s : State) : List Charge :=
  let h := seqHdr s x.o p.seq
  let nb := cdiv p.keyN p.kb
  let vs := ((List.range (p.heads / p.gq * nb * p.gq * p.mTiles)).filter fun n => p.bwdTiles x s h n != 0).map fun n =>
    let g := n / max 1 p.mTiles
    (roundUp 128 (p.tileRows (n % max 1 p.mTiles)), p.keep.testBit (g / p.gq / max 1 nb * p.gq + g % p.gq))
  let all := (vs.map (·.1)).sum
  let fresh := ((vs.filter fun v => !v.2).map (·.1)).sum
  let d := roundUp 16 h.d
  chargeList (arrayWork .a16 (all + fresh) p.kb h.d h.d 1 128 ++ arrayWork .a16 all d p.kb p.kb 1 128 ++
    [⟨.a16, 0, 2 * max p.kb 128 * d * all, 128 * 16 * p.mt⟩] ++
    vectorWork (6 * all * p.kb) (all * p.kb) ++ planTraffic attBwdPlan x s)

/-- The key range of a backward pass leaves the padded sequence. -/
def Att.bwdShort (p : Att) (nl : Nat) (h : Seq) : Bool := decide (roundUp (p.gkb nl) h.vis < p.keyLo + p.keyN)

def attBwdRefuse (x : Ctx) (s : State) : Option Out :=
  let p := Att.parse true x.par
  attRefuse p x s p.bwdOb (p.bwdBadHere x.nl) (p.bwdShort x.nl)

def attBwdFamily : Family where
  bad := attBwdBad
  lvl nl v := let p := Att.parse true v; p.u1.badNl nl || p.u2.badNl nl
  core _ := true
  thread _ := true
  spans v := (Att.parse true v).spans
  ob _ v := let p := Att.parse true v; [(p.work, p.len)]
  obS x s := let p := Att.parse true x.par; p.obSpans p.bwdOb x s
  spansS x s := (Att.parse true x.par).pageSpans x s
  home v := some (Att.parse true v).seq
  refuse := attBwdRefuse
  peeks x s :=
    let p := Att.parse true x.par
    let q := seqAt s x.o p.seq
    q.peeks (attBwdRefuse x s) (!p.bwdShort x.nl q.h) q.h.first q.h.vis
  charges x s := (Att.parse true x.par).bwdCharges x s
  reach := planReach attBwdPlan
  steps := planSteps attBwdPlan
  yieldAt := yieldPlan attBwdPlan
  work x s := execPlan (attBwdPlan x s) x s

def execAttBwd (c : CmdRef) (e : Circ) (s : State) : Outcome State Fault Refusal :=
  .next (runRows 0x0402 attBwdFamily (planRows attBwdPlan) c e s)

end Sys2Proof.Machine
end

