-- ==== Sys2Proof/Machine/Chrysalis.lean ====
section
/-! DEFINITION. Chrysalis images: CRC-32 (R402), CTX.SAVE and CTX.RESTORE (R415 to R417), automatic saves (R418). -/
namespace Sys2Proof.Machine
open Host

/-! ### CRC-32 (R402) -/

def crcBit (c : Nat) : Nat := if c % 2 = 1 then (c >>> 1) ^^^ 0xEDB88320 else c >>> 1
def crcByte (c : Nat) (b : Byte) : Nat :=
  crcBit (crcBit (crcBit (crcBit (crcBit (crcBit (crcBit (crcBit (c ^^^ b.toNat))))))))
def crc32 (bs : List Byte) : Nat := bs.foldl crcByte 0xFFFFFFFF ^^^ 0xFFFFFFFF

/-! ### Regions (R402) -/

/-- A region as address and length in 4 KiB units; `none` for an entry that breaks R402. -/
def regionOf (v : Nat) : Option (Nat × Nat) :=
  let a := fld v 47 0
  let n := fld v 95 64
  if divides 4096 a && zeros v [(63, 48), (127, 96)] && n != 0 && spanMem a (4096 * n) then some (a, n) else none

/-- `n` region entries in a list of bytes; `none` when one breaks R402. -/
def regionsOf (bs : List Byte) (n : Nat) : Option (List (Nat × Nat)) :=
  (List.range n).mapM fun i => regionOf (leNat ((bs.drop (16 * i)).take 16))

def regionEntry (r : Nat × Nat) : List Byte := leBytes 16 (r.1 + r.2 <<< 64)

/-- Keystone MiBs that regions touch (R405). -/
def regionMibs (l : List (Nat × Nat)) : List Nat :=
  l.flatMap fun r => if inKs r.1 then
    (List.range ((r.1 - ksBase + 4096 * r.2 - 1) / 0x100000 - (r.1 - ksBase) / 0x100000 + 1)).map ((r.1 - ksBase) / 0x100000 + ·)
  else []

/-! ### Layout (R415) -/

structure Chry where
  nl : Nat
  job : Nat
  imgId : Nat
  done : Nat
  left : Nat
  luna : Nat
  seq : Nat
  regions : List (Nat × Nat)
deriving DecidableEq, Repr

/-- Bytes before the first region, and in all. -/
def chryHead (n : Nat) : Nat := roundUp 4096 (128 + 16 * n)
def chryLen (l : List (Nat × Nat)) : Nat := chryHead l.length + 4096 * (l.map (·.2)).sum

/-- Header and entries with the CRC field 0. -/
def Chry.head (c : Chry) : List Byte :=
  let h := 0x4B5A4348 + c.nl <<< 32 + c.job <<< 64 + c.regions.length <<< 80 + c.imgId <<< 96 + c.done <<< 128
    + c.left <<< 160 + c.luna <<< 192 + chryLen c.regions <<< 256 + c.seq <<< 320
  let d := leBytes 128 h ++ c.regions.flatMap regionEntry
  d ++ List.replicate (chryHead c.regions.length - d.length) 0

/-- Lines of the regions in entry order: source address and offset in the Chrysalis. -/
def chryLines (l : List (Nat × Nat)) : List (Nat × Nat) :=
  ((l.flatMap fun r => (List.range (64 * r.2)).map fun i => r.1 + 64 * i).zipIdx).map fun x =>
    (x.1, chryHead l.length + 64 * x.2)

/-- Writes a Chrysalis at `dst`, its CRC last. The second component is the status of a failed read or write, 0 else. -/
def saveTo (o : Owner) (e : Circ) (dst : Nat) (c : Chry) (s : State) : State × Nat :=
  let lines := chryLines c.regions
  let ps : List Piece := { writes := [{ d := .dev dst, bytes := c.head }] } ::
    lines.map fun x => { reads := [(x.1, 64)], writes := [{ d := .dev (dst + x.2), bytes := readBytes s o x.1 64 }] }
  match runPieces true o e 0 ps s with
  | (s1, some f) => (s1, f.2.1)
  | (s1, none) =>
    let crc := crc32 (c.head ++ lines.flatMap fun x => readBytes s o x.1 64)
    match putDev o e (dst + 44) (leBytes 4 crc) s1 with
    | (s2, none) => (s2, 0)
    | (s2, some f) => (s2, f.1)

/-- Job and slot of each SCH.RUN that waits only for the run in progress: a pending run (R353, R404). -/
def runsPending (s : State) : List (Nat × Nat) :=
  if s.img.run.isNone then []
  else (allQueues s).flatMap fun x => (x.2.cmds.filter fun k =>
    k.entered && hOpcode k.hdr == 0x0C02 && k.ph == .waiting && depsOf s ⟨x.1, k.idx⟩ k == .ok && turn s ⟨x.1, k.idx⟩ k).map
      fun k => (x.2.job, fld k.par 1 0)

/-- Spans of regions. -/
def regionSpans (l : List (Nat × Nat)) : List (Nat × Nat) := l.map fun r => (r.1, 4096 * r.2)

/-- The image run of a job. -/
def jobRun (s : State) (job : Nat) : Option ImgRun := s.img.run.bind fun r => if r.job = job then some r else none
def runSlot (s : State) (r : ImgRun) : Option Slot := look s.img.slots r.slot

/-- The Chrysalis of a job as it stands now. -/
def chryNow (s : State) (job nl : Nat) (regions : List (Nat × Nat)) : Chry :=
  let r := jobRun s job
  { nl := nl, job := job, regions := regions, seq := (look s.img.seqs job).getD 0 + 1
    imgId := ((r.bind (runSlot s)).map (·.imgId)).getD 0
    done := (r.map (·.k)).getD 0
    left := (r.map fun x => x.count - x.k).getD 0
    luna := (boundLuna s job).getD 0 }
where
  boundLuna (s : State) (job : Nat) : Option Nat := look s.luna job

def countSave (job : Nat) (s : State) : State :=
  { s with img := { s.img with seqs := put job ((look s.img.seqs job).getD 0 + 1) s.img.seqs } }

/-! ### CTX.SAVE (R416) -/

structure Save where
  n : Nat
  rgn : Nat
  dst : Nat
  len4k : Nat
deriving DecidableEq, Repr

def Save.parse (v : Nat) : Save := ⟨fld v 10 0, fld v 111 64, fld v 175 128, fld v 223 192⟩

def saveBad (v : Nat) : Bool :=
  let p := Save.parse v
  !zeros v [(63, 11), (127, 112), (191, 176), (255, 224)] || decide (1024 < p.n) ||
  (if p.n = 0 then p.rgn != 0 else !spanKs p.rgn (16 * p.n)) ||
  !divides 4096 p.dst || p.len4k == 0 || !spanOk p.dst (4096 * p.len4k)

def Save.spans (p : Save) : List (Nat × Nat) :=
  (p.dst, 4096 * p.len4k) :: (if p.n = 0 then [] else [(p.rgn, 16 * p.n)])

/-- The regions to save; `none` when N_RGN = 0 without an image run, or for an entry that breaks R402. -/
def Save.regions (p : Save) (x : Ctx) (s : State) : Option (List (Nat × Nat)) :=
  if p.n = 0 then ((jobRun s x.job).bind (runSlot s)).map (·.regions)
  else regionsOf (readBytes s x.o p.rgn (16 * p.n)) p.n

def saveWork (x : Ctx) (s : State) : State :=
  let p := Save.parse x.par
  match (if p.n = 0 then none else readFault s x.o x.e p.rgn (16 * p.n)) with
  | some f => complete x.c { status := f.1 } (noteReads x.o x.e [(p.rgn, 16 * p.n)] s)
  | none =>
    let regions := p.regions x s
    let s := if p.n = 0 then s else noteReads x.o x.e [(p.rgn, 16 * p.n)] s
    match regions with
    | none => complete x.c { status := stBadParam } s
    | some l =>
      if 4096 * p.len4k < chryLen l ∨ (l.any fun r => overlap p.dst (4096 * p.len4k) r.1 (4096 * r.2)) ∨
          touchesTable s (regionSpans l) then
        complete x.c { status := stBadParam } s
      else if touchesPool s (regionSpans l) then complete x.c (refuse 0x31) s
      else
        let c := chryNow s x.job x.nl l
        match saveTo x.o x.e p.dst c s with
        | (s1, 0) => complete x.c { reply := some (chryLen l / 4096 + c.seq <<< 32) } (countSave x.job s1)
        | (s1, st) => complete x.c { status := st } s1

def saveFamily : Family where
  bad _ := saveBad
  spans v := (Save.parse v).spans
  reach x s := let p := Save.parse x.par; p.spans ++ regionSpans ((p.regions x s).getD [])
  window v := inWin (Save.parse v).dst
  work := saveWork

def execCtxSave (c : CmdRef) (e : Circ) (s : State) : Outcome State Fault Refusal :=
  .next (runCmd 0x0A01 saveFamily c e s)

/-! ### CTX.RESTORE (R417) -/

structure Restore where
  part : Nat
  remote : Bool
  src : Nat
  len4k : Nat
deriving DecidableEq, Repr

def Restore.parse (v : Nat) : Restore := ⟨fld v 8 0, bit v 9, fld v 111 64, fld v 159 128⟩

def restoreBad (v : Nat) : Bool :=
  let p := Restore.parse v
  !zeros v [(63, 10), (127, 112), (191, 160)] || (!p.remote && p.part != 0) ||
  !divides 4096 p.src || p.len4k == 0 || !spanOk p.src (4096 * p.len4k)

/-- The Chrysalis lies in another part's memory and comes over the Viaduct. -/
def Restore.far (p : Restore) (s : State) : Bool := p.remote && p.part != s.dom.index

/-- Bytes of the Chrysalis. -/
def Restore.bytes (p : Restore) (x : Ctx) (s : State) (off n : Nat) : List Byte :=
  if p.far s then (x.e.remote.drop off).take n else readBytes s x.o (p.src + off) n

/-- How a read of the Chrysalis fails: R281, or ST_LINK. -/
def Restore.fault (p : Restore) (x : Ctx) (s : State) (off n : Nat) : Nat :=
  if p.far s then (if x.e.remote.length < off + n then stLink else 0)
  else ((readFault s x.o x.e (p.src + off) n).map (·.1)).getD 0

/-- The reads of bytes `off` to `n` of the Chrysalis leave their marks (R283). -/
def Restore.note (p : Restore) (x : Ctx) (off n : Nat) (s : State) : State :=
  if p.far s then s else noteReads x.o x.e [(p.src + off, n - off)] s

def restoreClaims (job : Nat) (l : List (Nat × Nat)) (s : State) : State :=
  { s with img := { s.img with claims := s.img.claims ++ (regionMibs l).eraseDups.map fun m => (m, job, 4) } }

/-- The checks of R417 before anything is written, in the order of R344. -/
def Restore.check (h : Nat) (l : Option (List (Nat × Nat))) (p : Restore) (x : Ctx) (s : State) : Option Out :=
  match l with
  | none => some { status := stBadParam }
  | some l =>
    if fld h 31 0 ≠ 0x4B5A4348 ∨ fld h 79 64 ≠ x.job ∨ fld h 319 256 ≠ chryLen l ∨ 4096 * p.len4k < fld h 319 256 ∨
        touchesTable s (regionSpans l) then
      some { status := stBadParam }
    else if fld h 33 32 ≠ x.nl then some { status := stRefusedNl }
    else if touchesPool s (regionSpans l) then some (refuse 0x31)
    else if (regionMibs l).any fun m => s.img.claims.any fun c => decide (c.1 = m) && decide (c.2.1 ≠ x.job) then some (refuse 0x86)
    else if (jobRun s x.job).isSome || (runsPending s).any (fun y => decide (y.1 = x.job)) then some (refuse 0x83)
    else none

/-- The regions are written line by line; a CRC that fails leaves old or new lines (R417). -/
def restoreRegions (h : Nat) (l : List (Nat × Nat)) (p : Restore) (x : Ctx) (s : State) : State :=
  let len := chryLen l
  let data := p.bytes x s 0 len
  let ps : List Piece := (chryLines l).map fun y =>
    { fault := let f := p.fault x s y.2 64
               if f = 0 then none else some (f, 0)
      reads := if p.far s then [] else [(p.src + y.2, 64)]
      writes := [{ d := .dev y.1, bytes := (data.drop y.2).take 64 }] }
  if decide (p.fault x s 0 len = 0) && crc32 (data.take 44 ++ List.replicate 4 0 ++ data.drop 48) != fld h 383 352 then
    complete x.c { status := stBadParam } (scatter x.o x.e 0 (ps.flatMap (·.writes)) (p.note x (chryHead l.length) len s))
  else match runPieces true x.o x.e 0 ps s with
    | (s1, some f) => complete x.c { status := f.2.1 } s1
    | (s1, none) =>
      let a := fld h 239 192
      let s2 := restoreClaims x.job l { s1 with
        luna := if a = 0 then s1.luna.filter fun y => decide (y.1 ≠ x.job) else put x.job a s1.luna
        sup := { s1.sup with recoveryDue := true } }
      complete x.c { reply := some (fld h 127 96 + fld h 191 160 <<< 32) } s2

def restoreWork (x : Ctx) (s : State) : State :=
  let p := Restore.parse x.par
  if p.remote && decide (s.dom.size ≤ p.part) then complete x.c { status := stBadParam } s
  else if p.fault x s 0 128 ≠ 0 then complete x.c { status := p.fault x s 0 128 } (p.note x 0 128 s)
  else
    let h := leNat (p.bytes x s 0 128)
    let n := fld h 90 80
    if 1024 < n ∨ 4096 * p.len4k < chryHead n then complete x.c { status := stBadParam } (p.note x 0 128 s)
    else if p.fault x s 0 (chryHead n) ≠ 0 then
      complete x.c { status := p.fault x s 0 (chryHead n) } (p.note x 0 (chryHead n) s)
    else
      let l := regionsOf (p.bytes x s 128 (16 * n)) n
      let s := p.note x 0 (chryHead n) s
      match Restore.check h l p x s with
      | some o => complete x.c o s
      | none => restoreRegions h (l.getD []) p x s

def restoreFamily : Family where
  bad _ := restoreBad
  spans v :=
    let p := Restore.parse v
    if p.remote then [] else [(p.src, 4096 * p.len4k)]
  spansS x s := let p := Restore.parse x.par; if p.remote && !p.far s then [(p.src, 4096 * p.len4k)] else []
  reach x s :=
    let p := Restore.parse x.par
    (if p.far s then [] else [(p.src, 4096 * p.len4k)]) ++
      regionSpans ((regionsOf (p.bytes x s 128 (16 * fld (leNat (p.bytes x s 0 128)) 90 80))
        (fld (leNat (p.bytes x s 0 128)) 90 80)).getD [])
  work := restoreWork

def execCtxRestore (c : CmdRef) (e : Circ) (s : State) : Outcome State Fault Refusal :=
  .next (runCmd 0x0A02 restoreFamily c e s)

/-! ### Automatic saves (R418) -/

/-- Beats of planned time between automatic saves. -/
def saveBeats : Nat := 117187500

/-- An empty image slot. -/
def noSlot : Slot := ⟨0, 0, 0, 0, 0, 0, 0, 0, 0, [], 2⟩

def slotOf (s : State) (r : ImgRun) : Slot := (runSlot s r).getD noSlot

/-- P_k of the next run (R407). -/
def planned (s : State) (r : ImgRun) : Nat := r.startBeat + r.k * (slotOf s r).period

/-- An automatic save is due before the next run of the image. -/
def saveDue (s : State) (r : ImgRun) : Bool :=
  r.ckEn && s.img.copy.isNone && !r.again && !r.active && r.ended.isNone && decide (r.lastSave + saveBeats ≤ planned s r)

/-- The slot of an image's next automatic save. -/
def ImgRun.saveAddr (r : ImgRun) : Nat := r.ckAddr + (if r.slotB then 4096 * r.ckSlot else 0)

/-- An automatic save that is due waits for a stack that retrains (R282). -/
def autoHeld (e : Circ) (s : State) : Bool :=
  s.img.run.any fun r =>
    let l := (slotOf s r).regions
    saveDue s r && decide (chryLen l ≤ 4096 * r.ckSlot) && mustWait s none e (regionSpans l ++ [(r.saveAddr, chryLen l)])

/-- Step 1 of R31 for an automatic save: a save that does not fit its slot is skipped and logged. -/
def autoSave (e : Circ) (s : State) : State :=
  match s.img.run with
  | none => s
  | some r =>
    if !saveDue s r then s
    else
      let l := (slotOf s r).regions
      let size := 4096 * r.ckSlot
      if size < chryLen l then logErr .chrysalisSkipped s
      else
        let c := chryNow s r.job r.q.nl l
        let a := r.saveAddr
        match saveTo none e a c s with
        | (s1, 0) =>
          countSave r.job { s1 with img := { s1.img with
            run := some { r with lastSave := planned s r, slotB := !r.slotB }, copy := some ⟨a, chryLen l, size, r.slotB⟩ } }
        | (s1, _) => s1

/-- The bytes of a copied slot up to the first line that cannot be read: the copy ends there (R273, R282, log 84). -/
def Copy.bytes (k : Copy) (s : State) : List Byte :=
  let n := cdiv k.len 64
  readBytes s none k.src (min k.len <| 64 * ((List.range n).findIdx fun i => (readFault s none {} (k.src + 64 * i) 64).isSome))

/-- The new slot reaches the corresponding buddy slot of the next part; a domain of one holds its own mirror (R418). -/
def mirrorEnd (k : Copy) (s : State) : State :=
  let s1 := noteReads none {} [(k.src, k.len)] { s with img := { s.img with copy := none } }
  if s.dom.size = 1 then (putDev none {} (k.src + 2 * k.size) (k.bytes s) s1).1
  else { s1 with dom := { s1.dom with out := .mirror k.b (k.bytes s) :: s1.dom.out } }

/-- The copy does not end while a stack that it reads or writes retrains (R282). -/
def execChrysalisMirrorCopyEnd (s : State) : Outcome State Fault Refusal :=
  .next (match s.img.copy with
    | none => s
    | some k =>
      let own := if s.dom.size = 1 then [(k.src + 2 * k.size, k.len)] else []
      if mustWait s none {} ((k.src, k.len) :: own) then s else mirrorEnd k s)

end Sys2Proof.Machine
end

