-- ==== Sys2Proof/Machine/Time.lean ====
section
/-!
DEFINITION. The time base (R23 to R27, R457): the tick of an idle step, instants, slewing to TB_PPS, loads, and the rows
of TMB_CTRL, TB_REFCLK and TB_PPS.
-/
namespace Sys2Proof.Machine
open Host

/-- The first beat boundary at or after a tick (R24). -/
def beatUp (t : Nat) : Nat := cdivBeat t * 1024
where cdivBeat (t : Nat) : Nat := (t + 1023) / 1024

/-- A slew of ±50 ppm: one tick in 20,000 (R457). -/
def slewStep : Nat := 20000

/-- What remains to slew after the count has passed `n` slewing ticks. -/
def spendSlew (n : Nat) (v : Int) : Int := if 0 ≤ v then max 0 (v - n) else min 0 (v + n)

/-- One tick of an idle block (log 2). While a slew remains, the count takes one tick more, or one less, at each
multiple of 20,000 (R457). -/
def idle (s : State) : State :=
  if s.sup.dstate = .off then s
  else
    let t := s.time
    let at0 := decide (t.now.toNat % slewStep = 0)
    if at0 && decide (t.slew < 0) && !t.slewHeld then
      { s with time := { t with slew := t.slew + 1, slewHeld := true } }
    else if at0 && decide (0 < t.slew) then
      { s with time := { t with now := t.now + 2, slew := t.slew - 1, slewHeld := false } }
    else { s with time := { t with now := t.now + 1, slewHeld := false } }

/-- The count moves on to an instant, and never back (log 2). -/
def advanceTo (n : Nat) (s : State) : State :=
  let c := s.time.now.toNat
  if s.sup.dstate = .off || decide (n ≤ c) then s
  else { s with time := { s.time with
    now := BitVec.ofNat 64 n, slew := spendSlew (n / slewStep - c / slewStep) s.time.slew, slewHeld := false } }

def nowNat (s : State) : Nat := s.time.now.toNat

/-- The instants of a queue's commands and tasks move by `d`. -/
def shiftQueue (d : Int) (q : Queue) : Queue :=
  { q with
    cmds := q.cmds.map fun k => { k with dueAt := k.dueAt.map (· + d) }
    tasks := q.tasks.map fun t => { t with slipDue := t.slipDue.map (· + d) } }

/-- The count is set to `v`; instants that the machine keeps for durations, and for the run that a crossing interrupts, move
with it (R27). The base edge c_0 of R457 keeps its count, and what is left of a slew is dropped (DESIGN CHOICE, log 17: R27 says
nothing of either). -/
def setCount (v : Nat) (s : State) : State :=
  let d : Int := (v : Int) - (nowNat s : Int)
  { s with
    time := { s.time with now := BitVec.ofNat 64 v, slew := 0, slewHeld := false }
    sup := { s.sup with
      readyTick := s.sup.readyTick + d
      cross := s.sup.cross.map fun x => { x with began := x.began + d, drained := x.drained.map (· + d) } }
    dom := { s.dom with
      formTick := s.dom.formTick + d, cols := s.dom.cols.map fun y => { y with released := y.released + d } }
    img := { s.img with run := s.img.run.map fun r => { r with beat := r.beat + d / 1024, q := shiftQueue d r.q } }
    tgl := { s.tgl with window := v / 1000000 }
    queues := { s.queues with
      qs := s.queues.qs.map fun x => (x.1, { shiftQueue d x.2 with lastMsg := x.2.lastMsg.map (· + d) }) } }

/-- The device is in READY, in PARKED or inside a crossing (R27). -/
def mayLoad (s : State) : Bool := atRest s || (s.sup.cross.isSome && s.sup.run.isNone)

/-- A write of TMB_CTRL (R26, R27): a reserved SOURCE voids it. With SOURCE = 0b01 a load request is ignored. -/
def writeTmbCtrl (v : Word) (s : State) : State :=
  if 2 ≤ fld v.toNat 3 2 then logErr (.ignoredWrite 0x0F0000030010) s
  else
    let pps := bit v.toNat 1
    { s with time := { s.time with
      source := BitVec.ofNat 2 (fld v.toNat 3 2)
      ppsEn := pps
      ppsBase := if pps && s.time.ppsEn then s.time.ppsBase else none
      loadReq := (s.time.loadReq || bit v.toNat 0) && fld v.toNat 3 2 == 0 } }

def onTmbCtrl (v : Word) (s : State) : Outcome State Fault Refusal :=
  .next (if reachable s then writeTmbCtrl v s else s)

def execTmbLoad (v : Word) (s : State) : Outcome State Fault Refusal := onTmbCtrl v s
def execTmbPpsEnable (v : Word) (s : State) : Outcome State Fault Refusal := onTmbCtrl v s
def execTmbSourceSelect (v : Word) (s : State) : Outcome State Fault Refusal := onTmbCtrl v s

/-- R27: at the first beat boundary the count reads the loaded value. -/
def execTimeLoadApply (s : State) : Outcome State Fault Refusal :=
  .next (if s.time.loadReq && mayLoad s then
      let s1 := setCount (s.time.loadHi.toNat * 2 ^ 32 + s.time.loadLo.toNat) (advanceTo (beatUp (nowNat s)) s)
      { s1 with time := { s1.time with loadReq := false } }
    else s)

/-- R26: the read answers ticks [31:0] and latches ticks [63:32]. -/
def execTmbNowLoRead (s : State) : Outcome State Fault Refusal :=
  .next (if reachable s then
      { s with
        time := { s.time with nowHi := BitVec.ofNat 32 (nowNat s / 2 ^ 32) }
        regs := { s.regs with resp := some (nowNat s % 2 ^ 32, false) } }
    else { s with regs := { s.regs with resp := some (2 ^ 32 - 1, true) } })

/-- R26, R448: the reference clock is lost for more than 10 µs. -/
def execRefclkLoss (s : State) : Outcome State Fault Refusal :=
  let s1 := { s with power := { s.power with refclk := false } }
  .next (if s1.sup.dstate != .off && s1.time.refOk then
      refreshAlert (devIrq 2 (logErr .refclkLost { s1 with time := { s1.time with refOk := false } }))
    else s1)

/-- R26: the clock is present and locked again. -/
def execRefclkRestore (s : State) : Outcome State Fault Refusal :=
  let s1 := { s with power := { s.power with refclk := true } }
  .next (if s1.sup.dstate != .off && !s1.time.refOk && !s1.power.badRelease && s1.power.resetN then
      refreshAlert (devIrq 2 { s1 with time := { s1.time with refOk := true } })
    else s1)

/-- The whole seconds nearest to a difference of counts. -/
def secondsNear (d : Nat) : Nat := (d + 500000000) / 1000000000

/-- R457, steps 1 to 3, for an edge at the present count. -/
def alignPps (s : State) : State :=
  if !s.time.ppsEn || (formed s && !domMaster s) then s
  else match s.time.ppsBase with
    | none => { s with time := { s.time with ppsBase := some (nowNat s) } }
    | some c0 =>
      let want : Int := (c0 : Int) + 1000000000 * (secondsNear (nowNat s - c0) : Int)
      let d := want - (nowNat s : Int)
      if 1000000 < d ∨ d < -1000000 then logErr .ppsIgnored s
      else { s with time := { s.time with slew := d } }

def execPpsEdge (dt : Nat) (s : State) : Outcome State Fault Refusal :=
  .next (if s.sup.dstate = .off then s
    else
      let s1 := advanceTo (nowNat s + dt) s
      alignPps { s1 with time := { s1.time with ppsSeen := true } })

/-- R26: no edge for 1.1 s. -/
def execPpsLoss (s : State) : Outcome State Fault Refusal :=
  .next { s with time := { s.time with ppsSeen := false } }

end Sys2Proof.Machine
end

