-- ==== Sys2Proof/Machine/Collect.lean ====
section
/-! DEFINITION. Collectives: COL.SEND, COL.RECV, COL.REDUCE and their events (R410 to R413), routes (R400). -/
namespace Sys2Proof.Machine
open Host

/-! ### Routes -/

/-- The part reaches a member: itself, or over a first hop that is not down (R400). -/
def hasRoute (s : State) (p : Nat) : Bool :=
  p == s.dom.index ||
    match s.dom.routes.find? fun r => decide (r.1 = p) with
    | none => false
    | some r => (r.2.1.toList ++ r.2.2.toList).any fun q => !s.dom.down.contains q

/-! ### Parameters -/

structure Xfer where
  peer : Nat
  channel : Nat
  addr : Nat
  len : Nat
  beat : Nat
deriving DecidableEq, Repr

def Xfer.parse (v : Nat) : Xfer := ⟨fld v 8 0, fld v 31 16, fld v 79 32, fld v 127 96, fld v 191 128⟩

def xferBad (v : Nat) : Bool :=
  let p := Xfer.parse v
  !zeros v [(15, 9), (95, 80), (255, 192)] || !divides 64 p.addr || !divides 64 p.len || p.len == 0 || !spanMem p.addr p.len

structure Reduce where
  lo : Nat
  n : Nat
  op : Nat
  all : Bool
  conv : Bool
  channel : Nat
  count : Nat
  src : Nat
  dst : Nat
  block : Nat
  scale : Nat
  bias : Nat
  beat : Nat
deriving DecidableEq, Repr

def Reduce.parse (v : Nat) : Reduce :=
  ⟨fld v 8 0, fld v 18 9, fld v 20 19, bit v 21, bit v 22, fld v 47 32, fld v 95 64, fld v 175 128, fld v 239 192,
    fld v 383 256, fld v 431 384, fld v 495 448, fld v 575 512⟩

/-- What the members of a group must agree on (R412). -/
def Reduce.common (v : Nat) : Nat := fld v 22 0 + fld v 95 64 <<< 32 + fld v 383 256 <<< 64

/-- The numerics block of a converting reduction (R411). -/
def Reduce.num (p : Reduce) : Option Numerics := if p.conv then Numerics.parse p.block else none

def Reduce.outBytes (p : Reduce) : Nat :=
  match p.num with
  | some u => u.out.rowBytes p.count
  | none => 4 * p.count

/-- SCALE_ADDR names a vector of scales, and the conversion reads it (R58, R411). -/
def Reduce.scaleVec (p : Reduce) : Bool := (p.num.map (·.scaleVec)).getD false
def Reduce.scales (p : Reduce) : Bool := (p.num.map fun u => u.scaleEn && u.scaleVec).getD false
def Reduce.biases (p : Reduce) : Bool := (p.num.map (·.biasEn)).getD false

def Reduce.spans (p : Reduce) : List (Nat × Nat) :=
  [(p.src, 4 * p.count), (p.dst, p.outBytes)] ++ (if p.scales then [(p.scale, 4 * p.count)] else [])
    ++ (if p.biases then [(p.bias, 4 * p.count)] else [])

def reduceBad (v : Nat) : Bool :=
  let p := Reduce.parse v
  !zeros v [(31, 23), (63, 48), (127, 96), (191, 176), (255, 240), (447, 432), (511, 496), (639, 576)] ||
  !within p.n 1 512 || p.op == 3 || !divides 16 p.count || p.count == 0 ||
  (if p.conv then match Numerics.parse p.block with
    | none => true
    | some u => u.a != .fp32 || u.b != .fp32 || u.passes != 1 || u.axisM || u.gk != 0 || u.bad p.count
  else p.block != 0) ||
  !spanMem p.src (4 * p.count) || !spanMem p.dst p.outBytes ||
  (if p.scaleVec then !spanKs p.scale (4 * p.count) else p.scale != 0) ||
  (if p.biases then !spanKs p.bias (4 * p.count) else p.bias != 0)

/-! ### Registered collectives -/

/-- The command of a collective has not completed. -/
def live (s : State) (y : Coll) : Bool := (cmdOf s y.c).any fun k => k.ph != .done

def findColl (s : State) (kind peer channel k : Nat) : Option Coll :=
  s.dom.cols.find? fun y => y.kind == kind && y.peer == peer && y.channel == channel && y.k == k && live s y

def collOf (s : State) (c : CmdRef) : Option Coll := s.dom.cols.find? fun y => decide (y.c = c) && live s y

def modColl (c : CmdRef) (f : Coll → Coll) (s : State) : State :=
  { s with dom := { s.dom with cols := s.dom.cols.map fun y => if y.c = c then f y else y } }

/-- A collective ends. -/
def endColl (c : CmdRef) (o : Out) (s : State) : State :=
  complete c o { s with dom := { s.dom with cols := s.dom.cols.filter fun y => decide (y.c ≠ c) } }

/-- The number of the next collective of a kind, peer and channel since the formation (R410). -/
def collCount (s : State) (key : Nat × Nat × Nat) : Nat := ((s.dom.counts.find? fun x => decide (x.1 = key)).map (·.2)).getD 0
def bumpCount (key : Nat × Nat × Nat) (s : State) : State :=
  let n := collCount s key
  { s with dom := { s.dom with counts := (key, n + 1) :: s.dom.counts.filter fun x => decide (x.1 ≠ key) } }

/-- A collective begins to wait for its partners. Its timeout runs from its release in an image, from its start in a queue
(R412). -/
def beginColl (x : Ctx) (kind peer channel : Nat) (s : State) : State × Nat :=
  let k := collCount s (kind, peer, channel)
  let y : Coll := { c := x.c, kind := kind, peer := peer, channel := channel, k := k
                    released := x.cmd.dueAt.getD s.time.now.toNat, e := x.e }
  let s1 := bumpCount (kind, peer, channel) s
  (modCmd x.c (fun k => { k with ph := .running 0 }) { s1 with dom := { s1.dom with cols := s1.dom.cols ++ [y] } }, k)

def parOf (s : State) (c : CmdRef) : Nat := ((cmdOf s c).map (·.par)).getD 0

/-! ### Delivery -/

/-- Acknowledged lines reach a COL.SEND (R410). -/
def deliverAck (peer channel k len lines : Nat) (s : State) : State :=
  match findColl s 0 peer channel k with
  | none => s
  | some y =>
    let p := Xfer.parse (parOf s y.c)
    if len ≠ p.len then endColl y.c { status := stBadParam, reply := some 0 } s
    else if p.len / 64 ≤ lines then endColl y.c { reply := some (p.len / 64) } s
    else modColl y.c (fun y => { y with lines := List.range lines }) s

def sendAck (peer channel k len lines : Nat) (s : State) : State :=
  if peer = s.dom.index then deliverAck peer channel k len lines s else sendDom (.ack peer channel k len lines) s

/-- Lines of a COL.RECV are written as they arrive; the lines so far and the status of a failed write. -/
def putLines (c : CmdRef) (e : Circ) (a : Nat) : List (Nat × List Byte) → State → State × Nat
  | [], s => (s, 0)
  | (i, bs) :: r, s =>
    match putDev none e (a + 64 * i) bs s with
    | (s1, none) => putLines c e a r (modColl c (fun y => { y with lines := insNat i y.lines }) s1)
    | (s1, some f) => (s1, f.1)

/-- Data for a COL.RECV, or kept until one begins (R410), or until the stack they go to has retrained (R282). -/
def deliverData (m : ColMsg) (s : State) : State :=
  match m with
  | .data peer channel k len off bytes =>
    match findColl s 1 peer channel k with
    | none => { s with dom := { s.dom with inbox := s.dom.inbox ++ [m] } }
    | some y =>
      let p := Xfer.parse (parOf s y.c)
      if len ≠ p.len then endColl y.c { status := stBadParam, reply := some 0 } (sendAck peer channel k p.len 0 s)
      else
        if mustWait s none y.e [(p.addr + off, bytes.length)] then { s with dom := { s.dom with inbox := s.dom.inbox ++ [m] } }
        else
        let ls := (List.range (bytes.length / 64)).filterMap fun i =>
          if off / 64 + i < p.len / 64 then some (off / 64 + i, (bytes.drop (64 * i)).take 64) else none
        match putLines y.c y.e p.addr ls s with
        | (s1, 0) =>
          let n := ((collOf s1 y.c).map (·.lines.length)).getD 0
          let s2 := if n = p.len / 64 then endColl y.c { reply := some n } s1 else s1
          sendAck peer channel k p.len n s2
        | (s1, st) => endColl y.c { status := st, reply := some (((collOf s1 y.c).map (·.lines.length)).getD 0) } s1
  | _ => s

/-- The pairwise tree of R411 over rank, and the conversion; a NaN is written as the one of R42. -/
def reduceValues (p : Reduce) (scale bias : List Word) (ranks : List (List Word)) : List Word :=
  (List.range p.count).map fun i =>
    let f := if p.op = 0 then fadd else if p.op = 1 then fmax else fmin
    let t := tree f 0 (ranks.map fun l => l.getD i 0)
    match p.num with
    | some u => u.convert (scale.getD i 0) (bias.getD i 0) t
    | none => if isNan32 t then nan32 else t

/-- The result in the row-major form of R261, or in FP32. -/
def reduceBytes (p : Reduce) (v : List Word) : List Byte :=
  match p.num with
  | some u =>
    let q := u.out.storeLine v
    packCodes u.out.width q.2 ++ (if u.out.bs = 0 then [] else q.1.map (BitVec.ofNat 8))
  | none => wordsBytes v

def readWords (s : State) (a n : Nat) : List Word := (List.range n).map fun i => BitVec.ofNat 32 (readNat s none (a + 4 * i) 4)

/-- The vectors of scales and biases that a COL.REDUCE reads. -/
def Reduce.ins (p : Reduce) : List (Nat × Nat) :=
  (if p.scales then [(p.scale, 4 * p.count)] else []) ++ (if p.biases then [(p.bias, 4 * p.count)] else [])

/-- A COL.REDUCE ends when every rank is heard: with ST_BAD_PARAM where they disagree (R412), else with its result, once no stack
that it needs retrains (R282). -/
def tryReduce (c : CmdRef) (s : State) : State :=
  match collOf s c with
  | none => s
  | some y =>
    let e := y.e
    let v := parOf s c
    let p := Reduce.parse v
    if y.ranks.any fun r => decide (r.2.1 ≠ Reduce.common v) then endColl c { status := stBadParam, reply := some 0 } s
    else
      let vs := (List.range p.n).filterMap fun i => (y.ranks.find? fun r => decide (r.1 = i)).map (·.2.2)
      if vs.length ≠ p.n then s
      else if !(p.all || s.dom.index == p.lo) then endColl c { reply := some 0 } s
      else if mustWait s none e (p.ins ++ [(p.dst, p.outBytes)]) then s
      else
        let ins := p.ins
        match ins.findSome? fun z => readFault s none e z.1 z.2 with
        | some f => endColl c { status := f.1, reply := some 0 } (noteReads none e ins s)
        | none =>
          let r := reduceValues p (if p.scales then readWords s p.scale p.count else [])
            (if p.biases then readWords s p.bias p.count else []) vs
          match putDev none e p.dst (reduceBytes p r) (noteReads none e ins s) with
          | (s1, none) => endColl c { reply := some p.count } s1
          | (s1, some f) => endColl c { status := f.1, reply := some 0 } s1

def deliverVec (m : ColMsg) (s : State) : State :=
  match m with
  | .vec rank channel k par xs =>
    match findColl s 2 0 channel k with
    | none => { s with dom := { s.dom with inbox := s.dom.inbox ++ [m] } }
    | some y => tryReduce y.c (modColl y.c (fun y => { y with ranks := y.ranks ++ [(rank, par, xs)] }) s)
  | _ => s

def deliver (m : ColMsg) (s : State) : State :=
  match m with
  | .data .. => deliverData m s
  | .ack peer channel k len lines => deliverAck peer channel k len lines s
  | .vec .. => deliverVec m s

/-- Messages kept for a collective that now begins. -/
def takeInbox (f : ColMsg → Bool) (s : State) : State :=
  (s.dom.inbox.filter f).foldl (fun t m => deliver m t)
    { s with dom := { s.dom with inbox := s.dom.inbox.filter fun m => !f m } }

/-- Arrivals that a retraining stack held up are taken, and reductions that it held up end (R282). -/
def retryColls (s : State) : State :=
  let s1 := takeInbox (fun _ => true) s
  (s1.dom.cols.filter fun y => y.kind == 2).foldl (fun t y => tryReduce y.c t) s1

/-- A COL.RECV whose write of a line that has arrived waits for its stack. -/
def waitsToWrite (s : State) (line : Nat) (m : ColMsg) : Option CmdRef :=
  match m with
  | .data peer channel k _ off bytes => (findColl s 1 peer channel k).bind fun y =>
      let a := (Xfer.parse (parOf s y.c)).addr + off
      if hasLine ((linesOf a bytes.length).map (64 * ·)) line then some y.c else none
  | _ => none

/-- A COL.REDUCE that has heard every rank waits for the stack of a line that it reads, or writes. -/
def waitsToReduce (s : State) (line : Nat) (write : Bool) (y : Coll) : Bool :=
  let p := Reduce.parse (parOf s y.c)
  y.kind == 2 && live s y && (List.range p.n).all (fun i => y.ranks.any fun r => decide (r.1 = i)) &&
    (if write then [(p.dst, p.outBytes)] else p.ins).any fun z => (linesOf z.1 z.2).contains line

/-- The collective whose request for a line waits for a stack that retrains (R282). -/
def collHeld (s : State) (line : Nat) (write : Bool) : Option CmdRef :=
  (if write then s.dom.inbox.findSome? (waitsToWrite s line) else none) <|>
    (s.dom.cols.find? (waitsToReduce s line write)).map (·.c)

/-! ### COL.SEND and COL.RECV (R410) -/

/-- A PEER outside the domain (R412); in a queue, BEAT is 0. -/
def peerRefuse (x : Ctx) (s : State) : Option Out :=
  if s.dom.size ≤ (Xfer.parse x.par).peer then some { status := stBadParam, reply := some 0 } else none

def inProgress (x : Ctx) (s : State) : Bool := (collOf s x.c).isSome

def sendWork (x : Ctx) (s : State) : State :=
  if inProgress x s then s
  else
    let p := Xfer.parse x.par
    let (s1, k) := beginColl x 0 p.peer p.channel s
    if !hasRoute s p.peer then endColl x.c { status := stLink, reply := some 0 } s1
    else
      let n := p.len / 64
      let bad := (List.range n).findSome? fun i => (readFault s none x.e (p.addr + 64 * i) 64).map fun f => (i, f.1)
      let m := (bad.map (·.1)).getD n
      let bytes := readBytes s none p.addr (64 * m)
      let s2 := noteReads none x.e [(p.addr, p.len)] s1
      let s3 := if p.peer = s.dom.index then deliver (.data p.peer p.channel k p.len 0 bytes) s2
        else sendDom (.data x.c p.peer p.channel k p.len 0 bytes) s2
      match bad with
      | some f => endColl x.c { status := f.2, reply := some m } s3
      | none => s3

/-- Bytes over the Viaduct, and the traffic of the fabric die (R13, R384). -/
def colCharges (n : Nat) (l : List (Nat × Nat)) : List Charge := chargeList (⟨.vd, 0, n, 0x10000⟩ :: spineTraffic l)

def sendFamily : Family where
  bad _ := xferBad
  charges x _ := let p := Xfer.parse x.par; colCharges p.len [(p.addr, p.len)]
  spans v := [((Xfer.parse v).addr, (Xfer.parse v).len)]
  refuse := peerRefuse
  work := sendWork

def execColSend (c : CmdRef) (e : Circ) (s : State) : Outcome State Fault Refusal :=
  .next (runCmd 0x0B01 sendFamily c e s)

def recvWork (x : Ctx) (s : State) : State :=
  if inProgress x s then s
  else
    let p := Xfer.parse x.par
    let (s1, k) := beginColl x 1 p.peer p.channel s
    if !hasRoute s p.peer then endColl x.c { status := stLink, reply := some 0 } s1
    else takeInbox (fun m => match m with
      | .data peer channel j _ _ _ => peer == p.peer && channel == p.channel && j == k
      | _ => false) s1

def recvFamily : Family where
  bad _ := xferBad
  charges x _ := let p := Xfer.parse x.par; colCharges p.len [(p.addr, p.len)]
  spans v := [((Xfer.parse v).addr, (Xfer.parse v).len)]
  refuse := peerRefuse
  work := recvWork

def execColRecv (c : CmdRef) (e : Circ) (s : State) : Outcome State Fault Refusal :=
  .next (runCmd 0x0B02 recvFamily c e s)

/-! ### COL.REDUCE (R411) -/

/-- A group that leaves the domain, or without this part (R412). -/
def groupRefuse (x : Ctx) (s : State) : Option Out :=
  let p := Reduce.parse x.par
  if s.dom.size < p.lo + p.n ∨ s.dom.index < p.lo ∨ p.lo + p.n ≤ s.dom.index then some { status := stBadParam, reply := some 0 }
  else none

def reduceWork (x : Ctx) (s : State) : State :=
  if inProgress x s then s
  else
    let p := Reduce.parse x.par
    let (s1, k) := beginColl x 2 0 p.channel s
    let others := (List.range p.n).filter fun i => p.lo + i != s.dom.index
    if others.any fun i => !hasRoute s (p.lo + i) then endColl x.c { status := stLink, reply := some 0 } s1
    else match readFault s none x.e p.src (4 * p.count) with
      | some f => endColl x.c { status := f.1, reply := some 0 } (noteReads none x.e [(p.src, 4 * p.count)] s1)
      | none =>
        let xs := readWords s p.src p.count
        let me := s.dom.index - p.lo
        let par := Reduce.common x.par
        let s2 := noteReads none x.e [(p.src, 4 * p.count)] s1
        let s3 := if others.isEmpty then s2 else sendDom (.vec me p.channel k par xs) s2
        let s4 := modColl x.c (fun y => { y with ranks := [(me, par, xs)] }) s3
        takeInbox (fun m => match m with
          | .vec _ channel j _ _ => channel == p.channel && j == k
          | _ => false) (tryReduce x.c s4)

def reduceFamily : Family where
  bad _ := reduceBad
  lvl nl v := fmtNl nl (((Reduce.parse v).num.map (·.out)).toList)
  spans v := (Reduce.parse v).spans
  charges x _ := let p := Reduce.parse x.par; colCharges (4 * p.count) p.spans
  refuse := groupRefuse
  work := reduceWork

def execColReduce (c : CmdRef) (e : Circ) (s : State) : Outcome State Fault Refusal :=
  .next (runCmd 0x0B03 reduceFamily c e s)

/-! ### Events -/

def execCollectiveDataArrival (m : ColMsg) (s : State) : Outcome State Fault Refusal :=
  .next (if formed s && s.sup.dstate != .off then deliver m s else s)

/-- Reply of a collective that ends early: the lines or elements transferred (R412). -/
def collReply (y : Coll) : Nat := if y.kind = 2 then 0 else y.lines.length

/-- Kind, peer and channel of a collective. -/
def collKey (k : Cmd) : Nat × Nat × Nat :=
  if hOpcode k.hdr = 0x0B03 then (2, 0, (Reduce.parse k.par).channel)
  else (hOpcode k.hdr % 256 - 1, (Xfer.parse k.par).peer, (Xfer.parse k.par).channel)

/-- The instant from which the timeout of a collective that is not registered yet runs: its release in an image, while it waits
on a dependency for one, or its start, while it waits for quanta. -/
def heldSince (s : State) (c : CmdRef) : Option Int :=
  (cmdOf s c).bind fun k =>
    if !(k.entered && k.ph != .done && k.released && isColl (hOpcode k.hdr)) then none
    else k.dueAt <|> if k.begun then some (k.start : Int) else none

/-- A collective that its timeout ends before it starts: it takes its number among its pairs and moves nothing. -/
def expireHeld (c : CmdRef) (s : State) : State :=
  match cmdOf s c with
  | none => s
  | some k => complete c { status := stLink, reply := some 0 } (bumpCount (collKey k) s)

/-- COL_TIMEOUT_MS after its release (R412), whether or not it has started. -/
def execCollectiveTimeout (c : CmdRef) (s : State) : Outcome State Fault Refusal :=
  let due := fun t : Int => (t + s.regs.colTimeout.toNat * 1000000).toNat
  .next (match collOf s c with
    | some y => endColl c { status := stLink, reply := some (collReply y) } (advanceTo (due y.released) s)
    | none => match heldSince s c with
      | some t => if s.sup.dstate == .running then expireHeld c (advanceTo (due t) s) else s
      | none => s)

/-- The parts that a collective in progress must reach. -/
def collPeers (s : State) (y : Coll) : List Nat :=
  if y.kind = 2 then
    let p := Reduce.parse (parOf s y.c)
    (List.range p.n).map (p.lo + ·)
  else [y.peer]

/-- A Viaduct link goes down, and its traffic takes the secondary route, which is logged; a collective left without a route
ends with ST_LINK at once (R400, R412, R419). -/
def linkDown (port : Nat) (s0 : State) : State :=
  let s := logErr (.linkRetry port) s0
  let s1 := { s with dom := { s.dom with down := insNat port s.dom.down, ports := clrBit s.dom.ports port } }
  (s1.dom.cols.filter fun y => live s1 y && (collPeers s1 y).any fun p => !hasRoute s1 p).foldl (fun t y =>
    endColl y.c { status := stLink, reply := some (collReply y) } t) s1

def execViaductLinkDown (port : Nat) (s : State) : Outcome State Fault Refusal :=
  .next (if s.dom.ports.getLsbD port then linkDown port s else s)

end Sys2Proof.Machine
end

