-- ==== Sys2Proof/Machine/Control.lean ====
section
/-! DEFINITION. TGL.LIMIT, TGL.RESERVE (R393, R394), SUP.QUEUE (R354, R355) and SUP.STATE (R440, R441). -/
namespace Sys2Proof.Machine
open Host

/-! ### TGL.LIMIT and TGL.RESERVE -/

/-- Low 32 bits of the index of the next budget window (R386, R394). -/
def nextWindow (s : State) : Nat := (s.time.now.toNat / 1000000 + 1) % 2 ^ 32

def limitFamily : Family where
  bad _ v := !zeros v [(63, 20)] || !within (fld v 11 0) 1000 3600 || !within (fld v 19 12) 60 98
  work x s :=
    complete x.c { reply := nextWindow s }
      { s with tgl := { s.tgl with limitSet := fld x.par 11 0, brakeSet := fld x.par 19 12 } }

def execTglLimit (c : CmdRef) (e : Circ) (s : State) : Outcome State Fault Refusal :=
  .next (runCmd 0x0E01 limitFamily c e s)

/-- LC_BANKS takes effect at once at rest and in a crossing, else at the next crossing (R394). -/
def setLcBanks (n : Nat) (s : State) : State :=
  { s with cores := { s.cores with
    lcSet := n
    lcBanks := if atRest s || s.sup.cross.isSome then n else s.cores.lcBanks } }

def reserveFamily : Family where
  bad _ v := !zeros v [(63, 23)] || !within (fld v 6 0) 0 80 || !within (fld v 15 7) 0 145 || !within (fld v 22 16) 0 64
  work x s :=
    complete x.c { reply := nextWindow s }
      (setLcBanks (fld x.par 22 16)
        { s with tgl := { s.tgl with lcPctSet := fld x.par 6 0, releaseSet := fld x.par 15 7 } })

def execTglReserve (c : CmdRef) (e : Circ) (s : State) : Outcome State Fault Refusal :=
  .next (runCmd 0x0E02 reserveFamily c e s)

/-! ### SUP.QUEUE -/

structure QueueOp where
  op : Nat
  lc : Bool
  nl : Nat
  gen : Nat
  log2 : Nat
  irqEn : Bool
  qid : Nat
  job : Nat
  cmd : Nat
  cpl : Nat
  vec : Nat
  modUs : Nat
deriving DecidableEq, Repr

def QueueOp.parse (v : Nat) : QueueOp :=
  ⟨fld v 2 0, bit v 3, fld v 5 4, fld v 9 6, fld v 14 10, bit v 15, fld v 35 16, fld v 79 64, fld v 143 96, fld v 207 160,
    fld v 235 224, fld v 255 240⟩

/-- The cases of R355 for OPEN. -/
def QueueOp.badOpen (p : QueueOp) : Bool :=
  !within p.nl 2 3 || !within p.gen 2 3 || !within p.log2 4 16 || p.job == 0 ||
  (p.gen == 2 && decide (65536 ≤ p.qid)) ||
  !divides 4096 p.cmd || !divides 4096 p.cpl ||
  !spanWin p.cmd (1024 * 2 ^ p.log2) || !spanWin p.cpl (32 * 2 ^ p.log2) ||
  overlap p.cmd (1024 * 2 ^ p.log2) p.cpl (32 * 2 ^ p.log2) ||
  (p.irqEn && decide (p.vec < 64))

def queueBad (v : Nat) : Bool :=
  let p := QueueOp.parse v
  decide (5 < p.op) || !zeros v [(63, 36), (95, 80), (159, 144), (223, 208), (239, 236)] || p.qid == 0 ||
  (if p.op = 0 then p.badOpen else !zeros v [(15, 3), (79, 64), (143, 96), (207, 160)])

/-- Every announced command is fetched and has its record written (R354). -/
def Queue.idle (q : Queue) : Bool :=
  decide (q.tail.toNat = q.fetched % 2 ^ 32) && q.recs.isEmpty && q.cmds.all fun k => k.ph == .done

/-- The state that an operation leads to, or the code that refuses it. -/
def QueueOp.next (p : QueueOp) (q : Queue) : QState ⊕ Nat :=
  match p.op, q.state with
  | 0, .closed => .inl .opened
  | 1, .opened => .inl .paused
  | 2, .paused => .inl .opened
  | 3, .opened => .inl .draining
  | 3, .paused => .inl .draining
  | 4, .opened => if q.idle then .inl .closed else .inr 0x25
  | 4, .paused => if q.idle then .inl .closed else .inr 0x25
  | 5, st => .inl st
  | _, st => .inr st.code

/-- The descriptor that OPEN writes. Tasks that are still speculative stay known by their Cocoons. -/
def QueueOp.openQ (p : QueueOp) (q : Queue) : Queue :=
  { state := .opened, lc := p.lc, nl := p.nl, gen := p.gen, log2 := p.log2, irqEn := p.irqEn, job := p.job
    cmdAddr := p.cmd, cplAddr := p.cpl, irqVec := p.vec, irqMod := p.modUs, serial := q.serial
    tasks := (q.tasks.filter fun t => t.state == .speculative).map fun t => { t with isOpen := false } }

/-- A level that the running firmware does not implement (R65, R426). -/
def noLevel (s : State) (nl : Nat) : Bool := !(s.sup.caps.getLsbD (nl - 2))

def queueFamily : Family where
  bad _ := queueBad
  refuse x s :=
    let p := QueueOp.parse x.par
    let q := queueOf s p.qid
    if p.op == 0 && noLevel s p.nl then some { status := stRefusedNl, reply := queueReply q }
    else match p.next q with
      | .inl _ => none
      | .inr c => some { status := stRefusedState, code := c, reply := queueReply q }
  work x s :=
    let p := QueueOp.parse x.par
    let q := queueOf s p.qid
    let q1 : Queue := match p.next q with
      | .inl st => if p.op = 0 then p.openQ q else { q with state := st }
      | .inr _ => q
    complete x.c { reply := queueReply q1 } (setQ (.hw (BitVec.ofNat 20 p.qid)) q1 s)

def execSupQueue (c : CmdRef) (e : Circ) (s : State) : Outcome State Fault Refusal :=
  .next (runCmd 0x0F05 queueFamily c e s)

/-! ### SUP.STATE -/

/-- An SCH.RUN is in progress: it has started a run, or a service run for one (R441). -/
def imageInProgress (s : State) : Bool := (s.img.run.map (·.begun)).getD false

/-- The outcome table of R440: the code of a refusal. -/
def stateRefuse (op : Nat) (s : State) : Option Nat :=
  let own := some s.sup.dstate.code
  let split := some 0x93
  match s.sup.dstate, op with
  | _, 0 => none
  | .faulted, _ => own
  | .fenced, 5 => none
  | .fenced, _ => own
  | .ready, 1 => if fencedAny s then split else none
  | .ready, 4 => if fencedAny s then split else own
  | .parked, 1 => if fencedAny s then split else own
  | .parked, 4 => if fencedAny s then split else none
  | _, 4 => own
  | _, _ => none

/-- An SCH.RUN that has not ended ends with a status: a run in progress stops and crosses first (R409). -/
def endImage (x : Nat × Nat × Option Nat) (s : State) : State :=
  match s.img.run with
  | none => s
  | some r =>
    if r.active then stopImage x s
    else beginCrossing (complete r.c { status := x.1, code := x.2.1, reply := x.2.2 } { s with img := { s.img with run := none } })

/-- STOP or PARK with IMMEDIATE = 1: the image run is aborted (R441). No rule gives the tag and status of this ABORT. -/
def stopNow (s : State) : State :=
  if imageInProgress s then
    let n := s.freeCtr
    endImage (stRefusedState, 0x94, none)
      (sendDom (.abort s.dom.index (Config.stopAbort n).1 s.dom.index (Config.stopAbort n).2) { s with freeCtr := n + 1 })
  else s

def setStop (x : Option StopReq) (s : State) : State := { s with sup := { s.sup with stopReq := x } }
def cancelRun (s : State) : State := { s with sup := { s.sup with runReq := false, runTest := false, runMs := 0 } }

/-- STOP or PARK in a run or a crossing: a queue-fed run ends; an image run is waited for or aborted. -/
def stopLater (x : StopReq) (now : Bool) (s : State) : State :=
  let s1 := setStop (some x) s
  let s2 := if now then stopNow s1 else s1
  if imageInProgress s2 then s2 else beginCrossing s2

def stateEffect (v : Nat) (s : State) : State :=
  let imm := bit v 4
  match fld v 2 0, s.sup.dstate with
  | 1, .ready => setStop none { s with sup := { s.sup with runReq := true, runTest := bit v 3, runMs := fld v 63 32 } }
  | 1, _ => setStop none { s with sup := { s.sup with runTest := bit v 3, runMs := fld v 63 32 } }
  | 2, .ready => cancelRun s
  | 3, .ready => setDState .parked (cancelRun s)
  | 2, .running => stopLater .stop imm s
  | 2, .draining => stopLater .stop imm s
  | 3, .running => stopLater .park imm s
  | 3, .draining => stopLater .park imm s
  | 4, .parked => setDState .ready s
  | 5, .running => if imageInProgress s then s else beginCrossing s
  | _, _ => s

/-- SUP.STATE. TEST, IMMEDIATE and RUN_MS may hold any value where OP does not use them (DESIGN CHOICE, log 82: the map of R440
says nothing of them there). -/
def stateFamily : Family where
  bad _ v := decide (5 < fld v 2 0) || !zeros v [(31, 5)]
  refuse x s := (stateRefuse (fld x.par 2 0) s).map fun c =>
    { status := stRefusedState, code := c, reply := stateReply s }
  work x s :=
    let s1 := stateEffect x.par s
    complete x.c { reply := stateReply s1 } s1

def execSupState (c : CmdRef) (e : Circ) (s : State) : Outcome State Fault Refusal :=
  .next (runCmd 0x0F01 stateFamily c e s)

end Sys2Proof.Machine
end

