-- ==== Sys2Proof/Machine/Domain.lean ====
section
/-! DEFINITION. Domains: formation (R396 to R399), routes (R400), the shared time base (R401). -/
namespace Sys2Proof.Machine
open Host

/-! ### Hellos -/

/-- The hello of this part (R398), with the trained ports to other parts. -/
def ownHello (links : List (Nat × Nat)) (s : State) : Hello :=
  let v := s.regs.domCfg.toNat
  { part := fld v 8 0, sizeM1 := fld v 18 9, master := bit v 19, domId := s.regs.domId, fw := s.sup.fwRt
    nl2 := s.sup.caps.getLsbD 0, nl3 := s.sup.caps.getLsbD 1
    fmts := (if s.sup.caps.getLsbD 2 then [2] else []) ++ (if s.sup.caps.getLsbD 3 then [3] else [])
    redMin := fld v 21 20, links := links }

/-- The highest numerics level in every member's set, 0 when there is none. -/
def commonNl (hs : List Hello) : Nat := if hs.all (·.nl3) then 3 else if hs.all (·.nl2) then 2 else 0

/-- The image formats in every member's set. -/
def commonFmts (hs : List Hello) : List Nat := ((hs.head?.map (·.fmts)).getD []).filter fun f => hs.all fun h => h.fmts.contains f

/-- R399: the level of a domain size, raised to the highest RED_MIN. -/
def redLevel (size : Nat) (hs : List Hello) : Nat :=
  hs.foldl (fun r h => max r h.redMin) (if size ≤ 8 then 0 else if size ≤ 64 then 1 else if size ≤ 256 then 2 else 3)

/-! ### Routes (R400) -/

/-- Members that a member's trained ports reach, with the ports. -/
def portsOf (hs : List Hello) (p : Nat) : List (Nat × Nat) :=
  match hs.find? fun h => decide (h.part = p) with
  | some h => h.links.filter fun l => hs.any fun k => decide (k.part = l.2)
  | none => []

/-- Members with a port into a set, and the set. -/
def growBall (hs : List Hello) (avoid : Option Nat) (l : List Nat) : List Nat :=
  l ++ (hs.map (·.part)).filter fun p =>
    !l.contains p && decide (some p ≠ avoid) && (portsOf hs p).any fun x => l.contains x.2

/-- Hops from `x` to the set `l`, up to `n` more than `k`, over members other than `avoid`. -/
def hopsFrom (hs : List Hello) (avoid : Option Nat) (x : Nat) : Nat → Nat → List Nat → Option Nat
  | 0, k, l => if l.contains x then some k else none
  | n + 1, k, l => if l.contains x then some k else hopsFrom hs avoid x n (k + 1) (growBall hs avoid l)

def hops (hs : List Hello) (avoid : Option Nat) (x d : Nat) : Option Nat := hopsFrom hs avoid x hs.length 0 [d]

/-- The smallest of the distances, with its port; the first of equals. -/
def nearest : List (Nat × Nat) → Option (Nat × Nat)
  | [] => none
  | x :: r => match nearest r with
    | none => some x
    | some y => if x.2 ≤ y.2 then some x else some y

/-- First-hop ports of the primary and the secondary route from `me` to `d`. -/
def routeTo (hs : List Hello) (me d : Nat) : Option Nat × Option Nat :=
  let ports := (portsOf hs me).mergeSort fun a b => decide (a.1 ≤ b.1)
  let far := ports.filterMap fun l => (hops hs (some me) l.2 d).map fun n => (l.1, n)
  match nearest far with
  | none => (none, none)
  | some p => (some p.1, (nearest (far.filter fun x => decide (x.1 ≠ p.1))).map (·.1))

/-- Some pair of members lies more than eight hops apart. -/
def tooWide (hs : List Hello) : Bool :=
  hs.any fun a => hs.any fun b => match hops hs none a.part b.part with
    | some n => decide (8 < n)
    | none => true

/-! ### Formation (R398) -/

/-- The part is alone (R396). -/
def goAlone (s : State) : State :=
  { s with dom := { s.dom with
    dstate := 0, nlDom := 0, ifDom := 0, red := 0, hellos := [], index := 0, size := 1, fmts := [2, 3], routes := []
    adopt := false } }

/-- The formation fails; the part stays alone. -/
def failForm (code : Nat) (s : State) : State :=
  let s1 := goAlone s
  { s1 with dom := { s1.dom with dstate := 3, fail := code } }

/-- The formation succeeds with the hellos heard. -/
def formDomain (hs : List Hello) (s : State) : State :=
  let v := s.regs.domCfg.toNat
  let size := fld v 18 9 + 1
  let me := if size = 1 then 0 else fld v 8 0
  let others := (hs.map (·.part)).filter (· ≠ me)
  let fmts := commonFmts hs
  let master := bit v 19
  { s with
    dom := { s.dom with
      dstate := 2, fail := 0, nlDom := commonNl hs, ifDom := fmts.foldl max 0, fmts := fmts, red := redLevel size hs
      index := me, size := size, master := master, routes := if size = 1 then [] else others.map fun d => (d, routeTo hs me d)
      adopt := !master, counts := [], cols := [], inbox := [] }
    time := { s.time with
      source := if master then s.time.source else 1
      loadReq := s.time.loadReq && master
      msgOk := false }
    regs := { s.regs with abortValid := false } }

/-- What the hellos heard so far decide: `none` while more are awaited, else the FAIL code, 0 for success. -/
def verdict (size : Nat) (hs : List Hello) : Option Nat :=
  let masters := (hs.filter (·.master)).length
  if 1 < masters then some 5
  else if hs.length < size then none
  else if masters ≠ 1 then some 5
  else if commonNl hs = 0 ∨ commonFmts hs = [] then some 2
  else if tooWide hs then some 6
  else some 0

/-- A new set of hellos in the formation in progress. -/
def decide' (hs : List Hello) (s : State) : State :=
  let size := fld s.regs.domCfg.toNat 18 9 + 1
  let s1 := { s with dom := { s.dom with hellos := hs, members := hs.length } }
  match verdict size hs with
  | none => s1
  | some 0 => formDomain hs s1
  | some c => failForm c s1

/-- The image slots are emptied and their claims released; an SCH.RUN that waits for its first run finds its slot empty. -/
def unloadAll (s : State) : State :=
  let s1 := endImage (stRefusedState, 0x84, none) s
  { s1 with img := { s1.img with slots := [], claims := s1.img.claims.filter fun c => decide (c.2.2 = 4) } }

/-- FORM = 1: ports train, hellos flood; a part with SIZE_M1 = 0 forms at once, and one whose index lies beyond the size fails
as every other member does that hears it. -/
def startForm (links : List (Nat × Nat)) (s : State) : State :=
  let ls := links.filter fun l => decide (l.1 < 36) && !s.dom.excluded.contains l.1
  let s1 := goAlone (unloadAll s)
  let h := ownHello ls s1
  let s2 := { s1 with dom := { s1.dom with
    dstate := 1, fail := 0, formTick := (s1.time.now.toNat : Int), down := [], hellos := [h], members := 1, inbox := []
    ports := ls.foldl (fun v l => setBit v l.1) 0 } }
  if h.sizeM1 = 0 then
    if commonNl [h] = 0 ∨ commonFmts [h] = [] then failForm 2 s2 else formDomain [h] s2
  else if h.sizeM1 < h.part then failForm 4 (sendDom (.hello h) s2)
  else sendDom (.hello h) s2

def execDomainForm (links : List (Nat × Nat)) (s : State) : Outcome State Fault Refusal :=
  .next (if reachable s && atRest s && s.dom.dstate != 1 then startForm links s else s)

/-- LEAVE = 1 (R396). A collective in progress has lost its partners (R412). -/
def leave (s : State) : State :=
  let s1 := goAlone { s with dom := { s.dom with fail := 0 } }
  (s1.dom.cols.filter fun y => live s1 y && (collPeers s1 y).any fun p => !hasRoute s1 p).foldl (fun t y =>
    endColl y.c { status := stLink, reply := some (collReply y) } t) s1

def execDomainLeave (s : State) : Outcome State Fault Refusal := .next (if reachable s then leave s else s)

/-- A hello of another part. One heard before changes nothing. -/
def takeHello (h : Hello) (s : State) : State :=
  if s.dom.hellos.contains h then s
  else
    let hs := s.dom.hellos ++ [h]
    if h.domId ≠ s.regs.domId ∨ h.sizeM1 ≠ fld s.regs.domCfg.toNat 18 9 ∨ h.sizeM1 < h.part then
      failForm 4 { s with dom := { s.dom with members := hs.length } }
    else if s.dom.hellos.any fun k => decide (k.part = h.part) then failForm 3 s
    else decide' hs s

def execHelloReceive (h : Hello) (s : State) : Outcome State Fault Refusal :=
  .next (if s.dom.dstate == 1 && s.sup.dstate != .off then takeHello h s else s)

/-- Two seconds after FORM was written on the time master. -/
def execFormationTimeout (s : State) : Outcome State Fault Refusal :=
  .next (if s.dom.dstate == 1 && s.sup.dstate != .off then
      failForm 1 (if s.regs.domCfg.getLsbD 19 then advanceTo (s.dom.formTick + 2000000000).toNat s else s)
    else s)

/-! ### The shared time base (R401) -/

/-- At the first beat boundary after the formation the member's count becomes the master's. -/
def execTimeMasterAdopt (count : DWord) (s : State) : Outcome State Fault Refusal :=
  .next (if formed s && s.dom.adopt && s.sup.dstate != .off then
      let s1 := setCount count.toNat (advanceTo (beatUp (nowNat s)) s)
      { s1 with
        dom := { s1.dom with adopt := false }
        time := { s1.time with msgOk := true } }
    else s)

/-- Every 64 beats a time message goes over each link. -/
def execTimeMessage (s : State) : Outcome State Fault Refusal :=
  .next (if formed s && s.sup.dstate != .off then
      sendDom .time (advanceTo ((nowNat s / 65536 + 1) * 65536) s)
    else s)

/-- No time message for 1 ms: the member goes on alone until the next formation. -/
def execTimeMessageTimeout (s : State) : Outcome State Fault Refusal :=
  .next (if formed s && !domMaster s then { s with time := { s.time with msgOk := false } } else s)

end Sys2Proof.Machine
end

