-- ==== Sys2Proof/Machine/Bitstream.lean ====
section
/-!
DEFINITION. The forms of bitstreams that the spec names (R287, R288, R291, R306, R309): units of a byte stream, delimiters,
headers, signalled levels. Unit types and level limits are those of the codec standards (log 73).
-/
namespace Sys2Proof.Machine

/-! ### Byte streams in (R288) -/

/-- The NAL units of an Annex B byte stream; each keeps its start code with the bytes before it. -/
def nalUnits : List Byte → List Byte → List (List Byte)
  | cur, 0 :: 0 :: 1 :: r => cur.reverse :: nalUnits [1, 0, 0] r
  | cur, b :: r => nalUnits (b :: cur) r
  | cur, [] => [cur.reverse]

/-- A NAL unit of an SVC or MVC extension (AVC), or of a layer above the base (HEVC). -/
def skippedNal (codec : Nat) (u : List Byte) : Bool :=
  match u.drop 3 with
  | h :: r =>
    if codec = 1 then decide (h.toNat % 32 ∈ [14, 15, 20, 21])
    else codec == 2 && decide (h.toNat % 2 * 32 + (r.headD 0).toNat / 8 ≠ 0)
  | [] => false

/-- What of a unit the decoder reads: AVC and HEVC extension layers are skipped. -/
def baseLayer (codec : Nat) (bs : List Byte) : List Byte :=
  if codec = 1 ∨ codec = 2 then ((nalUnits [] bs).filter fun u => !skippedNal codec u).flatten else bs

/-! ### Levels (R287) -/

/-- A level: its signalled code, largest picture in samples, largest width and height squared, samples per second, bits per
second. -/
structure Level where
  code : Nat
  size : Nat
  wide : Nat
  high : Nat
  rate : Nat
  bits : Nat
deriving DecidableEq, Repr

/-- A level of AVC or HEVC, whose sides squared are at most eight times its size. -/
def Level.of (k : Nat) (x : Nat × Nat × Nat × Nat) : Level := ⟨x.1, x.2.1, 8 * x.2.1, 8 * x.2.1, x.2.2.1, k * x.2.2.2⟩

/-- Levels of AVC, with sizes and rates in macroblocks and 1,250 bits per unit of MaxBR (High profile); level 1b
is signalled as 9. -/
def avcLevels : List Level :=
  ([(10, 99, 1485, 64), (9, 99, 1485, 128), (11, 396, 3000, 192), (12, 396, 6000, 384), (13, 396, 11880, 768), (20, 396, 11880, 2000),
    (21, 792, 19800, 4000), (22, 1620, 20250, 4000), (30, 1620, 40500, 10000), (31, 3600, 108000, 14000),
    (32, 5120, 216000, 20000), (40, 8192, 245760, 20000), (41, 8192, 245760, 50000), (42, 8704, 522240, 50000),
    (50, 22080, 589824, 135000), (51, 36864, 983040, 240000), (52, 36864, 2073600, 240000)] ++
   [(60, 139264, 4177920, 240000), (61, 139264, 8355840, 480000), (62, 139264, 16711680, 800000)]).map
      (Level.of 1250)

/-- Levels of HEVC, Main tier. -/
def hevcLevels : List Level :=
  [(30, 36864, 552960, 128), (60, 122880, 3686400, 1500), (63, 245760, 7372800, 3000), (90, 552960, 16588800, 6000),
    (93, 983040, 33177600, 10000), (120, 2228224, 66846720, 12000), (123, 2228224, 133693440, 20000),
    (150, 8912896, 267386880, 25000), (153, 8912896, 534773760, 40000), (156, 8912896, 1069547520, 60000),
    (180, 35651584, 1069547520, 60000), (183, 35651584, 2139095040, 120000), (186, 35651584, 4278190080, 240000)].map
      (Level.of 1000)

/-- A level of AV1, main tier: sequence level index, size, width, height, display rate, 100 kbit/s. -/
def Level.av1 (n size w h rate bits : Nat) : Level := ⟨n, size, w * w, h * h, rate, bits * 100000⟩

/-- Levels of AV1 by sequence level index. -/
def av1Levels : List Level :=
  [.av1 0 147456 2048 1152 4423680 15, .av1 1 278784 2816 1584 8363520 30, .av1 4 665856 4352 2448 19975680 60,
    .av1 5 1065024 5504 3096 31950720 100, .av1 8 2359296 6144 3456 70778880 120, .av1 9 2359296 6144 3456 141557760 200,
    .av1 12 8912896 8192 4352 267386880 300, .av1 13 8912896 8192 4352 534773760 400, .av1 14 8912896 8192 4352 1069547520 600,
    .av1 16 35651584 16384 8704 1069547520 600, .av1 17 35651584 16384 8704 2139095040 1000,
    .av1 18 35651584 16384 8704 4278190080 1600]

/-- The lowest level whose limits hold for a picture of `w` × `h`, a picture every `dur` ticks of 90 kHz and `bps` bits per
second; the highest where none holds. -/
def levelOf (codec w h dur bps : Nat) : Nat :=
  let u := if codec = 1 then 16 else 1
  let pw := (w + u - 1) / u
  let ph := (h + u - 1) / u
  let l := if codec = 1 then avcLevels else if codec = 2 then hevcLevels else av1Levels
  ((l.find? fun z => decide (pw * ph ≤ z.size) && decide (pw * pw ≤ z.wide) && decide (ph * ph ≤ z.high) &&
    decide (pw * ph * 90000 ≤ z.rate * dur) && decide (bps ≤ z.bits)).map (·.code)).getD ((l.map (·.code)).getLastD 0)

/-! ### Byte streams out (R291) -/

/-- Bits, first bit highest, padded with zeros. -/
def bitsBytes (l : List Bool) : List Byte :=
  (List.range ((l.length + 7) / 8)).map fun i =>
    BitVec.ofNat 8 (((List.range 8).map fun j => if l.getD (8 * i + j) false then 2 ^ (7 - j) else 0).sum)

/-- Unsigned Exp-Golomb code. -/
def expGolomb (v : Nat) : List Bool :=
  let n := Nat.log2 (v + 1)
  List.replicate n false ++ (List.range (n + 1)).map fun i => (v + 1).testBit (n - i)

/-- Little-endian base-128 number of AV1. -/
def leb128 (v : Nat) : Nat → List Byte
  | 0 => []
  | n + 1 => if v < 128 then [BitVec.ofNat 8 v] else BitVec.ofNat 8 (128 + v % 128) :: leb128 (v / 128) n

def nal (l : List Byte) : List Byte := [0, 0, 0, 1] ++ l
def obu (kind : Nat) (l : List Byte) : List Byte := BitVec.ofNat 8 (8 * kind + 2) :: leb128 l.length 10 ++ l

/-- An unsigned number of `n` bits. -/
def bitsOf (n v : Nat) : List Bool := (List.range n).map fun i => v.testBit (n - 1 - i)

/-- The bytes of a NAL unit behind `n` zero bytes, with emulation prevention bytes. -/
def escaped : Nat → List Byte → List Byte
  | _, [] => []
  | n, b :: r =>
    if 2 ≤ n ∧ b.toNat ≤ 3 then 3 :: b :: escaped (if b = 0 then 1 else 0) r else b :: escaped (if b = 0 then n + 1 else 0) r

/-- A parameter set: NAL header, then its bits with the trailing ones. -/
def paramSet (head : List Byte) (l : List Bool) : List Byte := nal (head ++ escaped 0 (bitsBytes (l ++ [true])))

/-- The delimiter that begins a unit, by codec and picture type. -/
def delimiter (codec t : Nat) : List Byte :=
  match codec with
  | 1 => nal [9, BitVec.ofNat 8 (32 * t + 16)]
  | 2 => nal [0x46, 1, BitVec.ofNat 8 (32 * t + 16)]
  | _ => obu 2 []

/-- The recovery point SEI message of AVC and HEVC with recovery_frame_cnt = `n` and an exact match (R309). -/
def recoverySei (codec n : Nat) : List Byte :=
  let bits := if codec = 1 then expGolomb n ++ [true, false, false, false] else expGolomb (2 * n - 1) ++ [true, false]
  let body := bitsBytes (if bits.length % 8 = 0 then bits else bits ++ [true])
  nal ((if codec = 1 then [6] else [0x4E, 1]) ++ [6, BitVec.ofNat 8 body.length] ++ body ++ [0x80])

/-! ### Parameter sets (R287, R290, R318): the level, the size where the set holds it, and the tools, which are off but for
those of R290; the rest of a set is free -/

/-- What a stream signals: level, size, 10-bit samples, CAVLC, four tile columns; the bits that no rule gives, by kind of set and
place in it. -/
structure Signal where
  level : Nat
  w : Nat
  h : Nat
  ten : Bool
  cavlc : Bool
  tiled : Bool
  free : Nat → Nat → List Bool

/-- AVC: High profile, 4:2:0, 8 bits, no scaling matrix; frames only. -/
def Signal.avcSps (z : Signal) : List Bool :=
  bitsOf 8 100 ++ bitsOf 8 0 ++ bitsOf 8 z.level ++ z.free 0 0 ++ expGolomb 1 ++ expGolomb 0 ++ expGolomb 0 ++ [false, false] ++
    z.free 0 1 ++ expGolomb ((z.w + 15) / 16 - 1) ++ expGolomb ((z.h + 15) / 16 - 1) ++ [true] ++ z.free 0 2

/-- AVC: CABAC or CAVLC, one slice group, one reference a list, no weighted prediction, no redundant pictures, 8×8 transforms, no
scaling matrix. -/
def Signal.avcPps (z : Signal) : List Bool :=
  z.free 1 0 ++ [!z.cavlc] ++ z.free 1 1 ++ expGolomb 0 ++ expGolomb 0 ++ expGolomb 0 ++ [false, false, false] ++ z.free 1 2 ++
    [false, true, false] ++ z.free 1 3

/-- HEVC: Main or Main 10 profile, main tier, progressive frames; the level. -/
def Signal.hevcProfile (z : Signal) : List Bool :=
  bitsOf 8 (if z.ten then 2 else 1) ++ bitsOf 32 (if z.ten then 0x20000000 else 0x60000000) ++ bitsOf 48 0x900000000000 ++
    bitsOf 8 z.level

def Signal.hevcVps (z : Signal) : List Bool := bitsOf 32 0x0C01FFFF ++ z.hevcProfile ++ z.free 0 0

/-- HEVC: 4:2:0, the size in units of 8 with its window, depth; coding blocks 8 to 64, transforms 4 to 32, scaling lists off or the
default ones, no AMP, SAO, no PCM, no long-term references. -/
def Signal.hevcSps (z : Signal) : List Bool :=
  let w := (z.w + 7) / 8 * 8
  let h := (z.h + 7) / 8 * 8
  let depth := expGolomb (if z.ten then 2 else 0)
  bitsOf 8 1 ++ z.hevcProfile ++ z.free 1 0 ++ expGolomb 1 ++ expGolomb w ++ expGolomb h ++
    (if w = z.w ∧ h = z.h then [false]
      else true :: expGolomb 0 ++ expGolomb ((w - z.w) / 2) ++ expGolomb 0 ++ expGolomb ((h - z.h) / 2)) ++
    depth ++ depth ++ z.free 1 1 ++ expGolomb 0 ++ expGolomb 3 ++ expGolomb 0 ++ expGolomb 3 ++ z.free 1 2 ++
    (if (z.free 1 5).headD false then [true, false] else [false]) ++ [false, true, false] ++ z.free 1 3 ++ [false] ++ z.free 1 4

/-- HEVC: no dependent slices, no sign data hiding, one reference a list, no transform skip, no weighted prediction, no bypass, no
wavefront, no scaling lists; the tile columns of a tiled group, across which no loop filter acts (R318). -/
def Signal.hevcPps (z : Signal) : List Bool :=
  z.free 2 0 ++ [false] ++ z.free 2 1 ++ [false] ++ z.free 2 2 ++ expGolomb 0 ++ expGolomb 0 ++ z.free 2 3 ++ [false] ++
    z.free 2 4 ++ [false, false, false, z.tiled, false] ++
    (if z.tiled then expGolomb 3 ++ expGolomb 0 ++ [true, false] else []) ++ z.free 2 5 ++ [false] ++ z.free 2 6

/-- AV1: Main profile, one operating point, main tier; 64×64 superblocks, no filter intra, no inter-intra, no warped motion, no
screen content tools, no superres, CDEF, loop restoration, depth, colour, no film grain. -/
def Signal.av1Sequence (z : Signal) : List Bool :=
  bitsOf 5 0 ++ z.free 0 0 ++ bitsOf 17 0 ++ bitsOf 5 z.level ++ (if 7 < z.level then [false] else []) ++ z.free 0 1 ++
    [false, false] ++ z.free 0 2 ++ [false] ++ z.free 0 3 ++ [false] ++ z.free 0 4 ++ [false, false] ++ z.free 0 5 ++
    [false, true, true, z.ten, false] ++ z.free 0 6 ++ [false]

/-- The parameter sets or the sequence header of a codec. -/
def Signal.sets (z : Signal) (codec : Nat) : List Byte :=
  match codec with
  | 1 => paramSet [0x67] z.avcSps ++ paramSet [0x68] z.avcPps
  | 2 => paramSet [0x40, 1] z.hevcVps ++ paramSet [0x42, 1] z.hevcSps ++ paramSet [0x44, 1] z.hevcPps
  | _ => obu 1 (bitsBytes (z.av1Sequence ++ [true]))

/-- The first bits of a coded picture. AVC and HEVC: its one slice begins with the first block (R290). AV1: no frame shown again,
KEY_FRAME or an inter frame, whether it is shown, and that a hidden one can be shown later (R306). -/
def pictureStart (codec t : Nat) (hidden : Bool) : List Bool :=
  if codec = 3 then [false] ++ bitsOf 2 (if t = 0 then 0 else 1) ++ (if hidden then [false, true] else [true]) else [true]

/-- The tiles of an AV1 picture of `w` × `h`: one, or four columns of one row (R290, R318). The flags that ask for more of them
stand only where there could be more. -/
def tileInfo (tiled : Bool) (w h : Nat) : List Bool :=
  true :: if tiled then [true, false, false] else (if 64 < w then [false] else []) ++ (if 64 < h then [false] else [])

/-- The header bits of a coded picture that R290 and R306 give, with the free ones between them. AVC and HEVC: `pictureStart`. AV1:
no OBMC and one motion mode in an inter frame, the tiles, restoration by Wiener filters or none where the frame is not lossless, no
global motion. -/
def frameHead (codec t : Nat) (hidden tiled : Bool) (w h : Nat) (free : Nat → List Bool) : List Bool :=
  pictureStart codec t hidden ++
    if codec ≠ 3 then []
    else
      free 0 ++ (if t = 0 then [] else false :: free 1) ++ tileInfo tiled w h ++ free 2 ++
        (match free 3 with
          | [a, b, c] => [a, false, b, false, c, false]
          | _ => []) ++ free 4 ++ if t = 0 then [] else List.replicate 7 false

/-- Header bytes of the NAL unit of a picture, by type (0 key, 1 P, 2 B): IDR for a key picture. -/
def pictureNal (codec t : Nat) : List Byte :=
  if codec = 1 then [match t with
    | 0 => 0x65
    | 1 => 0x41
    | _ => 0x01]
  else [match t with
    | 0 => 0x28
    | 1 => 0x02
    | _ => 0x00, 1]

/-- The frame header OBU of show_existing_frame = 1 for a reference slot. -/
def showExisting (slot : Nat) : List Byte := obu 3 [BitVec.ofNat 8 (0x88 + 16 * slot)]

end Sys2Proof.Machine
end

