-- ==== Sys2Proof/Machine/Picture.lean ====
section
/-! DEFINITION. Pictures in memory and their conversion (R292 to R294), and the scaler (R310 to R313). -/
namespace Sys2Proof.Machine

/-- A picture: size, bit depth and samples by plane (0 luma, 1 and 2 chroma), row and column. -/
structure Pic where
  w : Nat
  h : Nat
  b : Nat
  at3 : Nat → Nat → Nat → Nat

/-- A picture's place in memory: format code, address, pitch. -/
structure PicMem where
  fmt : Nat
  a : Nat
  pitch : Nat
deriving DecidableEq, Repr

def PicMem.size (p : PicMem) (w h : Nat) : Nat :=
  if p.fmt = 2 then Fmt.fp16.tensorBytes (w * h) 4 else p.pitch * h + p.pitch * (h / 2)
/-- Row size of PS8 or PS16 luma. -/
def PicMem.rowLen (p : PicMem) (w : Nat) : Nat := if p.fmt = 1 then 2 * w else w
/-- R292: a pitch of PS8 or PS16, a reserved format, and PS8 with more than 8 bits. -/
def PicMem.bad (p : PicMem) (w b : Nat) : Bool :=
  decide (2 < p.fmt) || (p.fmt == 0 && b != 8) || (p.fmt != 2 && (!divides 64 p.pitch || decide (p.pitch < p.rowLen w)))

/-- `v * 2^b` as a sample (R293). -/
def tnsSample (b : Nat) (v : Ext) : Nat :=
  match v with
  | .fin m e =>
    if m ≤ 0 then 0
    else
      let k := e + b
      min (2 ^ b - 1) (if 0 ≤ k then m.toNat * 2 ^ (min k 64).toNat else rneShift m.toNat (-k))
  | .inf neg => if neg then 0 else 2 ^ b - 1
  | .nan => 0

/-- A picture read from memory (R292, R293). -/
def PicMem.read (p : PicMem) (rd : Nat → Byte) (w h b : Nat) : Pic :=
  let tns (y x c : Nat) : Nat := tnsSample b (Fmt.fp16.tileVal (fun i => rd (p.a + i)) (w * h) 4 (y * w + x) c)
  let sample (i : Nat) : Nat := if p.fmt = 0 then (rd i).toNat else ((rd i).toNat + 256 * (rd (i + 1)).toNat) % 2 ^ b
  let n := if p.fmt = 0 then 1 else 2
  { w := w, h := h, b := b
    at3 := fun c y x =>
      if p.fmt = 2 then
        (if c = 0 then tns y x 0
        else (tns (2 * y) (2 * x) c + tns (2 * y) (2 * x + 1) c + tns (2 * y + 1) (2 * x) c + tns (2 * y + 1) (2 * x + 1) c + 2) / 4)
      else if c = 0 then sample (p.a + p.pitch * y + n * x)
      else sample (p.a + p.pitch * h + p.pitch * y + n * (2 * x + (c - 1))) }

/-- Bytes of a picture in memory, as offsets from its address (R292, R293). -/
def PicMem.write (p : PicMem) (q : Pic) : List (Nat × List Byte) :=
  if p.fmt = 2 then
    let code (y x c : Nat) : Nat := if c = 3 then 0 else
      wide16.encode (.fin (if c = 0 then q.at3 0 y x else q.at3 c (y / 2) (x / 2) : Nat) (-(q.b : Int)))
    let el (line pos : Nat) : Nat × Nat := (code (line / q.w) (line % q.w) pos, 0)
    (List.range (q.w * q.h)).flatMap fun l => Fmt.fp16.lineWr (q.w * q.h) 4 l (el l)
  else
    let n := if p.fmt = 0 then 1 else 2
    (List.range q.h).map (fun y => (p.pitch * y, (List.range q.w).flatMap fun x => leBytes n (q.at3 0 y x))) ++
    (List.range (q.h / 2)).map fun y =>
      (p.pitch * q.h + p.pitch * y, (List.range (q.w / 2)).flatMap fun x => leBytes n (q.at3 1 y x) ++ leBytes n (q.at3 2 y x))

/-- Spans that a read of a picture touches. -/
def PicMem.reads (p : PicMem) (w h : Nat) : List (Nat × Nat) :=
  if p.fmt = 2 then [(p.a, Fmt.fp16.dataBytes (4 * w * h))]
  else (List.range h).map (fun y => (p.a + p.pitch * y, p.rowLen w)) ++
    (List.range (h / 2)).map fun y => (p.a + p.pitch * h + p.pitch * y, p.rowLen w)

/-- R294. -/
def Pic.depth (q : Pic) (b : Nat) : Pic :=
  if q.b = 10 ∧ b = 8 then { q with b := 8, at3 := fun c y x => min 255 ((q.at3 c y x + 2) / 4) }
  else if q.b = 8 ∧ b = 10 then { q with b := 10, at3 := fun c y x => q.at3 c y x * 4 }
  else q

/-! ### The scaler -/

structure Scaler where
  filter : Nat
  rot : Nat
  hflip : Bool
  vflip : Bool
  x0 : Nat
  y0 : Nat
  cw : Nat
  ch : Nat
  ow : Nat
  oh : Nat
  raw : Nat
deriving DecidableEq, Repr

/-- The descriptor of R310. -/
def Scaler.parse (v : Nat) : Scaler :=
  { filter := fld v 1 0, rot := fld v 3 2, hflip := bit v 4, vflip := bit v 5, x0 := fld v 31 16, y0 := fld v 47 32
    cw := fld v 63 48, ch := fld v 79 64, ow := fld v 95 80, oh := fld v 111 96, raw := v }

/-- The crop rectangle in a picture: left, top, width, height. -/
def Scaler.crop (d : Scaler) (w h : Nat) : Nat × Nat × Nat × Nat :=
  (if d.cw = 0 then 0 else d.x0, if d.ch = 0 then 0 else d.y0, if d.cw = 0 then w else d.cw, if d.ch = 0 then h else d.ch)

/-- Size after scaling and before rotation (R311). -/
def Scaler.size (d : Scaler) : Nat × Nat := if d.rot % 2 = 0 then (d.ow, d.oh) else (d.oh, d.ow)

def Scaler.half (d : Scaler) : Nat := d.filter

/-- `s = min(1, out / in)` as a fraction, and the tap count T (R312). -/
def scaleFrac (inN outN : Nat) : Nat × Nat := if inN ≤ outN then (1, 1) else (outN, inN)
def Scaler.taps (d : Scaler) (inN outN : Nat) : Nat :=
  let s := scaleFrac inN outN
  if d.filter = 0 then 1 else 2 * cdiv (d.half * s.2) s.1

/-- Nearest integer to `num / den`, ties away from zero. -/
def roundAway (num : Int) (den : Nat) : Int :=
  let q := ((2 * num.natAbs + den) / (2 * den) : Nat)
  if num < 0 then -(q : Int) else q

/-- The Lanczos-3 kernel times `256 * sn / sd` at `n / d`, to the nearest integer (R312). -/
def lanczos (sn sd : Nat) (n : Int) (d : Nat) : Int :=
  if n = 0 then roundAway (256 * sn) sd
  else if 3 * d ≤ n.natAbs then 0
  else
    let x := fxPi * n / (d : Int)
    let y := x / 3
    let sn1 (t : Int) : Int := sinSeries (fxMul t t) 60 0 t
    let k := fxDiv (fxMul (sn1 x) (sn1 y)) (fxMul x y)
    roundAway (k * 256 * sn) (2 ^ 220 * sd)

/-- Coefficient of tap `d` at phase `p` before the correction (R312). -/
def Scaler.coef (z : Scaler) (inN outN : Nat) (p : Nat) (d : Int) : Int :=
  let s := scaleFrac inN outN
  let n : Int := s.1 * (64 * d - p)
  let dn := 64 * s.2
  let a : Int := n.natAbs
  let t : Int := dn
  match z.filter with
  | 1 => if a < t then roundAway (256 * s.1 * (t - a)) (s.2 * dn) else 0
  | 2 =>
    if a ≤ t then roundAway (256 * s.1 * (3 * a ^ 3 - 5 * a ^ 2 * t + 2 * t ^ 3)) (s.2 * 2 * dn ^ 3)
    else if a < 2 * t then roundAway (256 * s.1 * (-a ^ 3 + 5 * a ^ 2 * t - 8 * a * t ^ 2 + 4 * t ^ 3)) (s.2 * 2 * dn ^ 3)
    else 0
  | _ => lanczos s.1 s.2 n dn

/-- Taps of an output index: source index (clamped) and coefficient (R311, R312). -/
def Scaler.line (z : Scaler) (inN outN x : Nat) : List (Nat × Int) :=
  let pos : Int := ((2 * x + 1) * inN * 65536 / (2 * outN) : Nat) - 32768
  let clampI (i : Int) : Nat := (max 0 (min i ((inN : Int) - 1))).toNat
  if z.filter = 0 then [(clampI ((pos + 32768) / 65536), 256)]
  else
    let i := pos / 65536
    let p := ((pos % 65536).toNat) / 1024
    let t := z.taps inN outN
    let ds := (List.range t).map fun k => (k : Int) - ((t / 2 : Nat) - 1 : Int)
    let cs := ds.map (z.coef inN outN p)
    let fix := 256 - cs.sum
    (List.zip ds cs).map fun (d, c) => (clampI (i + d), if d = (if p < 32 then 0 else 1) then c + fix else c)

/-- One plane of `iw` × `ih` samples scaled to `ow` × `oh` (R313). -/
def Scaler.plane (z : Scaler) (b iw ih ow oh : Nat) (f : Nat → Nat → Nat) : List (List Nat) :=
  let top : Int := ((2 ^ b - 1 : Nat) : Int)
  let clampT (hi v : Int) : Int := max 0 (min v hi)
  let xs := (List.range ow).map (z.line iw ow)
  let mid := (List.range ih).map fun y => xs.map fun l =>
    clampT (top * 16) (((l.map fun t => t.2 * (f y t.1 : Int)).sum + 8) / 16)
  (List.range oh).map fun y =>
    let l := z.line ih oh y
    (List.range ow).map fun x =>
      (clampT top (((l.map fun t => t.2 * ((mid.getD t.1 []).getD x 0)).sum + 2048) / 4096)).toNat

/-- Crop, scale, flip, rotate (R311). -/
def Scaler.run (z : Scaler) (q : Pic) : Pic :=
  let (x0, y0, cw, ch) := z.crop q.w q.h
  let (sw, sh) := z.size
  let planes := (List.range 3).map fun c =>
    let k := if c = 0 then 1 else 2
    z.plane q.b (cw / k) (ch / k) (sw / k) (sh / k) fun y x => q.at3 c (y0 / k + y) (x0 / k + x)
  { w := z.ow, h := z.oh, b := q.b
    at3 := fun c y x =>
      let k := if c = 0 then 1 else 2
      let w := sw / k
      let h := sh / k
      let yx : Nat × Nat := match z.rot with
        | 0 => (y, x)
        | 1 => (h - 1 - x, y)
        | 2 => (h - 1 - y, w - 1 - x)
        | _ => (x, w - 1 - y)
      let y' := if z.vflip then h - 1 - yx.1 else yx.1
      let x' := if z.hflip then w - 1 - yx.2 else yx.2
      ((planes.getD c []).getD y' []).getD x' 0 }

/-- An invalid descriptor for a source of at most `w` × `h` (R310, R312, R314). CROP_X0 and CROP_Y0 may hold any even value where
CROP_W or CROP_H is 0, which takes the whole side (DESIGN CHOICE, log 82: R310 says nothing of them there). -/
def Scaler.bad (z : Scaler) (w h : Nat) : Bool :=
  let (x0, y0, cw, ch) := z.crop w h
  let (sw, sh) := z.size
  let even (n : Nat) : Bool := divides 2 n
  let dim (n : Nat) : Bool := even n && within n 16 8192
  !zeros z.raw [(15, 6), (127, 112)] || !even z.x0 || !even z.y0 || !dim cw || !dim ch || !dim z.ow || !dim z.oh ||
  decide (w < x0 + cw) || decide (h < y0 + ch) || decide (16 < z.taps cw sw) || decide (16 < z.taps ch sh)

end Sys2Proof.Machine
end

