-- ==== Sys2Proof/Machine/Media.lean ====
section
/-!
DEFINITION. Media resources and stream contexts (R284, R285, R295, R322, R324), MED.SCALE and MED.DEC (R286 to R289, R320 to
R325, R328). What a codec standard computes is a free function of its inputs; the layouts of the stream context and of a
picture slot are the model's (log 14).
-/
namespace Sys2Proof.Machine
open Host

/-! ### Resources (R284, R322): pipes 0 to 7 and scalers 0 and 1 are on MD0, the others on MD1 -/

/-- Media commands that have started and not completed. -/
def mediaRunning (s : State) : List Cmd := (allQueues s).flatMap fun x => x.2.cmds.filter fun k => isRunning k && hOpcode k.hdr / 256 == 7

/-- Pipes that running commands of an opcode hold, and scalers that running commands hold. -/
def heldPipes (s : State) (op : Nat) : List Nat := ((mediaRunning s).filter fun k => hOpcode k.hdr == op).filterMap (·.pipe)
def heldScls (s : State) : List Nat := (mediaRunning s).filterMap (·.scl)
def boundPipes (s : State) : List Nat := s.media.groups.flatMap (·.pipes)

/-- Idle decode pipes, encode pipes and scalers, in ascending order. -/
def idleDec (s : State) : List Nat := (List.range 16).filter fun i => !s.media.badDec.contains i && !(heldPipes s 0x0701).contains i
def idleEnc (s : State) : List Nat :=
  (List.range 16).filter fun i => !s.media.badEnc.contains i && !(boundPipes s).contains i && !(heldPipes s 0x0702).contains i
def idleScl (s : State) : List Nat := (List.range 4).filter fun i => !s.media.badScl.contains i && !(heldScls s).contains i

def mayUse (x : Ctx) (idle : List Nat) (keep : Nat) : Bool := decide ((if x.lc then 0 else keep) < idle.length)
def keepEnc (s : State) : Nat := s.regs.medCfg.toNat % 16
def keepDec (s : State) : Nat := s.regs.medCfg.toNat / 16 % 16
def keepScl (s : State) : Nat := s.regs.medCfg.toNat / 256 % 4

/-- The lowest idle pipe, with an idle scaler on its die where the command scales; and that scaler. -/
def pickPipe (s : State) (idle : List Nat) (scales : Bool) : Option Nat :=
  idle.find? fun p => !scales || (idleScl s).any fun c => decide (c / 2 = p / 8)
def pickScl (s : State) (idle : List Nat) (scales : Bool) : Option Nat :=
  if scales then (pickPipe s idle scales).bind fun p => (idleScl s).find? fun c => decide (c / 2 = p / 8) else none

/-- A pipe, and a scaler where the command scales, are there for the command (R314, R322). -/
def mediaReady (x : Ctx) (s : State) (idle : List Nat) (keep : Nat) (scales : Bool) : Bool :=
  mayUse x idle keep && (pickPipe s idle scales).isSome && (!scales || mayUse x (idleScl s) (keepScl s))

/-! ### Stream contexts (R295): byte 0 is 1 for decoding, 2 for encoding, else the context is not open -/

def ctxLen : Nat := 0x10000
def ctxKind (s : State) (o : Owner) (a : Nat) : Nat := (readByte s o a).toNat
def ctxOk (a : Nat) : Bool := inKs a && divides 4096 a
def devWr (a : Nat) (bs : List Byte) : Wr := { d := .dev a, bytes := bs }
/-- A write of a stream context: it takes place only when its command succeeds (R296). -/
def ctxWr (a : Nat) (bs : List Byte) : Wr := { d := .dev a, bytes := bs, firm := true }
/-- The state code of a context that is not open, or of the other kind (R330). -/
def ctxRefuse (kind want : Nat) : Option Out :=
  if kind ≠ 1 ∧ kind ≠ 2 then some (refuse 0x70) else if kind ≠ want then some (refuse 0x73) else none

/-- The bytes of its context that the start of a MED.DEC or MED.ENC reads: OPEN asks only whether it is open. -/
def ctxSeen (op : Nat) : Nat := if op = 0 then 64 else ctxLen

/-- Where the state that a codec carries from picture to picture lies in a context, and its size. -/
def carryAt : Nat := 0x8000
def carryLen : Nat := 0x8000

/-! ### Picture slots (R324): samples packed at the slot's depth, luma then both chroma planes in rows of W_a and W_a / 2, then
what the codec keeps besides -/

def slotLen (w h b : Nat) : Nat := roundUp 4096 (cdiv (roundUp 64 w * roundUp 64 h * (3 * b + 1)) 16)

/-- Index of a sample among those of a slot. -/
def slotIdx (w h c y x : Nat) : Nat :=
  let wa := roundUp 64 w
  let ha := roundUp 64 h
  if c = 0 then y * wa + x else wa * ha + (c - 1) * (wa * ha / 4) + y * (wa / 2) + x

/-- A picture of `pw` × `ph` at depth `pb` in a slot for pictures of at most `w` × `h` at depth `b`. -/
def slotPic (rd : Nat → Byte) (w h b pw ph pb : Nat) : Pic :=
  ⟨pw, ph, pb, fun c y x => bitsAt rd (b * slotIdx w h c y x) b % 2 ^ pb⟩

/-- The samples of columns `[x0, x1)` of a picture as writes into a slot, row by row; the columns are multiples of 64. -/
def slotWr (w h b : Nat) (q : Pic) (x0 x1 : Nat) : List (Nat × List Byte) :=
  (List.range 3).flatMap fun c =>
    let k := if c = 0 then 1 else 2
    (List.range (q.h / k)).map fun y =>
      (b * slotIdx w h c y (x0 / k) / 8, packCodes b ((List.range ((x1 - x0) / k)).map fun x =>
        if x0 / k + x < q.w / k then q.at3 c y (x0 / k + x) % 2 ^ b else 0))

/-- The part of a slot behind its samples. -/
def slotTail (ins : List Nat) (w h b : Nat) : Nat × List Byte :=
  let n := roundUp 64 w * roundUp 64 h * 3 * b / 16
  (n, (List.range (slotLen w h b - n)).map (Config.slotByte ins))

/-- The bytes that lie behind the samples of a slot at `a`, as one number. -/
def tailOf (rd : Nat → Byte) (w h b : Nat) : Nat :=
  let n := roundUp 64 w * roundUp 64 h * 3 * b / 16
  leNat ((List.range (slotLen w h b - n)).map fun i => rd (n + i))

/-- The samples of a picture in luma columns below `lim` as one number. -/
def picNum (q : Pic) (lim : Nat) : Nat :=
  leNat ((List.range 3).flatMap fun c =>
    let k := if c = 0 then 1 else 2
    (List.range (q.h / k)).flatMap fun y => (List.range (min (q.w / k) (lim / k))).flatMap fun x => leBytes 2 (q.at3 c y x))

/-- Reference pictures as inputs, each with what the codec keeps besides: the samples in luma columns below `lim`, and the rest
where that is the whole picture. -/
def refInputs (lim : Nat) (l : List (Pic × Nat)) : List Nat :=
  l.flatMap fun r => [picNum r.1 lim, if r.1.w ≤ lim then r.2 else 0]

/-- A sample by the decoding process (R289), from no more than the first `lim` luma columns of the reference pictures. -/
def decodedAt (ins : List Nat) (refs : List (Pic × Nat)) (lim i c y x : Nat) : Nat :=
  Config.decodedSample (ins ++ refInputs (min lim (Config.refColumns ins i c y x)) refs) i c y x

/-- The inputs of what a slot holds behind the samples of picture `i`. -/
def tailIns (ins : List Nat) (refs : List (Pic × Nat)) (lim i : Nat) : List Nat :=
  ins ++ refInputs (min lim (Config.refColumns ins i 3 0 0)) refs ++ [i]

/-- A picture of which every sample is 2^(b − 1). -/
def greyPic (w h b : Nat) : Pic := ⟨w, h, b, fun _ _ _ => 2 ^ (b - 1)⟩

/-- MED_ERR in the reply of a failed MED.ENC. -/
def encErr (code : Nat) : Nat := code <<< 44

/-! ### MED.SCALE (R328) -/

structure MScale where
  src : PicMem
  dst : PicMem
  bIn : Nat
  bOut : Nat
  w : Nat
  h : Nat
  z : Scaler
deriving DecidableEq, Repr

def MScale.parse (v : Nat) : MScale :=
  { src := ⟨fld v 3 0, fld v 111 64, fld v 159 128⟩, dst := ⟨fld v 7 4, fld v 207 160, fld v 255 224⟩
    bIn := if bit v 8 then 10 else 8, bOut := if bit v 9 then 10 else 8, w := fld v 31 16, h := fld v 47 32
    z := Scaler.parse (fld v 383 256) }

def MScale.spans (p : MScale) : List (Nat × Nat) := [(p.src.a, p.src.size p.w p.h), (p.dst.a, p.dst.size p.z.ow p.z.oh)]

def mScaleBad (v : Nat) : Bool :=
  let p := MScale.parse v
  let dim (n : Nat) : Bool := divides 2 n && within n 16 8192
  !zeros v [(15, 10), (63, 48), (127, 112), (223, 208)] || !dim p.w || !dim p.h || p.z.bad p.w p.h ||
  p.src.bad p.w p.bIn || p.dst.bad p.z.ow p.bOut || p.spans.any (fun y => !spanKs y.1 y.2) || anyMeets p.spans
where
  anyMeets : List (Nat × Nat) → Bool
    | [a, b] => overlap a.1 a.2 b.1 b.2
    | _ => false

/-- The work of MED.SCALE. -/
def mScalePlan (x : Ctx) (s : State) : Plan :=
  let p := MScale.parse x.par
  let q := p.z.run ((p.src.read (readByte s x.o) p.w p.h p.bIn).depth p.bOut)
  { pieces := [{ reads := p.src.reads p.w p.h
                 writes := (p.dst.write q).map fun y => devWr (p.dst.a + y.1) y.2 }]
    mixed := true
    out := fun r => match r.fail with
      | none => { reply := (p.z.ow * p.z.oh) % 2 ^ 32 + (x.cmd.scl.getD 0) <<< 32 }
      | some (_, st, _) => { status := st, reply := (x.cmd.scl.getD 0) <<< 32 } }

/-- Output luma samples of the scaler, 64 rows a quantum, and the traffic of a spine die (R384). -/
def Scaler.work (z : Scaler) (pictures : Nat) : Charge := ⟨.ms, 0, pictures * z.ow * z.oh, 64 * z.ow⟩
def mediaTraffic (p : Plan) : List Charge := spineTraffic (p.pieces.flatMap Piece.spans)

def mScaleFamily : Family where
  bad _ := mScaleBad
  spans v := (MScale.parse v).spans
  charges x s := chargeList ((MScale.parse x.par).z.work 1 :: mediaTraffic (mScalePlan x s))
  ready x s := mayUse x (idleScl s) (keepScl s)
  scl _ s := (idleScl s).head?
  work x s := execPlan (mScalePlan x s) x s

def execMedScale (c : CmdRef) (e : Circ) (s : State) : Outcome State Fault Refusal :=
  .next (runCmd 0x0703 mScaleFamily c e s)

/-! ### MED.DEC (R323 to R325) -/

structure Dec where
  op : Nat
  codec : Nat
  conceal : Bool
  grain : Bool
  scaleEn : Bool
  bit10 : Bool
  pfmt : Nat
  w : Nat
  h : Nat
  dpb : Nat
  slots : Nat
  ctx : Nat
  dpbA : Nat
  au : Nat
  auLen : Nat
  pitch : Nat
  out : Nat
  stride : Nat
  z : Scaler
deriving DecidableEq, Repr

def Dec.parse (v : Nat) : Dec :=
  { op := fld v 1 0, codec := fld v 3 2, conceal := bit v 4, grain := bit v 5, scaleEn := bit v 6, bit10 := bit v 7
    pfmt := fld v 11 8, w := fld v 31 16, h := fld v 47 32, dpb := fld v 52 48, slots := fld v 59 56 + 1, ctx := fld v 111 64
    dpbA := fld v 175 128, au := fld v 239 192, auLen := fld v 287 256, pitch := fld v 319 288, out := fld v 367 320
    stride := fld v 415 384, z := Scaler.parse (fld v 575 448) }

def Dec.depth (p : Dec) : Nat := if p.bit10 then 10 else 8
def Dec.slotLen (p : Dec) : Nat := Machine.slotLen p.w p.h p.depth
def Dec.outMem (p : Dec) (i : Nat) : PicMem := ⟨p.pfmt, p.out + i % p.slots * p.stride, p.pitch⟩
def Dec.outSize (p : Dec) : Nat × Nat := if p.scaleEn then (p.z.ow, p.z.oh) else (p.w, p.h)

def meetsAny : List (Nat × Nat) → Bool
  | [] => false
  | x :: r => r.any (fun y => overlap x.1 x.2 y.1 y.2) || meetsAny r

def Dec.spans (p : Dec) : List (Nat × Nat) :=
  (p.ctx, ctxLen) :: (match p.op with
    | 0 => [(p.dpbA, p.dpb * p.slotLen), (p.out, p.slots * p.stride)]
    | 1 => [(p.au, p.auLen)]
    | _ => [])

/-- R325; fields that an operation does not use are written 0. -/
def decBad (v : Nat) : Bool :=
  let p := Dec.parse v
  let limit : Nat × Nat := match p.codec with
    | 0 => (1920, 1152)
    | 1 => (4096, 2304)
    | _ => (8192, 4352)
  let o := p.outSize
  !zeros v [(15, 12), (55, 53), (63, 60), (127, 112), (191, 176), (255, 240), (383, 368), (447, 416)] || !ctxOk p.ctx ||
  (p.op != 0 && !zeros v [(11, 2), (31, 16), (47, 32), (52, 48), (59, 56), (175, 128), (319, 288), (367, 320), (415, 384),
    (575, 448)]) ||
  (p.op != 1 && !zeros v [(239, 192), (287, 256)]) || (p.op == 1 && p.auLen == 0) ||
  p.spans.any (fun y => !spanKs y.1 y.2) ||
  (p.op == 0 && ((p.grain && p.codec != 3) || !divides 2 p.w || !divides 2 p.h || !within p.w 16 limit.1 ||
    !within p.h 16 limit.2 || !within p.dpb 1 17 || (p.outMem 0).bad o.1 p.depth ||
    (if p.scaleEn then p.z.bad p.w p.h else p.z.raw != 0) || !divides 4096 p.stride ||
    decide (p.stride < (p.outMem 0).size o.1 o.2) || meetsAny p.spans))

/-! #### The stream context of a decoder -/

/-- A picture in the decoded picture buffer: its slot, place in output order, size, depth; monochrome; the fields it has (1
top, 2 bottom, 3 both); waiting for output; a reference; its film grain parameters. -/
structure Held where
  slot : Nat
  order : Nat
  w : Nat
  h : Nat
  b : Nat
  mono : Bool
  fields : Nat
  waiting : Bool
  ref : Bool
  grain : Nat
deriving DecidableEq, Repr

def Held.num (d : Held) : Nat :=
  1 + ofBool d.mono <<< 1 + d.fields <<< 2 + ofBool d.waiting <<< 4 + ofBool d.ref <<< 5 + d.b <<< 8 + d.w <<< 16 + d.h <<< 32 +
    (d.order % 2 ^ 64) <<< 64 + (d.grain % 2 ^ 1024) <<< 128
def Held.ofNum (slot v : Nat) : Option Held :=
  if bit v 0 then some ⟨slot, fld v 127 64, fld v 31 16, fld v 47 32, fld v 15 8, bit v 1, fld v 3 2, bit v 4, bit v 5, fld v 1151 128⟩
  else none

/-- An open decode context: its OPEN parameters, pictures output so far, the decoded picture buffer. -/
structure DecCtx where
  par : Nat
  count : Nat
  held : List Held
deriving DecidableEq, Repr

def decCtx (s : State) (o : Owner) (a : Nat) : DecCtx :=
  ⟨readNat s o (a + 256) 72, readNat s o (a + 8) 8,
    (List.range 17).filterMap fun i => Held.ofNum i (readNat s o (a + 0x1000 + 256 * i) 256)⟩

/-- The writes of a context: header, parameters, buffer, carried state. The bytes that it has are written first, so that a Cocoon
that overflows leaves it as it was (R296, R375). -/
def DecCtx.writes (d : DecCtx) (a : Nat) (old carry : List Byte) : List Wr :=
  [ctxWr a old, ctxWr a (leBytes 384 (1 + (d.count % 2 ^ 64) <<< 64 + d.par <<< 2048)),
   ctxWr (a + 0x1000) ((List.range 17).flatMap fun i => leBytes 256 (((d.held.find? fun z => z.slot == i).map (·.num)).getD 0)),
   ctxWr (a + carryAt) carry]

def carryOf (s : State) (o : Owner) (a : Nat) : List Byte := readBytes s o (a + carryAt) carryLen

/-! #### What a unit holds: items of its grammar, free functions of the codec, the unit and the carried state -/

/-- The fields of `Config.unitSyntax`. -/
inductive Gram where
  | headerError | dataError | unsupported | chroma | depth | width | height | pictures | refers | missing | fields | pair
  | order | shown | grain | kept | released | regions | first | rows | again | rowSize | profile | level
  | blocks | blockW | blockH | vectors | vectorX | vectorY
deriving DecidableEq, Repr

def gram (ins : List Nat) (g : Gram) (i : Nat) : Nat := Config.unitSyntax ins g.ctorIdx i

/-- The inputs that a unit is read from: codec, the unit without skipped layers, and the carried state unless the unit needs
none. -/
def unitIns (codec : Nat) (unit : List Byte) (carry : Nat) : List Nat :=
  let u := leNat (baseLayer codec unit)
  [codec, u, if Config.standsAlone [codec, u] then 0 else carry]
def Dec.ins (q : Dec) (p : Dec) (x : Ctx) (s : State) : List Nat :=
  unitIns q.codec (readBytes s x.o p.au p.auLen) (leNat (carryOf s x.o p.ctx))

/-- R286 for a profile, numbered as its row lists them and beyond that unsupported, a bit depth, which the slots must hold, and a
chroma format (1: 4:2:0, 0: monochrome). -/
def Dec.profileOk (q : Dec) (profile b c : Nat) : Bool :=
  let high10 := decide (8 ≤ b) && decide (b ≤ 10)
  decide (b ≤ q.depth) && (match q.codec with
    | 0 => profile == 0 && b == 8 && c == 1
    | 1 => decide (profile < 4) && (b == 8 || (profile == 3 && high10)) && (c == 1 || (decide (2 ≤ profile) && c == 0))
    | 2 => decide (profile < 2) && (b == 8 || (profile == 1 && high10)) && c == 1
    | _ => profile == 0 && (b == 8 || b == 10) && (c == 1 || c == 0))

/-- The highest level of R286: ten times its number; for MPEG-2, Main is 0 and High is 1. -/
def Dec.levelOk (q : Dec) (level : Nat) : Bool :=
  decide (level ≤ match q.codec with
    | 0 => 1
    | 1 => 52
    | _ => 61)

/-- Pictures of a unit: one picture of MPEG-2, AVC and HEVC (R291, R324); frames of an AV1 temporal unit. -/
def Dec.count (q : Dec) (ins : List Nat) : Nat := gram ins .pictures 0 % (if q.codec = 3 then 32 else 2)

/-- Luma rows of a block row. -/
def Dec.rowH (q : Dec) (ins : List Nat) : Nat :=
  if q.codec < 2 then 16 else if q.codec = 2 then 16 * 2 ^ (gram ins .rowSize 0 % 3) else 64 * 2 ^ (gram ins .rowSize 0 % 2)

/-! #### Decoding -/

/-- The buffer while a unit is decoded: its pictures, the samples by slot, the slots written, damaged rows. -/
structure Buf where
  held : List Held
  pix : Nat → Pic
  fresh : List Nat
  damaged : Nat

def Dec.slotRd (q : Dec) (x : Ctx) (s : State) (i : Nat) : Nat → Byte := fun k => readByte s x.o (q.dpbA + i * q.slotLen + k)

def Dec.buf (q : Dec) (d : DecCtx) (x : Ctx) (s : State) : Buf :=
  { held := d.held, fresh := [], damaged := 0
    pix := fun i => match d.held.find? fun z => z.slot == i with
      | some z => slotPic (q.slotRd x s i) q.w q.h q.depth z.w z.h z.b
      | none => greyPic q.w q.h q.depth }

/-- Size of picture `i` of a unit, and depth of its pictures. -/
def gramW (ins : List Nat) (i : Nat) : Nat := 2 * (1 + gram ins .width i % 32768)
def gramH (ins : List Nat) (i : Nat) : Nat := 2 * (1 + gram ins .height i % 32768)
def gramB (ins : List Nat) : Nat := gram ins .depth 0 % 16

def insHeld (z : Held) : List Held → List Held
  | [] => [z]
  | y :: r => if z.order < y.order ∨ (z.order = y.order ∧ z.slot ≤ y.slot) then z :: y :: r else y :: insHeld z r

/-- The slots that a unit refers to, and their pictures in output order; an absent one stands as 2^(b − 1) (R321). -/
def Dec.refSlots (q : Dec) (ins : List Nat) : List Nat := (List.range q.dpb).filter fun i => decide (gram ins .refers i % 2 = 1)
def Dec.refs (q : Dec) (ins : List Nat) (d : DecCtx) (x : Ctx) (s : State) : List (Pic × Nat) :=
  let there := (d.held.filter fun z => (q.refSlots ins).contains z.slot).foldr insHeld []
  there.map (fun z => (slotPic (q.slotRd x s z.slot) q.w q.h q.depth z.w z.h z.b, tailOf (q.slotRd x s z.slot) q.w q.h q.depth)) ++
    ((q.refSlots ins).filter fun i => !(d.held.any fun z => z.slot == i)).map fun _ => (greyPic (gramW ins 0) (gramH ins 0) (gramB ins), 0)

/-- The fields of picture `i` of a unit (0: a frame), and the slot in which its other field would lie (R288). -/
def Dec.fieldsOf (q : Dec) (ins : List Nat) (i : Nat) : Nat := if q.codec ≤ 1 then gram ins .fields i % 3 else 0
def Dec.mateSlot (q : Dec) (ins : List Nat) (i : Nat) : Nat := gram ins .pair i % q.dpb

/-- Damaged regions of picture `i` as block rows, which a field counts in its own lines (R321), once the grammar of its data is
broken. -/
def Dec.regions (q : Dec) (ins : List Nat) (i : Nat) : List (Nat × Nat) :=
  let n := cdiv (if q.fieldsOf ins i = 0 then gramH ins i else gramH ins i / 2) (q.rowH ins)
  if gram ins .dataError 0 % 2 = 0 then []
  else (List.range (gram ins .regions i)).map fun j =>
    let a := gram ins .first (2 ^ 32 * i + j) % n
    (a, min (n - a) (1 + gram ins .rows (2 ^ 32 * i + j)))

/-- The picture before one of an order in output order (R321). -/
def before (l : List Held) (order : Nat) : Option Held :=
  (l.filter fun z => decide (z.order < order)).foldl (fun m z => match m with
    | none => some z
    | some y => if y.order < z.order then some z else some y) none

/-- The line of a picture that stands at line `y`: its own, or the one from which a lone field's missing line is copied (R288). -/
def Held.line (z : Held) (y : Nat) : Nat :=
  if z.fields = 1 then y - y % 2 else if z.fields = 2 then (if y = 0 then 1 else y - (y + 1) % 2) else y

/-- A concealed sample of the picture in `slot`: the co-located one of the picture before it in output order, else
2^(b − 1). -/
def Buf.conceal (u : Buf) (slot order b c y x : Nat) : Nat :=
  match before (u.held.filter fun z => z.slot != slot) order with
  | some z =>
    let k := if c = 0 then 1 else 2
    if y < z.h / k ∧ x < z.w / k then (u.pix z.slot).at3 c (z.line y) x % 2 ^ b else 2 ^ (b - 1)
  | none => 2 ^ (b - 1)

/-- Picture `i` of a unit joins the buffer: a frame, or a field that is woven with its partner (R288); `none` when no slot is
left (R320). -/
def Dec.addPicture (q : Dec) (ins : List Nat) (refs : List (Pic × Nat)) (u : Buf) (i : Nat) : Option Buf :=
  let w := gramW ins i
  let h := gramH ins i
  let b := gramB ins
  let f := q.fieldsOf ins i
  let order := gram ins .order i % 2 ^ 64
  let mate := if f = 0 then none else u.held.find? fun z =>
    z.slot == q.mateSlot ins i && z.fields == 3 - f && z.w == w && z.h == h && z.b == b
  match (mate.map (·.slot)) <|> (List.range q.dpb).find? fun j => !(u.held.any fun z => z.slot == j) with
  | none => none
  | some slot =>
    let regs := q.regions ins i
    let hit := fun y => regs.any fun r => decide (r.1 * q.rowH ins ≤ y) && decide (y < (r.1 + r.2) * q.rowH ins)
    let own := fun c y x => decodedAt ins refs q.w i c y x % 2 ^ b
    let row := fun c y => (if c = 0 then y else 2 * y) / (if f = 0 then 1 else 2)
    let sample := fun c y x =>
      if f ≠ 0 ∧ y % 2 ≠ f - 1 then (if mate.isSome then (u.pix slot).at3 c y x else 0)
      else if hit (row c y) then u.conceal slot order b c y x
      else if f = 0 then own c y x else own c (y / 2) x
    let z : Held := ⟨slot, order, w, h, b, gram ins .chroma 0 % 4 == 0, if f = 0 ∨ mate.isSome then 3 else f,
      decide (gram ins .shown i % 2 = 1), true, gram ins .grain i⟩
    some { held := (u.held.filter fun y => y.slot != slot) ++ [z], fresh := u.fresh ++ [slot]
           pix := fun j => if j = slot then ⟨w, h, b, sample⟩ else u.pix j
           damaged := u.damaged + (regs.map (·.2)).sum }

def Dec.addAll (q : Dec) (ins : List Nat) (refs : List (Pic × Nat)) : List Nat → Buf → Option Buf
  | [], u => some u
  | i :: r, u => (q.addPicture ins refs u i).bind (q.addAll ins refs r)

/-- The pictures that wait for output, in output order. -/
def waitingOf (l : List Held) : List Held := (l.filter (·.waiting)).foldr insHeld []

/-- Pictures shown again (AV1), then the output process and the marking of references: the pictures released and the buffer
left. -/
def Dec.marking (q : Dec) (ins : List Nat) (l : List Held) : List Held × List Held :=
  let l1 := l.map fun z => if q.codec = 3 ∧ gram ins .again z.slot % 2 = 1 then { z with waiting := true } else z
  let out := (waitingOf l1).take (gram ins .released 0)
  (out, (l1.map fun z => { z with
    waiting := z.waiting && !(out.any fun y => y.slot == z.slot)
    ref := decide (gram ins .kept z.slot % 2 = 1) }).filter fun z => z.waiting || z.ref)

/-- The verdict on a unit: MED_ERR, whether the command goes on, the buffer with its pictures (R320, R321). -/
def Dec.verdict (q : Dec) (ins : List Nat) (refs : List (Pic × Nat)) (d : DecCtx) (u : Buf) : Nat × Bool × Buf :=
  let lost := decide (gram ins .missing 0 % 2 = 1) || (q.refSlots ins).any fun i => !(d.held.any fun z => z.slot == i)
  let broken := decide (gram ins .dataError 0 % 2 = 1)
  if gram ins .headerError 0 % 2 = 1 then (1, false, u)
  else if gram ins .unsupported 0 % 2 = 1 || !q.profileOk (gram ins .profile 0) (gramB ins) (gram ins .chroma 0 % 4) ||
      !q.levelOk (gram ins .level 0) then (2, false, u)
  else if (List.range (q.count ins)).any fun i => decide (q.w < gramW ins i) || decide (q.h < gramH ins i) then (7, false, u)
  else match q.addAll ins refs (List.range (q.count ins)) u with
    | none => (6, false, u)
    | some v => if lost then (3, q.conceal, v) else if broken then (1, q.conceal, v) else (0, true, v)

/-! #### Output (R288, R289, R324) -/

/-- A sample of a picture as it is output: a lone field's missing lines, monochrome chroma, film grain. -/
def Dec.outSample (q : Dec) (z : Held) (p : Pic) (c y x : Nat) : Nat :=
  let v := p.at3 c (z.line y) x
  if z.mono && c != 0 then 2 ^ (z.b - 1)
  else if q.grain then
    let near := if c = 0 then [v] else [p.at3 0 (2 * y) (2 * x), p.at3 0 (2 * y) (2 * x + 1), v]
    Config.grainSample [z.grain, z.w, z.h, z.b] c y x near % 2 ^ z.b
  else v

/-- A released picture as it goes to the ring; `none` when its crop rectangle does not fit it (R320). -/
def Dec.picture (q : Dec) (u : Buf) (z : Held) : Option Pic :=
  let p : Pic := ⟨z.w, z.h, z.b, q.outSample z (u.pix z.slot)⟩
  if q.scaleEn then
    let k := q.z.crop p.w p.h
    if k.1 + k.2.2.1 ≤ p.w ∧ k.2.1 + k.2.2.2 ≤ p.h then some (q.z.run p) else none
  else some p

/-- The pieces that write released pictures to the ring from a position on. -/
def Dec.ring (q : Dec) (u : Buf) (pos : Nat) (l : List Held) : List Piece :=
  l.zipIdx.map fun (z, i) =>
    let m := q.outMem (pos + i)
    { fault := if (q.picture u z).isSome then none else some (stMedia, 0)
      reads := if u.fresh.contains z.slot then [] else [(q.dpbA + z.slot * q.slotLen, q.slotLen)]
      writes := match q.picture u z with
        | some p => (m.write p).map fun y => devWr (m.a + y.1) y.2
        | none => [] }

structure DecRes where
  n : Nat
  first : Nat
  err : Nat
  damaged : Nat
  count : Nat

def DecRes.reply (r : DecRes) (pipe : Nat) : Nat :=
  r.n + r.first <<< 5 + r.err <<< 16 + (min 0xFFFF r.damaged) <<< 24 + pipe <<< 40 + (r.count % 2 ^ 20) <<< 44

def decRefuse (x : Ctx) (s : State) : Option Out :=
  let p := Dec.parse x.par
  if (readFault s x.o x.e p.ctx (ctxSeen p.op)).isSome then none
  else
    let k := ctxKind s x.o p.ctx
    if p.op = 0 then (if k = 1 ∨ k = 2 then some (refuse 0x71) else none) else ctxRefuse k 1

/-- DECODE and FLUSH: the context, then what the unit reads, then its pictures, then the ring, then the context again. The
reply of a failure counts the ring pictures written before it, and tells what was concealed once the unit had been decoded; with
the context unread, it has none of its own. -/
def decRun (x : Ctx) (p : Dec) (d : DecCtx) (unit : List Piece) (u : Buf) (out left : List Held) (z : DecRes) (carry : List Byte)
    (s : State) : Plan :=
  let q := Dec.parse d.par
  let pos := d.count % q.slots
  let pipe := x.cmd.pipe.getD 0
  { pieces := { reads := [(p.ctx, ctxLen)] } :: unit ++ q.ring u pos out ++
      [{ writes := DecCtx.writes { d with count := d.count + out.length, held := left } p.ctx (readBytes s x.o p.ctx ctxLen) carry }]
    mixed := true
    out := fun r => match r.fail with
      | none => { reply := some (DecRes.reply { z with n := out.length, first := pos, count := d.count + out.length } pipe) }
      | some (0, st, _) => { status := st }
      | some (i, st, _) =>
        let coded := decide (unit.length < i) || (decide (i = unit.length) && decide (st ≠ stMedia))
        { status := st
          reply := some (DecRes.reply ⟨min out.length (i - 1 - unit.length), pos,
            if st = stMedia then (if i ≤ unit.length then z.err else 7) else if coded then z.err else 0,
            if coded then z.damaged else 0, d.count⟩ pipe) } }

/-- The work of MED.DEC. -/
def decPlan (x : Ctx) (s : State) : Plan :=
  let p := Dec.parse x.par
  let pipe := x.cmd.pipe.getD 0
  let d := decCtx s x.o p.ctx
  let q := Dec.parse d.par
  let zero : DecRes := ⟨0, 0, 0, 0, 0⟩
  match p.op with
  | 0 =>
    { pieces := [{ reads := [(p.ctx, ctxSeen 0)]
                   writes := let old := readBytes s x.o p.ctx ctxLen
                             DecCtx.writes ⟨x.par % 2 ^ 576, 0, []⟩ p.ctx old (List.replicate carryLen 0) }]
      mixed := true
      out := fun r => { status := (r.fail.map (·.2.1)).getD stOk, reply := some (zero.reply pipe) } }
  | 1 =>
    let ins := q.ins p x s
    let refs := q.refs ins d x s
    let v := q.verdict ins refs d (q.buf d x s)
    let m := q.marking ins v.2.2.held
    let mates := ((List.range (q.count ins)).filter fun i => q.fieldsOf ins i != 0).map (q.mateSlot ins)
    let seen := (d.held.map (·.slot)).filter fun i =>
      (q.refSlots ins).contains i || mates.contains i || decide (v.2.2.damaged ≠ 0)
    decRun x p d
      [{ reads := (p.au, p.auLen) :: seen.map fun i => (q.dpbA + i * q.slotLen, q.slotLen) },
       { fault := if v.2.1 then none else some (stMedia, 0)
         writes := v.2.2.fresh.eraseDups.flatMap fun i =>
           let a := q.dpbA + i * q.slotLen
           let j := v.2.2.fresh.length - 1 - v.2.2.fresh.reverse.idxOf i
           let t := slotTail (tailIns ins refs q.w j) q.w q.h q.depth
           ((slotWr q.w q.h q.depth (v.2.2.pix i) 0 (roundUp 64 q.w)).map fun y => devWr (a + y.1) y.2) ++ [devWr (a + t.1) t.2] }]
      v.2.2 m.1 m.2 { zero with err := v.1, damaged := v.2.2.damaged }
      ((List.range carryLen).map (Config.streamByte ins)) s
  | 2 =>
    let out := (waitingOf d.held).take q.slots
    let left := (d.held.map fun z => { z with waiting := z.waiting && !(out.any fun y => y.slot == z.slot) }).filter fun z =>
      z.waiting || z.ref
    decRun x p d [] (q.buf d x s) out left zero (carryOf s x.o p.ctx) s
  | _ =>
    { pieces := [{ reads := [(p.ctx, ctxLen)], writes := [ctxWr p.ctx (leBytes 1 0)] }]
      mixed := true
      out := fun r => match r.fail with
        | none => { reply := some (DecRes.reply { zero with first := d.count % q.slots, count := d.count } pipe) }
        | some (_, st, _) => { status := st } }

/-- DECODE and FLUSH of a stream that scales need a scaler on the pipe's die. -/
def decScales (x : Ctx) (s : State) : Bool :=
  let p := Dec.parse x.par
  (p.op == 1 || p.op == 2) && (Dec.parse (decCtx s x.o p.ctx).par).scaleEn

/-- Decoded luma samples, a block row a quantum, the scaler's output where the stream scales, and traffic (R384). -/
def decCharges (x : Ctx) (s : State) : List Charge :=
  let p := Dec.parse x.par
  let d := decCtx s x.o p.ctx
  let q := Dec.parse d.par
  let ins := q.ins p x s
  let shown := if p.op = 1 then (q.marking ins (q.verdict ins (q.refs ins d x s) d (q.buf d x s)).2.2.held).1.length
    else min q.slots (waitingOf d.held).length
  chargeList ((if p.op = 1 then (List.range (q.count ins)).map fun i => ⟨.md, 0, gramW ins i * gramH ins i, q.rowH ins * gramW ins i⟩
      else []) ++ ⟨.md, 0, 0, 0⟩ :: q.z.work (if decScales x s then shown else 0) :: mediaTraffic (decPlan x s))

def decFamily : Family where
  bad _ := decBad
  spans v := (Dec.parse v).spans
  charges := decCharges
  refuse := decRefuse
  peeks x _ := let p := Dec.parse x.par; [(p.ctx, ctxSeen p.op)]
  ready x s := mediaReady x s (idleDec s) (keepDec s) (decScales x s)
  pipe x s := pickPipe s (idleDec s) (decScales x s)
  scl x s := pickScl s (idleDec s) (decScales x s)
  work x s := execPlan (decPlan x s) x s

def execMedDec (c : CmdRef) (e : Circ) (s : State) : Outcome State Fault Refusal :=
  .next (runCmd 0x0701 decFamily c e s)

end Sys2Proof.Machine
end

