-- ==== Sys2Proof/Machine/Encode.lean ====
section
/-!
DEFINITION. MED.ENC (R287, R290, R291, R298 to R309, R326, R327), MED.LOCK and lock groups (R315 to R319, R329). What an encode
pipe decides is a free function of its inputs (R298); the layout of the stream context is the model's (log 14).
-/
namespace Sys2Proof.Machine
open Host

/-! ### MED.ENC: parameters (R326, R327) -/

structure Enc where
  op : Nat
  codec : Nat
  lowlat : Bool
  bit10 : Bool
  rc : Nat
  scaleEn : Bool
  bFrames : Nat
  tiled : Bool
  tileIdx : Nat
  entropy : Bool
  pfmt : Nat
  src10 : Bool
  w : Nat
  h : Nat
  period : Nat
  qpInit : Int
  offP : Int
  offB : Int
  dqMax : Nat
  wt : List Nat
  qpMin : Int
  qpMax : Int
  bitrate : Nat
  maxrate : Nat
  vbv : Nat
  dur : Nat
  ctx : Nat
  ref : Nat
  src : Nat
  sw : Nat
  sh : Nat
  spitch : Nat
  out : Nat
  outLen : Nat
  disp : Nat
  z : Scaler
deriving DecidableEq, Repr

def sext (w v : Nat) : Int := if v < 2 ^ (w - 1) then v else (v : Int) - 2 ^ w

def Enc.parse (v : Nat) : Enc :=
  let qp (hi lo : Nat) : Int := if fld v 3 2 = 3 then fld v hi lo else sext 8 (fld v hi lo)
  { op := fld v 1 0, codec := fld v 3 2, lowlat := bit v 4, bit10 := bit v 5, rc := fld v 7 6, scaleEn := bit v 8
    bFrames := fld v 10 9, tiled := bit v 11, tileIdx := fld v 13 12, entropy := bit v 14, pfmt := fld v 19 16, src10 := bit v 20
    w := fld v 47 32, h := fld v 63 48, period := fld v 79 64, qpInit := qp 87 80, offP := sext 4 (fld v 91 88)
    offB := sext 4 (fld v 95 92), dqMax := fld v 98 96, wt := [fld v 111 104, fld v 119 112, fld v 127 120]
    qpMin := qp 135 128, qpMax := qp 143 136, bitrate := fld v 175 144, maxrate := fld v 207 176, vbv := fld v 239 208
    dur := fld v 255 240, ctx := fld v 303 256, ref := fld v 367 320, src := fld v 431 384, sw := fld v 463 448
    sh := fld v 479 464, spitch := fld v 511 480, out := fld v 559 512, outLen := fld v 607 576, disp := fld v 639 608
    z := Scaler.parse (fld v 767 640) }

def Enc.depth (p : Enc) : Nat := if p.bit10 then 10 else 8
def Enc.bAvg (p : Enc) : Nat := p.bitrate * p.dur / 90000
def Enc.bDrain (p : Enc) : Nat := if p.rc = 2 then p.maxrate * p.dur / 90000 else p.bAvg
def Enc.refLen (p : Enc) : Nat := if p.tiled && p.tileIdx != 0 then 0 else 3 * slotLen p.w p.h p.depth
def Enc.srcMem (p : Enc) (a : Nat) : PicMem := ⟨p.pfmt, a, p.spitch⟩

/-- The parameters of OPEN but for the addresses, on which no coded bit depends (R66, R298). -/
def Enc.core (v : Nat) : Nat := fld v 255 0 + fld v 479 448 <<< 256 + fld v 767 640 <<< 288

def Enc.spans (p : Enc) : List (Nat × Nat) :=
  (p.ctx, ctxLen) :: (match p.op with
    | 0 => if p.refLen = 0 then [] else [(p.ref, p.refLen)]
    | 1 => [(p.src, 1), (p.out, p.outLen)]
    | _ => [])

/-- The cases of R327 that the slot alone shows. SCALER without SCALE_EN and TILE_IDX without TILED must be 0, as fields
without a use (DESIGN CHOICE, log 71: the map does not say it of them). -/
def encBad (v : Nat) : Bool :=
  let p := Enc.parse v
  let even (n : Nat) : Bool := divides 2 n
  let lo : Int := if p.codec = 3 then 0 else -6 * (p.depth - 8 : Nat)
  let hi : Int := if p.codec = 3 then 255 else 51
  let qOk (q : Int) : Bool := decide (lo ≤ q) && decide (q ≤ hi)
  let big := p.w == 7680 && p.h == 4320
  !zeros v [(15, 15), (31, 21), (103, 99), (319, 304), (383, 368), (447, 432), (575, 560)] || !ctxOk p.ctx || p.op == 2 ||
  (p.op != 0 && !zeros v [(14, 2), (20, 16), (143, 32), (175, 144), (207, 176), (239, 208), (255, 240), (367, 320), (463, 448),
    (479, 464), (511, 480), (767, 640)]) ||
  (p.op != 1 && !zeros v [(431, 384), (559, 512), (607, 576), (639, 608)]) ||
  p.spans.any (fun y => y.2 != 0 && !spanKs y.1 y.2) || (p.op == 1 && !inKs p.out) || meetsAny p.spans ||
  (!p.tiled && p.tileIdx != 0) ||
  (p.op == 0 && (p.codec == 0 || p.rc == 3 || (p.bit10 && p.codec == 1) || (p.entropy && p.codec != 1) ||
    (p.lowlat && p.bFrames != 0) || !even p.w || !even p.h ||
    (if p.tiled then !big || p.codec == 1 || p.scaleEn else !within p.w 64 4096 || !within p.h 64 2304) ||
    (p.refLen == 0 && p.ref != 0) ||
    (if p.lowlat then !within p.period 2 256 else !within p.period 1 4096) ||
    !qOk p.qpInit || !qOk p.qpMin || !qOk p.qpMax || decide (p.qpInit < p.qpMin) || decide (p.qpMax < p.qpInit) ||
    decide (6 < p.dqMax) || p.wt.contains 0 || p.dur == 0 ||
    (p.rc != 0 && (p.bitrate == 0 || decide (p.vbv < p.bAvg))) || (p.rc == 2 && decide (p.maxrate < p.bitrate)) ||
    (p.srcMem 0).bad p.sw (if p.src10 then 10 else 8) || !even p.sw || !even p.sh ||
    (if p.scaleEn then p.z.bad p.sw p.sh || p.z.ow != p.w || p.z.oh != p.h else p.z.raw != 0 || p.sw != p.w || p.sh != p.h)))

/-! ### Picture types and order (R306 to R309) -/

/-- Type (0 key, 1 P, 2 B) and display index of the picture number `i` in coding order. -/
def Enc.pictureAt (p : Enc) (i : Nat) : Nat × Nat :=
  if p.lowlat then (if i = 0 then 0 else 1, i)
  else
    let r := i % p.period
    let base := i - r
    if r = 0 then (0, base)
    else
      let g := (r - 1) / (p.bFrames + 1)
      let t := (r - 1) % (p.bFrames + 1)
      let first := g * (p.bFrames + 1) + 1
      let len := min (p.bFrames + 1) (p.period - first)
      if t = 0 then (1, base + first + len - 1) else (2, base + first + t - 1)

/-- A switch point (R309). -/
def Enc.isSwitch (p : Enc) (i : Nat) : Bool :=
  if p.lowlat then decide (0 < i) && decide ((i - 1) % p.period = 0) else (p.pictureAt i).1 == 0

/-- Place of picture `i` in its group of B_FRAMES + 1 and the length of the group, for pictures that are no key pictures. -/
def Enc.inGroup (p : Enc) (i : Nat) : Nat × Nat :=
  let r := i % p.period
  let g := (r - 1) / (p.bFrames + 1)
  ((r - 1) % (p.bFrames + 1), min (p.bFrames + 1) (p.period - (g * (p.bFrames + 1) + 1)))

/-- Key pictures and anchors coded before picture `i`; the next of them goes to that slot modulo 3 (log 14). -/
def Enc.anchors (p : Enc) (i : Nat) : Nat :=
  if p.lowlat then i
  else
    let r := i % p.period
    i / p.period * (1 + cdiv (p.period - 1) (p.bFrames + 1)) + (if r = 0 then 0 else 1 + cdiv (r - 1) (p.bFrames + 1))

/-- The reference slots that picture `i` reads (R306, R307): the previous anchor, or the anchors on either side. -/
def Enc.refSlots (p : Enc) (i : Nat) : List Nat :=
  let a := p.anchors i
  match (p.pictureAt i).1 with
  | 0 => []
  | 1 => [(a + 2) % 3]
  | _ => [(a + 1) % 3, (a + 2) % 3]

/-- Refresh index of a low-latency picture after the first (R307). -/
def Enc.refresh (p : Enc) (i : Nat) : Option Nat := if p.lowlat && i != 0 then some ((i - 1) % p.period) else none

/-- Block columns of a picture, and how many of them one refresh index renews (R307). -/
def Enc.blockW (p : Enc) : Nat := if p.codec = 1 then 16 else 64
def Enc.columns (p : Enc) : Nat := cdiv p.w p.blockW
def Enc.renew (p : Enc) : Nat := cdiv p.columns p.period
/-- Reach of the loop filters (R308). -/
def Enc.reach (p : Enc) : Nat := if p.codec = 3 then 16 else 8

/-- Of how many of the first luma columns of the reference pictures the reconstruction of luma column `x` of picture `i` is a
function (R307, R308). Clean blocks predict from the columns left of the reach, and intra columns from the blocks beside them,
so that the same holds of what they hold, as far as the loop filters do not reach across their edge. -/
def Enc.readable (p : Enc) (i x : Nat) : Nat :=
  match p.refresh i with
  | none => p.w
  | some k =>
    if p.columns ≤ (k + 1) * p.renew ∨ x < (k + 1) * p.renew * p.blockW - p.reach then k * p.renew * p.blockW - p.reach else p.w

/-! ### Rate control (R301 to R305) -/

/-- What a context keeps of the last picture of a type: mean row QP, coded bits, row weights. -/
structure LastPic where
  q : Int
  bits : Nat
  rows : List Nat
deriving DecidableEq, Repr

structure EncCtx where
  par : Nat
  grouped : Bool
  tiled : Bool
  members : List Nat
  coded : Nat
  full : Nat
  last : List (Option LastPic)
deriving DecidableEq, Repr

def Enc.rowH (p : Enc) : Nat := if p.codec = 1 then 16 else 64
def Enc.rowCount (p : Enc) : Nat := cdiv p.h p.rowH
def Enc.codedW (p : Enc) : Nat := if p.tiled then p.w / 4 else p.w
def Enc.step (p : Enc) : Int := if p.codec = 3 then 4 else 1
def Enc.off (p : Enc) (t : Nat) : Int := if t = 1 then p.offP else if t = 2 then p.offB else 0

/-- Δ(S, P) (R304). -/
def deltaQp (sBits pBits : Nat) : Int :=
  let up := [1085, 1218, 1367, 1534, 1722, 1933]
  let dn := [967, 861, 767, 683, 609, 542]
  let a := (up.filter fun t => decide (pBits * t ≤ sBits * 1024)).length
  let b := (dn.filter fun t => decide (sBits * 1024 < pBits * t)).length
  if a = 0 then -(b : Int) else a

def clampQ (lo hi v : Int) : Int := max lo (min v hi)

/-- The picture budget B of R302. -/
def Enc.budget (p : Enc) (t full : Nat) : Nat :=
  let avg : Int := p.bAvg
  let b := min (avg * (p.wt.getD t 1 : Nat) / 16 - ((full : Int) - (p.vbv / 2 : Nat)) / 8) ((p.vbv : Int) - full)
  (max (avg / 8) b).toNat

/-- QP of row `r`, from the bits `a` and the syntax bits `y` of the rows before it (R301, R303 to R305). -/
def Enc.rowQp (p : Enc) (t : Nat) (c : EncCtx) (a y : Nat → Nat) (r : Nat) : Int :=
  let first := p.qpInit + p.off t * p.step
  if p.rc = 0 then first
  else
    let b := p.budget t c.full
    let last := (c.last.getD t none)
    let base := clampQ p.qpMin p.qpMax (match last with
      | none => first
      | some l => l.q + deltaQp l.bits b * p.step)
    let w (i : Nat) : Nat := match last with
      | some l => max 1 (l.rows.getD i 0)
      | none => p.codedW * min p.rowH (p.h - i * p.rowH)
    let sumN (f : Nat → Nat) (n : Nat) : Nat := ((List.range n).map f).sum
    if r < 2 then base
    else
      let rho := min 1024 (a (r - 2) * 256 / max 1 (y (r - 2)))
      let sb := sumN a (r - 1) + y (r - 1) * rho / 256
      let pb := b * sumN w r / max 1 (sumN w p.rowCount)
      clampQ p.qpMin p.qpMax (base + p.step * clampQ (-(p.dqMax : Int)) p.dqMax (deltaQp sb pb))

/-- QP, coded bits and syntax bits of the rows of a picture in turn: what a pipe decides in a row depends on its inputs and on
the QPs so far (R298, R300). -/
def Enc.rows (p : Enc) (t : Nat) (c : EncCtx) (ins : List Nat) : List (Int × Nat × Nat) :=
  (List.range p.rowCount).foldl (fun l r =>
    let qp := p.rowQp t c (fun i => (l.getD i (0, 0, 0)).2.1) (fun i => (l.getD i (0, 0, 0)).2.2) r
    let qs := l.map (·.1) ++ [qp]
    l ++ [(qp, Config.rowBits ins qs r, Config.rowSyntax ins qs r)]) []

/-- Mean row QP (R303). -/
def meanQp (l : List Int) : Int := (2 * l.sum + l.length) / (2 * l.length : Nat)

/-! ### Encode contexts in memory -/

def encCtx (s : State) (o : Owner) (a : Nat) : EncCtx :=
  let h := readNat s o a 256
  let par := readNat s o (a + 256) 96
  let n := (Enc.parse par).rowCount
  { par := par, grouped := bit h 8, tiled := bit h 9, members := (List.range (fld h 27 24)).map fun i => fld h (1280 + 64 * i + 47) (1280 + 64 * i)
    coded := fld h 127 64, full := fld h 191 128
    last := (List.range 3).map fun t =>
      if bit h (256 + 128 * t) then
        some ⟨sext 16 (fld h (256 + 128 * t + 31) (256 + 128 * t + 16)), fld h (256 + 128 * t + 95) (256 + 128 * t + 32),
          (List.range n).map fun i => readNat s o (a + 0x1000 * (t + 1) + 8 * i) 8⟩
      else none }

def EncCtx.header (c : EncCtx) : Nat :=
  2 + ofBool c.grouped <<< 8 + ofBool c.tiled <<< 9 + c.members.length <<< 24 + (c.coded % 2 ^ 64) <<< 64 +
    (c.full % 2 ^ 64) <<< 128 +
    ((c.last.zipIdx.map fun (l, t) => match l with
      | none => 0
      | some z => 1 <<< (256 + 128 * t) + ((z.q % 65536).toNat) <<< (256 + 128 * t + 16) +
          (z.bits % 2 ^ 64) <<< (256 + 128 * t + 32)).sum) +
    ((c.members.zipIdx.map fun (m, i) => (m % 2 ^ 48) <<< (1280 + 64 * i)).sum)

def EncCtx.writes (c : EncCtx) (a : Nat) : List (Nat × List Byte) :=
  (c.last.zipIdx.filterMap fun (l, t) => l.map fun z => (a + 0x1000 * (t + 1), z.rows.flatMap (leBytes 8))) ++
    [(a, leBytes 384 (c.header + c.par <<< 2048))]

/-! ### Lock groups (R315 to R319) -/

def groupOf (s : State) (ctx : Nat) : Option Group := s.media.groups.find? fun g => g.members.contains ctx
def setGroup (ctx : Nat) (f : Group → Group) (s : State) : State :=
  { s with media := { s.media with groups := s.media.groups.map fun g => if g.members.contains ctx then f g else g } }

/-- A member's command for a picture that has not completed. -/
def encCmdOf (s : State) (ctx : Nat) : Option (CmdRef × Cmd) :=
  (allQueues s).findSome? fun x => (x.2.cmds.find? fun k =>
    k.entered && k.ph != .done && hOpcode k.hdr == 0x0702 && fld k.par 1 0 == 1 && fld k.par 303 256 == ctx).map
      fun k => (⟨x.1, k.idx⟩, k)

/-- Context and display index of an ENCODE. -/
def shownAs (par : Nat) : Nat × Nat := (fld par 303 256, fld par 639 608)

/-- The reply of a member's command when its group's picture fails (R331): that of the picture where it has coded it, else type
and switch point of the next picture of its context, with nothing coded. -/
def groupReply (parts : List Part) (c : CmdRef) (k : Cmd) (s : State) : Nat :=
  match parts.find? fun y => decide (y.c = c) with
  | some y => y.reply + encErr 5
  | none =>
    let e := encCtx s (some (c.q, k.task)) (shownAs k.par).1
    let q := Enc.parse e.par
    (q.pictureAt e.coded).1 <<< 32 + ofBool (q.isSwitch e.coded) <<< 34 + encErr 5 + (k.pipe.getD 0) <<< 52

/-- The failure of picture `y.2` by another member reaches member `y.1`: its command fails with GROUP (R317). `parts` are the
members that had coded the picture. -/
def failMember (parts : List Part) (s : State) (y : Nat × Nat) : State :=
  match (allQueues s).findSome? fun x => (x.2.cmds.find? fun k =>
      k.entered && k.ph != .done && hOpcode k.hdr == 0x0702 && fld k.par 1 0 == 1 && shownAs k.par == y).map
        fun k => ((⟨x.1, k.idx⟩ : CmdRef), k) with
  | some z => complete z.1 { status := stMedia, reply := some (groupReply parts z.1 z.2 s) } s
  | none => setGroup y.1 (fun g => { g with owed := g.owed ++ [y] }) s

def clearOwed (y : Nat × Nat) (s : State) : State := setGroup y.1 (fun g => { g with owed := g.owed.filter (· != y) }) s

/-- Member `y.1` failed picture `y.2`: the other members' commands for it fail with GROUP, those not yet queued when they come
(R317). A member whose command comes after such a failure owes nothing any more. -/
def failGroup (y : Nat × Nat) (s : State) : State :=
  match groupOf s y.1 with
  | none => s
  | some g =>
    if g.owed.contains y then clearOwed y s
    else
      let s1 := if g.started = some y.2 then setGroup y.1 (fun g => { g with started := none, parts := [] }) s else s
      ((g.members.filter (· != y.1)).map fun m => (m, y.2)).foldl (failMember g.parts) s1

/-- A MED.ENC for a picture of a group that has completed with a failure on its own row fails its group's picture, unless the
group's end has done so. -/
def afterEnc (c : CmdRef) (before : State) (s : State) : State :=
  match cmdOf before c, cmdOf s c with
  | some k0, some k =>
    let y := shownAs k.par
    if k0.ph != .done && k.ph == .done && k.status != stOk && fld k.par 1 0 == 1 then
      if k.status = stMedia ∧ (k.reply >>> 44) % 256 = 5 then clearOwed y s
      else if (groupOf before y.1).bind (·.started) = some y.2 ∧ (groupOf s y.1).bind (·.started) = none then s
      else failGroup y s
    else s
  | _, _ => s

/-! ### MED.ENC: work -/

/-- The member's index in its group. -/
def EncCtx.index (c : EncCtx) (ctx : Nat) : Nat := c.members.findIdx (· == ctx)

/-- The source picture of a member of a tiled group is the one that member 0's command names (R318, DEDUCED, log 14). -/
def encSrc (p : Enc) (c : EncCtx) (s : State) : Nat :=
  if c.grouped && c.tiled then
    match (c.members.head?).bind (encCmdOf s) with
    | some y => (Enc.parse y.2.par).src
    | none => p.src
  else p.src

/-- Refusals by the context (R287, R317, R330). Pictures wider than 4,096 are coded in a tiled group only: outside one the
code is MED_GROUP (DESIGN CHOICE, log 14: R287 names no status). -/
def encRefuse (x : Ctx) (s : State) : Option Out :=
  let p := Enc.parse x.par
  if (readFault s x.o x.e p.ctx (ctxSeen p.op)).isSome then none
  else
    let k := ctxKind s x.o p.ctx
    if p.op = 0 then (if k = 1 ∨ k = 2 then some (refuse 0x71) else none)
    else match ctxRefuse k 2 with
      | some o => some o
      | none =>
        let c := encCtx s x.o p.ctx
        let q := Enc.parse c.par
        if p.op = 3 then (if c.grouped then some (refuse 0x74) else none)
        else if ((groupOf s p.ctx).map fun g => g.owed.contains (p.ctx, p.disp)) == some true then
          some { status := stMedia, reply := some (groupReply [] x.c x.cmd s) }
        else
          let src : Nat × Nat := (p.src, (q.srcMem p.src).size q.sw q.sh)
          let refs : List (Nat × Nat) := if q.refLen = 0 then [] else [(q.ref, q.refLen)]
          if !spanKs src.1 src.2 || meetsAny ((p.ctx, ctxLen) :: src :: (p.out, p.outLen) :: refs) then
            some { status := stBadParam }
          else if (q.pictureAt c.coded).2 % 2 ^ 32 != p.disp then some (refuse 0x72)
          else if q.tiled && !(c.grouped && c.tiled) then some (refuse 0x74)
          else none

/-- The encode pipes for `n` members: idle ones first, then ones that a command still holds, whose end the group's pictures
wait for (R315). -/
def freePipes (s : State) (n : Nat) : List Nat :=
  let l := (List.range 16).filter fun i => !s.media.badEnc.contains i && !(boundPipes s).contains i
  let busy := heldPipes s 0x0702
  ((l.filter fun i => !busy.contains i) ++ l.filter fun i => busy.contains i).take n

/-- The bindings are remade in order (R315). -/
def rebind (s : State) : State :=
  s.media.groups.foldl (fun t g =>
    let p := freePipes t g.members.length
    { t with media := { t.media with groups := t.media.groups ++ [{ g with pipes := p }] } })
    { s with media := { s.media with groups := [] } }

/-- A group whose contexts came back with a Chrysalis is bound again (R295, R315). -/
def regroup (o : Owner) (ctx : Nat) (s : State) : State :=
  let c := encCtx s o ctx
  if ctxOk ctx && ctxKind s o ctx == 2 && c.grouped && (groupOf s ctx).isNone then
    { s with media := { s.media with groups :=
        s.media.groups ++ [⟨c.members, freePipes s c.members.length, c.tiled, none, [], []⟩] } }
  else s

/-- Where the reference pictures lie: those of a tiled group with its first member (R318). -/
def encBase (p : Enc) (c : EncCtx) (x : Ctx) (s : State) : Nat :=
  let q := Enc.parse c.par
  if q.tiled then (Enc.parse (readNat s x.o ((c.members.headD p.ctx) + 256) 96)).ref else q.ref

/-- What a MED.ENC works on: parameters, context, source picture after conversion and scaling (R294), the reference pictures in
display order, what the stream carries. -/
structure Shot where
  q : Enc
  c : EncCtx
  src : Nat
  pic : Pic
  base : Nat
  refs : List (Pic × Nat)
  carry : Nat

def shotOf (p : Enc) (x : Ctx) (s : State) : Shot :=
  let c := encCtx s x.o p.ctx
  let q := Enc.parse c.par
  let a := encSrc p c s
  let base := encBase p c x s
  let raw := ((q.srcMem a).read (readByte s x.o) q.sw q.sh (if q.src10 then 10 else 8)).depth q.depth
  { q := q, c := c, src := a, pic := if q.scaleEn then q.z.run raw else raw, base := base
    refs := (q.refSlots c.coded).map fun i =>
      let rd : Nat → Byte := fun k => readByte s x.o (base + i * slotLen q.w q.h q.depth + k)
      (slotPic rd q.w q.h q.depth q.w q.h q.depth, tailOf rd q.w q.h q.depth)
    carry := leNat (carryOf s x.o p.ctx) }

/-- The inputs of a pipe's decisions (R298). -/
def Shot.ins (z : Shot) : List Nat :=
  [Enc.core z.c.par, z.c.coded, picNum z.pic z.pic.w, z.carry] ++ refInputs z.q.w z.refs

/-- The inputs from which a decoder reads the coded unit, but for the reference pictures (R309, `Dec.ins`). -/
def Shot.decIns (z : Shot) (unit : List Byte) : List Nat := unitIns z.q.codec unit z.carry

structure Coded where
  t : Nat
  qps : List Int
  rows : List Nat
  /-- bytes of the coded picture or tile, and what stands before and after it in its unit -/
  body : List Byte
  head : List Byte
  tail : List Byte
  bits : Nat
  full : Nat
  vbvOver : Bool

/-- What a stream signals (R287, R290, R318). -/
def Enc.signal (p : Enc) (par : Nat) : Signal :=
  let level := levelOf p.codec p.w p.h p.dur (if p.rc = 1 then p.bitrate else p.maxrate)
  { level := level, w := p.w, h := p.h, ten := p.bit10, cavlc := p.entropy, tiled := p.tiled
    free := Config.headerField (Enc.core par) level }

/-- Parameter sets or the sequence header, with the signalled level, and the recovery point SEI (R287, R291, R309). -/
def Enc.headers (p : Enc) (par i : Nat) : List Byte :=
  if (p.pictureAt i).1 ≠ 0 ∧ !p.isSwitch i then []
  else (p.signal par).sets p.codec ++
    (if p.codec ≠ 3 ∧ p.lowlat ∧ p.isSwitch i then recoverySei p.codec (p.period - 1) else [])

/-- What stands before picture `i` in its unit: the delimiter, parameter sets, the header of its NAL unit or OBU, of `n` bytes.
In AV1 the first B picture of a group shares the temporal unit of its hidden anchor (R291, R306, DEDUCED, log 73). -/
def Enc.before (p : Enc) (par i n : Nat) : List Byte :=
  let t := (p.pictureAt i).1
  (if p.codec = 3 ∧ t = 2 ∧ (p.inGroup i).1 = 1 then [] else delimiter p.codec t) ++ p.headers par i ++
    (if p.codec = 3 then 0x32 :: leb128 n 10 else nal (pictureNal p.codec t))

/-- What stands after it: in AV1 the anchor of a group is shown after the last of its B pictures (R306). -/
def Enc.after (p : Enc) (i : Nat) : List Byte :=
  let g := p.inGroup i
  if p.codec = 3 ∧ (p.pictureAt i).1 = 2 ∧ g.1 + 1 = g.2 then delimiter 3 0 ++ showExisting ((p.anchors i + 2) % 3) else []

/-- The header bits of the coded picture `i`. In AV1 an anchor that has B pictures is hidden (R306). -/
def Enc.start (p : Enc) (i : Nat) (free : Nat → List Bool) : List Bool :=
  let t := (p.pictureAt i).1
  frameHead p.codec t (t == 1 && !p.lowlat && decide (1 < (p.inGroup i).2)) p.tiled p.w p.h free

/-- A block of a coded picture and a motion vector as they read in its unit, the vector's distance from the predicted one in eighths
of a sample with an offset of 4,096, are among those of R290. -/
def Enc.blockOk (p : Enc) (ins : List Nat) (j : Nat) : Bool :=
  within (gram ins .blockW j) 4 p.blockW && within (gram ins .blockH j) 4 p.blockW
def vectorOk (ins : List Nat) (j : Nat) : Bool :=
  within (gram ins .vectorX j) (4096 - 2048) (4096 + 2048) && within (gram ins .vectorY j) (4096 - 1024) (4096 + 1024)

/-- A coded unit reads as R287, R290 and R307 to R309 have it: whole, of the stream's size and depth; a key picture or a switch point
needs nothing of the stream before it; no sample is a function of more reference columns than its column may be; blocks and motion
vectors are those of R290. A tile is no unit by itself. -/
def Shot.fits (z : Shot) (unit : List Byte) : Bool :=
  let q := z.q
  let i := z.c.coded
  let ins := z.decIns unit
  let off (g : Gram) : Bool := gram ins g 0 % 2 == 0
  let narrow (c y x : Nat) : Bool := decide (min q.w (Config.refColumns ins 0 c y x) ≤ q.readable i (if c = 0 then x else 2 * x))
  (q.tiled || (off .headerError && off .dataError && off .unsupported && off .missing && gramW ins 0 == q.w && gramH ins 0 == q.h &&
    gramB ins == q.depth && gram ins .chroma 0 % 4 == 1)) &&
  (((q.pictureAt i).1 != 0 && !q.isSwitch i) || Config.standsAlone (ins.take 2)) &&
  ((List.range 3).all fun c =>
    let k := if c = 0 then 1 else 2
    (List.range (q.h / k)).all fun y => (List.range (q.w / k)).all (narrow c y)) &&
  decide (min q.w (Config.refColumns ins 0 3 0 0) ≤ q.readable i (q.w - 1)) &&
  ((List.range (gram ins .blocks 0)).all (q.blockOk ins)) && (List.range (gram ins .vectors 0)).all (vectorOk ins)

/-- The first attempt whose unit fits, of those that the fuel admits; else the first of all (log 14). -/
def Shot.seek (z : Shot) (unit : Nat → List Byte) : Nat → Nat → Nat
  | 0, _ => 0
  | f + 1, n => if z.fits (unit n) then n else z.seek unit f (n + 1)

/-- Bytes of a coded picture: its header bits, then those that the pipe decides, `n` in all. -/
def codedBytes (head : List Bool) (n : Nat) (raw : Nat → Byte) : List Byte :=
  bitsBytes (head ++ (List.range (n - head.length)).map fun j => (raw (j / 8)).toNat.testBit (7 - j % 8))

/-- The picture, or the tile of it, that an encode pipe codes (R298, R302). -/
def Shot.code (z : Shot) : Coded :=
  let q := z.q
  let i := z.c.coded
  let t := (q.pictureAt i).1
  let ins := z.ins
  let rows := q.rows t z.c ins
  let qps := rows.map (·.1)
  let start := if q.tiled then [] else q.start i (Config.frameField ins qps)
  let inner := (rows.map (·.2.1)).sum + Config.headerBits ins qps + start.length
  let bodyAt (n : Nat) : List Byte := codedBytes start inner (Config.encodedByte ins qps n)
  let head := q.before z.c.par i (bodyAt 0).length
  let tail := q.after i
  let body := bodyAt (z.seek (fun n => if q.tiled then bodyAt n else head ++ bodyAt n ++ tail) (2 ^ 64) 0)
  let bits := inner + 8 * (head.length + tail.length)
  { t := t, qps := qps, rows := rows.map (·.2.1), body := body, head := head, tail := tail, bits := bits
    full := if q.rc = 0 then z.c.full else z.c.full + bits - q.bDrain
    vbvOver := q.rc != 0 && decide (q.vbv < z.c.full + bits) }

/-- The bytes that a member writes by itself: the whole unit, or its tile in a tiled group. -/
def Coded.unit (z : Coded) (tiled : Bool) : List Byte := if tiled then z.body else z.head ++ z.body ++ z.tail

def Coded.reply (z : Coded) (bytes : Nat) (sw : Bool) (err pipe : Nat) : Nat :=
  bytes % 2 ^ 32 + z.t <<< 32 + ofBool sw <<< 34 + ofBool z.vbvOver <<< 35 + (((meanQp z.qps) % 256).toNat) <<< 36 + encErr err +
    pipe <<< 52

/-- The context after a picture, and its writes; the bytes it has go first, so that a Cocoon that overflows leaves the context
as it was (R296, R375). -/
def EncCtx.next (c : EncCtx) (z : Coded) : EncCtx :=
  { c with coded := c.coded + 1, full := z.full, last := c.last.set z.t (some ⟨meanQp z.qps, z.bits, z.rows⟩) }
def encNext (p : Enc) (c : EncCtx) (z : Coded) (carried : List Nat) (x : Ctx) (s : State) : List (Nat × List Byte) :=
  (p.ctx, readBytes s x.o p.ctx ctxLen) :: (c.next z).writes p.ctx ++
    [(p.ctx + carryAt, (List.range carryLen).map (Config.streamByte carried))]

/-- What the stream carries to the next picture, in its context as in a decoder of it. -/
def Shot.carried (z : Shot) (unit : List Byte) : List Nat := z.decIns unit

/-- The reconstructed picture: the coded unit, as a decoder that holds the same reference pictures decodes it (R289, R309),
from no more of those than R307 and R308 let it depend on. For a member of a tiled HEVC group the unit is its own tile, across whose
edges no loop filter acts; in AV1 it is the access unit of the group (R318). -/
def Shot.recon (z : Shot) (unit : List Byte) : Pic :=
  ⟨z.q.w, z.q.h, z.q.depth, fun c y x =>
    decodedAt (z.decIns unit) z.refs (z.q.readable z.c.coded (if c = 0 then x else 2 * x)) 0 c y x % 2 ^ z.q.depth⟩

/-- The writes of a reference slot, for the luma columns `[x0, x1)` (R324); a B picture is no reference. -/
def Shot.refWrs (z : Shot) (unit : List Byte) (x0 x1 : Nat) : List Wr :=
  let q := z.q
  if (q.pictureAt z.c.coded).1 = 2 then []
  else
    let a := z.base + q.anchors z.c.coded % 3 * slotLen q.w q.h q.depth
    let t := slotTail (tailIns (z.decIns unit) z.refs (q.readable z.c.coded (q.w - 1)) 0) q.w q.h q.depth
    ((slotWr q.w q.h q.depth (z.recon unit) x0 x1).map fun y => devWr (a + y.1) y.2) ++
      (if x0 = 0 then [devWr (a + t.1) t.2] else [])

/-- Reply of a picture whose command failed with a memory status: what the device had coded by then is free. -/
def encFailed (z : Shot) (x : Ctx) (st : Nat) : Nat :=
  ((Config.unread (plainHdr x.cmd.hdr) x.par st).toNat &&& 0xFF8FFFFFFFF) + (z.q.pictureAt z.c.coded).1 <<< 32 +
    ofBool (z.q.isSwitch z.c.coded) <<< 34 + (x.cmd.pipe.getD 0) <<< 52

def encReply (z : Shot) (k : Coded) (bytes : Nat) (err : Nat) (x : Ctx) : Nat :=
  k.reply bytes (z.q.isSwitch z.c.coded) err (x.cmd.pipe.getD 0)

/-- What coding a picture reads and writes: the context; source and references; output and reconstruction; then the context,
which a member of a lock group leaves to its group (R317). A tiled group's reconstruction is written with the group. -/
def encPieces (p : Enc) (z : Shot) (k : Coded) (x : Ctx) (s : State) : List Piece :=
  let q := z.q
  let own := k.unit q.tiled
  let slot := slotLen q.w q.h q.depth
  let outs := own.take p.outLen
  [{ reads := [(p.ctx, ctxLen)] },
   { reads := (q.srcMem z.src).reads q.sw q.sh ++ (q.refSlots z.c.coded).map fun i => (z.base + i * slot, slot) },
   { writes := (if outs.isEmpty then [] else [devWr p.out outs]) ++ if q.tiled then [] else z.refWrs own 0 (roundUp 64 q.w) },
   { fault := if own.length ≤ p.outLen then none else some (stMedia, 0)
     writes := if z.c.grouped && (groupOf s p.ctx).isSome then []
       else (encNext p z.c k (z.carried own) x s).map fun w => ctxWr w.1 w.2 }]

/-- The outcome of a picture's pieces. -/
def encOut (p : Enc) (z : Shot) (k : Coded) (x : Ctx) (f : Option (Nat × Nat × Nat)) : Out :=
  let n := min (k.unit z.q.tiled).length p.outLen
  match f with
  | none => { reply := some (encReply z k n 0 x) }
  | some (0, st, _) => { status := st }
  | some (_, st, _) => { status := st, reply := some (if st = stMedia then encReply z k n 4 x else encFailed z x st) }

/-! #### The end of a group's picture (R317, R318) -/

/-- Parts in member order. -/
def Group.ordered (g : Group) (s : State) : List Part :=
  g.members.filterMap fun m => g.parts.find? fun y => ((cmdOf s y.c).map fun k => fld k.par 303 256) == some m

/-- The access unit of a tiled group as member 0's shot has it: the headers, then the tiles in column order with their entry points
or sizes. -/
def tiledUnit (z : Shot) (parts : List Part) : List Byte :=
  let lens := parts.map (·.tile.length)
  let free := Config.frameField z.ins z.code.qps
  let body := bitsBytes (z.q.start z.c.coded free ++ free 5) ++
    parts.zipIdx.flatMap fun (y, i) => Config.tileHead lens i ++ y.tile
  z.q.before z.c.par z.c.coded body.length ++ body ++ z.q.after z.c.coded

/-- The shot of the group's first member, or that of the member at hand. -/
def headShot (parts : List Part) (x : Ctx) (s : State) : Shot :=
  match parts.head?.bind fun y => (cmdOf s y.c).map fun k => mkCtx s y.c x.e k with
  | some x0 => shotOf (Enc.parse x0.par) x0 s
  | none => shotOf (Enc.parse x.par) x s

/-- What a member's part still writes when all have coded: the reconstruction of its columns and, for member 0, the access
unit. The number is the bytes of the unit, and whether it fits. -/
def tiledWrs (parts : List Part) (i : Nat) (y : Part) (x : Ctx) (s : State) : List Wr × Option Nat × Bool :=
  let p := Enc.parse x.par
  let z := shotOf p x s
  let au := tiledUnit (headShot parts x s) parts
  (z.refWrs (if z.q.codec = 3 then au else y.tile) (1920 * i) (1920 * i + 1920) ++ (if i = 0 then [devWr p.out (au.take p.outLen)] else []),
    if i = 0 then some au.length else none, i != 0 || decide (au.length ≤ p.outLen))

/-- A member's reply with `n` bytes written at its OUT_ADDR (R331). -/
def Part.withBytes (y : Part) (n : Nat) : Nat := y.reply - y.reply % 2 ^ 32 + n % 2 ^ 32

/-- The members' reconstructions and access unit, in order, and the bytes that their contexts have, so that nothing keeps the new
ones out afterwards; the first member that fails with its command, status and reply. What is written before a failure
remains (R296, R327), and member 0's reply counts the access unit once it stands there; how much of one stands there whose own write
failed is free. -/
def putParts (tiled : Bool) (parts : List Part) (e : Circ) : List (Part × Nat) → State → State × Option (CmdRef × Nat × Nat)
  | [], s => (s, none)
  | (y, i) :: r, s =>
    match cmdOf s y.c with
    | none => putParts tiled parts e r s
    | some k =>
      let x := mkCtx s y.c e k
      let t := if tiled then tiledWrs parts i y x s else ([], none, true)
      match putWrs x.o e x.core t.1 s with
      | (s1, some f) => (s1, some (y.c, f.1, if t.2.1.isSome then
          y.withBytes (Config.unread (plainHdr k.hdr) k.par f.1).toNat else y.reply))
      | (s1, none) =>
        let done := (t.2.1.map y.withBytes).getD y.reply
        if !t.2.2 then (s1, some (y.c, stMedia, y.withBytes (fld k.par 607 576) + encErr 4))
        else match readFault s1 x.o e (shownAs k.par).1 ctxLen with
          | some f => (s1, some (y.c, f.1, done))
          | none => match putWrs x.o e x.core (((y.writes).take 1).map fun w => ctxWr w.1 w.2) s1 with
            | (s2, some f) => (s2, some (y.c, f.1, done))
            | (s2, none) => putParts tiled parts e r s2

/-- The members' contexts advance together (R317). -/
def putContexts (parts : List Part) (e : Circ) (s : State) : State :=
  parts.foldl (fun t y => match cmdOf t y.c with
    | none => t
    | some k =>
      let x := mkCtx t y.c e k
      (putWrs x.o e x.core (y.writes.map fun w => ctxWr w.1 w.2) t).1) s

/-- The reply of a member, with the bytes of the access unit for member 0 of a tiled group. -/
def partReply (tiled : Bool) (parts : List Part) (i : Nat) (y : Part) (e : Circ) (s : State) : Nat :=
  match cmdOf s y.c with
  | none => y.reply
  | some k =>
    let t := if tiled then tiledWrs parts i y (mkCtx s y.c e k) s else ([], none, true)
    match t.2.1 with
    | some n => y.withBytes n
    | none => y.reply

/-- Every member has coded the group's picture: the contexts advance and the commands complete (R317). A last write that fails
leaves every context as it was and fails the picture; what was written before it remains. -/
def finishGroup (ctx : Nat) (e : Circ) (s : State) : State :=
  match groupOf s ctx with
  | none => s
  | some g =>
    let parts := g.ordered s
    if g.parts.length ≠ g.members.length then s
    else match putParts g.tiled parts e parts.zipIdx s with
      | (s1, some (c, st, r)) =>
        let told := parts.zipIdx.map fun (y, i) => if i = 0 && decide (y.c ≠ c) then { y with reply := partReply g.tiled parts i y e s } else y
        failGroup (shownAs (((cmdOf s1 c).map (·.par)).getD 0))
          (complete c { status := st, reply := some r } (setGroup ctx (fun g => { g with parts := told }) s1))
      | (s1, none) =>
        parts.zipIdx.foldl (fun (t : State) (y : Part × Nat) => complete y.1.c { reply := some (partReply g.tiled parts y.2 y.1 e s) } t)
          (setGroup ctx (fun g => { g with started := none, parts := [] }) (putContexts parts e s1))

def encPicture (p : Enc) (x : Ctx) (s : State) : State :=
  let z := shotOf p x s
  let k := z.code
  let ps := encPieces p z k x s
  if z.c.grouped && (groupOf s p.ctx).isSome then
    match runPieces true x.o x.e x.core ps s with
    | (s1, some f) => complete x.c (encOut p z k x (some f)) s1
    | (s1, none) =>
      finishGroup p.ctx x.e (setGroup p.ctx (fun g => { g with parts := g.parts ++ [{
        c := x.c, writes := encNext p z.c k (z.carried (k.unit z.q.tiled)) x s, reply := (encOut p z k x none).reply.getD 0
        tile := if z.q.tiled then k.body else [] }] }) (modCmd x.c (fun k => { k with scl := none }) s1))
  else execPlan { pieces := ps, mixed := true, out := fun r => encOut p z k x r.fail } x s

/-- A member that has coded the picture and waits for the others has no further work. -/
def partDone (s : State) (c : CmdRef) : Bool := s.media.groups.any fun g => g.parts.any fun p => decide (p.c = c)

/-- A member of a lock group that scales takes its scaler, on its pipe's die, during its work, when one is idle for its class
(R314, R322). -/
def memberScl (x : Ctx) (s : State) : Option Nat :=
  let p := Enc.parse x.par
  match (if p.op = 1 then groupOf s p.ctx else none) with
  | some g =>
    if (Enc.parse (encCtx s x.o p.ctx).par).scaleEn && mayUse x (idleScl s) (keepScl s) then
      (idleScl s).find? fun c => (g.pipes[g.members.findIdx (· == p.ctx)]?).any fun i => decide (c / 2 = i / 8)
    else none
  | none => none

/-- A member that scales waits for its scaler. -/
def awaitsScl (x : Ctx) (s : State) : Bool :=
  let p := Enc.parse x.par
  (groupOf s p.ctx).isSome && (Enc.parse (encCtx s x.o p.ctx).par).scaleEn && x.cmd.scl.isNone && (memberScl x s).isNone

def encWork (x : Ctx) (s : State) : State :=
  let p := Enc.parse x.par
  let pipe := x.cmd.pipe.getD 0
  let fin (pieces : List Piece) : State :=
    execPlan { pieces := pieces, mixed := true
               out := fun r => { status := (r.fail.map (·.2.1)).getD stOk, reply := some (pipe <<< 52) } } x s
  match p.op with
  | 0 =>
    let c : EncCtx := { par := x.par % 2 ^ 768, grouped := false, tiled := false, members := [], coded := 0, full := p.vbv / 2
                        last := [none, none, none] }
    fin [{ reads := [(p.ctx, ctxSeen 0)], writes := ((p.ctx, readBytes s x.o p.ctx ctxLen) :: (c.writes p.ctx) ++ [(p.ctx + carryAt, List.replicate carryLen (0 : Byte))]).map fun (w : Nat × List Byte) => ctxWr w.1 w.2 }]
  | 1 => if partDone s x.c || awaitsScl x s then s else encPicture p x s
  | _ => fin [{ reads := [(p.ctx, ctxLen)], writes := [ctxWr p.ctx (leBytes 1 0)] }]

/-- An ENCODE of an independent stream that scales starts with a scaler on the pipe's die; the members of a group, which start
together, wait for theirs during their work (R314, R316). -/
def encScales (x : Ctx) (s : State) : Bool :=
  let p := Enc.parse x.par
  let c := encCtx s x.o p.ctx
  p.op == 1 && !c.grouped && (Enc.parse c.par).scaleEn

/-- The pipe of a member is that of its group. -/
def encPipe (x : Ctx) (s : State) : Option Nat :=
  let p := Enc.parse x.par
  match (if p.op = 1 then groupOf s p.ctx else none) with
  | some g => g.pipes[g.members.findIdx (· == p.ctx)]?
  | none => pickPipe s (idleEnc s) (encScales x s)

/-- An ENCODE codes luma samples, a block row a quantum; the scaler's output where the stream scales; and traffic (R384). -/
def encCharges (x : Ctx) (s : State) : List Charge :=
  let p := Enc.parse x.par
  if p.op ≠ 1 then chargeList (⟨.me, 0, 0, 0⟩ :: spineTraffic [(p.ctx, ctxLen)])
  else
    let z := shotOf p x s
    let q := z.q
    chargeList (⟨.me, 0, q.codedW * q.h, q.rowH * q.codedW⟩ :: q.z.work (ofBool q.scaleEn) ::
      spineTraffic ((encPieces p z z.code x s).flatMap Piece.spans))

/-- MED.ENC; a member of a lock group starts its pictures with the group (R316), which `together` says happens now. -/
def encFamilyOf (together : Bool) : Family where
  bad _ := encBad
  spans v := (Enc.parse v).spans
  refuse := encRefuse
  peeks x _ := let p := Enc.parse x.par; [(p.ctx, ctxSeen p.op)]
  ready x s :=
    let p := Enc.parse x.par
    if p.op == 1 && (groupOf (regroup x.o p.ctx s) p.ctx).isSome then together
    else mediaReady x s (idleEnc s) (keepEnc s) (encScales x s)
  charges := encCharges
  pipe := encPipe
  scl x s := memberScl x s <|> pickScl s (idleEnc s) (encScales x s)
  work := encWork

def encFamily : Family := encFamilyOf false

def execMedEnc (c : CmdRef) (e : Circ) (s : State) : Outcome State Fault Refusal :=
  .next (afterEnc c s (runCmd 0x0702 encFamily c e s))

/-! ### LOCK_GROUP_PICTURE_START (R316) -/

/-- Every member's command for the picture is queued and may start, and no other command holds a pipe of the group: they start
at the next beat boundary. A member that is refused instead fails the picture for all (R317). -/
def startPicture (g : Group) (s : State) : State :=
  let cs := g.members.filterMap (encCmdOf s)
  if g.started.isSome || cs.length != g.members.length || (g.pipes.any fun i => (heldPipes s 0x0702).contains i) then s
  else
    let fam := encFamilyOf true
    let vs := cs.map fun x => (x, admission 0x0702 fam x.1 {} x.2 s)
    match vs.find? fun y => match y.2 with
      | .stop _ => true
      | .dep _ => true
      | _ => false with
    | some (x, v) =>
      let o : Out := match v with
        | .stop o => o
        | .dep r => { status := stRefusedDep, reply := some r }
        | _ => {}
      failGroup (shownAs x.2.par) (complete x.1 o s)
    | none =>
      if vs.all fun y => match y.2 with
        | .go _ => true
        | _ => false then
        let s1 := advanceTo (beatUp s.time.now.toNat) s
        let s2 := cs.foldl (fun t x =>
          modCmd x.1 (fun k => { k with ph := .running 0 }) (beginCmd fam (mkCtx t x.1 {} x.2) none t)) s1
        setGroup (g.members.headD 0) (fun g => { g with started := some ((cs.head?.map fun x => fld x.2.par 639 608).getD 0) }) s2
      else s

def execLockGroupPictureStart (ctx : Nat) (s : State) : Outcome State Fault Refusal :=
  let s1 := regroup none ctx s
  .next (match groupOf s1 ctx with
    | some g => startPicture g s1
    | none => s1)

/-! ### MED.LOCK (R329) -/

structure Lock where
  op : Nat
  tiled : Bool
  members : List Nat
deriving DecidableEq, Repr

def Lock.parse (v : Nat) : Lock :=
  { op := fld v 1 0, tiled := bit v 2, members := (List.range (fld v 5 3 + 1)).map fun i => fld v (64 * i + 111) (64 * i + 64) }

/-- R329. Of the entries beyond CTX0, DISSOLVE reads neither the contexts nor the reserved bits beside them; it does read those
of bytes 0 to 15 (DESIGN CHOICE, log 71: R329 says only that it reads CTX0). -/
def lockBad (v : Nat) : Bool :=
  let p := Lock.parse v
  let n := fld v 5 3
  decide (1 < p.op) || !zeros v [(63, 6), (127, 112)] || !ctxOk (p.members.headD 0) ||
  (p.op == 0 && (n == 0 || (p.tiled && n != 3) || p.members.any (fun a => !ctxOk a) || !p.members.Nodup ||
    (List.range 8).any fun i => fld v (64 * i + 127) (64 * i + 112) != 0 ||
      (decide (n < i) && fld v (64 * i + 111) (64 * i + 64) != 0)))

/-- Members agree (R315), and make a tiled group (R318), the only kind with tiled members (R287). -/
def agree (tiled : Bool) (cs : List EncCtx) : Bool :=
  let ps := cs.map fun c => Enc.parse c.par
  match ps.head?, cs.head? with
  | some p, some c =>
    ps.all (fun q => q.lowlat == p.lowlat && q.period == p.period && q.bFrames == p.bFrames && q.dur == p.dur) &&
      cs.all (fun d => d.coded == c.coded) &&
      (if !tiled then ps.all fun q => !q.tiled
      else ps.zipIdx.all fun (q, i) => q.codec == p.codec && q.codec != 1 && q.tiled && q.tileIdx == i && !q.scaleEn)
  | _, _ => false

/-- The contexts that MED.LOCK reads by their names in the slot. -/
def lockNamed (p : Lock) : List Nat := if p.op = 0 then p.members else p.members.take 1

def lockRefuse (x : Ctx) (s : State) : Option Out :=
  let p := Lock.parse x.par
  let ms := lockNamed p
  if ms.any fun a => (readFault s x.o x.e a ctxLen).isSome then none
  else match ms.findSome? fun a => ctxRefuse (ctxKind s x.o a) 2 with
    | some o => some o
    | none =>
      let cs := ms.map (encCtx s x.o)
      if p.op = 0 then
        (if cs.any (·.grouped) || !agree p.tiled cs then some (refuse 0x74)
        else if 16 - s.media.badEnc.length - (boundPipes s).length - keepEnc s < ms.length then some (refuse 0x75)
        else none)
      else if (cs.map fun c => c.grouped && c.members.head? == ms.head?) == [true] then none
      else some (refuse 0x74)

/-- The work of MED.LOCK. -/
def lockPlan (x : Ctx) (s : State) : Plan :=
  let p := Lock.parse x.par
  let ms := if p.op = 0 then p.members else (encCtx s x.o (p.members.headD 0)).members
  let put1 (a : Nat) : Wr :=
    let c := encCtx s x.o a
    let d := if p.op = 0 then { c with grouped := true, tiled := p.tiled, members := ms }
      else { c with grouped := false, tiled := false, members := [] }
    ctxWr a (leBytes 256 d.header)
  { pieces := [{ reads := ms.map fun a => (a, ctxLen), writes := ms.map (fun a => ctxWr a (readBytes s x.o a 256)) ++ ms.map put1 }]
    out := fun r => match r.fail with
      | none => { reply := some ms.length }
      | some (_, st, _) => { status := st }
    post := fun r t => if r.fail.isSome then t
      else if p.op = 0 then { t with media := { t.media with groups := t.media.groups ++ [⟨ms, freePipes t ms.length, p.tiled, none, [], []⟩] } }
      else { t with media := { t.media with groups := t.media.groups.filter fun g => !g.members.contains (ms.headD 0) } } }

/-- DISSOLVE waits for every command of the group in flight (R319). -/
def lockReady (x : Ctx) (s : State) : Bool :=
  let p := Lock.parse x.par
  p.op == 0 || (match groupOf s (p.members.headD 0) with
    | some g => g.started.isNone
    | none => true)

def lockFamily : Family where
  bad _ := lockBad
  spans v :=
    (lockNamed (Lock.parse v)).map fun a => (a, ctxLen)
  refuse := lockRefuse
  peeks x _ := (lockNamed (Lock.parse x.par)).map fun a => (a, ctxLen)
  ready := lockReady
  work x s := execPlan (lockPlan x s) x s

def execMedLock (c : CmdRef) (e : Circ) (s : State) : Outcome State Fault Refusal :=
  .next (runCmd 0x0704 lockFamily c e s)

end Sys2Proof.Machine
end

