-- ==== Sys2Proof/Machine/Events.lean ====
section
/-! DEFINITION. Events of memory and links: scrubs (R276 to R279), timeouts and retraining (R280, R282), gathered rows (R14,
R131), the Emcia link (R361, R362). -/
namespace Sys2Proof.Machine
open Host

/-! ### Scrubs -/

/-- The memories are up: Instar 1 has zeroed them (R275). -/
def memoryUp (s : State) : Bool := s.sup.dstate != .off && decide (2 ≤ s.sup.stage)

/-- Lines of a Keystone home and of a stack, and the line of an index, in ascending address order (R35, R36, R276). -/
def unitLines (keystone : Bool) : Nat := if keystone then 0x1000000 else 0x30000000
def unitLine (keystone : Bool) (unit i : Nat) : Nat :=
  if keystone then ksBase / 64 + unit * 0x1000000 + i
  else unit / 8 * (0x006000000000 / 64) + (i / 32 * 8 + unit % 8) * 32 + i % 32

/-- Index of a scrub: homes 0 to 3, stacks from 4 on. -/
def scrubIdx (keystone : Bool) (unit : Nat) : Nat := if keystone then unit else 4 + unit

/-- A Borug row goes into the row-sparing area of flash, in 16 bytes whose layout no rule gives (R279, R425), unless it stands
there since the last power-up. -/
def spareRow (row : Nat) (s : State) : State :=
  if (s.mem.spare.drop s.mem.spared.length).contains row then s
  else
    let n := s.mem.spare.length
    { s with
      mem := { s.mem with spare := s.mem.spare ++ [row] }
      sup := { s.sup with
        flash := memWrite 0xFF s.sup.flash (0x0BF00000 + 16 * n) ((List.range 16).map fun i => Config.recordByte [0, row, n] i) } }

/-- A pass that corrects a line of a row: the third of three consecutive ones records the row (R279). -/
def scrubFix (line pass : Nat) (s : State) : State :=
  if !inBorug (line * 64) then s
  else
    let row := Config.borugRow line
    let n := match s.mem.rowFix.find? fun x => decide (x.1 = row) with
      | none => 1
      | some x => if x.2.2 = pass then x.2.1 else if x.2.2 + 1 = pass then x.2.1 + 1 else 1
    let s1 := { s with mem := { s.mem with
      rowFix := (row, n, pass) :: s.mem.rowFix.filter fun x => !decide (x.1 = row) } }
    if 3 ≤ n then spareRow row s1 else s1

/-- One scrub read. A correction is written back, unless a write reached the line meanwhile (R277). -/
def scrub (line pass : Nat) (p : ErrPat) (overtaken : Bool) (s : State) : State :=
  if poisoned s line then noteUncorr line s
  else match readRes p with
    | .clean => s
    | .corrected => scrubFix line pass (noteCorr 1 s)
    | .miscorrected r => scrubFix line pass (noteCorr 1 (if overtaken then s else spoil line r s))
    | .uncorrectable => noteUncorr line s

/-- The scrub of a unit goes on to its next line; after the last one a pass ends (R276). -/
def scrubNext (keystone : Bool) (unit : Nat) (s : State) : State :=
  let j := scrubIdx keystone unit
  let i := s.mem.scrubPos.getD j 0
  let last := decide (unitLines keystone ≤ i + 1)
  { s with mem := { s.mem with
    scrubPos := s.mem.scrubPos.set j (if last then 0 else i + 1)
    scrubPass := if last then s.mem.scrubPass.set j (s.mem.scrubPass.getD j 0 + 1) else s.mem.scrubPass } }

/-- The next read of a unit's background scrub; an offline stack answers none. -/
def scrubUnit (keystone : Bool) (unit : Nat) (p : ErrPat) (overtaken : Bool) (s : State) : State :=
  let j := scrubIdx keystone unit
  let line := unitLine keystone unit (s.mem.scrubPos.getD j 0)
  let s1 := scrubNext keystone unit s
  if offlineAt s (line * 64) then s1 else scrub line (s.mem.scrubPass.getD j 0) p overtaken s1

def execScrubRead (u : ScrubUnit) (r : ScrubFind) (s : State) : Outcome State Fault Refusal :=
  .next (if memoryUp s && (!u.keystone || decide (u.unit.val < 4)) then scrubUnit u.keystone u.unit.val r.err r.overtaken s
    else s)

/-- The unit of a line: a Keystone home or a stack. -/
def inUnit (keystone : Bool) (unit line : Nat) : Bool :=
  if keystone then inKs (line * 64) && homeOf (line * 64) == unit else inBorug (line * 64) && stackOf (line * 64) == unit

/-- A line that a recovery scrub finds poisoned or uncorrectable is logged; one newly poisoned marks another scrub. -/
def scrubFound (s : State) (line : Nat) : State := noteUncorr line (logErr (.scrubFound line) s)

/-- What a recovery scrub does with a line that is not poisoned yet. -/
def scrubMet (s : State) (x : Nat × ErrPat) : State :=
  match readRes x.2 with
  | .clean => s
  | .corrected => noteCorr 1 s
  | .miscorrected r => noteCorr 1 (spoil x.1 r s)
  | .uncorrectable => scrubFound s x.1

/-- The end of a recovery scrub (R278). -/
def endScrub (keystone : Bool) (unit : Nat) (found : List (Nat × ErrPat)) (s : State) : State :=
  let s1 := { s with
    mem := { s.mem with scrubs := s.mem.scrubs.filter fun x => decide (x ≠ (keystone, unit)) }
    regs := if keystone then { s.regs with ksPend := clrBit s.regs.ksPend unit }
      else { s.regs with bgPend := clrBit s.regs.bgPend unit } }
  let s2 := (s.mem.poison.filter (inUnit keystone unit)).foldl scrubFound s1
  (found.filter fun x => inUnit keystone unit x.1 && !s.mem.poison.contains x.1).foldl scrubMet s2

def execRecoveryScrubEnd (keystone : Bool) (unit : Fin 32) (found : List (Nat × ErrPat)) (s : State) :
    Outcome State Fault Refusal :=
  .next (if s.mem.scrubs.contains (keystone, unit.val) then endScrub keystone unit.val found s else s)

/-! ### Timeouts and retraining -/

/-- The oldest row request for a late line is the one that times out, and it alone ends: its pass-through lines are free, its thread
goes on with the failure; the time of a later request of the same line runs on (R132, R280, R281; log 85). -/
def endLate (line : Nat) (s : State) : State :=
  match s.mem.passHeld.find? fun r => r.lines.contains line with
  | none => s
  | some r => { s with mem := { s.mem with
      passHeld := s.mem.passHeld.erase r
      timedOut := s.mem.timedOut ++ [(r.c, r.row, line)]
      gathered := s.mem.gathered ++ [(r.c, r.row)] } }

/-- A request to a stack times out: the oldest row request for the line, or that of a collective which waits for the stack, ends (R280). -/
def execLowerTierTimeout (line : Nat) (write : Bool) (s : State) : Outcome State Fault Refusal :=
  .next (if memoryUp s && inBorug (line * 64) && !offlineAt s (line * 64) then
      let s1 := noteTimeout line write s
      if !write && s1.mem.passHeld.any (fun r => r.lines.contains line) then endLate line s1
      else match collHeld s1 line write with
        | some c => endColl c { status := stTimeout, reply := some (((collOf s1 c).map collReply).getD 0) } s1
        | none => s1
    else s)

/-- A line of an unacknowledged write is poisoned when its stack accepts writes again (R280, R283). -/
def poisonLate (s : State) (line : Nat) : State := poisonLine line (noteLast line 3 s)

/-- The row requests of a stack that goes offline fail at once (R132, R282). -/
def failRows (stack : Nat) (s : State) : State :=
  let hit := fun r : RowReq => r.lines.find? fun l => inBorug (l * 64) && decide (stackOf (l * 64) = stack)
  let mine := (s.mem.passHeld ++ s.mem.passWait).filter fun r => (hit r).isSome
  mine.foldl (fun t r => answerRow ((hit r).getD 0) r t) { s with mem := { s.mem with
    passHeld := s.mem.passHeld.filter fun r => (hit r).isNone
    passWait := s.mem.passWait.filter fun r => (hit r).isNone } }

/-- Retraining ends: late writes are poisoned, or the stack goes offline; collectives that waited go on (R282). -/
def endRetrain (stack : Nat) (ok : Bool) (s : State) : State :=
  let mine := s.mem.lateWrites.filter fun l => decide (stackOf (l * 64) = stack)
  let s1 := { s with mem := { s.mem with
    retrain := delNat stack s.mem.retrain
    lateWrites := s.mem.lateWrites.filter fun l => decide (stackOf (l * 64) ≠ stack) } }
  retryColls <| if ok then mine.foldl poisonLate s1
  else failRows stack
    (devIrq 1 (logErr (.offline stack) { s1 with regs := { s1.regs with offline := setBit s1.regs.offline stack } }))

def execStackRetrainEnd (stack : Fin 32) (ok : Bool) (s : State) : Outcome State Fault Refusal :=
  .next (if s.mem.retrain.contains stack.val then endRetrain stack.val ok s else s)

/-! ### Rows from the Borug memory -/

/-- What a row brings that is poisoned: it is read, and fails its command (R132, R273). -/
def takeBad (c : CmdRef) (row line : Nat) (s : State) : State :=
  noteUncorr line { s with mem := { s.mem with rowBad := s.mem.rowBad ++ [(c, row, line)] } }

/-- A row that a command in progress has requested arrives: its pass-through lines are free, its thread may go on. -/
def execGatherRowArrival (c : CmdRef) (row : Nat) (s : State) : Outcome State Fault Refusal :=
  let mine := fun r : RowReq => decide (r.c = c) && decide (r.row = row)
  .next (if s.mem.passHeld.any mine && !s.mem.passWait.any mine then
      let bad := ((s.mem.passHeld.filter mine).flatMap (·.lines)).filter (poisoned s)
      bad.foldl (fun t l => takeBad c row l t) { s with mem := { s.mem with
        passHeld := s.mem.passHeld.filter fun r => !mine r
        gathered := s.mem.gathered ++ [(c, row)] } }
    else s)

/-- The oldest request that waits at a store die takes its lines, when so many are free. -/
def execPassThroughGrant (die : Fin 4) (s : State) : Outcome State Fault Refusal :=
  .next (match s.mem.passWait.find? fun r => decide (r.die = die.val) with
    | none => s
    | some r =>
      if r.lines.length ≤ passFree s die.val then
        { s with mem := { s.mem with passHeld := s.mem.passHeld ++ [r], passWait := s.mem.passWait.erase r } }
      else s)

/-! ### The Emcia link -/

/-- What training gives (R361): lanes in use, 0 when the link stays down. -/
def trainedLanes (good : BitVec 32) : Nat :=
  if good = BitVec.allOnes 32 then 32
  else if good.extractLsb 15 0 = BitVec.allOnes 16 ∨ good.extractLsb 31 16 = BitVec.allOnes 16 then 16
  else 0

/-- The link trains: generation 3 or 2 as the host end offers, on whole halves. -/
def trainLink (gen : BitVec 2) (good : BitVec 32) (s : State) : State :=
  let n := trainedLanes good
  if n = 0 ∨ gen.toNat < 2 then s
  else { s with link := { s.link with gen := gen.toNat, lanes := n, up := true } }

/-- Training is attempted once Instar 1 has begun it, in READY and later as in FAULTED (R361, R362). -/
def linkTries (s : State) : Bool :=
  s.sup.dstate != .off && !s.link.up && (decide (2 ≤ s.sup.stage) || (s.sup.stage == 1 && s.sup.dstate == .faulted))

/-- The link returns: held messages go out, then vector 5 (R362). -/
def linkReturns (s : State) : State :=
  let s1 := s.queues.irqHeld.foldl (fun t x => sendIrq x.1 x.2 t)
    { s with queues := { s.queues with irqHeld := [] } }
  devIrq 5 s1

def execEmciaLinkUp (gen : BitVec 2) (lanes : BitVec 32) (s : State) : Outcome State Fault Refusal :=
  .next (if linkTries s then
      let s1 := trainLink gen lanes s
      if s1.link.up then linkReturns s1 else s1
    else s)

def execEmciaLinkDown (s : State) : Outcome State Fault Refusal :=
  .next (if s.link.up then
      { s with link := { s.link with up := false, gen := 0, lanes := 0, downs := satAdd 16 1 s.link.downs } }
    else s)

end Sys2Proof.Machine
end

