-- ==== Sys2Proof/Machine/Firmware.lean ====
section
/-! DEFINITION. Module flash (R425 to R428), SUP.ELECT (R439), SUP.FWSTAGE (R433, R434) and SUP.ATTEST (R430 to R432). -/
namespace Sys2Proof.Machine
open Host

/-! ### Flash -/

def flashRead (s : State) (a n : Nat) : Nat := leNat (memRead 0xFF s.sup.flash a n)
def putFlash (a : Nat) (bs : List Byte) (s : State) : State :=
  { s with sup := { s.sup with flash := memWrite 0xFF s.sup.flash a bs } }

/-- Copy A or B of a stage: base and size (R425). Stage `false` is the Instar 1 image. -/
def copyBase (rt copy : Bool) : Nat :=
  if rt then 0x02000000 + 0x04000000 * ofBool copy else 0x00100000 + 0x00800000 * ofBool copy
def copySize (rt : Bool) : Nat := if rt then 0x04000000 else 0x00800000

/-- The 128-byte header of a copy (R426). -/
def fwHeader (s : State) (rt copy : Bool) : Nat := flashRead s (copyBase rt copy) 128
def fwMagic (h : Nat) : Bool := fld h 31 0 == 0x4B5A4657
def fwVersion (h : Nat) : Nat := fld h 95 64
/-- MAGIC, STAGE and LEN as R427 asks. -/
def fwShape (rt : Bool) (h : Nat) : Bool :=
  fwMagic h && fld h 35 32 == (if rt then 2 else 1) && decide (128 + fld h 191 160 + 5396 ≤ copySize rt)

/-- The big-endian number of a flash span. -/
def flashSpan (s : State) (a n : Nat) : Nat := beNat (memRead 0xFF s.sup.flash a n)

/-- A copy is accepted: MAGIC, STAGE, LEN, and its signature over header and body verifies under the key in the boot ROM
(R426, R427). -/
def copyOk (s : State) (rt copy : Bool) : Bool :=
  let h := fwHeader s rt copy
  let n := 128 + fld h 191 160
  let a := copyBase rt copy
  fwShape rt h && hssOk s.sup.rom.toNat n (flashSpan s a n) (flashSpan s (a + n) 5396)

/-- The boot record in a slot (R428). -/
def bootRecord (s : State) (slot : Bool) : Nat := flashRead s (0x10000 * ofBool slot) 128
def bootSeq (r : Nat) : Nat := fld r 63 32
def bootI1 (r : Nat) : Bool := bit r 64
def bootRt (r : Nat) : Bool := bit r 65
def bootFloor (r : Nat) : Nat := fld r 127 96
def bootSerial (r : Nat) : Nat := fld r 191 128

/-- The record in use. -/
def bootNow (s : State) : Nat := bootRecord s s.sup.brSlot

/-- PUF and identity of a supervisor, and the seed that it reconstructed at power-up (R429). -/
def pufOf (s : State) : Side → Puf
  | .north => s.sup.nPuf
  | .south => s.sup.sPuf
def identOf (s : State) : Side → Ident
  | .north => s.sup.nIdent
  | .south => s.sup.sIdent
def setIdent (d : Side) (k : Ident) (s : State) : State :=
  match d with
  | .north => { s with sup := { s.sup with nIdent := k } }
  | .south => { s with sup := { s.sup with sIdent := k } }
def seedOf (s : State) : Side → BitVec 256
  | .north => s.sup.nSeed
  | .south => s.sup.sSeed

/-- R429: with the helper data of the enrolment and at most 15 % of the read bits different from it, the enrolled seed. -/
def reconstruct (s : State) (d : Side) (diff : Nat) : BitVec 256 :=
  let p := pufOf s d
  let h := (identOf s d).helper
  if h = p.helper ∧ 100 * diff ≤ 15 * 262144 then p.seed else Config.otherSeed p.seed h diff

/-- SHA-256 of a seed and CHECK equals the stored value. -/
def seedOk (s : State) (d : Side) (seed : BitVec 256) : Bool :=
  leNat (sha256 (leBytes 32 seed.toNat ++ asciiCheck)) == (identOf s d).check.toNat

/-- The boot key of a supervisor, and the MAC of bits [191:0] of a record under that key (R428). -/
def bootKey (s : State) (d : Side) : List Byte := sha256 (leBytes 32 (seedOf s d).toNat ++ asciiBootrec)
def bootMac (s : State) (d : Side) (r : Nat) : Nat := leNat (hmac (bootKey s d) (leBytes 24 r))

/-- A boot record with both MACs. -/
def makeRecord (s : State) (seq : Nat) (i1 rt : Bool) (floor serial : Nat) : Nat :=
  let body := 0x4B5A4252 + (seq % 2 ^ 32) <<< 32 + ofBool i1 <<< 64 + ofBool rt <<< 65 + floor <<< 96 + serial <<< 128
  body + bootMac s .north body <<< 192 + bootMac s .south body <<< 448

/-! ### Identity area, fault log and signing journals (R425, R429, R431): their layouts are the model's (log 37) -/

/-- What an event of the fault log records, as numbers. -/
def ErrEvent.items : ErrEvent → List Nat
  | .refclkLost => [1]
  | .reservedAccess w a => [2, ofBool w, a]
  | .ignoredWrite a => [3, a]
  | .ppsIgnored => [4]
  | .irqDropped v => [5, v]
  | .uncorrectable l => [6, l]
  | .offline k => [7, k]
  | .scrubFound l => [8, l]
  | .internal _ i => [9, i]
  | .chrysalisSkipped => [10]
  | .testRecordLost => [11]
  | .deviceFault => [12]
  | .linkRetry p => [13, p]
  | .heartbeatMissed d => [14, sideBit d]

/-- Byte `i` of a supervisor's 512 KiB of the identity area: helper data, check value at +0x40000, certificate with SERIAL,
supervisor and the root key of the enrolled seed at +0x60000. -/
def identArea (d : Side) (seed : BitVec 256) (k : Ident) (i : Nat) : Byte :=
  let le := fun v j => BitVec.ofNat 8 (v >>> (8 * j))
  if i < 0x40000 then le k.helper i
  else if i < 0x40020 then le k.check.toNat (i - 0x40000)
  else if 0x60000 ≤ i ∧ i < 0x60008 then le k.serial.toNat (i - 0x60000)
  else if i = 0x60008 then BitVec.ofNat 8 (sideBit d)
  else if 0x60010 ≤ i ∧ i < 0x6004C then BitVec.ofNat 8 (hssPublic seed >>> (8 * (0x6004B - i)))
  else Config.identByte (d == .south) k.trees i

/-- Byte `a` of the module flash, whichever part of the state holds its region (R425). -/
def flashByte (s : State) (a : Nat) : Byte :=
  if 0x0A000000 ≤ a ∧ a < 0x0A080000 then identArea .north s.sup.nPuf.seed s.sup.nIdent (a - 0x0A000000)
  else if 0x0A080000 ≤ a ∧ a < 0x0A100000 then identArea .south s.sup.sPuf.seed s.sup.sIdent (a - 0x0A080000)
  else if 0x0C000000 ≤ a ∧ a < 0x10000000 then Config.faultLogByte (s.regs.errLog.reverse.map ErrEvent.items) (a - 0x0C000000)
  else memGet 0xFF s.sup.flash a

def journalBase (d : Side) : Nat := 0x0A100000 + 0x80000 * sideBit d
/-- Entries of a journal by number, each with its RESERVED_END. -/
def journal (s : State) (d : Side) : List (Nat × Nat) :=
  let a := journalBase d
  (((s.sup.flash.filter fun x => decide (a ≤ x.1) && decide (x.1 < a + 0x80000)).map fun x => (x.1 - a) / 64).dedup).map fun i =>
    (i, flashRead s (a + 64 * i) 4)

/-- A new entry with its RESERVED_END; after the first entry of one half the other half is erased. -/
def journalWrite (d : Side) (i stop : Nat) (s : State) : State :=
  let a := journalBase d
  let s1 := putFlash (a + 64 * i) (leBytes 4 stop ++ List.replicate 60 0xFF) s
  if i % 4096 = 0 then
    { s1 with sup := { s1.sup with flash := memClear s1.sup.flash (a + 64 * (if i = 0 then 4096 else 0)) 0x40000 } }
  else s1

/-- The keys of a supervisor at power-up: the next index is the newest valid RESERVED_END (R431). -/
def keysAtPowerUp (s : State) (d : Side) : Keys :=
  let l := journal s d
  let stop := (l.map (·.2)).foldl max 0
  { next := stop, reservedEnd := stop
    entry := ((l.find? fun y => decide (y.2 = stop)).map fun y => (y.1 + 1) % 8192).getD 0 }

/-- A new record goes to the slot not in use and is then the one in use (R428). -/
def writeRecord (i1 rt : Bool) (floor : Nat) (s : State) : State :=
  let r := bootNow s
  let slot := !s.sup.brSlot
  let s1 := putFlash (0x10000 * ofBool slot) (leBytes 128 (makeRecord s (bootSeq r + 1) i1 rt floor (bootSerial r))) s
  { s1 with sup := { s1.sup with
    brSlot := slot, brSeq := BitVec.ofNat 32 (bootSeq r + 1), fwFloor := BitVec.ofNat 32 floor } }

/-- The copy that the record does not name as primary (R433). -/
def inactive (s : State) (rt : Bool) : Bool := if rt then !bootRt (bootNow s) else !bootI1 (bootNow s)

def setVerified (rt b : Bool) (s : State) : State :=
  { s with sup := if rt then { s.sup with rtVer := b } else { s.sup with i1Ver := b } }
def verified (s : State) (rt : Bool) : Bool := if rt then s.sup.rtVer else s.sup.i1Ver

/-- The mark of the primary copy: a mark is the copy's own, and only a WRITE or a failed check of that copy clears it (R433). -/
def setVerifiedPrim (rt b : Bool) (s : State) : State :=
  { s with sup := if rt then { s.sup with rtVerPrim := b } else { s.sup with i1VerPrim := b } }
def verifiedPrim (s : State) (rt : Bool) : Bool := if rt then s.sup.rtVerPrim else s.sup.i1VerPrim
/-- The two copies change places, each with its mark. -/
def swapMarks (rt : Bool) (s : State) : State :=
  setVerifiedPrim rt (verified s rt) (setVerified rt (verifiedPrim s rt) s)
def setActivation (rt b : Bool) (s : State) : State :=
  { s with sup := if rt then { s.sup with rtPend := b } else { s.sup with i1Pend := b } }
def activation (s : State) (rt : Bool) : Bool := if rt then s.sup.rtPend else s.sup.i1Pend

/-! ### SUP.ELECT (R439) -/

/-- The supervisor that FAVOUR chooses. -/
def electChoice (v : Nat) (s : State) : Side :=
  match fld v 33 32 with
  | 1 => .north
  | 2 => .south
  | _ => if s.sup.nLeadOk then .north else .south

def leadOk (s : State) : Side → Bool
  | .north => s.sup.nLeadOk
  | .south => s.sup.sLeadOk

/-- The new leadership: terms, leader, the end of every fence; from FENCED to READY. -/
def takeLead (term : Word) (side : Side) (s : State) : State :=
  let s1 := { s with sup := { s.sup with
    term := term, storeTerm := List.replicate 4 term, leader := side, recoveryDue := true
    fenceCause := 0, fenceSide := .north, nFenced := false, sFenced := false, silence := false } }
  let s2 := devIrq 4 (refreshAlert s1)
  if s2.sup.dstate = .fenced then
    setDState .ready { s2 with sup := { s2.sup with
      cross := none, runReq := false, runTest := false, runMs := 0, stopReq := none } }
  else s2

def electWork (x : Ctx) (s : State) : State :=
  let term := fld x.par 31 0
  let side := electChoice x.par s
  if term ≤ s.sup.term.toNat then complete x.c (refuse 0x90) s
  else if !leadOk s side then complete x.c (refuse 0x92) s
  else if !x.e.ack then complete x.c (refuse 0x91) s
  else complete x.c { reply := some (term + sideBit side <<< 32) } (takeLead (BitVec.ofNat 32 term) side s)

def electFamily : Family where
  bad _ v := fld v 33 32 == 3 || !zeros v [(63, 34)]
  work := electWork

def execSupElect (c : CmdRef) (e : Circ) (s : State) : Outcome State Fault Refusal :=
  .next (runCmd 0x0F02 electFamily c e s)

/-! ### SUP.FWSTAGE (R433, R434) -/

structure FwStage where
  op : Nat
  rt : Bool
  offset : Nat
  src : Nat
  len : Nat
deriving DecidableEq, Repr

def FwStage.parse (v : Nat) : FwStage := ⟨fld v 2 0, bit v 3, fld v 63 32, fld v 111 64, fld v 159 128⟩

/-- R433. OFFSET, SRC_ADDR and LEN may hold any value with another OP than WRITE (DESIGN CHOICE, log 82: the map says nothing of
them there). -/
def stageBad (v : Nat) : Bool :=
  let p := FwStage.parse v
  decide (4 < p.op) || !zeros v [(31, 4), (127, 112), (191, 160)] ||
  (p.op == 0 && (!divides 4096 p.offset || !divides 64 p.src || !divides 4096 p.len || !within p.len 0x1000 0x400000 ||
    !spanKs p.src p.len || decide (copySize p.rt < p.offset + p.len)))

/-- A reply of R433: value, and the two marks of the stage. -/
def stageReply (v : Nat) (rt : Bool) (s : State) : Nat :=
  v % 2 ^ 32 + ofBool (verified s rt) <<< 32 + ofBool (activation s rt) <<< 33

/-- VERSION of the inactive copy, 0 when it holds no image. -/
def inactiveVersion (rt : Bool) (s : State) : Nat :=
  let h := fwHeader s rt (inactive s rt)
  if fwMagic h then fwVersion h else 0

def flashFault (x : Ctx) (s : State) : State :=
  complete x.c { status := stInternal } (logErr (.internal x.c.q x.c.idx) s)

/-- WRITE: a program or erase failure leaves free bytes in the span (log 11). -/
def stageWrite (x : Ctx) (p : FwStage) (s : State) : State :=
  match readFault s x.o x.e p.src p.len with
  | some f => complete x.c { status := f.1 } (noteReads x.o x.e [(p.src, p.len)] s)
  | none =>
    let s0 := setVerified p.rt false (noteReads x.o x.e [(p.src, p.len)] s)
    let a := copyBase p.rt (inactive s p.rt) + p.offset
    if x.e.flashBad then
      flashFault x (putFlash a ((List.range p.len).map fun i => Config.scratch (plainHdr x.cmd.hdr) x.par (a + i)) s0)
    else
      let s1 := putFlash a (readBytes s x.o p.src p.len) s0
      complete x.c { reply := some (stageReply p.len p.rt s1) } s1

/-- VERIFY: R427, then FLOOR. -/
def stageVerify (x : Ctx) (p : FwStage) (s : State) : State :=
  let h := fwHeader s p.rt (inactive s p.rt)
  let ok := copyOk s p.rt (inactive s p.rt)
  if ok && decide (fwVersion h < s.sup.fwFloor.toNat) then
    let s1 := setVerified p.rt false s
    complete x.c { status := stRefusedState, code := 0x99, reply := some (stageReply (fwVersion h) p.rt s1) } s1
  else
    let s1 := setVerified p.rt ok s
    complete x.c { reply := some (stageReply (fwVersion h) p.rt s1) } s1

/-- Whether a formed domain lets the runtime copy in the primary slot take over (R414). -/
def fitsDomain (s : State) (h : Nat) : Bool :=
  !formed s || (bit h (126 + s.dom.nlDom) && s.dom.fmts.all fun f => bit h (128 + f))

/-- The runtime image of a copy runs: its VERSION, FLOOR_SET and capabilities (R424, R426). -/
def runRuntime (copy : Bool) (s : State) : State :=
  let h := fwHeader s true copy
  { s with sup := { s.sup with
    rtCopy := copy, fwRt := BitVec.ofNat 32 (fwVersion h), setRt := BitVec.ofNat 32 (fld h 127 96)
    caps := BitVec.ofNat 4 (fld h 131 128) } }

/-- The record names the running copy `run` again in place of `copy`. -/
def backTo (run : Bool) (s : State) (copy : Bool) : State := if copy = run then s else swapMarks true s

/-- The supervisors verify the new primary runtime again, under R427 and the floor (R428), and restart with it,
or keep the old one (R434): the copy that fails is no verified one. -/
def loadRuntime (x : Ctx) (s : State) : State :=
  let copy := bootRt (bootNow s)
  let h := fwHeader s true copy
  let s0 := setActivation true false s
  if copyOk s true copy && decide (bootFloor (bootNow s) ≤ fwVersion h) then
    let s1 := runRuntime copy s0
    complete x.c { reply := some (stageReply (fwVersion h) true s1) } s1
  else
    let r := bootNow s
    let s1 := backTo s.sup.rtCopy (setVerifiedPrim true false (writeRecord (bootI1 r) s.sup.rtCopy (bootFloor r) s0)) copy
    complete x.c { status := stRefusedState, code := 0x98, reply := some (stageReply (fwVersion (fwHeader s1 true s.sup.rtCopy)) true s1) } s1

/-- A runtime activation that R414 lets take effect, at rest or in step 4 of R31. -/
def activateNow (x : Ctx) (s : State) : State :=
  if fitsDomain s (fwHeader s true (bootRt (bootNow s))) then loadRuntime x s else s

/-- ACTIVATE: the record names the verified copy; a runtime copy is loaded now or waits for step 4 of R31. -/
def stageActivate (x : Ctx) (p : FwStage) (s : State) : State :=
  if !verified s p.rt then complete x.c { status := stRefusedState, code := 0x98, reply := some (stageReply (inactiveVersion p.rt s) p.rt s) } s
  else if !x.e.ack then complete x.c (refuse 0x91) s
  else if x.e.flashBad then flashFault x s
  else
    let r := bootNow s
    let v := inactiveVersion p.rt s
    let s1 := setActivation p.rt true (swapMarks p.rt
      (if p.rt then writeRecord (bootI1 r) (!bootRt r) (bootFloor r) s else writeRecord (!bootI1 r) (bootRt r) (bootFloor r) s))
    if !p.rt then complete x.c { reply := some (stageReply v false s1) } s1
    else
      let s2 := modCmd x.c (fun k => { k with ph := .crossing })
        { s1 with sup := { s1.sup with pend := s1.sup.pend ++ [⟨x.c, x.e⟩] } }
      if atRest s1 && fitsDomain s1 (fwHeader s1 true (bootRt (bootNow s1))) then loadRuntime x s1 else s2

/-- A copy marked verified whose VERSION lies below the floor loses the mark, since the floor binds every activation (R428). -/
def unmarkBelow (rt : Bool) (s : State) : State :=
  let s1 := if inactiveVersion rt s < s.sup.fwFloor.toNat then setVerified rt false s else s
  if fwVersion (fwHeader s1 rt (!inactive s1 rt)) < s1.sup.fwFloor.toNat then setVerifiedPrim rt false s1 else s1

/-- RAISE, by the FLOOR_SET of the running images. Its reply has no stage whose marks bits 32 and 33 could give (log 16). -/
def stageRaise (x : Ctx) (s : State) : State :=
  if !x.e.ack then complete x.c (refuse 0x91) s
  else if x.e.flashBad then flashFault x s
  else
    let r := bootNow s
    let f := max (bootFloor r) (min s.sup.setI1.toNat s.sup.setRt.toNat)
    let s1 := unmarkBelow true (unmarkBelow false (writeRecord (bootI1 r) (bootRt r) f s))
    complete x.c { reply := some (f + ((Config.unread (plainHdr x.cmd.hdr) x.par 0).toNat % 4) <<< 32) } s1

/-- A stage whose activation is pending refuses WRITE, which then has programmed no byte, VERIFY and ACTIVATE. -/
def stageWork (x : Ctx) (s : State) : State :=
  let p := FwStage.parse x.par
  if decide (p.op ≤ 2) && activation s p.rt then
    let v := if p.op = 0 then 0 else inactiveVersion p.rt s
    complete x.c { status := stRefusedState, code := 0x9A, reply := some (stageReply v p.rt s) } s
  else match p.op with
    | 0 => stageWrite x p s
    | 1 => stageVerify x p s
    | 2 => stageActivate x p s
    | 3 => stageRaise x s
    | _ => complete x.c { reply := some (stageReply (inactiveVersion p.rt s) p.rt s) } s

def stageFamily : Family where
  bad _ := stageBad
  spans v :=
    let p := FwStage.parse v
    if p.op = 0 then [(p.src, p.len)] else []
  work := stageWork

def execSupFwstage (c : CmdRef) (e : Circ) (s : State) : Outcome State Fault Refusal :=
  .next (runCmd 0x0F03 stageFamily c e s)

/-! ### SUP.ATTEST (R430 to R432) -/

/-- The supervisor that SIGNER names. -/
def signer (v : Nat) (s : State) : Side :=
  match fld v 321 320 with
  | 0 => s.sup.leader
  | 1 => .north
  | _ => .south

def keysOf (s : State) : Side → Keys
  | .north => s.sup.nKeys
  | .south => s.sup.sKeys
def setKeys (d : Side) (k : Keys) (s : State) : State :=
  match d with
  | .north => { s with sup := { s.sup with nKeys := k } }
  | .south => { s with sup := { s.sup with sKeys := k } }
def hasId (s : State) : Side → Bool
  | .north => s.sup.nId
  | .south => s.sup.sId

/-- The bottom tree of the next index is at hand (R430). -/
def canSign (s : State) (d : Side) : Bool := (identOf s d).trees.contains ((keysOf s d).next / 32768)

/-- An index at or beyond RESERVED_END needs a new journal entry (R431). -/
def Keys.needsEntry (k : Keys) : Bool := decide (k.reservedEnd ≤ k.next)

/-- After a signature: the reservation and the index (R430, R431). -/
def Keys.used (k : Keys) : Keys :=
  { next := k.next + 1
    reservedEnd := if k.needsEntry then k.reservedEnd + 256 else k.reservedEnd
    entry := if k.needsEntry then (k.entry + 1) % 8192 else k.entry }

/-- The supervisor uses an index, after its journal entry where one is due. -/
def useIndex (d : Side) (s : State) : State :=
  let k := keysOf s d
  setKeys d k.used (if k.needsEntry then journalWrite d k.entry (k.reservedEnd + 256) s else s)

/-- What the test record holds: repair map, offline stacks, excluded media resources, failed ports, training values (R424). -/
def TestRec.items (t : TestRec) : List Nat :=
  1 :: ([t.cores.map fun x => 13 * x.1 + x.2, t.dies, t.offl, t.enc, t.dec, t.scl, t.ports, t.train].flatMap fun l =>
    l.length :: l)

/-- The bytes of this power-up's test record, in a layout that no rule gives (R424). -/
def testRecordBytes (s : State) : List Byte := (List.range 4096).map (Config.recordByte s.sup.test.items)

/-- The report of R432 as a number of 2048 bits. -/
def report (d : Side) (v : Nat) (s : State) : Nat :=
  0x4B5A4154 + 0x2532 <<< 32 + 0xA <<< 48 + 0x1 <<< 52 + sideBit d <<< 56 + bootSerial (bootNow s) <<< 64
    + fld v 319 64 <<< 128 + s.sup.term.toNat <<< 384 + s.sup.fwI1.toNat <<< 416 + s.sup.fwRt.toNat <<< 448
    + s.sup.fwFloor.toNat <<< 480 + s.sup.brSeq.toNat <<< 512 + ofBool s.sup.i1Copy <<< 544 + ofBool s.sup.rtCopy <<< 545
    + s.sup.dstate.code <<< 552 + ((s.cores.usable.map (·.length)).sum % 256) <<< 560 + s.time.now.toNat <<< 576
    + leNat (sha256 (testRecordBytes s)) <<< 640

def attestBad (v : Nat) : Bool :=
  !divides 64 (fld v 47 0) || !spanKs (fld v 47 0) 5652 || fld v 321 320 == 3 || !zeros v [(63, 48), (383, 322)]

def attestWork (x : Ctx) (s : State) : State :=
  let d := signer x.par s
  let k := keysOf s d
  if k.needsEntry && x.e.flashBad then flashFault x s
  else
    let body := leBytes 256 (report d x.par s)
    let sig := beBytes 5396 (hssSign (seedOf s d) k.next 256 (beNat body))
    match putDev x.o x.e (fld x.par 47 0) (body ++ sig) (useIndex d s) with
    | (s1, none) => complete x.c { reply := some k.next } s1
    | (s1, some f) => complete x.c { status := f.1, reply := some k.next } s1

def attestFamily : Family where
  bad _ := attestBad
  spans v := [(fld v 47 0, 5652)]
  refuse x s :=
    let d := signer x.par s
    if !hasId s d then some (refuse 0x9C)
    else if 2 ^ 30 ≤ (keysOf s d).next then some (refuse 0x9D) else none
  ready x s := canSign s (signer x.par s)
  work := attestWork

def execSupAttest (c : CmdRef) (e : Circ) (s : State) : Outcome State Fault Refusal :=
  .next (runCmd 0x0F04 attestFamily c e s)

end Sys2Proof.Machine
end

