-- ==== Sys2Proof/Machine/Fuse.lean ====
section
/-! DEFINITION. CNV.FUSE (R111 to R119) and the Abutment engine's ABT.RUN (R120 to R125). -/
namespace Sys2Proof.Machine
open Host

/-! ### Layers -/

structure Layer where
  u : Numerics
  e : Expd
  mt : Nat
  nt : Nat
  act : Nat
  kt : Nat
  w : Nat
  scale : Nat
  bias : Nat
  /-- output and input window (R111) -/
  win : Win
  src : Win
deriving DecidableEq, Repr

/-- A layer record (R115) with the output window it computes. -/
def Layer.parse (v : Nat) (win : Win) : Layer :=
  let e := Expd.parse (fld v 255 128)
  { u := numOf (v % 2 ^ 128), e := e, mt := 128 * 2 ^ fld v 257 256, nt := nTile (fld v 260 258), act := fld v 263 261
    kt := 32 * fld v 271 264, w := fld v 319 288, scale := fld v 351 320, bias := fld v 383 352, win := win
    src := e.inWindow win }

def Layer.m (l : Layer) : Nat := l.win.h * l.win.w
def Layer.t (l : Layer) : Tiling := ⟨l.m, l.e.cout, l.mt, l.nt⟩
def Layer.gk (l : Layer) (nl : Nat) : Nat := grainOf nl l.u.gk
def Layer.kTiles (l : Layer) : Nat := cdiv l.e.kPad l.kt
def Layer.visits (l : Layer) : Nat := l.t.nTiles * l.kTiles * l.t.mTiles

/-- Defects of a layer's record: R8, R97, R101, R104, R108. R97's range of M_TOTAL is not asked of a layer's window, whose
positions no field gives (log 72). -/
def Layer.bad (l : Layer) (nl v : Nat) : Bool :=
  !zeros v [(287, 272), (511, 384)] || (Numerics.parse (v % 2 ^ 128)).isNone || Expd.bad (fld v 255 128) ||
  decide (4 < fld v 260 258) || decide (5 < l.act) || !within (fld v 271 264) 1 128 || l.e.badFmt l.u.a ||
  productBad l.u l.t l.e.kPad (l.gk nl) || l.u.vecsBad l.scale l.bias

/-- Steps 1 and 2 of R58 with the activation (R113, R116). -/
def Numerics.act (n : Numerics) (nl f : Nat) (scale bias t : Word) : Word :=
  let t1 := if n.scaleEn then fmul t (if n.scaleVec then scale else n.scale) else t
  actFn nl f (if n.biasEn then fadd t1 bias else t1)
def Numerics.clip (n : Numerics) (t : Word) : Word := if n.clipEn then fclamp n.lo n.hi t else t

/-- Bytes of a layer's output: one tensor of positions by channels, or of channels by positions with OUT_AXIS = 1. -/
def Layer.outLen (l : Layer) : Nat :=
  if l.u.axisM then l.u.out.tensorBytes l.e.cout l.m else l.u.out.tensorBytes l.m l.e.cout

/-- Stacks of every output of the layer (R114). -/
def Layer.stackLen (l : Layer) (nl : Nat) : Nat :=
  let t := l.t
  sumTo (fun j => sumTo (fun i => roundUp 128 (t.rows i) * roundUp 16 (t.cols j) * 4 *
    (Nat.log2 (cdiv l.e.kPad (l.gk nl)) + 1)) t.mTiles) t.nTiles

/-! ### CNV.FUSE -/

structure Fuse where
  l : Nat
  gap : Nat
  store : Bool
  tile : Nat
  tiles : Nat
  out : Win
  src : Nat
  work : Nat
  len : Nat
  dst : Nat
  gapOff : Nat
deriving DecidableEq, Repr

def Fuse.parse (v : Nat) : Fuse :=
  { l := fld v 3 0, gap := fld v 5 4, store := bit v 6, tile := fld v 31 16, tiles := fld v 47 32
    out := ⟨(fld v 79 64 : Nat), (fld v 95 80 : Nat), fld v 103 96, fld v 111 104⟩
    src := fld v 159 128, work := fld v 191 160, len := fld v 223 192, dst := fld v 255 224, gapOff := fld v 287 256 }

def layerBits (v i : Nat) : Nat := fld v (512 * (i + 2) - 1) (512 * (i + 1))

/-- The layers in ascending order with their windows, derived backward (R111). -/
def fuseLayers (v : Nat) : Nat → Win → List Layer
  | 0, _ => []
  | n + 1, win =>
    let l := Layer.parse (layerBits v n) win
    fuseLayers v n l.src ++ [l]

def Fuse.layers (p : Fuse) (v : Nat) : List Layer := fuseLayers v (min 8 p.l) p.out

/-- Neighbouring layers agree (R117). -/
def chained : List Layer → Bool
  | a :: b :: r => b.e.cin == a.e.cout && b.e.y.n == a.e.y.outN && b.e.x.n == a.e.x.outN && chained (b :: r)
  | _ => true

/-- Bytes of the means that a fold writes (R118). A block format whose block COUT does not fill stores a last partial block
whose scale byte is not counted here (log 72). -/
def Fuse.meanLen (l : Layer) : Nat := l.u.out.rowBytes l.e.cout

def Fuse.spans (p : Fuse) (ls : List Layer) : List (Nat × Nat) :=
  (match ls.head? with
    | some l => [(p.src, l.u.a.tensorBytes (l.src.h * l.src.w) l.e.cin)]
    | none => []) ++
  ls.flatMap (fun l => (l.w, l.u.b.tensorBytes l.e.cout l.e.kPad) :: l.u.vecs l.e.cout l.scale l.bias) ++
  (match ls.getLast? with
    | some l => (if p.store then [(p.dst, l.outLen)] else []) ++
        (if p.gap = 0 then [] else
          [(p.gapOff, p.tiles * l.e.cout * 4 + if p.gap = 2 then Fuse.meanLen l else 0)])
    | none => [])

def fuseBad (nl v : Nat) : Bool :=
  let p := Fuse.parse v
  let ls := p.layers v
  !zeros v [(15, 7), (63, 48), (127, 112), (511, 288)] || !within p.l 1 8 || p.gap == 3 || (p.gap == 0 && !p.store) ||
  p.out.h == 0 || p.out.w == 0 || (p.gap == 0 && p.gapOff != 0) ||
  (p.gap != 0 && (p.tiles == 0 || decide (p.tiles ≤ p.tile))) ||
  ls.zipIdx.any (fun (l, i) => l.bad nl (layerBits v i)) || !chained ls ||
  (match ls.getLast? with
    | some l => decide (l.e.y.outN < fld v 79 64 + p.out.h) || decide (l.e.x.outN < fld v 95 80 + p.out.w)
    | none => true) ||
  spansBad (p.spans ls) (p.work, p.len)

def fuseLvl (nl v : Nat) : Bool := ((Fuse.parse v).layers v).any fun l => l.u.badNl nl

/-- Results of a layer before clip, by position (R113): `rd` reads its source window. -/
def Layer.rows (l : Layer) (nl : Nat) (ob rd : Nat → Byte) : List (List Word) :=
  let k := l.e.kPad
  let a := (List.range l.e.na).map fun b => (List.range l.m).map fun r => (List.range k).map fun i =>
    let x := l.e.el l.u.a rd l.win l.src b r i
    l.u.a.value x.1 x.2
  let w := storedVals l.u.b (fun i => ob (l.w + i)) l.e.cout k
  (List.range l.m).map fun r => (List.range l.e.cout).map fun n =>
    let t := dot l.u.mode (cell .zero (a.getD (n / l.e.colsPerBlock) []) r) (cell .zero w n) k (l.gk nl)
    l.u.act nl l.act (vecAt ob l.scale n) (vecAt ob l.bias n) t

/-- The stored output of a layer. -/
def Layer.bytes (l : Layer) (rows : List (List Word)) : List Byte :=
  outBlock l.u.out l.u.axisM l.m l.e.cout fun r c => l.u.clip (cell 0 rows r c)

/-- Writes of the output of tile (nt, mt) within the layer's output tensor at an offset. -/
def Layer.tileWrs (l : Layer) (off : Nat) (rows : List (List Word)) (j i : Nat) : List Wr :=
  let t := l.t
  let f := l.u.out
  let val (r c : Nat) : Word := l.u.clip (cell 0 rows r c)
  let r0 := i * l.mt
  let c0 := j * l.nt
  let seg (lines run line p0 : Nat) (xs : List Word) : List (Nat × List Byte) := f.segWr lines run line p0 (f.storeLine xs)
  let ws := if l.u.axisM then
      (List.range (t.cols j)).flatMap fun c =>
        seg l.e.cout l.m (c0 + c) r0 ((List.range (t.rows i)).map fun r => val (r0 + r) (c0 + c))
    else
      (List.range (t.rows i)).flatMap fun r =>
        seg l.m l.e.cout (r0 + r) c0 ((List.range (t.cols j)).map fun c => val (r0 + r) (c0 + c))
  let pad := if j + 1 = t.nTiles ∧ i + 1 = t.mTiles then
      (if l.u.axisM then [(l.e.cout * f.rowBytes l.m, f.padBytes l.e.cout l.m)]
        else [(l.m * f.rowBytes l.e.cout, f.padBytes l.m l.e.cout)]) else []
  (ws ++ pad).map fun w => { d := .ob (off + w.1), bytes := w.2 }

/-- The global-average writes (R118): this tile's partial, and the fold. -/
def Fuse.gapWrs (p : Fuse) (l : Layer) (ob : Nat → Byte) (rows : List (List Word)) : List Wr :=
  let n := l.e.cout
  let own := (List.range n).map fun c => chunkSum (rows.map fun r => r.getD c 0)
  let part (t c : Nat) : Word := if t = p.tile then own.getD c 0 else vecAt ob p.gapOff (t * n + c)
  let means := (List.range n).map fun c =>
    rne32Div (val32 (tree fadd 0 ((List.range p.tiles).map fun t => part t c))) (.ofInt (l.e.y.outN * l.e.x.outN))
  let q := l.u.out.storeLine means
  if p.gap = 0 then []
  else { d := .ob (p.gapOff + p.tile * n * 4), bytes := wordsBytes own } ::
    (if p.gap = 2 then [{ d := .ob (p.gapOff + p.tiles * n * 4)
                          bytes := packCodes l.u.out.width q.2 ++ q.1.map (BitVec.ofNat 8) }] else [])

/-- Where X_l of the layer with index `i` lies in the work region while it lives: at the lower end for an even index, at the
upper end for an odd one, so that it never meets its neighbours (log 28). -/
def Fuse.xOff (p : Fuse) (i : Nat) (l : Layer) : Nat := if i % 2 = 0 then p.work else p.work + p.len - l.outLen

/-- What a layer reads of its input plane, which lies at an offset: all of it in its expansion, before visit 0, or as operand A
of each visit where the expansion is skipped (R105, R113). -/
def Layer.inReads (l : Layer) (off n : Nat) : List (Nat × Nat) :=
  if l.e.skip then
    let i := n % l.t.mTiles
    let kt := n / l.t.mTiles % l.kTiles
    window l.u.a off l.m l.e.cin (i * l.mt) (l.t.rows i) (kt * l.kt) (min l.kt (l.e.kPad - kt * l.kt))
  else if n = 0 then
    (List.range l.e.na).flatMap fun b => (List.range l.m).flatMap fun r => shift off (l.e.reads l.u.a l.win l.src b r)
  else []

/-- The visits of one layer of index `li`; `prev` is the length of the previous layer's output, 0 for the source tile, and `off`
says where the input lies. After the first K tile a visit reads the stacks, which lie above the tensor at the lower end
(R92, log 28). With GAP_MODE 0b10 all GAP_TILES slots count as read before the partial is written, the tile's own among them
(DESIGN CHOICE, log 82: R118 reads them to add them up and does not name them one by one). -/
def Fuse.layerPieces (p : Fuse) (nl core : Nat) (s : State) (li : Nat) (l : Layer) (last : Bool) (prev off : Nat)
    (rows : List (List Word)) : List Piece :=
  let ob := fun i => obByte s core i
  let t := l.t
  let outs := if last then 0 else l.outLen
  let live := prev + l.e.size l.u.a l.m + outs + l.stackLen nl
  (List.range l.visits).map fun n =>
    let i := n % t.mTiles
    let kt := n / t.mTiles % l.kTiles
    let j := n / t.mTiles / l.kTiles
    let kl := min l.kt (l.e.kPad - kt * l.kt)
    let fini := decide (kt + 1 = l.kTiles)
    { fault := if n = 0 && decide (p.len < live) then some (stBufOverflow, 0x60) else none
      obReads := l.inReads off n ++
        window l.u.b l.w l.e.cout l.e.kPad (j * l.nt) (t.cols j) (kt * l.kt) kl ++
        (if kt = 0 then [] else [(p.work + (if li % 2 = 0 then outs else prev), l.stackLen nl)]) ++
        (if fini then l.u.vecs (t.cols j) (l.scale + 4 * j * l.nt) (l.bias + 4 * j * l.nt) else []) ++
        (if last && decide (n + 1 = l.visits) && p.gap == 2 then [(p.gapOff, p.tiles * l.e.cout * 4)] else [])
      writes := (if fini then
          (if last then (if p.store then l.tileWrs p.dst rows j i else []) else l.tileWrs (p.xOff li l) rows j i) else []) ++
        (if last && decide (n + 1 = l.visits) then p.gapWrs l ob rows else []) }

/-- A piece of CNV.FUSE: the visit of a layer. -/
structure FuseVisit where
  li : Nat
  n : Nat
  l : Layer
  /-- where the layer's input lies -/
  off : Nat

/-- The layers one after another. `free` gives the bytes beyond a previous output, which a wider FMT_A may reach (log 28). -/
def Fuse.run (p : Fuse) (nl core : Nat) (s : State) (free : Nat → Byte) :
    Nat → Option (List Byte × Nat) → List Layer → List (Piece × FuseVisit)
  | _, _, [] => []
  | i, prev, l :: r =>
    let ob := fun a => obByte s core a
    let rd : Nat → Byte := match prev with
      | none => fun a => ob (p.src + a)
      | some (bs, _) => fun a => (bs[a]?).getD (free a)
    let rows := l.rows nl ob rd
    let off := (prev.map (·.2)).getD p.src
    (p.layerPieces nl core s i l r.isEmpty ((prev.map (·.1.length)).getD 0) off rows).zipIdx.map (fun (q, n) => (q, ⟨i, n, l, off⟩)) ++
      p.run nl core s free (i + 1) (some (l.bytes rows, p.xOff i l)) r

/-- Array tiles of a visit, and the one that first reads a byte (R76, R92). -/
def FuseVisit.tiles (v : FuseVisit) : Nat :=
  v.l.t.colGroups (v.n / v.l.t.mTiles / v.l.kTiles) * v.l.t.rowGroups (v.n % v.l.t.mTiles)

def FuseVisit.tileReads (v : FuseVisit) (a : Nat) : List (Nat × Nat) :=
  let l := v.l
  let t := l.t
  let i := v.n % t.mTiles
  let kt := v.n / t.mTiles % l.kTiles
  let j := v.n / t.mTiles / l.kTiles
  let rg := a % t.rowGroups i
  let cg := a / t.rowGroups i
  let nr := min 128 (t.rows i - 128 * rg)
  let nc := min 16 (t.cols j - 16 * cg)
  let c0 := j * l.nt + 16 * cg
  let kl := min l.kt (l.e.kPad - kt * l.kt)
  (if l.e.skip then window l.u.a v.off l.m l.e.cin (i * l.mt + 128 * rg) nr (kt * l.kt) kl else []) ++
  window l.u.b l.w l.e.cout l.e.kPad c0 nc (kt * l.kt) kl ++
  (if kt + 1 = l.kTiles then l.u.vecs nc (l.scale + 4 * c0) (l.bias + 4 * c0) else [])

def FuseVisit.tileAt (v : FuseVisit) (off : Nat) : Nat :=
  if !v.l.e.skip && inSpans off (v.l.inReads v.off v.n) then 0
  else ((List.range v.tiles).find? fun a => inSpans off (v.tileReads a)).getD v.tiles

/-- The reply of R125. -/
def fuseOut (x : Ctx) (marks : List (Nat × Nat)) (visits layers : Nat) (r : Res) : Out :=
  let tail := ofBool r.retried <<< 32 + ofBool r.rerun <<< 33 + ofBool x.cmd.hasYielded <<< 35 + x.dcore <<< 40
  match r.fail with
  | none => { reply := visits + (layers - 1) <<< 36 + tail }
  | some (i, st, _) =>
    let m := marks.getD i (0, 0)
    { status := st, reply := m.2 + m.1 <<< 36 + tail }

/-- The work of CNV.FUSE. -/
def fusePlan (x : Ctx) (s : State) : Plan :=
  let p := Fuse.parse x.par
  let ls := p.layers x.par
  let ps := p.run x.nl x.core s (Config.scratch (plainHdr x.cmd.hdr) x.par) 0 none ls
  let ofPiece : {α : Type} → α → (FuseVisit → α) → Nat → α := fun z f n => ((ps[n]?).map fun y => f y.2).getD z
  { pieces := ps.map (·.1), checked := true, scratch := [(p.work, p.len)]
    tileAt := fun n off => ofPiece 0 (fun v => v.tileAt off) n, quanta := tileQuanta ps.length (ofPiece 0 (·.tiles))
    stop := stopTiles ps.length (ofPiece 0 (·.tiles))
    out := fuseOut x (ps.map fun y => (y.2.li, y.2.n)) ((ls.getLast?.map (·.visits)).getD 0) ls.length, mark := markCore x }

/-- Per layer: the expansion's bytes, the array tiles, the conversion of its outputs with their activation. -/
def Layer.charges (l : Layer) : List Charge :=
  let rows := roundUp 128 l.m
  let cols := roundUp 16 l.e.cout
  [⟨.ex, 0, if l.e.skip then 0 else l.e.size l.u.a l.m, 4096⟩] ++
    arrayWork (arrayClass l.u.a l.u.b) rows cols l.e.kPad l.kt l.u.passes 128 ++
    (let n := if 1 ≤ l.act ∧ l.act ≤ 4 then l.m * l.e.cout else 0; vectorWork n n)

def fuseFamily : Family where
  bad := fuseBad
  lvl := fuseLvl
  core _ := true
  ob _ v := let p := Fuse.parse v; (p.work, p.len) :: p.spans (p.layers v)
  charges x _ := chargeList (((Fuse.parse x.par).layers x.par).flatMap (·.charges))
  reach := planReach fusePlan
  steps := planSteps fusePlan
  yieldAt := yieldPlan fusePlan
  work x s := execPlan (fusePlan x s) x s

def execCnvFuse (c : CmdRef) (e : Circ) (s : State) : Outcome State Fault Refusal :=
  .next (runCmd 0x0501 fuseFamily c e s)

/-! ### ABT.RUN (R120 to R124) -/

structure Abt where
  u : Numerics
  e : Expd
  src : Nat
  dst : Nat
  w : Nat
  scale : Nat
  bias : Nat
  oy : Nat
  oh : Nat
  ox : Nat
  ow : Nat
  act : Nat
deriving DecidableEq, Repr

def Abt.parse (v : Nat) : Abt :=
  { u := numOf (v % 2 ^ 128), e := Expd.parse (fld v 255 128), src := fld v 303 256, dst := fld v 367 320, w := fld v 431 384
    scale := fld v 495 448, bias := fld v 559 512, oy := fld v 591 576, oh := fld v 607 592, ox := fld v 623 608
    ow := fld v 639 624, act := fld v 642 640 }

/-- Bytes of a position of the source and of the output plane in row-major form (R261). -/
def Abt.sRow (p : Abt) : Nat := p.u.a.rowBytes p.e.cin
def Abt.dRow (p : Abt) : Nat := p.u.out.rowBytes p.e.cout
def Abt.wLen (p : Abt) : Nat := p.u.b.tensorBytes p.e.cout p.e.kPad
def Abt.srcLen (p : Abt) : Nat := p.e.y.n * p.e.x.n * p.sRow
def Abt.dstLen (p : Abt) : Nat := p.e.y.outN * p.e.x.outN * p.dRow

/-- Element bits plus scales of a local store, in bytes. -/
def storeLen (f : Fmt) (n : Nat) : Nat := cdiv (n * f.width) 8 + (if f.bs = 0 then 0 else cdiv n f.bs)

/-- The limits of R120. The whole source and output planes lie in the Keystone, and W_ADDR needs no multiple of 128: both are
this model's choices (log 72). -/
def abtBad (nl v : Nat) : Bool :=
  let p := Abt.parse v
  let e := p.e
  let taps := e.y.k * e.x.k
  !zeros v [(319, 304), (383, 368), (447, 432), (511, 496), (575, 560), (703, 643)] ||
  (Numerics.parse (v % 2 ^ 128)).isNone || Expd.bad (fld v 255 128) || decide (5 < p.act) || p.oh == 0 || p.ow == 0 ||
  (decide (16 < e.cin) && decide (16 < e.cout)) || decide (512 < e.cin) || decide (512 < e.cout) ||
  decide (7 < e.y.k) || decide (7 < e.x.k) || e.y.d != 1 || e.x.d != 1 || e.y.r != 1 || e.x.r != 1 || e.y.z != 1 ||
  e.x.z != 1 || e.groups != 1 || p.u.passes != 1 || (p.u.a.isWide && (p.u.a != .bf16 || p.u.b != .bf16)) ||
  !pairOk p.u.a p.u.b p.u.passes || e.badFmt p.u.a || p.u.axisM || p.u.bad e.cout || decide (65535 < cdiv e.kPad (grainOf nl p.u.gk)) ||
  decide (0x40000 < storeLen p.u.b (e.cin * taps * e.cout)) ||
  decide (0x40000 < storeLen p.u.a (e.y.k * ((p.ow - 1) * e.x.s + e.x.k) * e.cin)) ||
  p.u.vecsBad p.scale p.bias || !spanKs p.src p.srcLen || !spanKs p.dst p.dstLen || !spanKs p.w p.wLen ||
  (p.u.vecs e.cout p.scale p.bias).any (fun y => !spanKs y.1 y.2) ||
  decide (e.y.outN < p.oy + p.oh) || decide (e.x.outN < p.ox + p.ow)

/-- The compute die whose Abutment engine runs a command (R370): a usable engine of the home quadrant, else the first in
quadrant order from it. -/
def abtDie (s : State) (p : Abt) : Option Nat :=
  ((List.range 16).map fun i => (4 * homeOf p.src + i) % 16).find? fun d =>
    !s.cores.abtBad.contains d && !s.cores.abtMarked.contains d

/-- The engine on which a command starts: the lowest free one of the quadrant, else that of `abtDie` (log 29). -/
def abtPick (x : Ctx) (s : State) : Option Nat :=
  (abtDie s (Abt.parse x.par)).map fun d =>
    (((List.range 4).map fun i => d / 4 * 4 + i).find? fun q =>
      !s.cores.abtBad.contains q && !s.cores.abtMarked.contains q && abutFree s x.c q x.lc).getD d

/-- Outputs of row `oy` (R121). -/
def Abt.row (p : Abt) (x : Ctx) (s : State) (w : List (List Ext)) (oy : Nat) : List (List Word) :=
  let e := p.e
  let rd := fun i => readByte s x.o (p.src + i)
  let vec := fun off i => rdWord (fun b => readByte s x.o (off + b)) i
  let win : Win := ⟨(oy : Nat), (p.ox : Nat), 1, p.ow⟩
  let all : Win := ⟨0, 0, e.y.n, e.x.n⟩
  (List.range p.ow).map fun i =>
    let a := (List.range e.kPad).map fun k =>
      if k < e.kRaw then match e.line win all i (k / e.ck) with
        | some l =>
          let z := p.u.a.rowCode rd e.cin p.sRow l (k % e.ck)
          p.u.a.value z.1 z.2
        | none => Ext.zero
      else Ext.zero
    (List.range e.cout).map fun n =>
      let t := dot p.u.mode (fun k => a.getD k .zero) (cell .zero w n) e.kPad (grainOf x.nl p.u.gk)
      p.u.clip (p.u.act x.nl p.act (vec p.scale n) (vec p.bias n) t)

/-- The source rows that output row `oy` needs. -/
def Abt.srcRows (p : Abt) (oy : Nat) : List Nat :=
  ((List.range p.e.y.k).filterMap fun k => p.e.y.src p.e.replicate oy k).dedup

/-- Source bytes that output row `i` of the command reads: the columns of its window in the rows that no row of the command before
it has read (each source row is read once, R122). -/
def Abt.rowReads (p : Abt) (i : Nat) : List (Nat × Nat) :=
  let e := p.e
  let b := e.x.window p.ox (p.ox + p.ow - 1 : Nat)
  let last : Int := (e.x.n : Int) - 1
  let lo := if e.replicate then min b.1 last else b.1
  let hi := if e.replicate then max b.2 0 else b.2
  if lo ≤ hi then
    ((p.srcRows (p.oy + i)).filter fun r => !((List.range i).any fun j => (p.srcRows (p.oy + j)).contains r)).map fun r =>
      (p.src + (r * e.x.n + lo.toNat) * p.sRow, (hi - lo + 1).toNat * p.sRow)
  else []

/-- One piece per output row. Rows from the first failing one on keep their bits, which is this model's choice (log 72). -/
def Abt.pieces (p : Abt) (x : Ctx) (s : State) : List Piece :=
  let w := storedVals p.u.b (fun i => readByte s x.o (p.w + i)) p.e.cout p.e.kPad
  (List.range p.oh).map fun i =>
    let oy := p.oy + i
    let rows := p.row x s w oy
    { reads := (if i = 0 then (p.w, p.wLen) :: p.u.vecs p.e.cout p.scale p.bias else []) ++ p.rowReads i
      writes := [{ d := .dev (p.dst + (oy * p.e.x.outN + p.ox) * p.dRow)
                   bytes := rows.flatMap fun xs =>
                     let q := p.u.out.storeLine xs
                     packCodes p.u.out.width q.2 ++ q.1.map (BitVec.ofNat 8) }] }

/-- The engine of the die is marked, which ends a queue-fed run (R123, R441). -/
def markAbt (die : Nat) (s : State) : State :=
  let s1 := { s with cores := { s.cores with abtMarked := insNat die s.cores.abtMarked } }
  if (s.sup.run.map (·.kind)) == some .queueFed then beginCrossing s1 else s1

/-- ROWS of R125 counts from the command's first row (log 72). -/
def abtOut (x : Ctx) (die rows : Nat) (r : Res) : Out :=
  let tail := ofBool r.retried <<< 32 + ofBool r.rerun <<< 33 + ofBool x.cmd.hasYielded <<< 35 + die <<< 40
  match r.fail with
  | none => { reply := rows + tail }
  | some (i, st, _) => { status := st, reply := i + tail }

/-- The work of ABT.RUN. Its groups of 16 output positions, which are its quanta and yield boundaries, begin anew with each output
row (DESIGN CHOICE, log 82: R122 does not say whether they run on). -/
def abtPlan (x : Ctx) (s : State) : Plan :=
  let p := Abt.parse x.par
  let die := x.cmd.die.getD 0
  { pieces := p.pieces x s, checked := true, quanta := tileQuanta p.oh fun _ => cdiv p.ow 16
    stop := stopTiles p.oh fun _ => cdiv p.ow 16
    out := abtOut x die p.oh, mark := markAbt die }

/-- MACs of 16 output positions at a time, row by row (R122), the SFU results of the activation, and the traffic. -/
def Abt.charges (p : Abt) (x : Ctx) (s : State) : List Charge :=
  let per := p.e.cin * p.e.y.k * p.e.x.k * p.e.cout
  chargeList ([⟨.ab, 0, p.oh * (p.ow / 16 * 16) * per, 16 * per⟩, ⟨.ab, 0, p.oh * (p.ow % 16) * per, p.ow % 16 * per⟩] ++
    (let n := if 1 ≤ p.act ∧ p.act ≤ 4 then p.oh * p.ow * p.e.cout else 0; vectorWork n n) ++
    traffic (homeOf p.src) ((abtPlan x s).pieces.flatMap Piece.spans))

def abtFamily : Family where
  bad := abtBad
  lvl nl v := let p := Abt.parse v; p.u.badNl nl
  spans v := let p := Abt.parse v
    [(p.src, p.srcLen), (p.dst, p.dstLen), (p.w, p.wLen)] ++ p.u.vecs p.e.cout p.scale p.bias
  refuse x s := if (abtDie s (Abt.parse x.par)).isNone then some (refuse 0x26) else none
  abut x s := abtPick x s
  charges x s := (Abt.parse x.par).charges x s
  reach := planReach abtPlan
  steps := planSteps abtPlan
  yieldAt := yieldPlan abtPlan
  work x s := execPlan (abtPlan x s) x s

def execAbtRun (c : CmdRef) (e : Circ) (s : State) : Outcome State Fault Refusal :=
  .next (runCmd 0x0502 abtFamily c e s)

end Sys2Proof.Machine
end

