-- ==== Sys2Proof/Machine/Image.lean ====
section
/-! DEFINITION. Schedule images: their structures (R402, R403), SCH.LOAD (R404 to R406) and SCH.RUN (R407). -/
namespace Sys2Proof.Machine
open Host

/-! ### Image structures -/

/-- Bytes of an image: `n` bytes at an offset, as a number. -/
abbrev ImgRd := Nat → Nat → Nat

def imgRd (s : State) (a : Nat) : ImgRd := fun off n => readNat s none (a + off) n

structure ImgHdr where
  magic : Nat
  fmt : Nat
  nl : Nat
  parts : Nat
  lcores : Nat
  period : Nat
  ksFirst : Nat
  ksCount : Nat
  imgId : Nat
  len : Nat
  sect : Nat
  stateOff : Nat
  stateN : Nat
  crc : Nat
deriving DecidableEq, Repr

def ImgHdr.parse (h : Nat) : ImgHdr :=
  ⟨fld h 31 0, fld h 35 32, fld h 37 36, fld h 56 48 + 1, fld h 71 64 + 1, fld h 127 96, fld h 139 128, fld h 152 140,
    fld h 191 160, fld h 255 192, fld h 287 256, fld h 319 288, fld h 335 320, fld h 383 352⟩

/-- Header fields out of range (R402). -/
def imgHdrBad (h : Nat) : Bool :=
  let g := ImgHdr.parse h
  !zeros h [(47, 38), (63, 57), (95, 72), (159, 153), (351, 336), (1023, 384)] || g.magic != 0x4B5A494D ||
  !within g.nl 2 3 || decide (192 < g.lcores) || g.period == 0 || decide (4096 < g.ksFirst + g.ksCount) ||
  !divides 64 g.sect || decide (g.len < g.sect + 16 * g.parts) || decide (1024 < g.stateN) ||
  (if g.stateN = 0 then g.stateOff != 0 else decide (g.len < g.stateOff + 16 * g.stateN))

structure TaskRec where
  lcore : Nat
  lc : Bool
  id : Nat
  beat : Nat
  off : Nat
  n : Nat
deriving DecidableEq, Repr

/-- A section: its offset, length and task count (R403). -/
def sectionOf (rd : ImgRd) (g : ImgHdr) (part : Nat) : Nat × Nat × Nat :=
  let v := rd (g.sect + 16 * part) 16
  (fld v 63 0, fld v 95 64, fld v 127 96)

def taskRec (v : Nat) : TaskRec := ⟨fld v 7 0, bit v 8, fld v 63 32, fld v 95 64, fld v 127 96, fld v 143 128⟩

def taskRecs (rd : ImgRd) (sec : Nat × Nat × Nat) : List TaskRec :=
  (List.range sec.2.2).map fun i => taskRec (rd (sec.1 + 32 * i) 32)

/-- `n` packets from an offset on: header, parameters and the offset of each. -/
def packets (rd : ImgRd) (off : Nat) : Nat → List (Nat × Nat × Nat)
  | 0 => []
  | n + 1 =>
    let h := rd off 64
    (h, rd (off + 64) (64 * hPlen h), off) :: packets rd (off + 64 + 64 * hPlen h) n

def taskPackets (rd : ImgRd) (sec : Nat × Nat × Nat) (t : TaskRec) : List (Nat × Nat × Nat) := packets rd (sec.1 + t.off) t.n

/-- FIRST, LAST and TASK_ID of a task's packets (R403). -/
def marksBad (t : TaskRec) (ps : List (Nat × Nat × Nat)) : Bool :=
  ps.zipIdx.any fun (p, i) =>
    hFirst p.1 != (i == 0) || hLast p.1 != decide (i + 1 = ps.length) || hTask p.1 != t.id || hQid p.1 != 0 || hJob p.1 != 0

/-- A tag that names no earlier packet (R403). `hs` holds the headers of a section in order. -/
def tagsBad : List Nat → List Nat → Bool
  | _, [] => false
  | seen, h :: r => ((List.range (min 4 (hNdep h))).any fun i => !seen.contains (hDep h i)) || tagsBad (hTag h :: seen) r

def recordBad (rd : ImgRd) (g : ImgHdr) (sec : Nat × Nat × Nat) (t : TaskRec) (raw : Nat) : Bool :=
  !zeros raw [(31, 9), (255, 144)] || decide (g.lcores ≤ t.lcore) || !divides 64 t.off || t.n == 0 ||
  (let ps := taskPackets rd sec t
   marksBad t ps || ps.any fun p => decide (sec.1 + sec.2.1 < p.2.2 + 64 + 64 * hPlen p.1))

/-- Task records in ascending BEAT_OFF. -/
def ascending : List TaskRec → Bool
  | a :: b :: r => decide (a.beat ≤ b.beat) && ascending (b :: r)
  | _ => true

def sectionBad (rd : ImgRd) (g : ImgHdr) (part : Nat) : Bool :=
  let sec := sectionOf rd g part
  if g.len < sec.1 + sec.2.1 ∨ sec.2.1 < 32 * sec.2.2 then true
  else
    let ts := taskRecs rd sec
    !ascending ts || !decide (ts.map (·.id)).Nodup ||
    (ts.zipIdx.any fun (t, i) => recordBad rd g sec t (rd (sec.1 + 32 * i) 32)) ||
    tagsBad [] ((ts.flatMap (taskPackets rd sec)).map (·.1))

def imgRegions (rd : ImgRd) (g : ImgHdr) : Option (List (Nat × Nat)) :=
  (List.range g.stateN).mapM fun i => regionOf (rd (g.stateOff + 16 * i) 16)

/-- Largest number of streams with USE ≠ 0 that a chained command of a section reads (R170). -/
def sectionStreams (rd : ImgRd) (g : ImgHdr) (part : Nat) : Nat :=
  let sec := sectionOf rd g part
  let ps := (taskRecs rd sec).flatMap (taskPackets rd sec)
  (ps.map fun p => if hOpcode p.1 = 0x0201 ∨ hOpcode p.1 = 0x0203 then (mtxChain p.2.1).streamCount
    else if hOpcode p.1 = 0x0202 then (chain2Chain p.2.1).streamCount else 0).foldl max 0

/-! ### The logical-core map (R406) -/

/-- Physical cores of the logical cores, and the fold count; `none` when they cannot be mapped. -/
def coreMap (u : List Nat) (c : Nat) : Option (List Nat × Nat) :=
  if c ≤ u.length then some (u.take c, 0)
  else if cdiv c 2 ≤ u.length then
    let f := c - u.length
    let z := c - 2 * f
    some ((List.range c).map fun l => u.getD (if l < z then l else z + (l - z) / 2) 0, f)
  else none

/-! ### SCH.LOAD -/

structure Load where
  op : Nat
  slot : Nat
  addr : Nat
deriving DecidableEq, Repr

def Load.parse (v : Nat) : Load := ⟨fld v 1 0, fld v 3 2, fld v 111 64⟩

def loadBad (v : Nat) : Bool :=
  let p := Load.parse v
  decide (1 < p.op) || !zeros v [(63, 4), (127, 112)] ||
  (if p.op = 0 then !divides 4096 p.addr || !spanMem p.addr 128 else p.addr != 0)

/-- Everything of an image that ST_BAD_PARAM answers (R404). -/
def imageBad (rd : ImgRd) (a : Nat) : Bool :=
  let h := rd 0 128
  let g := ImgHdr.parse h
  imgHdrBad h || !spanMem a g.len ||
  crc32 (leBytes 44 h ++ List.replicate 4 0 ++ leBytes (g.len - 48) (rd 48 (g.len - 48))) != g.crc ||
  (match imgRegions rd g with
    | none => true
    | some l => l.any fun r => overlap a g.len r.1 (4096 * r.2)) ||
  (List.range g.parts).any (sectionBad rd g)

/-- Formats that SCH.LOAD accepts (R398, R404). -/
def fmtAccepted (s : State) (f : Nat) : Bool :=
  if formed s then s.dom.fmts.contains f else decide (2 ≤ f) && decide (f ≤ 3) && s.sup.caps.getLsbD f

def claimed (s : State) (job first count : Nat) : Bool :=
  s.img.claims.any fun c => decide (first ≤ c.1) && decide (c.1 < first + count) && decide (c.2.1 ≠ job)

/-- The refusals of R404 by state, in the order of its table. -/
def loadState (x : Ctx) (p : Load) (g : ImgHdr) (s : State) : Option Nat :=
  if g.parts ≠ s.dom.size ∨ s.dom.dstate = 1 then some 0x80
  else if (coreMap (partCores s) g.lcores).isNone then some 0x81
  else if claimed s x.job g.ksFirst g.ksCount then some 0x82
  else if (look s.img.slots p.slot).isSome then some 0x83
  else none

def dropKey {α : Type} (k : Nat) (l : List (Nat × α)) : List (Nat × α) := l.filter fun x => decide (x.1 ≠ k)

/-- The image is registered in its slot, with its claims. -/
def register (x : Ctx) (p : Load) (rd : ImgRd) (g : ImgHdr) (s : State) : State :=
  let z : Slot := { addr := p.addr, imgId := g.imgId, job := x.job, nl := g.nl, lcores := g.lcores, period := g.period
                    ksFirst := g.ksFirst, ksCount := g.ksCount, streams := sectionStreams rd g s.dom.index
                    regions := (imgRegions rd g).getD [], fmt := g.fmt }
  { s with img := { s.img with
    slots := put p.slot z s.img.slots
    claims := s.img.claims ++ (List.range g.ksCount).map fun i => (g.ksFirst + i, x.job, p.slot) } }

def loadImage (x : Ctx) (p : Load) (s : State) : State :=
  let rd := imgRd s p.addr
  let g := ImgHdr.parse (rd 0 128)
  match readFault s x.o x.e p.addr 128 with
  | some f => complete x.c { status := f.1 } (noteReads x.o x.e [(p.addr, 128)] s)
  | none =>
    if !fmtAccepted s g.fmt then complete x.c { status := stRefusedVersion } (noteReads x.o x.e [(p.addr, 128)] s)
    else if g.magic ≠ 0x4B5A494D ∨ g.len < 128 ∨ !spanMem p.addr g.len then
      complete x.c { status := stBadParam } (noteReads x.o x.e [(p.addr, 128)] s)
    else match readFault s x.o x.e p.addr g.len with
      | some f => complete x.c { status := f.1 } (noteReads x.o x.e [(p.addr, g.len)] s)
      | none =>
        let s := noteReads x.o x.e [(p.addr, g.len)] s
        if imageBad rd p.addr || touchesTable s ((p.addr, g.len) :: regionSpans ((imgRegions rd g).getD [])) then complete x.c { status := stBadParam } s
        else if g.nl ≠ x.nl ∨ (formed s ∧ g.nl ≠ s.dom.nlDom) then complete x.c { status := stRefusedNl } s
        else if touchesPool s [(p.addr, g.len)] then complete x.c (refuse 0x31) s
        else match loadState x p g s with
          | some c => complete x.c (refuse c) s
          | none =>
            let m := (coreMap (partCores s) g.lcores).getD ([], 0)
            complete x.c { reply := some (g.imgId + (g.lcores - m.2) <<< 32 + m.2 <<< 40) } (register x p rd g s)

def unloadImage (x : Ctx) (p : Load) (s : State) : State :=
  if (look s.img.slots p.slot).isNone then complete x.c (refuse 0x84) s
  else if (s.img.run.map (·.slot)) = some p.slot || (runsPending s).any (fun y => decide (y.2 = p.slot)) then
    complete x.c (refuse 0x83) s
  else complete x.c { reply := some 0 } { s with img := { s.img with
    slots := dropKey p.slot s.img.slots, claims := s.img.claims.filter fun c => decide (c.2.2 ≠ p.slot) } }

/-- The image that a LOAD reads: its header, and where that names an image, all of it. -/
def loadReach (x : Ctx) (s : State) : List (Nat × Nat) :=
  let p := Load.parse x.par
  let g := ImgHdr.parse (imgRd s p.addr 0 128)
  if p.op ≠ 0 then []
  else (p.addr, 128) :: (if g.magic = 0x4B5A494D && fmtAccepted s g.fmt && decide (128 ≤ g.len) && spanMem p.addr g.len then [(p.addr, g.len)] else [])

def loadFamily : Family where
  bad _ := loadBad
  spans v :=
    let p := Load.parse v
    if p.op = 0 then [(p.addr, 128)] else []
  reach := loadReach
  work x s :=
    let p := Load.parse x.par
    if p.op = 0 then loadImage x p s else unloadImage x p s

def execSchLoad (c : CmdRef) (e : Circ) (s : State) : Outcome State Fault Refusal :=
  .next (runCmd 0x0C01 loadFamily c e s)

/-! ### SCH.RUN -/

structure SchRun where
  slot : Nat
  ckEn : Bool
  count : Nat
  start : Nat
  ckAddr : Nat
  ckSlot : Nat
deriving DecidableEq, Repr

def SchRun.parse (v : Nat) : SchRun := ⟨fld v 1 0, bit v 2, fld v 95 64, fld v 191 128, fld v 239 192, fld v 287 256⟩

def schRunBad (v : Nat) : Bool :=
  let p := SchRun.parse v
  !zeros v [(63, 3), (127, 96), (255, 240), (319, 288)] || p.count == 0 ||
  (if p.ckEn then !divides 4096 p.ckAddr || !inBorug p.ckAddr ||
      (p.ckSlot != 0 && !spanBorug p.ckAddr (16384 * p.ckSlot))
    else p.ckAddr != 0 || p.ckSlot != 0)

def schRunSpans (v : Nat) : List (Nat × Nat) :=
  let p := SchRun.parse v
  if p.ckEn && p.ckSlot != 0 then [(p.ckAddr, 16384 * p.ckSlot)] else []

def schRunRefuse (x : Ctx) (s : State) : Option Out :=
  let p := SchRun.parse x.par
  if s.sup.dstate = .ready ∧ fencedAny s then some (refuse 0x93)
  else match look s.img.slots p.slot with
  | none => some (refuse 0x84)
  | some z =>
    if (schRunSpans x.par).any fun y => z.regions.any fun r => overlap y.1 y.2 r.1 (4096 * r.2) then some { status := stBadParam }
    else if (coreMap (partCores s) z.lcores).isNone then some (refuse 0x81)
    else if !p.ckEn && s.dom.red == 3 then some (refuse 0x85)
    else none

/-- The SCH.RUN waits for its runs, which IMAGE_RUN_START starts. -/
def schRunWork (x : Ctx) (s : State) : State :=
  let p := SchRun.parse x.par
  let z := (look s.img.slots p.slot).getD noSlot
  let q : Queue := { state := .opened, nl := z.nl, gen := z.fmt, job := x.job }
  let r : ImgRun := { c := x.c, slot := p.slot, count := p.count, startBeat := p.start, ckEn := p.ckEn
                      ckAddr := p.ckAddr, ckSlot := p.ckSlot, job := x.job, lastSave := p.start, q := q, e := x.e }
  modCmd x.c (fun k => { k with ph := .running 0 })
    { s with img := { s.img with run := some r, seqs := put x.job 0 s.img.seqs } }

def schRunFamily : Family where
  bad _ := schRunBad
  spans := schRunSpans
  refuse := schRunRefuse
  ready _ s := s.img.run.isNone
  work := schRunWork

def execSchRun (c : CmdRef) (e : Circ) (s : State) : Outcome State Fault Refusal :=
  .next (if (s.img.run.map (·.c)) = some c then s else runCmd 0x0C02 schRunFamily c e s)

end Sys2Proof.Machine
end

