-- ==== Sys2Proof/Machine/Mov.lean ====
section
/-! DEFINITION. The move commands: MOV.TILE, MOV.EXPAND, MOV.GATHER and MOV.FILL (R257 to R270, R233). -/
namespace Sys2Proof.Machine
open Host

/-! ### MOV.TILE (R262 to R266) -/

/-- An end of a move: an operand-buffer offset or a device address. -/
inductive End where
  | ob (off : Nat)
  | dev (a : Nat)
deriving DecidableEq, Repr

def endOf (ob : Bool) (a : Nat) : End := if ob then .ob (a % 2 ^ 32) else .dev a

/-- The pairs of R257. -/
def legalEnds : End → End → Bool
  | .dev a, .dev b => (inBorug a && inKs b) || (inKs a && (inBorug b || inKs b || inWin b)) || (inWin a && inKs b)
  | .dev a, .ob _ => inKs a
  | .ob _, .dev b => inKs b
  | .ob _, .ob _ => false

structure MovTile where
  layout : Nat
  src : End
  dst : End
  tr : Bool
  f : Fmt
  repl : Nat
  len : Nat
  lines : Nat
  run : Nat
  rowElems : Nat
  col0 : Nat
  pitch : Nat
deriving DecidableEq, Repr

/-- The map of R265; a PITCH of 0 is the row size (R261). -/
def MovTile.parse (v : Nat) : MovTile :=
  let f := fmtOf (fld v 11 8)
  let re := fld v 319 288
  { layout := fld v 1 0, src := endOf (bit v 2) (fld v 79 32), dst := endOf (bit v 3) (fld v 143 96), tr := bit v 4
    f := f, repl := fld v 15 12, len := fld v 207 160, lines := fld v 243 224, run := fld v 275 256, rowElems := re
    col0 := fld v 351 320, pitch := if fld v 383 352 = 0 then f.rowBytes re else fld v 383 352 }

/-- Length of the tile-layout end and of the row-major end's span (R260, R261). -/
def MovTile.tileLen (p : MovTile) : Nat := p.f.tensorBytes p.lines p.run
def MovTile.rowsLen (p : MovTile) : Nat :=
  ((if p.tr then p.run else p.lines) - 1) * p.pitch + p.f.rowBytes p.rowElems

def MovTile.srcLen (p : MovTile) : Nat := if p.layout = 0 then p.len else if p.layout = 1 then p.rowsLen else p.tileLen
def MovTile.dstLen (p : MovTile) : Nat := if p.layout = 0 then p.len else if p.layout = 1 then p.tileLen else p.rowsLen

/-- The destinations of a device end: one, or one in every home of REPL (R264). -/
def MovTile.copies (p : MovTile) : List Nat :=
  match p.dst with
  | .ob _ => []
  | .dev a => if p.repl = 0 then [a] else ((List.range 4).filter fun q => bit p.repl q).map fun q => a + q <<< 30

def endSpan (n : Nat) : End → List (Nat × Nat)
  | .ob _ => []
  | .dev a => [(a, n)]
def endOb (n : Nat) : End → List (Nat × Nat)
  | .ob o => [(o, n)]
  | .dev _ => []
def endObOk (n : Nat) : End → Bool
  | .ob o => obOk o n
  | .dev _ => true
def endBorug : End → Bool
  | .ob _ => false
  | .dev a => inBorug a
def endAligned : End → Bool
  | .ob o => divides 128 o
  | .dev a => divides 128 a
def End.isOb : End → Bool
  | .ob _ => true
  | .dev _ => false

def movTileSpans (v : Nat) : List (Nat × Nat) :=
  let p := MovTile.parse v
  endSpan p.srcLen p.src ++ p.copies.map fun a => (a, p.dstLen)

/-- R266 and the cases of R8. With LAYOUT = RAW the fields LINES, RUN, ROW_ELEMS, COL0 and PITCH may hold any value (DESIGN CHOICE,
log 82: the map of R265 says nothing of them there). -/
def movTileBad (v : Nat) : Bool :=
  let p := MovTile.parse v
  let raw := p.layout == 0
  let cols := if p.tr then p.lines else p.run
  !zeros v [(7, 5), (31, 16), (95, 80), (159, 144), (223, 208), (255, 244), (287, 276), (511, 384)] ||
  p.layout == 3 || (raw && fld v 11 8 != 0) || !fmtOk (fld v 11 8) ||
  (bit v 2 && fld v 79 64 != 0) || (bit v 3 && fld v 143 128 != 0) ||
  (raw && p.len == 0) || (!raw && (p.len != 0 || p.lines == 0 || p.run == 0)) ||
  !legalEnds p.src p.dst || !endObOk p.srcLen p.src || !endObOk p.dstLen p.dst ||
  (p.layout == 1 && p.src.isOb) || (p.layout == 2 && p.dst.isOb) ||
  (p.repl != 0 && (match p.dst with
    | .ob _ => true
    | .dev a => !inKs a || fld a 31 30 != 0)) ||
  (p.tr && (raw || endBorug p.src || endBorug p.dst || p.f.bs != 0)) ||
  (!raw && (decide (p.rowElems < p.col0 + cols) ||
    (p.f.bs != 0 && !(divides p.f.bs p.col0 && divides p.f.bs p.run && divides p.f.bs p.rowElems)) ||
    (fld v 383 352 != 0 && (decide (p.pitch < p.f.rowBytes p.rowElems) || !divides 64 p.pitch)) ||
    !endAligned (if p.layout = 1 then p.dst else p.src))) ||
  (endSpan p.srcLen p.src).any fun x => p.copies.any fun a => overlap x.1 x.2 a p.dstLen

/-- Bytes of the source end from offset `i` on. -/
def endRead (s : State) (x : Ctx) (src : End) (i : Nat) : Byte :=
  match src with
  | .ob o => obByte s x.core (o + i)
  | .dev a => readByte s x.o (a + i)

def readSpan (src : End) (off n : Nat) : List (Nat × Nat) × List (Nat × Nat) :=
  match src with
  | .ob o => ([], [(o + off, n)])
  | .dev a => ([(a + off, n)], [])

/-- Writes of bytes at an offset of the destination, one per copy. -/
def MovTile.put (p : MovTile) (off : Nat) (next : Bool) (bs : List Byte) : List Wr :=
  match p.dst with
  | .ob o => [⟨.ob (o + off), bs, next, false⟩]
  | .dev _ => p.copies.map fun a => ⟨.dev (a + off), bs, next, false⟩

def endAddr : End → Nat
  | .ob o => o
  | .dev a => a

/-- Start of source line `u` of a RAW move, as an offset from the source (R270). -/
def rawStart (src : Nat) (u : Nat) : Nat := if u = 0 then 0 else (src / 64 + u) * 64 - src

/-- The unit of source line `u` of a RAW move: it reads its line. A destination line goes with the lowest source line whose
bytes it holds; `next` marks one that also holds bytes of the line after (R270). -/
def rawPiece (p : MovTile) (s : State) (x : Ctx) (units : Nat) (u : Nat) : Piece :=
  let a := endAddr p.src
  let d := endAddr p.dst
  let b0 := rawStart a u
  let b1 := if u + 1 = units then p.len else rawStart a (u + 1)
  let r := readSpan p.src b0 (b1 - b0)
  -- destination lines whose first byte comes from this unit
  let lines := (linesOf (d + b0) (b1 - b0)).filter fun l => decide (l * 64 - d ≥ b0)
  { reads := r.1, obReads := r.2
    writes := lines.flatMap fun l =>
      let w0 := l * 64 - d
      let w1 := min p.len ((l + 1) * 64 - d)
      p.put w0 (decide (b1 < w1)) ((List.range (w1 - w0)).map fun i => endRead s x p.src (w0 + i)) }

/-- The window's part of the row-major form that a tile covers: per row, offset and length of elements and scales (R261). -/
def MovTile.rowSpans (p : MovTile) (t : Nat × Nat × Nat × Nat) : List (Nat × Nat) :=
  let f := p.f
  if p.tr then
    (List.range t.2.2.2).map fun j => ((t.2.2.1 + j) * p.pitch + f.dataBytes (p.col0 + t.1), f.dataBytes t.2.1)
  else
    (List.range t.2.1).flatMap fun i =>
      let row := (t.1 + i) * p.pitch
      (row + f.dataBytes (p.col0 + t.2.2.1), f.dataBytes t.2.2.2) ::
        (if f.bs = 0 then [] else [(row + f.dataBytes p.rowElems + (p.col0 + t.2.2.1) / f.bs, f.scales t.2.2.2)])

def lastTile (p : MovTile) (t : Nat × Nat × Nat × Nat) : Bool :=
  t.1 + t.2.1 == p.lines && t.2.2.1 + t.2.2.2 == p.run

def r2tPiece (p : MovTile) (s : State) (x : Ctx) (t : Nat × Nat × Nat × Nat) : Piece :=
  let el := fun l k => p.f.rowCode (endRead s x p.src) p.rowElems p.pitch (if p.tr then k else l)
    (p.col0 + if p.tr then l else k)
  { reads := (p.rowSpans t).flatMap fun y => (readSpan p.src y.1 y.2).1
    writes := p.put (p.f.tileStart p.run t) false
      (p.f.tileOf el t ++ if lastTile p t then p.f.padBytes p.lines p.run else []) }

/-- Each fragment of a row is a write of its own, so a poisoned destination line that a move overwrites whole in several fragments
is not cleared: the first of them fails (DESIGN CHOICE, log 82: R273 does not say how a move's writes are grouped). -/
def t2rPiece (p : MovTile) (s : State) (x : Ctx) (t : Nat × Nat × Nat × Nat) : Piece :=
  let f := p.f
  let el := fun l k => f.tileCode (endRead s x p.src) p.lines p.run l k
  let r := readSpan p.src (f.tileStart p.run t) (t.2.1 * f.rowBytes t.2.2.2)
  { reads := r.1, obReads := r.2
    writes :=
      if p.tr then
        (List.range t.2.2.2).flatMap fun j =>
          p.put ((t.2.2.1 + j) * p.pitch + f.dataBytes (p.col0 + t.1)) false
            (packCodes f.width ((List.range t.2.1).map fun i => (el (t.1 + i) (t.2.2.1 + j)).1))
      else
        (List.range t.2.1).flatMap fun i =>
          let row := (t.1 + i) * p.pitch
          let es := (List.range t.2.2.2).map fun j => el (t.1 + i) (t.2.2.1 + j)
          p.put (row + f.dataBytes (p.col0 + t.2.2.1)) false (packCodes f.width (es.map (·.1))) ++
            (if f.bs = 0 then [] else
              p.put (row + f.dataBytes p.rowElems + (p.col0 + t.2.2.1) / f.bs) false
                ((List.range (f.scales t.2.2.2)).map fun b => BitVec.ofNat 8 (es.getD (b * f.bs) (0, 0)).2)) }

def MovTile.pieces (p : MovTile) (s : State) (x : Ctx) : List Piece :=
  if p.layout = 0 then
    let n := (linesOf (endAddr p.src) p.len).length
    (List.range n).map (rawPiece p s x n)
  else (p.f.tiles p.lines p.run).map fun t => if p.layout = 1 then r2tPiece p s x t else t2rPiece p s x t

def movTileCore (v : Nat) : Bool := bit v 2 || bit v 3

/-- The work of MOV.TILE. -/
def movTilePlan (x : Ctx) (s : State) : Plan :=
  let p := MovTile.parse x.par
  let ps := p.pieces s x
  { pieces := ps, mixed := true, quanta := byteQuanta ps 0x10000, stop := stopBytes ps 0x10000
    out := movOut ps.length (if movTileCore x.par then x.dcore else 0xFF) }

/-- Ring hops of a move between device addresses: over the route of R17, or, with REPL, in the ascending direction, each copy
from the one before it (R264). An operand buffer is in its core's quadrant. -/
def MovTile.hops (p : MovTile) (q0 q : Nat) : Nat :=
  if p.repl = 0 then ringHops q0 q
  else
    let far := fun q => (q + 4 - q0) % 4
    far q - (((List.range 4).filter fun r => bit p.repl r && decide (far r < far q)).map far).foldl max 0

def MovTile.charges (p : MovTile) (x : Ctx) : List Charge :=
  let read := endSpan p.srcLen p.src
  let put := p.copies.map fun a => (a, p.dstLen)
  let q0 := match p.src, p.dst with
    | .dev a, .dev b => if inWin a then homeOf b else servedBy a
    | _, _ => x.core / 52
  chargeList ((List.zip (trafficBy (ringHops q0) read) (trafficBy (p.hops q0) put)).map fun y =>
    { y.1 with units := y.1.units + y.2.units })

def movTileFamily : Family where
  bad _ := movTileBad
  lvl nl v := fmtNl nl [fmtOf (fld v 11 8)]
  core := movTileCore
  spans := movTileSpans
  ob _ v := let p := MovTile.parse v; endOb p.srcLen p.src ++ endOb p.dstLen p.dst
  home v := let p := MovTile.parse v
    match p.src, p.dst with
    | .dev a, _ => some a
    | .ob _, .dev b => some b
    | .ob _, .ob _ => none
  window v := match (MovTile.parse v).dst with
    | .dev a => inWin a
    | .ob _ => false
  charges x _ := (MovTile.parse x.par).charges x
  reach := planReach movTilePlan
  steps := planSteps movTilePlan
  yieldAt := yieldPlan movTilePlan
  work x s := execPlan (movTilePlan x s) x s

def execMovTile (c : CmdRef) (e : Circ) (s : State) : Outcome State Fault Refusal :=
  .next (runCmd 0x0101 movTileFamily c e s)

/-! ### MOV.EXPAND (R267) -/

structure MovExpand where
  e : Expd
  f : Fmt
  src : Win
  out : Win
  srcOff : Nat
  dstOff : Nat
  dstLen : Nat
deriving DecidableEq, Repr

def MovExpand.parse (v : Nat) : MovExpand :=
  { e := Expd.parse (v % 2 ^ 128), f := fmtOf (fld v 131 128)
    src := ⟨(fld v 175 160 : Nat), (fld v 191 176 : Nat), fld v 207 192, fld v 223 208⟩
    out := ⟨(fld v 239 224 : Nat), (fld v 255 240 : Nat), fld v 271 256, fld v 287 272⟩
    srcOff := fld v 319 288, dstOff := fld v 351 320, dstLen := fld v 383 352 }

def MovExpand.srcLen (p : MovExpand) : Nat := p.f.tensorBytes (p.src.h * p.src.w) p.e.cin
def MovExpand.size (p : MovExpand) : Nat := p.e.size p.f (p.out.h * p.out.w)

/-- The source window covers what an output window needs, after clipping (R107). -/
def covers (src need : Win) : Bool :=
  need.h == 0 || need.w == 0 ||
    (decide (src.y ≤ need.y) && decide (need.y + need.h ≤ src.y + src.h) &&
      decide (src.x ≤ need.x) && decide (need.x + need.w ≤ src.x + src.w))

def movExpandBad (v : Nat) : Bool :=
  let p := MovExpand.parse v
  !zeros v [(159, 132), (511, 384)] || Expd.bad (v % 2 ^ 128) || !fmtOk (fld v 131 128) || p.e.badFmt p.f ||
  p.out.h == 0 || p.out.w == 0 || !divides 128 p.dstLen ||
  decide (p.e.y.outN < (fld v 239 224) + p.out.h) || decide (p.e.x.outN < (fld v 255 240) + p.out.w) ||
  !covers p.src (p.e.inWindow p.out) || decide (p.dstLen < p.size) ||
  !obOk p.srcOff p.srcLen || !obOk p.dstOff p.dstLen ||
  (p.f.bs != 0 && !divides p.f.bs p.e.cin)

/-- The expanded rows, one piece each, block by block (R103, R105). -/
def expandPieces (e : Expd) (f : Fmt) (o src : Win) (srcOff dstOff : Nat) (rd : Nat → Byte) : List Piece :=
  let n := roundUp 128 (o.h * o.w)
  (List.range e.na).flatMap fun b => (List.range n).map fun row =>
    { obReads := (e.reads f o src b row).map fun y => (srcOff + y.1, y.2)
      writes := (f.lineWr n e.kPad row (e.el f rd o src b row)).map fun w =>
        { d := .ob (dstOff + b * f.tensorBytes n e.kPad + w.1), bytes := w.2 } }

/-- The work of MOV.EXPAND. -/
def movExpandPlan (x : Ctx) (s : State) : Plan :=
  let p := MovExpand.parse x.par
  let ps := if p.e.skip then [] else
    expandPieces p.e p.f p.out p.src p.srcOff p.dstOff fun i => obByte s x.core (p.srcOff + i)
  { pieces := ps, mixed := true, quanta := byteQuanta ps 4096, stop := stopBytes ps 4096, out := movOut ps.length x.dcore }

def movExpandFamily : Family where
  bad _ := movExpandBad
  lvl nl v := fmtNl nl [fmtOf (fld v 131 128)]
  core _ := true
  ob _ v := let p := MovExpand.parse v; [(p.srcOff, p.srcLen), (p.dstOff, p.dstLen)]
  charges x s := chargeList [⟨.ex, 0, (((movExpandPlan x s).pieces.flatMap (·.writes)).map Wr.size).sum, 4096⟩]
  reach := planReach movExpandPlan
  steps := planSteps movExpandPlan
  yieldAt := yieldPlan movExpandPlan
  work x s := execPlan (movExpandPlan x s) x s

def execMovExpand (c : CmdRef) (e : Circ) (s : State) : Outcome State Fault Refusal :=
  .next (runCmd 0x0102 movExpandFamily c e s)

/-! ### MOV.GATHER (R268, R131, R132, R149) -/

structure Gather where
  rows : Nat
  cols : Nat
  f : Fmt
  table : Nat
  rowBytes : Nat
  tableRows : Nat
  idx : Nat
deriving DecidableEq, Repr

/-- The table row that row `r` takes: `none` for a row of +0; a row beyond the table stops the command (R149). -/
def gatherIdx (s : State) (core idx r : Nat) : Option Nat :=
  let i := obNat s core (idx + 4 * r) 4
  if i = 0xFFFFFFFF then none else some i

/-- Parity fails in a span of the operand buffer (R92). -/
def parityIn (e : Circ) (off n : Nat) : Bool := e.parity.any fun o => decide (off ≤ o) && decide (o < off + n)

/-- Reads of row `r` of a gather: its index, and elements and scales of its table row. -/
def Gather.piece (g : Gather) (s : State) (x : Ctx) (r : Nat) : Piece :=
  let p : Piece := { obReads := [(g.idx + 4 * r, 4)] }
  if parityIn x.e (g.idx + 4 * r) 4 then p
  else match gatherIdx s x.core g.idx r with
    | none => p
    | some i =>
      if g.tableRows ≤ i then { p with fault := some (stBadParam, 0xFF) }
      else { p with reads := [(g.table + i * g.rowBytes, g.f.rowBytes g.cols)] }

/-- Code and scale of column `c` of row `r` of a gather. -/
def Gather.el (g : Gather) (s : State) (x : Ctx) (r c : Nat) : Nat × Nat :=
  match gatherIdx s x.core g.idx r with
  | none => (0, 0)
  | some i => g.f.rowCode (fun b => readByte s x.o (g.table + i * g.rowBytes + b)) g.cols g.rowBytes 0 c

def Gather.parse (v : Nat) : Gather :=
  ⟨fld v 19 0, fld v 51 32, fmtOf (fld v 55 52), fld v 111 64, fld v 159 128, fld v 191 160, fld v 223 192⟩

/-- The table's span lies in the Keystone or the Borug range (R149). -/
def tableOk (a n : Nat) : Bool := if n = 0 then inBorug a || inKs a else spanMem a n

def movGatherBad (v : Nat) : Bool :=
  let g := Gather.parse v
  !zeros v [(31, 20), (63, 56), (127, 112)] || g.rows == 0 || g.cols == 0 || !fmtOk (fld v 55 52) ||
  !g.f.whole g.cols || !divides 64 g.table || !divides 64 g.rowBytes || decide (g.rowBytes < g.f.rowBytes g.cols) ||
  !tableOk g.table (g.tableRows * g.rowBytes) ||
  !obOk g.idx (4 * g.rows) || !obOk (fld v 255 224) (g.f.tensorBytes g.rows g.cols)

/-- The work of MOV.GATHER. -/
def movGatherPlan (x : Ctx) (s : State) : Plan :=
  let g := Gather.parse x.par
  let dst := fld x.par 255 224
  let ps := (List.range g.rows).map fun r =>
    { g.piece s x r with writes := (g.f.lineWr g.rows g.cols r (g.el s x r)).map fun w =>
        { d := .ob (dst + w.1), bytes := w.2 } }
  { pieces := markArrived x.c s ps, out := rowOut x g.rows }

def movGatherFamily : Family where
  bad _ := movGatherBad
  lvl nl v := fmtNl nl [fmtOf (fld v 55 52)]
  core _ := true
  thread _ := true
  spans v := let g := Gather.parse v; if g.tableRows = 0 then [] else [(g.table, g.tableRows * g.rowBytes)]
  ob _ v := let g := Gather.parse v; [(g.idx, 4 * g.rows), (fld v 255 224, g.f.tensorBytes g.rows g.cols)]
  home v := some (fld v 111 64)
  charges x s := let g := Gather.parse x.par
    chargeList (vectorWork (g.rows * g.cols) 0 ++ planTraffic movGatherPlan x s)
  reach := planReach movGatherPlan
  steps := planSteps movGatherPlan
  work x s := execPlan (movGatherPlan x s) x s

def execMovGather (c : CmdRef) (e : Circ) (s : State) : Outcome State Fault Refusal :=
  .next (runRows 0x0103 movGatherFamily (fun x s => let g := Gather.parse x.par; (g.rows, fun r => (g.piece s x r).reads)) c e s)

/-! ### MOV.FILL (R269, R233) -/

structure Fill where
  mode : Nat
  ob : Bool
  f : Fmt
  dst : Nat
  len : Nat
  lines : Nat
  run : Nat
  value : Word
  scale : Word
  stream : Nat
  tensor : Nat
  row0 : Nat
  rowLen : Nat
  col0 : Nat
deriving DecidableEq, Repr

def Fill.parse (v : Nat) : Fill :=
  { mode := fld v 1 0, ob := bit v 2, f := fmtOf (fld v 7 4), dst := if bit v 2 then fld v 63 32 else fld v 79 32
    len := fld v 143 96, lines := fld v 179 160, run := fld v 211 192, value := BitVec.ofNat 32 (fld v 255 224)
    scale := BitVec.ofNat 32 (fld v 287 256), stream := fld v 319 288, tensor := fld v 351 320, row0 := fld v 383 352
    rowLen := fld v 415 384, col0 := fld v 447 416 }

def Fill.random (p : Fill) : Bool := p.mode != 0
def Fill.size (p : Fill) : Nat := p.f.tensorBytes p.lines p.run

/-- R269. With DST_OB = 1 bits [79:64] of the address field must be 0 (DESIGN CHOICE, log 79: the map puts the offset in
[63:32] and says nothing of them). In the constant modes STREAM, TENSOR_ID, ROW0, ROW_LEN and COL0 may hold any value (DESIGN
CHOICE, log 82: the map says nothing of them there). -/
def movFillBad (v : Nat) : Bool :=
  let p := Fill.parse v
  !zeros v [(3, 3), (31, 8), (95, 80), (159, 144), (191, 180), (223, 212)] || p.mode == 3 ||
  (p.random && !p.ob) || !fmtOk (fld v 7 4) || (!p.random && fld v 287 256 != 0) ||
  (if p.ob then
    fld v 79 64 != 0 || p.len != 0 || p.lines == 0 || p.run == 0 || !p.f.whole p.run || !obOk p.dst p.size
  else
    fld v 7 4 != 0 || !divides 4 p.dst || !divides 4 p.len || p.len == 0 || !spanMem p.dst p.len) ||
  (p.random && (!isFin32 p.value || !isFin32 p.scale || (p.mode == 2 && isNeg32 p.scale) ||
    decide (p.rowLen < p.col0 + p.run)))

/-- `(f + 0.5) · 2^-16`, exactly. -/
def unit16 (f : Nat) : Ext := .fin (2 * f + 1 : Nat) (-17)

/-- `√(-2 ln U1)` of R233. -/
def normalR (nl : Nat) (f1 : Nat) : Word := sfu nl .sqrt (fmul 0xC0000000#32 (sfu nl .ln (rne32 (unit16 f1))))

/-- The value of an element of linear index `l` (R233); `f` gives the field of an index. -/
def Fill.draw (p : Fill) (nl : Nat) (f : Nat → Nat) (l : Nat) : Word :=
  if p.mode = 1 then fadd p.value (rne32 ((val32 p.scale).mul (unit16 (f l))))
  else
    let i := l - l % 2
    let r := normalR nl (f i)
    let z := fmul r (sfu nl (if l % 2 = 0 then .cos else .sin) (rne32 (unit16 (f (i + 1)))))
    fadd p.value (fmul p.scale z)

def Fill.line (p : Fill) (nl lr r : Nat) : List Word :=
  (List.range p.run).map fun c =>
    if p.random then
      p.draw nl (lunaField lr p.stream p.tensor 8 16) (linIndex p.row0 r p.rowLen p.col0 c)
    else p.value

/-- Memory constant: one piece per destination line. -/
def Fill.memPieces (p : Fill) : List Piece :=
  (linesOf p.dst p.len).map fun l =>
    let a := max p.dst (l * 64)
    let b := min (p.dst + p.len) (l * 64 + 64)
    { writes := [{ d := .dev a, bytes := (List.replicate ((b - a) / 4) (leBytes 4 p.value.toNat)).flatten }] }

/-- Operand-buffer modes: one piece per tile; the first reads the bound Luna record of a random mode (R223, R270). -/
def Fill.obPieces (p : Fill) (x : Ctx) : List Piece :=
  let el := fun l k => p.f.storeEl (p.line x.nl x.lunaRec l) k
  (p.f.tiles p.lines p.run).map fun t =>
    { fault := if p.random && t.1 == 0 && t.2.2.1 == 0 then x.cmd.lunaBad else none
      writes := [{ d := .ob (p.dst + p.f.tileStart p.run t)
                   bytes := p.f.tileOf el t ++
                     (if t.1 + t.2.1 = p.lines ∧ t.2.2.1 + t.2.2.2 = p.run then p.f.padBytes p.lines p.run else []) }] }

/-- The work of MOV.FILL. A failed read of the Luna record leaves every unit as it was (R270). -/
def movFillPlan (x : Ctx) (_ : State) : Plan :=
  let p := Fill.parse x.par
  let ps := if p.ob then p.obPieces x else p.memPieces
  let drawFails := p.random && x.cmd.lunaBad.isSome
  { pieces := ps, mixed := !drawFails, quanta := byteQuanta ps 0x10000, stop := stopBytes ps 0x10000
    out := movOut ps.length (if p.ob then x.dcore else 0xFF) }

/-- A constant fill is traffic, or bytes that the core writes; a uniform value takes two operations, a normal one four and three
SFU results (R233, R269). -/
def Fill.charges (p : Fill) : List Charge :=
  let n := p.lines * p.run
  chargeList (if !p.ob then traffic (servedBy p.dst) [(p.dst, p.len)]
    else if p.mode = 0 then [⟨.ex, 0, p.size, 4096⟩]
    else if p.mode = 1 then vectorWork (2 * n) 0 else vectorWork (4 * n) (3 * n))

def movFillFamily : Family where
  bad _ := movFillBad
  lvl nl v := fmtNl nl [fmtOf (fld v 7 4)]
  core v := bit v 2
  thread v := fld v 1 0 != 0
  spans v := let p := Fill.parse v; if p.ob then [] else [(p.dst, p.len)]
  ob _ v := let p := Fill.parse v; if p.ob then [(p.dst, p.size)] else []
  draws v := (Fill.parse v).random
  refuse x s := needLuna (Fill.parse x.par).random x s
  charges x _ := (Fill.parse x.par).charges
  reach := planReach movFillPlan
  steps := planSteps movFillPlan
  yieldAt := yieldPlan movFillPlan
  work x s := execPlan (movFillPlan x s) x s

def execMovFill (c : CmdRef) (e : Circ) (s : State) : Outcome State Fault Refusal :=
  .next (runCmd 0x0104 movFillFamily c e s)

end Sys2Proof.Machine
end

