-- ==== Sys2Proof/Machine/Vec.lean ====
section
/-! DEFINITION. Vector commands VEC.RUN and VEC.STATS (R144 to R155). -/
namespace Sys2Proof.Machine
open Host

/-! ### VEC.RUN (R148 to R151) -/

structure VSrc where
  f : Fmt
  mode : Nat
  addr : Nat
  idx : Nat
  rowBytes : Nat
  tableRows : Nat
  raw : Nat
deriving DecidableEq, Repr

def VSrc.parse (v : Nat) : VSrc :=
  ⟨fmtOf (fld v 3 0), fld v 5 4, if fld v 5 4 = 2 then fld v 63 16 else fld v 47 16, fld v 95 64, fld v 127 96, fld v 159 128, v⟩

structure VOp where
  opc : Nat
  d : Nat
  a : Nat
  b : Nat
  c : Nat
  imm : Nat
  raw : Nat
deriving DecidableEq, Repr

def VOp.parse (v : Nat) : VOp := ⟨fld v 5 0, fld v 9 6, fld v 13 10, fld v 17 14, fld v 21 18, fld v 24 22, v⟩

structure VecRun where
  rows : Nat
  cols : Nat
  outReg : Nat
  out : Fmt
  srcs : List VSrc
  dst : Nat
  work : Nat
  workLen : Nat
  imms : List Word
  ops : List VOp
deriving DecidableEq, Repr

/-- The map of R148. -/
def VecRun.parse (v : Nat) : VecRun :=
  { rows := fld v 19 0, cols := fld v 47 32, outReg := fld v 55 52, out := fmtOf (fld v 59 56)
    srcs := (List.range 3).map fun i => VSrc.parse (fld v (319 + 256 * i) (64 + 256 * i))
    dst := fld v 863 832, work := fld v 895 864, workLen := fld v 927 896
    imms := (List.range 8).map fun i => BitVec.ofNat 32 (fld v (991 + 32 * i) (960 + 32 * i))
    ops := (List.range (fld v 51 48 + 1)).map fun i => VOp.parse (fld v (1247 + 32 * i) (1216 + 32 * i)) }

/-- SFU operation of a code (R150). -/
def sfuOf : Nat → Option Sfu
  | 0x10 => some .exp2 | 0x11 => some .log2 | 0x12 => some .rcp | 0x13 => some .rsqrt | 0x14 => some .sqrt
  | 0x15 => some .sin | 0x16 => some .cos | 0x17 => some .exp | 0x18 => some .ln | 0x19 => some .sinr | 0x1A => some .cosr
  | 0x20 => some (.curve .sigmoid) | 0x21 => some (.curve .tanh) | 0x22 => some (.curve .gelu) | 0x23 => some (.curve .silu)
  | _ => none

def VOp.isRow (o : VOp) : Bool := o.opc == 0x30 || o.opc == 0x31
def VOp.known (o : VOp) : Bool := (decide (1 ≤ o.opc) && decide (o.opc ≤ 0xC)) || (sfuOf o.opc).isSome || o.isRow
/-- Registers that an operation reads (R151). -/
def VOp.reads (o : VOp) : List Nat :=
  if o.opc ≤ 5 then [o.a, o.b] else if o.opc = 0xB then [o.a, o.b, o.c] else [o.a]

/-- An operation on whole rows of the registers (R150, R151). -/
def VOp.eval (o : VOp) (nl : Nat) (imms : List Word) (regs : List (List Word)) : List Word :=
  let a := regs.getD o.a []
  let b := regs.getD o.b []
  let c := regs.getD o.c []
  let i := imms.getD o.imm 0
  match o.opc with
  | 0x01 => List.zipWith fadd a b
  | 0x02 => List.zipWith fsub a b
  | 0x03 => List.zipWith fmul a b
  | 0x04 => List.zipWith fmax a b
  | 0x05 => List.zipWith fmin a b
  | 0x06 => a.map absW
  | 0x07 => a.map negate
  | 0x08 => a.map (fmul · i)
  | 0x09 => a.map (fadd · i)
  | 0x0A => a.map (fclamp i (imms.getD (o.imm + 1) 0))
  | 0x0B => List.zipWith (fun x y => if isPos32 x then y.1 else y.2) a (List.zip b c)
  | 0x0C => a.map (roundTo .bf16)
  | 0x30 => a.map fun _ => a.foldl fmax (inf32 true)
  | 0x31 => let t := chunkSum a; a.map fun _ => t
  | n => match sfuOf n with
    | some f => a.map (sfu nl f)
    | none => a

def runOps (nl : Nat) (imms : List Word) (ops : List VOp) (regs : List (List Word)) : List (List Word) :=
  ops.foldl (fun rs o => rs.set o.d (o.eval nl imms rs)) regs

/-- Operand-buffer spans of a source: its elements, and its index array (R148, R149). -/
def VSrc.elemSpan (x : VSrc) (rows cols : Nat) : List (Nat × Nat) :=
  match x.mode with
  | 1 => [(x.addr, x.f.tensorBytes rows cols)]
  | 3 => [(x.addr, x.f.tensorBytes 1 cols)]
  | _ => []
def VSrc.idxSpan (x : VSrc) (rows : Nat) : List (Nat × Nat) := if x.mode = 2 then [(x.idx, 4 * rows)] else []
def VSrc.table (x : VSrc) : List (Nat × Nat) :=
  if x.mode = 2 ∧ x.tableRows * x.rowBytes ≠ 0 then [(x.addr, x.tableRows * x.rowBytes)] else []

/-- A source that breaks R149. A gather whose ROW_BYTES is less than its row is not refused (DESIGN CHOICE, log 79: R149 gives no
such case), and its last row reads on behind the table. -/
def VSrc.bad (x : VSrc) (cols : Nat) : Bool :=
  !fmtOk (fld x.raw 3 0) || !zeros x.raw [(15, 6), (255, 160)] ||
  ((x.mode == 1 || x.mode == 3) && fld x.raw 63 48 != 0) ||
  (if x.mode = 2 then !divides 64 x.rowBytes || !tableOk x.addr (x.tableRows * x.rowBytes)
    else fld x.raw 159 64 != 0) ||
  (x.mode != 0 && !x.f.whole cols)

def VecRun.dstSpan (p : VecRun) : Nat × Nat := (p.dst, p.out.tensorBytes p.rows p.cols)
def VecRun.hasRow (p : VecRun) : Bool := p.ops.any (·.isRow)
/-- Where the row scratch holds v3 to v15 of a row, which a program with a row operation reads back (R151). -/
def VecRun.heldSpan (p : VecRun) : List (Nat × Nat) := if p.hasRow then [(p.work, 52 * p.cols)] else []
def VecRun.workSpan (p : VecRun) : List (Nat × Nat) := if p.workLen = 0 then [] else [(p.work, p.workLen)]

def meets (a b : Nat × Nat) : Bool := overlap a.1 a.2 b.1 b.2

/-- R148, R149, R151. A row scratch may overlap the index array of a gathering source, whose indices are all those that stood there
at the start (DESIGN CHOICE, log 82: R151 bars overlap with the destination and the sources' elements only). -/
def vecRunBad (v : Nat) : Bool :=
  let p := VecRun.parse v
  let unused (r : Nat) : Bool := decide (r < 3) && (p.srcs.getD r ⟨.fp32, 0, 0, 0, 0, 0, 0⟩).mode == 0
  let elems := p.srcs.flatMap (·.elemSpan p.rows p.cols)
  let inPlace (x : VSrc) : Bool := x.mode == 1 && x.f == p.out && x.addr == p.dst
  !zeros v [(31, 20), (63, 60), (959, 928)] || p.rows == 0 || p.cols == 0 || !fmtOk (fld v 59 56) || !p.out.whole p.cols ||
  p.srcs.any (fun x => x.bad p.cols) ||
  p.ops.any (fun o => !o.known || fld o.raw 31 25 != 0 || o.reads.any unused ||
    (o.opc == 0xA && (o.imm == 7 || badClip (p.imms.getD o.imm 0) (p.imms.getD (o.imm + 1) 0)))) ||
  unused p.outReg ||
  (if p.hasRow then !divides 128 p.workLen || decide (p.workLen < 52 * p.cols) else p.workLen != 0) ||
  (p.dstSpan :: elems ++ p.srcs.flatMap (·.idxSpan p.rows) ++ p.workSpan).any (fun x => !obOk x.1 x.2) ||
  p.srcs.any (fun x => !inPlace x && (x.elemSpan p.rows p.cols).any (meets p.dstSpan)) ||
  p.srcs.any (fun x => (x.idxSpan p.rows).any (meets p.dstSpan)) ||
  p.workSpan.any (fun w => meets p.dstSpan w || elems.any (meets w))

def vecRunLvl (nl v : Nat) : Bool :=
  let p := VecRun.parse v
  fmtNl nl (p.out :: (p.srcs.filter fun x => x.mode != 0).map (·.f))

def VSrc.gather (x : VSrc) (rows cols : Nat) : Gather := ⟨rows, cols, x.f, x.addr, x.rowBytes, x.tableRows, x.idx⟩

/-- Row `r` of a source in FP32 (R127, R148). -/
def VSrc.row (x : VSrc) (s : State) (k : Ctx) (rows cols r : Nat) : List Word :=
  let ob := fun i => obByte s k.core (x.addr + i)
  (List.range cols).map fun c => match x.mode with
    | 1 => x.f.tileLoad ob rows cols r c
    | 2 => let e := (x.gather rows cols).el s k r c; x.f.load e.1 e.2
    | 3 => x.f.tileLoad ob 1 cols 0 c
    | _ => 0

def VSrc.piece (x : VSrc) (s : State) (k : Ctx) (rows cols r : Nat) : Piece :=
  match x.mode with
  | 1 => { obReads := shiftBy x.addr (x.f.lineSpans rows cols r 0 cols) }
  | 2 => (x.gather rows cols).piece s k r
  | 3 => { obReads := shiftBy x.addr (x.f.lineSpans 1 cols 0 0 cols) }
  | _ => {}
where
  shiftBy (off : Nat) (l : List (Nat × Nat)) : List (Nat × Nat) := l.map fun y => (off + y.1, y.2)

/-- The writes of row `r` of FP32 values to a tensor at an operand-buffer offset. -/
def rowWrs (f : Fmt) (dst rows cols r : Nat) (xs : List Word) : List Wr :=
  (f.lineWr rows cols r (f.storeEl xs)).map fun w => { d := .ob (dst + w.1), bytes := w.2 }

/-- Row `r`. Where its sources fail in different ways, an invalid index comes first, then a failed read, then parity (DESIGN CHOICE,
log 80: R132 does not order them). Parity is tested in the first 52 bytes a column of the row scratch too (log 80). -/
def VecRun.piece (p : VecRun) (s : State) (x : Ctx) (r : Nat) : Piece :=
  let ps := p.srcs.map fun y => y.piece s x p.rows p.cols r
  let zero := List.replicate p.cols (0 : Word)
  let regs := p.srcs.map (fun y => y.row s x p.rows p.cols r) ++ List.replicate 13 zero
  let out := (runOps x.nl p.imms p.ops regs).getD p.outReg zero
  { fault := ps.findSome? (·.fault), reads := ps.flatMap (·.reads), obReads := ps.flatMap (·.obReads) ++ p.heldSpan
    writes := rowWrs p.out p.dst p.rows p.cols r out }

/-- The work of VEC.RUN. -/
def vecRunPlan (x : Ctx) (s : State) : Plan :=
  let p := VecRun.parse x.par
  { pieces := markArrived x.c s ((List.range p.rows).map (p.piece s x)), scratch := p.workSpan, out := rowOut x p.rows }

def vecRunFamily : Family where
  bad _ := vecRunBad
  lvl := vecRunLvl
  core _ := true
  thread _ := true
  spans v := (VecRun.parse v).srcs.flatMap (·.table)
  ob _ v := let p := VecRun.parse v
    p.dstSpan :: p.srcs.flatMap (fun x => x.elemSpan p.rows p.cols ++ x.idxSpan p.rows) ++ p.workSpan
  charges x s :=
    let p := VecRun.parse x.par
    let n := p.rows * p.cols
    chargeList (vectorWork (n * p.ops.length) (n * (p.ops.filter fun o => (sfuOf o.opc).isSome).length) ++
      planTraffic vecRunPlan x s)
  reach := planReach vecRunPlan
  steps := planSteps vecRunPlan
  work x s := execPlan (vecRunPlan x s) x s

def execVecRun (c : CmdRef) (e : Circ) (s : State) : Outcome State Fault Refusal :=
  .next (runRows 0x0301 vecRunFamily (fun x s =>
    let p := VecRun.parse x.par
    (p.rows, fun r => (p.srcs.map fun y => y.piece s x p.rows p.cols r).flatMap (·.reads))) c e s)

/-! ### VEC.STATS (R153, R154) -/

structure VStats where
  rows : Nat
  cols : Nat
  f : Fmt
  /-- per result (mean, variance, rstd): whether it is written, and where -/
  outs : List (Bool × Nat)
  src : Nat
  eps : Word
deriving DecidableEq, Repr

def VStats.parse (v : Nat) : VStats :=
  { rows := fld v 19 0, cols := fld v 51 32, f := fmtOf (fld v 55 52)
    outs := [(bit v 56, fld v 127 96), (bit v 57, fld v 159 128), (bit v 58, fld v 191 160)]
    src := fld v 95 64, eps := BitVec.ofNat 32 (fld v 223 192) }

def VStats.srcSpan (p : VStats) : Nat × Nat := (p.src, p.f.tensorBytes p.rows p.cols)
def VStats.outSpans (p : VStats) : List (Nat × Nat) := (p.outs.filter (·.1)).map fun x => (x.2, 4 * p.rows)

/-- Two spans of a list at different places overlap. -/
def anyMeet : List (Nat × Nat) → Bool
  | [] => false
  | x :: r => r.any (meets x) || anyMeet r

def vecStatsBad (v : Nat) : Bool :=
  let p := VStats.parse v
  !zeros v [(31, 20), (63, 59), (255, 224)] || p.rows == 0 || p.cols == 0 || !fmtOk (fld v 55 52) || !p.f.whole p.cols ||
  p.outs.any (fun x => !x.1 && x.2 != 0) || p.outSpans.isEmpty || (bit v 58 && (isNan32 p.eps || isNeg32 p.eps)) ||
  (p.srcSpan :: p.outSpans).any (fun x => !obOk x.1 x.2) || anyMeet (p.srcSpan :: p.outSpans)

def VStats.piece (p : VStats) (s : State) (x : Ctx) (r : Nat) : Piece :=
  let ob := fun i => obByte s x.core (p.src + i)
  let z := rowStats x.nl ((List.range p.cols).map fun c => p.f.tileLoad ob p.rows p.cols r c) p.eps
  { obReads := (p.f.lineSpans p.rows p.cols r 0 p.cols).map fun y => (p.src + y.1, y.2)
    writes := (List.zip p.outs [z.1, z.2.1, z.2.2]).flatMap fun (o, w) =>
      if o.1 then [{ d := .ob (o.2 + 4 * r), bytes := leBytes 4 w.toNat }] else [] }

/-- The work of VEC.STATS. -/
def vecStatsPlan (x : Ctx) (s : State) : Plan :=
  let p := VStats.parse x.par
  { pieces := (List.range p.rows).map (p.piece s x), out := rowOut x p.rows }

def vecStatsFamily : Family where
  bad _ := vecStatsBad
  lvl nl v := fmtNl nl [fmtOf (fld v 55 52)]
  core _ := true
  thread _ := true
  ob _ v := let p := VStats.parse v; p.srcSpan :: p.outSpans
  charges x _ := let p := VStats.parse x.par; chargeList (vectorWork (p.rows * p.cols) (if bit x.par 58 then p.rows else 0))
  reach := planReach vecStatsPlan
  steps := planSteps vecStatsPlan
  work x s := execPlan (vecStatsPlan x s) x s

def execVecStats (c : CmdRef) (e : Circ) (s : State) : Outcome State Fault Refusal :=
  .next (runCmd 0x0302 vecStatsFamily c e s)

end Sys2Proof.Machine
end

