-- ==== Sys2Proof/Machine/Rng.lean ====
section
/-! DEFINITION. RNG.SET and SMP.GUMBEL (R231 to R236). -/
namespace Sys2Proof.Machine
open Host

/-! ### RNG.SET -/

structure RngSet where
  op : Nat
  mask : Nat
  rec1 : Nat
  key : Nat
  val : Nat → Nat

def RngSet.parse (v : Nat) : RngSet :=
  { op := fld v 1 0, mask := fld v 31 16, rec1 := fld v 79 32, key := fld v 255 128
    val := fun s => fld v (32 * s + 251) (32 * s + 224) }

def rngSlots : List Nat := (List.range 15).map (· + 1)
/-- Slots in MASK, ascending. -/
def RngSet.slots (p : RngSet) : List Nat := rngSlots.filter fun s => p.mask.testBit s

def rngBad (v : Nat) : Bool :=
  let p := RngSet.parse v
  !zeros v [(15, 2), (127, 80)] || bit p.mask 0 || !inKs p.rec1 || !divides 128 p.rec1 || (p.op != 0 && p.key != 0) ||
  (if p.op = 3 then p.mask != 0 else p.op != 0 && p.mask == 0) ||
  rngSlots.any fun s => fld v (32 * s + 255) (32 * s + 252) != 0 || (!p.mask.testBit s && p.val s != 0)

/-- The whole record that INIT writes (R232). -/
def RngSet.record (p : RngSet) : Nat := p.slots.foldl (fun v s => v + p.val s <<< (32 * s + 128)) p.key

/-- The word of slot `i` after OFFSETS or ADVANCE; its reserved bits stay. -/
def RngSet.word (p : RngSet) (s : State) (o : Owner) (i : Nat) : Nat :=
  let w := readNat s o (p.rec1 + 16 + 4 * i) 4
  let off := if p.op = 2 then (w % 2 ^ 28 + p.val i) % 2 ^ 28 else p.val i
  off + w / 2 ^ 28 * 2 ^ 28

def RngSet.piece (p : RngSet) (s : State) (o : Owner) : Piece :=
  match p.op with
  | 0 => { writes := [{ d := .dev p.rec1, bytes := leBytes 128 p.record }] }
  | 3 => {}
  | op =>
    { reads := if op = 2 then [(p.rec1, 128)] else []
      writes := p.slots.map fun i => { d := .dev (p.rec1 + 16 + 4 * i), bytes := leBytes 4 (p.word s o i) } }

/-- The work of RNG.SET. -/
def rngPlan (x : Ctx) (s : State) : Plan :=
  let p := RngSet.parse x.par
  { pieces := [p.piece s x.o]
    out := fun r => match r.fail with
      | none => { reply := p.rec1 }
      | some (_, st, _) => { status := st, reply := (boundLuna s x.job).getD 0 }
    post := fun r t => if r.fail.isNone then { t with luna := put x.job p.rec1 t.luna } else t }

def rngFamily : Family where
  bad _ := rngBad
  spans v := [((RngSet.parse v).rec1, 128)]
  home v := some (RngSet.parse v).rec1
  refuse x s :=
    if (x.task.map (·.state)) == some .speculative && boundLuna s x.job != some (RngSet.parse x.par).rec1 then
      some { status := stRefusedState, code := 0x51, reply := (boundLuna s x.job).getD 0 }
    else none
  reach := planReach rngPlan
  steps := planSteps rngPlan
  work x s := execPlan (rngPlan x s) x s

def execRngSet (c : CmdRef) (e : Circ) (s : State) : Outcome State Fault Refusal :=
  .next (runCmd 0x0601 rngFamily c e s)

/-! ### SMP.GUMBEL -/

structure Gumbel where
  rows : Nat
  cols : Nat
  f : Fmt
  greedy : Bool
  wVal : Bool
  src : Nat
  idx : Nat
  valOff : Nat
  invT : Word
  stream : Nat
  tensor : Nat
  row0 : Nat
  rowLen : Nat
deriving DecidableEq, Repr

def Gumbel.parse (v : Nat) : Gumbel :=
  { rows := fld v 19 0, cols := fld v 51 32, f := fmtOf (fld v 55 52), greedy := bit v 56, wVal := bit v 57, src := fld v 95 64
    idx := fld v 127 96, valOff := fld v 159 128, invT := BitVec.ofNat 32 (fld v 191 160), stream := fld v 223 192
    tensor := fld v 255 224, row0 := fld v 287 256, rowLen := fld v 319 288 }

def Gumbel.srcSpan (p : Gumbel) : Nat × Nat := (p.src, p.f.tensorBytes p.rows p.cols)
def Gumbel.outSpans (p : Gumbel) : List (Nat × Nat) :=
  (p.idx, 4 * p.rows) :: if p.wVal then [(p.valOff, 4 * p.rows)] else []

def gumbelBad (v : Nat) : Bool :=
  let p := Gumbel.parse v
  !zeros v [(31, 20), (63, 58)] || p.rows == 0 || p.cols == 0 || !fmtOk (fld v 55 52) || (!p.wVal && p.valOff != 0) ||
  (!p.greedy && (!isFin32 p.invT || !isPos32 p.invT)) || decide (p.rowLen < p.cols) || !p.f.whole p.cols ||
  (p.srcSpan :: p.outSpans).any (fun x => !obOk x.1 x.2) || anyMeet (p.srcSpan :: p.outSpans)

/-- The noise of a 24-bit field (R234). -/
def gumbelNoise (nl f : Nat) : Word :=
  let u := rne32 (.fin (if f < 2 ^ 23 then 2 * f + 1 else 2 * f : Nat) (-25))
  negate (sfu nl .ln (negate (sfu nl .ln u)))

/-- The values y of a row (R234). -/
def Gumbel.ys (p : Gumbel) (nl lr : Nat) (rd : Nat → Byte) (r : Nat) : List Word :=
  (List.range p.cols).map fun c =>
    let x := p.f.tileLoad rd p.rows p.cols r c
    if p.greedy then x
    else fadd (fmul x p.invT) (gumbelNoise nl (lunaField lr p.stream p.tensor 8 24 (linIndex p.row0 r p.rowLen 0 c)))

/-- Index and value of the winner of a row (R235). -/
def pickMax (ys : List Word) : Nat × Word :=
  if ys.any isNan32 then (0xFFFFFFFF, nan32)
  else
    let best := ys.zipIdx.foldl (fun (b : Option (Nat × Word)) (y, c) => match b with
      | none => if flt negInf' y then some (c, y) else none
      | some (_, m) => if flt m y then some (c, y) else b) none
    best.getD (0xFFFFFFFF, nan32)
where
  negInf' : Word := inf32 true

def Gumbel.piece (p : Gumbel) (x : Ctx) (s : State) (lr r : Nat) : Piece :=
  let z := pickMax (p.ys x.nl lr (fun i => obByte s x.core (p.src + i)) r)
  { obReads := (p.f.lineSpans p.rows p.cols r 0 p.cols).map fun y => (p.src + y.1, y.2)
    writes := { d := .ob (p.idx + 4 * r), bytes := leBytes 4 z.1 } ::
      if p.wVal then [{ d := .ob (p.valOff + 4 * r), bytes := leBytes 4 z.2.toNat }] else [] }

/-- The work of SMP.GUMBEL. -/
def gumbelPlan (x : Ctx) (s : State) : Plan :=
  let p := Gumbel.parse x.par
  let ps := (List.range p.rows).map fun r =>
    let q := p.piece x s x.lunaRec r
    if r = 0 && !p.greedy then { q with fault := x.cmd.lunaBad } else q
  { pieces := ps, out := rowOut x p.rows }

def gumbelFamily : Family where
  bad _ := gumbelBad
  lvl nl v := fmtNl nl [fmtOf (fld v 55 52)]
  core _ := true
  thread _ := true
  ob _ v := let p := Gumbel.parse v; p.srcSpan :: p.outSpans
  refuse x s := needLuna (!(Gumbel.parse x.par).greedy) x s
  draws v := !(Gumbel.parse v).greedy
  charges x _ :=
    let p := Gumbel.parse x.par
    let n := p.rows * p.cols
    chargeList (if p.greedy then vectorWork n 0 else vectorWork (3 * n) (2 * n))
  reach := planReach gumbelPlan
  steps := planSteps gumbelPlan
  work x s := execPlan (gumbelPlan x s) x s

def execSmpGumbel (c : CmdRef) (e : Circ) (s : State) : Outcome State Fault Refusal :=
  .next (runCmd 0x0602 gumbelFamily c e s)

end Sys2Proof.Machine
end

