-- ==== Sys2Proof/Machine/Sync.lean ====
section
/-! DEFINITION. Synchronisation (R349 to R351) and speculative tasks (R356, R375 to R383). -/
namespace Sys2Proof.Machine
open Host

/-! ### SYN.SIGNAL and SYN.WAIT -/

def synObj (v : Nat) : Nat := fld v 47 0
def synSet (v : Nat) : Nat := fld v 127 64

def synBad (v : Nat) : Bool := !zeros v [(63, 48), (255, 128)] || !inKs (synObj v) || !divides 32 (synObj v)

/-- The one write of a refused SYN.SIGNAL: FAILED and ROOT together (R349, R350). -/
def signalFail (x : Ctx) (root : Nat) (s : State) : State :=
  match putLine x.o x.e (synObj x.par + 8) (leBytes 8 1 ++ leBytes 8 root) s with
  | (s1, 0) => complete x.c { status := stRefusedDep, reply := root } s1
  | (s1, st) => complete x.c { status := st, reply := root } s1

/-- The work of SYN.SIGNAL. -/
def signalPlan (x : Ctx) (_ : State) : Plan :=
  { pieces := [{ writes := [{ d := .dev (synObj x.par), bytes := leBytes 8 (synSet x.par) }] }]
    out := fun r => match r.fail with
      | none => {}
      | some (_, st, _) => { status := st } }

def signalFamily : Family where
  bad _ := synBad
  spans v := [(synObj v, 32)]
  home v := some (synObj v)
  onFail := signalFail
  work x s := execPlan (signalPlan x s) x s

def execSynSignal (c : CmdRef) (e : Circ) (s : State) : Outcome State Fault Refusal :=
  .next (runCmd 0x0801 signalFamily c e s)

/-- VALUE, FAILED and ROOT of a sync object. -/
def synRead (x : Ctx) (s : State) : Nat × Bool × Nat :=
  let v := readNat s x.o (synObj x.par) 32
  (fld v 63 0, bit v 64, fld v 191 128)

/-- The work of SYN.WAIT. -/
def waitPlan (x : Ctx) (s : State) : Plan :=
  let z := synRead x s
  { pieces := [{ reads := [(synObj x.par, 32)] }]
    out := fun r => match r.fail with
      | none => if z.2.1 then { status := stRefusedDep, reply := some z.2.2 } else {}
      | some (_, st, _) => { status := st } }

def waitFamily : Family where
  bad _ := synBad
  spans v := [(synObj v, 32)]
  home v := some (synObj v)
  ready x s :=
    let z := synRead x s
    (readFault s x.o x.e (synObj x.par) 32).isSome || z.2.1 || decide (synSet x.par ≤ z.1)
  work x s := execPlan (waitPlan x s) x s

def execSynWait (c : CmdRef) (e : Circ) (s : State) : Outcome State Fault Refusal :=
  .next (runCmd 0x0802 waitFamily c e s)

/-! ### SYN.FENCE -/

/-- Records of earlier commands of a queue that are not written. -/
def recsBefore (s : State) (c : CmdRef) : Bool :=
  (queueOf s (ringOf s c.q)).recs.any fun r => decide (r.c.q = c.q) && decide (r.c.idx < c.idx)

def fenceReady (x : Ctx) (s : State) : Bool :=
  ((getQ s x.c.q).cmds.all fun k => !decide (k.idx < x.c.idx) || k.ph == .done) && !recsBefore s x.c

/-- The count of R351; the commands counted are not counted again. -/
def fenceWork (x : Ctx) (s : State) : State :=
  let q := getQ s x.c.q
  let mine := q.failed.filter fun i => decide (i < x.c.idx)
  complete x.c { reply := some (mine.eraseDups.length % 2 ^ 32) }
    (setQ x.c.q { q with failed := q.failed.filter fun i => !decide (i < x.c.idx) } s)

def fenceFamily : Family where
  bad _ _ := false
  ready := fenceReady
  work := fenceWork

def execSynFence (c : CmdRef) (e : Circ) (s : State) : Outcome State Fault Refusal :=
  .next (runCmd 0x0803 fenceFamily c e s)

/-! ### TSK.BEGIN (R382) -/

structure Pool where
  ks : Nat
  ksN : Nat
  bg : Nat
  bgN : Nat
deriving DecidableEq, Repr

def Pool.parse (v : Nat) : Pool := ⟨fld v 47 0, fld v 95 64, fld v 143 96, fld v 191 160⟩
def Pool.spans (p : Pool) : List (Nat × Nat) :=
  (if p.ksN = 0 then [] else [(p.ks, 4096 * p.ksN)]) ++ (if p.bgN = 0 then [] else [(p.bg, 4096 * p.bgN)])

/-- R382. Pools of different ranges cannot overlap. -/
def beginBad (v : Nat) : Bool :=
  let p := Pool.parse v
  !zeros v [(63, 48), (159, 144)] || (p.ksN == 0 && p.ks != 0) || (p.bgN == 0 && p.bg != 0) ||
  (p.ksN != 0 && (!divides 4096 p.ks || !spanKs p.ks (4096 * p.ksN))) ||
  (p.bgN != 0 && (!divides 4096 p.bg || !spanBorug p.bg (4096 * p.bgN)))

/-- The lowest Cocoon number that is not in flight. -/
def freeCocoon (s : State) : Option Nat := (List.range 64).find? fun i => !(s.cocoons.any fun k => decide (k.num = i))

def beginWork (x : Ctx) (s : State) : State :=
  match cocoonOf s x.o with
  | some k => complete x.c { reply := k.num } s
  | none =>
    let p := Pool.parse x.par
    let n := (freeCocoon s).getD 0
    let k : Cocoon := { num := n, q := x.c.q, task := x.cmd.task, ks := p.ks, ksN := p.ksN, bg := p.bg, bgN := p.bgN }
    complete x.c { reply := n }
      (modTask x.c.q x.cmd.task (fun t => { t with state := .speculative }) { s with cocoons := s.cocoons ++ [k] })

def beginFamily : Family where
  bad _ := beginBad
  spans v := (Pool.parse v).spans
  refuse x s := if (cocoonOf s x.o).isNone && (freeCocoon s).isNone then some (refuse 0x34) else none
  work := beginWork

def execTskBegin (c : CmdRef) (e : Circ) (s : State) : Outcome State Fault Refusal :=
  .next (runCmd 0x0901 beginFamily c e s)

/-! ### TSK.COMMIT and TSK.DISCARD (R377, R378, R383) -/

def tskBad (v : Nat) : Bool := !zeros v [(31, 20)]

/-- The tasks of a queue that a TASK_ID may name; the newest holds the state of the ID until a FIRST = 1 command reopens it
(R356). -/
def named (q : Queue) (x : Ctx) : List Task := q.tasks.filter fun t => decide (t.id = fld x.par 63 32)

/-- The queue of the target task. A task of the image run in progress is named by the queue of its SCH.RUN, whose place
its packets take (R403), and by a packet of the section also with QID 0. -/
def targetQ (x : Ctx) (s : State) : QRef :=
  let n := fld x.par 19 0
  let hw : QRef := .hw (BitVec.ofNat 20 n)
  match s.img.run, x.c.q with
  | some r, .img => if (n = 0 ∨ n = x.qid) ∧ !(named r.q x).isEmpty then .img else hw
  | some r, .hw _ => if n = ringOf s .img ∧ (named (getQ s hw) x).isEmpty ∧ !(named r.q x).isEmpty then .img else hw
  | none, _ => hw

/-- The newest task of the ID. -/
def targetTask (x : Ctx) (s : State) : Option Task :=
  (named (getQ s (targetQ x s)) x).getLast?

def tskRefuse (x : Ctx) (s : State) : Option Out :=
  if (getQ s (targetQ x s)).job != x.job then some { status := stBadParam }
  else match targetTask x s with
    | none => some (refuse 0x30)
    | some t => if t.state = .speculative then none else some (refuse t.state.code)

def targetCocoon (x : Ctx) (s : State) : Option Cocoon :=
  (targetTask x s).bind fun t => cocoonOf s (some (targetQ x s, t.serial))

/-- Granules in ascending address order. -/
def insGranule (g : Granule) : List Granule → List Granule
  | [] => [g]
  | h :: r => if g.orig ≤ h.orig then g :: h :: r else h :: insGranule g r
def Cocoon.sorted (k : Cocoon) : List Granule := k.granules.foldr insGranule []

/-- The marked lines of a granule as one piece: copy to original (R377). -/
def granulePiece (s : State) (g : Granule) : Piece :=
  let ls := (List.range 64).filter fun i => g.marks.getLsbD i
  { reads := ls.map fun i => (g.copy * 4096 + 64 * i, 64)
    writes := ls.map fun i =>
      { d := .dev (g.orig * 4096 + 64 * i), bytes := memRead 0 s.mem.dev (g.copy * 4096 + 64 * i) 64 } }

def dropCocoon (n : Nat) (s : State) : State := { s with cocoons := s.cocoons.filter fun k => decide (k.num ≠ n) }

/-- The task ends its speculation in a state, and its Cocoon is freed. -/
def endSpec (x : Ctx) (st : TState) (s : State) : State :=
  match targetTask x s, targetCocoon x s with
  | some t, some k => dropCocoon k.num (modTask (targetQ x s) t.serial (fun t => { t with state := st }) s)
  | some t, none => modTask (targetQ x s) t.serial (fun t => { t with state := st }) s
  | none, _ => s

def commitWork (x : Ctx) (s : State) : State :=
  let gs := ((targetCocoon x s).map (·.sorted)).getD []
  let marked := gs.filter fun g => g.marks != 0
  let n := marked.length
  let y := { x with o := none }
  let ps := marked.map (granulePiece s)
  match runPieces false y.o y.e y.core ps s with
  | (s1, none) => complete x.c { reply := n } (endSpec x .committed s1)
  | (s1, some (i, st, _)) => complete x.c { status := st, reply := i } s1

/-- The lines that a commit reads and writes. -/
def commitReach (x : Ctx) (s : State) : List (Nat × Nat) :=
  ((((targetCocoon x s).map (·.sorted)).getD []).map (granulePiece s)).flatMap Piece.spans

def commitFamily : Family where
  bad _ := tskBad
  reach := commitReach
  refuse := tskRefuse
  ready x s := ((targetTask x s).map (·.finished)).getD true
  work := commitWork

def execTskCommit (c : CmdRef) (e : Circ) (s : State) : Outcome State Fault Refusal :=
  .next (runCmd 0x0902 commitFamily c e s)

/-- Started commands of the target task have completed (R378). -/
def discardReady (x : Ctx) (s : State) : Bool :=
  match targetTask x s with
  | none => true
  | some t => (getQ s (targetQ x s)).cmds.all fun k => !decide (k.task = t.serial) || decide ((⟨targetQ x s, k.idx⟩ : CmdRef) = x.c) ||
      (match k.ph with
        | .running _ => false
        | .yielded _ => false
        | _ => true)

def discardWork (x : Ctx) (s : State) : State :=
  let n : Nat := ((targetCocoon x s).map (·.granules.length)).getD 0
  complete x.c { reply := some n } (endSpec x .discarded s)

def discardFamily : Family where
  bad _ := tskBad
  refuse := tskRefuse
  ready := discardReady
  work := discardWork

def execTskDiscard (c : CmdRef) (e : Circ) (s : State) : Outcome State Fault Refusal :=
  .next (runCmd 0x0903 discardFamily c e s)

end Sys2Proof.Machine
end

