-- ==== Sys2Proof/Machine/Update.lean ====
section
/-! DEFINITION. Parameter update VEC.UPDATE and the schedule engine VEC.SCHED (R237 to R256). -/
namespace Sys2Proof.Machine
open Host

def ksLine (a : Nat) : Bool := inKs a && divides 64 a
/-- A factor in [0, 1) (R247, R255). -/
def unitFactor (w : Word) : Bool := !isNan32 w && !isNeg32 w && flt w one32
def finPos (w : Word) : Bool := isFin32 w && isPos32 w
def finNonNeg (w : Word) : Bool := isFin32 w && !isNeg32 w

/-! ### The step record (R251) -/

structure StepRec where
  lr : Word
  decay : Word
  bc1 : Word
  bc2 : Word
  clip : Word
  skip : Bool
  valid : Bool
  step : Nat
deriving DecidableEq, Repr

def StepRec.parse (v : Nat) : StepRec :=
  let w := fun i => BitVec.ofNat 32 (fld v (32 * i + 31) (32 * i))
  ⟨w 0, w 1, w 2, w 3, w 4, bit v 160, bit v 161, fld v 223 192⟩

def StepRec.bytes (r : StepRec) : List Byte :=
  wordsBytes [r.lr, r.decay, r.bc1, r.bc2, r.clip] ++ leBytes 4 (ofBool r.skip + 2 * ofBool r.valid) ++
    leBytes 4 r.step ++ List.replicate 36 0

def stepRecAt (s : State) (o : Owner) (a : Nat) : StepRec := StepRec.parse (readNat s o a 64)

/-- The step record of a command: as read at its start (R240), before that as it stands. -/
def stepRecOf (x : Ctx) (s : State) (a : Nat) : StepRec :=
  match x.cmd.step with
  | some v => StepRec.parse v
  | none => stepRecAt s x.o a

/-! ### VEC.UPDATE (R240 to R250) -/

structure Upd where
  rule : Nat
  nesterov : Bool
  rndP : Bool
  rndM : Bool
  rndV : Bool
  copy : Bool
  fg : Fmt
  fp : Fmt
  fm : Fmt
  fv : Fmt
  fc : Fmt
  n : Nat
  elem0 : Nat
  g : Nat
  p : Nat
  m : Nat
  v : Nat
  c : Nat
  step : Nat
  gscale : Word
  b1 : Word
  b2 : Word
  eps : Word
  wd : Word
  stream : Nat
  tensor : Nat
deriving DecidableEq, Repr

/-- The map of R246. -/
def Upd.parse (v : Nat) : Upd :=
  let w := fun lo => BitVec.ofNat 32 (fld v (lo + 31) lo)
  { rule := fld v 1 0, nesterov := bit v 2, rndP := bit v 3, rndM := bit v 4, rndV := bit v 5, copy := bit v 6
    fg := fmtOf (fld v 11 8), fp := fmtOf (fld v 15 12), fm := fmtOf (fld v 19 16), fv := fmtOf (fld v 23 20)
    fc := fmtOf (fld v 27 24), n := 32 * fld v 47 32, elem0 := fld v 103 64, g := fld v 159 128, p := fld v 191 160
    m := fld v 223 192, v := fld v 255 224, c := fld v 287 256, step := fld v 335 288, gscale := w 352, b1 := w 384
    b2 := w 416, eps := w 448, wd := w 480, stream := fld v 543 512, tensor := fld v 575 544 }

def Upd.adam (u : Upd) : Bool := u.rule == 1
def Upd.draws (u : Upd) : Bool := u.rndP || u.rndM || u.rndV

def Upd.spans (u : Upd) : List (Nat × Nat) :=
  [(u.g, u.fg.tensorBytes 1 u.n), (u.p, u.fp.tensorBytes 1 u.n), (u.m, u.fm.tensorBytes 1 u.n)] ++
    (if u.adam then [(u.v, u.fv.tensorBytes 1 u.n)] else []) ++ (if u.copy then [(u.c, u.fc.tensorBytes 1 u.n)] else [])

/-- Stored formats of the state (R245). -/
def stateFmt (f : Fmt) : Bool := f == .fp32 || f == .bf16 || f == .mx .e4m3 || f == .mx .e5m2 || f == .mx .int8

/-- R247. With no RND bit set, STREAM and TENSOR_ID may hold any value, while FMT_COPY and COPY_OFF must be 0 with W_COPY = 0:
this model's reading of R246 (log 70). -/
def updateBad (v : Nat) : Bool :=
  let u := Upd.parse v
  !zeros v [(7, 7), (63, 48), (127, 104), (351, 336)] || u.rule == 3 || (u.rule != 0 && u.nesterov) ||
  !fmtOk (fld v 11 8) || !fmtOk (fld v 15 12) || !fmtOk (fld v 19 16) || !fmtOk (fld v 23 20) || !fmtOk (fld v 27 24) ||
  !within (fld v 47 32) 1 32768 ||
  !(u.fp == .fp32 || u.fp == .bf16) || (u.rndP && u.fp != .bf16) || !stateFmt u.fm || (u.rndM && u.fm == .fp32) ||
  (if u.adam then !stateFmt u.fv || (u.rndV && u.fv == .fp32)
    else u.rndV || fld v 23 20 != 0 || u.v != 0 || u.eps != 0) ||
  (!u.copy && (fld v 27 24 != 0 || u.c != 0)) || (u.rule == 0 && u.b2 != 0) || (u.rule != 0 && u.wd != 0) ||
  u.spans.any (fun x => !obOk x.1 x.2) || anyMeet u.spans ||
  !unitFactor u.b1 || (u.rule != 0 && !unitFactor u.b2) || !finPos u.gscale || (u.adam && !finPos u.eps) ||
  (u.rule == 0 && !finNonNeg u.wd) || decide (2 ^ 40 < u.elem0 + u.n) || !ksLine u.step

/-- The new FP32 values of p, m and v (R240, R241). -/
def Upd.rule1 (u : Upd) (nl : Nat) (r : StepRec) (g0 p m v : Word) : Word × Word × Word :=
  let g := fmul (fmul g0 u.gscale) r.clip
  let c1 := fsub one32 u.b1
  let c2 := fsub one32 u.b2
  match u.rule with
  | 0 =>
    let m1 := fadd (fmul u.b1 m) g
    let d := if u.nesterov then fadd (fmul u.b1 m1) g else m1
    (fsub p (fmul r.lr (fadd d (fmul u.wd p))), m1, v)
  | 1 =>
    let m1 := fadd (fmul u.b1 m) (fmul c1 g)
    let v1 := fadd (fmul u.b2 v) (fmul c2 (fmul g g))
    let den := fadd (fmul (sfu nl .sqrt v1) r.bc2) u.eps
    let d := fmul (fmul m1 r.bc1) (sfu nl .rcp den)
    (fsub (fmul p r.decay) (fmul r.lr d), m1, v1)
  | _ =>
    let c := fadd (fmul u.b1 m) (fmul c1 g)
    let d := if isPos32 c then one32 else if isNeg32 c then negate one32 else if isNan32 c then nan32 else 0
    (fsub (fmul p r.decay) (fmul r.lr d), fadd (fmul u.b2 m) (fmul c2 g), v)

/-- A block of up to 32 values converted to a target format: scales and codes (R243, R245). `r i` is the field of element `i`. -/
def requant (f : Fmt) (rnd : Bool) (r : Nat → Nat) (xs : List Word) : List Nat × List Nat :=
  if !rnd then f.storeLine xs
  else match f with
    | .mx k => let b := blockWith k (fun i => k.encodeSr (r i)) xs; ([b.1], b.2)
    | _ => ([], xs.zipIdx.map fun (x, i) => f.storeWide (sround (r i) x))

/-- Writes of positions `p0 ..` of a one-line tensor, and of its padding after the last. -/
def partWrs (f : Fmt) (off run p0 : Nat) (q : List Nat × List Nat) : List Wr :=
  let parts := [packCodes f.width q.2, q.1.map (BitVec.ofNat 8)]
  ((List.zip (f.lineSpans 1 run 0 p0 q.2.length) parts).map fun (y, b) => { d := .ob (off + y.1), bytes := b }) ++
    (if p0 + q.2.length = run then [{ d := .ob (off + f.rowBytes run), bytes := f.padBytes 1 run }] else [])

/-- Block `b` of 32 elements. -/
def Upd.piece (u : Upd) (s : State) (x : Ctx) (r : StepRec) (lr : Nat) (b : Nat) : Piece :=
  let ld (f : Fmt) (off i : Nat) : Word := f.tileLoad (fun a => obByte s x.core (off + a)) 1 u.n 0 (32 * b + i)
  let new := (List.range 32).map fun i => u.rule1 x.nl r (ld u.fg u.g i) (ld u.fp u.p i) (ld u.fm u.m i)
    (if u.adam then ld u.fv u.v i else 0)
  let fieldOf (t i : Nat) : Nat :=
    lunaField lr u.stream ((u.tensor + t) % 2 ^ 32) 8 16 (linIndex r.step 0 (2 ^ 40) u.elem0 (32 * b + i))
  let rd (f : Fmt) (off : Nat) : List (Nat × Nat) := (f.lineSpans 1 u.n 0 (32 * b) 32).map fun y => (off + y.1, y.2)
  { obReads := rd u.fg u.g ++ rd u.fp u.p ++ rd u.fm u.m ++ if u.adam then rd u.fv u.v else []
    writes :=
      partWrs u.fp u.p u.n (32 * b) (requant u.fp u.rndP (fieldOf 0) (new.map (·.1))) ++
      partWrs u.fm u.m u.n (32 * b) (requant u.fm u.rndM (fieldOf 1) (new.map (·.2.1))) ++
      (if u.adam then partWrs u.fv u.v u.n (32 * b) (requant u.fv u.rndV (fieldOf 2) (new.map (·.2.2))) else []) ++
      (if u.copy then partWrs u.fc u.c u.n (32 * b) (u.fc.storeLine (new.map (·.1))) else []) }

/-- The blocks in order, by the step record and the Luna record as read at the start (R223, R240); a record whose read failed ends
the first. A skipped step does no more (R248). -/
def Upd.pieces (u : Upd) (s : State) (x : Ctx) : List Piece :=
  let r := stepRecOf x s u.step
  if r.skip || x.cmd.stepBad.isSome then [{ fault := x.cmd.stepBad }]
  else (List.range (u.n / 32)).map fun b =>
    { u.piece s x r x.lunaRec b with fault := if b = 0 then x.cmd.lunaBad else none }

/-- R250. -/
def updOut (x : Ctx) (n : Nat) (skip : Bool) (r : Res) : Out :=
  match r.fail with
  | none => { reply := vecReply x (if skip then 0 else n) + ofBool skip <<< 32 }
  | some (b, st, _) => { status := st, reply := vecReply x b }

/-- The step record that a start in this row would read, where it can be read. -/
def stepRecNow (x : Ctx) (s : State) (a : Nat) : Option StepRec :=
  if (readFault s x.o x.e a 64).isNone then some (stepRecAt (miscorrect x.e s) x.o a) else none

/-- STEP_NONE of R247 and R255, where the record can be read. -/
def stepNone (x : Ctx) (s : State) (a : Nat) : Option Out :=
  match stepRecNow x s a with
  | some r => if r.valid then none else some (refuse 0x60)
  | none => none

/-- The work of VEC.UPDATE. -/
def updatePlan (x : Ctx) (s : State) : Plan :=
  let u := Upd.parse x.par
  { pieces := u.pieces s x, out := updOut x (u.n / 32) (stepRecOf x s u.step).skip }

/-- Operations and SFU results per element (R249). -/
def Upd.lanes (u : Upd) : Nat :=
  (if u.rule = 0 then (if u.nesterov then 11 else 9) else if u.adam then 16 else 12) +
    2 * (([u.fp, u.fm] ++ (if u.adam then [u.fv] else []) ++ (if u.copy then [u.fc] else [])).filter fun f => f.bs != 0).length +
    ofBool u.copy

/-- Without a bound record and without a valid step record the code is LUNA_NONE (DESIGN CHOICE, log 80: R247 does not order the
two). -/
def updateFamily : Family where
  bad _ := updateBad
  lvl nl v := let u := Upd.parse v; fmtNl nl [u.fg, u.fc]
  core _ := true
  thread _ := true
  spans v := [((Upd.parse v).step, 64)]
  ob _ v := (Upd.parse v).spans
  home v := some (fld v 31 28 / 4 * 0x006000000000)
  die v := some (fld v 31 28)
  refuse x s := let u := Upd.parse x.par; needLuna u.draws x s <|> stepNone x s u.step
  peeks x s :=
    let u := Upd.parse x.par
    if (needLuna u.draws x s).isSome then [] else [(u.step, 64)]
  step v := some (Upd.parse v).step
  draws v := (Upd.parse v).draws
  charges x s :=
    let u := Upd.parse x.par
    chargeList (vectorWork (u.n * u.lanes) (if u.adam then 2 * u.n else 0) ++
      traffic (x.core / 52) ((u.step, 64) :: (updatePlan x s).pieces.flatMap Piece.spans))
  reach := planReach updatePlan
  steps := planSteps updatePlan
  work x s := execPlan (updatePlan x s) x s

def execVecUpdate (c : CmdRef) (e : Circ) (s : State) : Outcome State Fault Refusal :=
  .next (runCmd 0x0303 updateFamily c e s)

/-! ### VEC.SCHED (R252 to R256) -/

structure Sched where
  next : Bool
  kind : Nat
  restart : Bool
  bcEn : Bool
  normEn : Bool
  mult : Nat
  warm : Nat
  t0 : Nat
  stepEvery : Nat
  lrMax : Word
  lrMin : Word
  gamma : Word
  wd : Word
  b1 : Word
  b2 : Word
  maxNorm : Word
  tSet : Nat
  recA : Nat
  norm : Nat
deriving DecidableEq, Repr

/-- The map of R254. -/
def Sched.parse (v : Nat) : Sched :=
  let w := fun lo => BitVec.ofNat 32 (fld v (lo + 31) lo)
  { next := fld v 1 0 == 1, kind := fld v 3 2, restart := bit v 4, bcEn := bit v 5, normEn := bit v 6, mult := fld v 15 8
    warm := fld v 63 32, t0 := fld v 95 64, stepEvery := fld v 127 96, lrMax := w 128, lrMin := w 160, gamma := w 192
    wd := w 224, b1 := w 256, b2 := w 288, maxNorm := w 320, tSet := fld v 383 352, recA := fld v 431 384
    norm := fld v 495 448 }

/-- R255. GAMMA, STEP_EVERY, T0 and RESTART, B1, B2 and MAXNORM may hold any value where KIND, BC_EN or NORM_EN leave them without a
use (DESIGN CHOICE, log 82: the map of R254 says nothing of them there). -/
def schedBad (v : Nat) : Bool :=
  let p := Sched.parse v
  !zeros v [(7, 7), (31, 16), (447, 432), (511, 496)] || decide (1 < fld v 1 0) || !within p.mult 1 16 ||
  (p.kind != 0 && p.t0 == 0) || (p.kind == 3 && (p.stepEvery == 0 || !isPos32 p.gamma || flt one32 p.gamma)) ||
  !finNonNeg p.lrMax || !finNonNeg p.lrMin || flt p.lrMax p.lrMin || !finNonNeg p.wd ||
  (p.bcEn && (!unitFactor p.b1 || !unitFactor p.b2)) || (p.normEn && !finPos p.maxNorm) ||
  decide (2 ^ 24 ≤ p.tSet) || (p.next && p.tSet != 0) || !ksLine p.recA ||
  (if p.normEn then !(inKs p.norm && divides 4 p.norm) else p.norm != 0)

/-- Warm restarts: the place in the period and the period's length (R252). -/
def restarts (mult : Nat) : Nat → Nat → Nat → Nat × Nat
  | 0, u, span => (u, span)
  | n + 1, u, span => if span ≤ u then restarts mult n (u - span) (span * mult) else (u, span)

def ratio (a b : Nat) : Word := rne32Div (.ofInt a) (.ofInt b)

/-- `lr_of` of R252. -/
def Sched.lrOf (p : Sched) (nl t : Nat) : Word :=
  if t < p.warm then fmul p.lrMax (ratio (t + 1) p.warm)
  else if p.kind = 0 then p.lrMax
  else
    let u0 := t - p.warm
    let (u, span) :=
      if p.restart then (if p.mult = 1 then (u0 % p.t0, p.t0) else restarts p.mult 40 u0 p.t0)
      else if p.kind = 3 then (u0, p.t0) else (min u0 p.t0, p.t0)
    if p.kind = 3 then
      let n := u / p.stepEvery
      fmax p.lrMin (fmul p.lrMax (sfu nl .exp2 (rne32 ((Ext.ofInt n).mul (val32 (sfu nl .log2 p.gamma))))))
    else
      let x := ratio u span
      let f := if p.kind = 1 then fsub one32 x
        else fmul 0x3F000000#32 (fadd one32 (sfu nl .cos (fmul 0x3F000000#32 x)))
      fadd p.lrMin (fmul (fsub p.lrMax p.lrMin) f)

/-- `1 - B^τ` of R253. -/
def biasTerm (nl t : Nat) (b : Word) : Word :=
  fsub one32 (sfu nl .exp2 (rne32 ((Ext.ofInt (t + 1 : Nat)).mul (val32 (sfu nl .log2 b)))))

/-- The record that step `t` writes (R251 to R253); `ss` is the word at NORM_ADDR. -/
def Sched.record (p : Sched) (nl t : Nat) (ss : Word) : StepRec :=
  let lr := p.lrOf nl t
  let skip := p.normEn && (isNan32 ss || ss == inf32 false || isNeg32 ss)
  let c := if isZero32 ss then inf32 false else fmul p.maxNorm (sfu nl .rsqrt ss)
  { lr := lr
    decay := fsub one32 (fmul lr p.wd)
    bc1 := if p.bcEn then sfu nl .rcp (biasTerm nl t p.b1) else one32
    bc2 := if p.bcEn then sfu nl .rsqrt (biasTerm nl t p.b2) else one32
    clip := if p.normEn && !skip && flt c one32 then c else one32
    skip := skip, valid := true, step := t }

def Sched.t (p : Sched) (old : StepRec) : Nat := if p.next then old.step + 1 else p.tSet

/-- The work of VEC.SCHED. -/
def schedPlan (x : Ctx) (s : State) : Plan :=
  let p := Sched.parse x.par
  let r := p.record x.nl (p.t (stepRecOf x s p.recA)) (BitVec.ofNat 32 (readNat s x.o p.norm 4))
  { pieces := [{ fault := x.cmd.stepBad, reads := if p.normEn then [(p.norm, 4)] else []
                 writes := [{ d := .dev p.recA, bytes := r.bytes }] }]
    out := fun z => match z.fail with
      | none => { reply := r.lr.toNat + r.step <<< 32 + ofBool r.skip <<< 56 }
      | some (_, st, _) => { status := st } }

/-- NEXT refuses a stored STEP of 2^24 − 1 and, as one that no NEXT leaves, any above it (DESIGN CHOICE, log 79: R255 names the one
value). -/
def schedFamily : Family where
  bad _ := schedBad
  core _ := true
  thread _ := true
  spans v := let p := Sched.parse v; (p.recA, 64) :: if p.normEn then [(p.norm, 4)] else []
  refuse x s :=
    let p := Sched.parse x.par
    if p.next then
      stepNone x s p.recA <|>
        (if (stepRecNow x s p.recA).any fun r => decide (2 ^ 24 - 1 ≤ r.step) then some (refuse 0x61) else none)
    else none
  peeks x _ := [((Sched.parse x.par).recA, 64)]
  step v := let p := Sched.parse v; if p.next then some p.recA else none
  reach := planReach schedPlan
  steps := planSteps schedPlan
  work x s := execPlan (schedPlan x s) x s

def execVecSched (c : CmdRef) (e : Circ) (s : State) : Outcome State Fault Refusal :=
  .next (runCmd 0x0304 schedFamily c e s)

end Sys2Proof.Machine
end

