-- ==== Sys2Proof/Machine/Families.lean ====
section
/-! DEFINITION. The table of opcodes (R348) with the family of each, and the checks of stage 1 (R344). -/
namespace Sys2Proof.Machine

/-- The families of R348. -/
def familyOf (op : Nat) : Option Family :=
  match op with
  | 0x0101 => some movTileFamily
  | 0x0102 => some movExpandFamily
  | 0x0103 => some movGatherFamily
  | 0x0104 => some movFillFamily
  | 0x0201 => some (mtxFamily false)
  | 0x0202 => some chain2Family
  | 0x0203 => some (mtxFamily true)
  | 0x0301 => some vecRunFamily
  | 0x0302 => some vecStatsFamily
  | 0x0303 => some updateFamily
  | 0x0304 => some schedFamily
  | 0x0401 => some attFwdFamily
  | 0x0402 => some attBwdFamily
  | 0x0403 => some kvAppendFamily
  | 0x0404 => some kvMapFamily
  | 0x0501 => some fuseFamily
  | 0x0502 => some abtFamily
  | 0x0601 => some rngFamily
  | 0x0602 => some gumbelFamily
  | 0x0701 => some decFamily
  | 0x0702 => some encFamily
  | 0x0703 => some mScaleFamily
  | 0x0704 => some lockFamily
  | 0x0801 => some signalFamily
  | 0x0802 => some waitFamily
  | 0x0803 => some fenceFamily
  | 0x0901 => some beginFamily
  | 0x0902 => some commitFamily
  | 0x0903 => some discardFamily
  | 0x0A01 => some saveFamily
  | 0x0A02 => some restoreFamily
  | 0x0B01 => some sendFamily
  | 0x0B02 => some recvFamily
  | 0x0B03 => some reduceFamily
  | 0x0C01 => some loadFamily
  | 0x0C02 => some schRunFamily
  | 0x0E01 => some limitFamily
  | 0x0E02 => some reserveFamily
  | 0x0F01 => some stateFamily
  | 0x0F02 => some electFamily
  | 0x0F03 => some stageFamily
  | 0x0F04 => some attestFamily
  | 0x0F05 => some queueFamily
  | _ => none

/-- Opcodes that a generation-2 header may not carry (R342). -/
def gen3Only (op : Nat) : Bool := decide (op ∈ [0x0202, 0x0602, 0x0704, 0x0901, 0x0902, 0x0903])

/-- A span that the queue table or a reserved range spoils (R38, R333): an empty one still names its address. -/
def spanBad (s : State) (x : Nat × Nat) : Bool :=
  !spanOk x.1 (max 1 x.2) || overlap x.1 x.2 s.regs.qtbBase.toNat 0x4000000

/-- A release beat, which only an image may give (R410, R411). -/
def queueBeat (op par : Nat) : Bool :=
  if op = 0x0B01 ∨ op = 0x0B02 then fld par 191 128 != 0 else op == 0x0B03 && fld par 575 512 != 0

/-- Stage 1 of R344 after the header's own checks: the status that ends a command, 0 when it passes. `hdrOk` says that
queue, job, tags and task marks are in order. -/
def stage1 (gen nl : Nat) (image hdrOk : Bool) (hdr par : Nat) (s : State) : Nat :=
  let op := hOpcode hdr
  if hGen hdr ≠ gen ∨ (gen = 2 ∧ gen3Only op) then stRefusedVersion
  else match familyOf op with
    | none => stBadOpcode
    | some f =>
      if !hdrOk || f.bad nl par || (f.spans par).any (spanBad s) || (!image && queueBeat op par) ||
          (op == 0x0901 && !hFirst hdr) then stBadParam
      else if noLevel s nl || f.lvl nl par then stRefusedNl
      else if f.stat par then stChainStat
      else 0

/-- Reserved header bits, and dependency tags at or beyond NDEP (R339, R342). -/
def hdrFieldsOk (gen h : Nat) : Bool :=
  zeros h [(23, 23), (31, 27), (63, 52), (95, 80), (191, 164), (511, 320)] &&
  decide (hNdep h ≤ (if gen = 2 then 2 else 4)) &&
  (List.range 4).all (fun i => decide (i < hNdep h) || hDep h i == 0) &&
  (gen != 2 || fld h 51 48 == 0)

end Sys2Proof.Machine
end

