-- ==== Sys2Proof/Machine/Fetch.lean ====
section
/-! DEFINITION. Queues between the companion and the engines: doorbells (R337, R338), slot fetch (R339 to R344),
completion records (R336, R346) and their interrupt messages (R359, R360), and the end of a drain (R354). -/
namespace Sys2Proof.Machine
open Host

/-! ### Doorbells -/

/-- a − b modulo 2^32. -/
def diff32 (a b : Nat) : Nat := (a + 2 ^ 32 - b % 2 ^ 32) % 2 ^ 32

def badDoorbell (qid : Nat) (s : State) : State :=
  { s with regs := { s.regs with badDb := sat32 s.regs.badDb 1, badQid := BitVec.ofNat 20 qid } }

/-- The tests of R338. -/
def doorbellOk (q : Queue) (kind : Bool) (v : Nat) : Bool :=
  if kind then
    q.state != .closed && decide (diff32 v q.cplHead.toNat ≤ diff32 q.written q.cplHead.toNat)
  else
    (q.state == .opened || q.state == .paused) && decide (diff32 v q.fetched ≤ 2 ^ q.log2) &&
      decide (diff32 v q.tail.toNat ≤ 2 ^ q.log2)

def doorbell (x : DWord) (s : State) : State :=
  let qid := fld x.toNat 19 0
  let kind := bit x.toNat 20
  let v := fld x.toNat 63 32
  let q := queueOf s qid
  if !doorbellOk q kind v then badDoorbell qid s
  else setQ (.hw (BitVec.ofNat 20 qid))
    (if kind then { q with cplHead := BitVec.ofNat 32 v } else { q with tail := BitVec.ofNat 32 v }) s

/-- The companion's own stores to its memory. -/
def companionStores (l : List (Nat × Byte)) (s : State) : State :=
  s.setComp (l.foldl (fun m x => memSet 0 m (x.1 % 2 ^ 64) x.2) s.mem.comp)

def execCommandDoorbell (stores : List (Nat × Byte)) (v : DWord) (s : State) : Outcome State Fault Refusal :=
  let s1 := companionStores stores s
  .next (if reachable s1 then doorbell v s1 else s1)

def execCompletionDoorbell (v : DWord) (s : State) : Outcome State Fault Refusal :=
  .next (if reachable s then doorbell v s else s)

/-! ### Slot fetch -/

/-- `n` bytes of companion memory behind a window address. -/
def compNat (s : State) (a n : Nat) : Nat := leNat (memRead 0 s.mem.comp (compAddr s a) n)

/-- The nearest earlier command with a tag, at most 2^n − 1 slots back (R340). -/
def tagged (q : Queue) (idx tag : Nat) : Option Nat :=
  ((q.cmds.filter fun k => decide (hTag k.hdr = tag) && decide (k.idx < idx) && decide (idx < k.idx + 2 ^ q.log2)).map (·.idx)).max?

def depsNamed (q : Queue) (idx h : Nat) : List (Option Nat) := (List.range (min 4 (hNdep h))).map fun i => tagged q idx (hDep h i)

def openTask (q : Queue) (id : Nat) : Option Task := q.tasks.find? fun t => t.isOpen && decide (t.id = id)

/-- GEN, QID, JOB and the two cases of R341: FIRST and LAST then take effect. -/
def headerPasses (qid : Nat) (q : Queue) (h : Nat) : Bool :=
  hGen h == q.gen && hQid h == qid && hJob h == q.job && hFirst h == (openTask q (hTask h)).isNone

/-- The effect of FIRST and LAST on the queue's tasks, and the command's task (R341). -/
def enterTask (q : Queue) (h : Nat) : Queue × Nat :=
  let q1 : Queue := if hFirst h then
      { q with tasks := q.tasks ++ [{ serial := q.serial, id := hTask h, lc := q.lc }], serial := q.serial + 1 }
    else q
  let n := ((openTask q1 (hTask h)).map (·.serial)).getD 0
  (if hLast h then { q1 with tasks := q1.tasks.map fun t => if t.serial = n then { t with isOpen := false } else t } else q1, n)

/-- The task holds the state of its ID: it was committed or discarded, and no later task has reopened the ID (R356). -/
def keepsState (q : Queue) (t : Task) : Bool :=
  (t.state == .committed || t.state == .discarded) && q.tasks.all fun u => decide (u.id ≠ t.id) || decide (u.serial ≤ t.serial)

/-- Commands that no tag can name any more, once they, their task and their dependents are done, and such tasks, are
forgotten. -/
def prune (q : Queue) : Queue :=
  let busy := fun t => (q.tasks.any fun u => decide (u.serial = t) && (!u.finished || u.rerun || u.isOpen))
  let needed := fun i => q.cmds.any fun k => (k.ph != .done || busy k.task) && k.deps.contains i
  let cmds := q.cmds.filter fun k =>
    k.ph != .done || decide (q.fetched < k.idx + 2 ^ q.log2) || busy k.task || needed k.idx
  { q with
    cmds := cmds
    tasks := q.tasks.filter fun t => t.isOpen || !t.finished || t.state == .speculative || keepsState q t ||
      cmds.any fun k => decide (k.task = t.serial) }

/-- The rings of a queue lie in the companion memory window (R335, R357). -/
def ringsOk (q : Queue) : Bool := spanWin q.cmdAddr (1024 * 2 ^ q.log2) && spanWin q.cplAddr (32 * 2 ^ q.log2)

/-- A fetched slot joins its queue; a command that fails stage 1 completes at once (R344). -/
def fetchSlot (qid : Nat) (s : State) : State :=
  let q := queueOf s qid
  let a := q.cmdAddr + 1024 * (q.fetched % 2 ^ q.log2)
  let h := compNat s a 64
  let par := compNat s (a + 64) (64 * hPlen h)
  let idx := q.fetched
  let pass := headerPasses qid q h
  let named := depsNamed q idx h
  let st := stage1 q.gen q.nl false (pass && hdrFieldsOk q.gen h && named.all Option.isSome) h par s
  let (q1, task) := if pass then enterTask q h else (q, 0)
  let k : Cmd := { idx := idx, hdr := h, par := par, entered := st == 0, task := task
                   deps := if st = 0 then named.filterMap id else [] }
  let s1 := setQ (.hw (BitVec.ofNat 20 qid)) (prune { q1 with fetched := q.fetched + 1, cmds := q1.cmds ++ [k] }) s
  if st = 0 then s1
  else
    let s2 := complete ⟨.hw (BitVec.ofNat 20 qid), idx⟩ { status := st } s1
    if hOpcode h = 0x0702 ∧ fld par 1 0 = 1 then failGroup (shownAs par) s2 else s2

def execSlotFetch (qid : BitVec 20) (s : State) : Outcome State Fault Refusal :=
  let q := queueOf s qid.toNat
  .next (if reachable s && q.state != .closed && ringsOk q && decide (q.fetched % 2 ^ 32 ≠ q.tail.toNat) then
      fetchSlot qid.toNat s
    else s)

/-! ### Completion records -/

/-- The 256 bits of R346. -/
def recordBits (r : Rec) (phase : Nat) : Nat :=
  r.tag + r.status <<< 32 + (r.code % 256) <<< 48 + ofBool r.last <<< 56 + phase <<< 57 + ofBool r.second <<< 58
    + (r.cmd % 2 ^ 64) <<< 64 + (r.tstart % 2 ^ 64) <<< 128 + (r.tend % 2 ^ 64) <<< 192

/-- The first waiting record of a command, and the records before it. -/
def splitRec (c : CmdRef) : List Rec → Option (List Rec × Rec × List Rec)
  | [] => none
  | r :: l => if r.c = c then some ([], r, l) else (splitRec c l).map fun x => (r :: x.1, x.2)

/-- A dependency that had not completed when the record was queued has completed, and its record is written (R345). -/
def recorded (s : State) (l : List Rec) (d : CmdRef) : Bool :=
  ((cmdOf s d).map (·.settled)) != some none && l.all fun x => decide (x.c ≠ d)

/-- The interrupt message of a record with IRQ = 1 (R359, R360). -/
def recordIrq (qid : Nat) (s : State) : State :=
  let q := queueOf s qid
  if qid = 0 then (if s.regs.cqIrqEn then devIrq 6 s else s)
  else if !q.irqEn || !s.regs.irqEn then s
  else
    let now : Int := s.time.now.toNat
    let r : QRef := .hw (BitVec.ofNat 20 qid)
    match q.lastMsg with
    | some t => if now < t + 1000 * (q.irqMod : Int) then setQ r { q with irqDue := true } s
      else sendIrq q.irqVec qid (setQ r { q with lastMsg := some now } s)
    | none => sendIrq q.irqVec qid (setQ r { q with lastMsg := some now } s)

def execCompletionRecordWrite (qid : BitVec 20) (c : CmdRef) (s : State) : Outcome State Fault Refusal :=
  let q := queueOf s qid.toNat
  .next (match splitRec c q.recs with
    | none => s
    | some (l, r, m) =>
      if reachable s && ringsOk q && decide (diff32 q.written q.cplHead.toNat < 2 ^ q.log2) &&
          !(l.any fun x => r.after.contains x.c) && r.waits.all (recorded s m) then
        let a := q.cplAddr + 32 * (q.written % 2 ^ q.log2)
        let s1 := putComp (compAddr s a) (leBytes 32 (recordBits r (1 - q.written / 2 ^ q.log2 % 2))) s
        let s2 := setQ (.hw qid) { q with recs := l ++ m, written := q.written + 1 } s1
        if r.irq then recordIrq qid.toNat s2 else s2
      else s)

/-- At the end of the interval one message covers the records written meanwhile (R360). -/
def execIrqModerationExpiry (qid : BitVec 20) (s : State) : Outcome State Fault Refusal :=
  let q := queueOf s qid.toNat
  .next (match q.irqDue, q.lastMsg with
    | true, some t =>
      let s1 := advanceTo (t + 1000 * (q.irqMod : Int)).toNat s
      sendIrq q.irqVec qid.toNat (setQ (.hw qid) { q with irqDue := false, lastMsg := some (s1.time.now.toNat : Int) } s1)
    | _, _ => s)

/-- A DRAINING queue closes when every announced command has its record written (R354). -/
def execQueueDrainComplete (qid : BitVec 20) (s : State) : Outcome State Fault Refusal :=
  let q := queueOf s qid.toNat
  .next (if q.state == .draining && q.idle then setQ (.hw qid) { q with state := .closed } s else s)

end Sys2Proof.Machine
end

