-- ==== Sys2Proof/Machine/Runs.lean ====
section
/-! DEFINITION. Crossings and runs (R29 to R33, R168, R170, R372, R441), image runs (R406 to R409), tasks released in them,
waiting and yielding of best-effort work (R87, R371). -/
namespace Sys2Proof.Machine
open Host

/-! ### The drain (R29, R31) -/

/-- Started commands of the engines: all but an SCH.RUN, which lasts over its runs. -/
def engineBusy (s : State) : Bool :=
  (allQueues s).any fun x => x.2.cmds.any fun k => (isRunning k || isYielded k) && hOpcode k.hdr != 0x0C02

/-- Settings that wait for a crossing come into force (R283, R332, R358, R394, R413). -/
def applySettings (s : State) : State :=
  { s with
    regs := { s.regs with
      emcia := s.regs.emciaSet, medCfg := s.regs.medSet, errCfg := s.regs.errSet, colTimeout := s.regs.colSet }
    cores := { s.cores with lcBanks := s.cores.lcSet } }

/-- A command not yet started is handed to no engine and claims no bank. -/
def Cmd.unplaced (k : Cmd) : Cmd := if k.ph = .waiting then { k with placedAt := none, banks := [] } else k

/-- Engine state is cleared, and every engine queue is empty (R29, R368). -/
def clearEngines (s : State) : State :=
  let s1 := mapQueues (fun q => { q with cmds := q.cmds.map Cmd.unplaced }) (s.setOb [])
  { s1 with
    media := { s1.media with pipes := [] }
    cores := { s1.cores with banks := [], arrays := [], vregs := [], stores := [], draws := [] }
    mem := { s1.mem with gathered := [], timedOut := [], rowBad := [], passWait := [], passHeld := [] } }

/-- Cocoons of an image run's tasks stay with the queue of its SCH.RUN when the run ends (R29). -/
def adoptCocoons (s : State) : State :=
  let hw : QRef := .hw (BitVec.ofNat 20 (ringOf s .img))
  (s.cocoons.filter fun k => decide (k.q = .img)).foldl (fun t k =>
    match taskOf t .img k.task with
    | none => t
    | some u =>
      let q := getQ t hw
      let t1 := setQ hw { q with
        tasks := q.tasks ++ [{ u with serial := q.serial, isOpen := false, core := none, rerun := false }]
        serial := q.serial + 1 } t
      putCocoon { k with q := hw, task := q.serial } t1) s

/-- The image run in progress has ended: its SCH.RUN completes, goes on with the next run, or continues this one (R407 to
R409). -/
def endImageRun (s : State) : State :=
  match s.img.run with
  | none => s
  | some r =>
    if !r.active then s
    else match r.ended with
      | some x =>
        let s1 := adoptCocoons s
        complete r.c { status := x.1, code := x.2.1, reply := x.2.2 } { s1 with img := { s1.img with run := none } }
      | none =>
        if r.q.tasks.any (·.rerun) then { s with img := { s.img with run := some { r with active := false, again := true } } }
        else
          let s1 := adoptCocoons s
          if r.count ≤ r.k + 1 then complete r.c { reply := some (r.k + 1) } { s1 with img := { s1.img with run := none } }
          else { s1 with img := { s1.img with run := some { r with active := false, again := false, k := r.k + 1 } } }

def execCrossingDrainEnd (s : State) : Outcome State Fault Refusal :=
  .next (match s.sup.cross with
    | none => s
    | some x =>
      if x.drained.isSome || engineBusy s || !(s.sup.dstate == .draining || s.sup.dstate == .fenced) then s
      else
        let s1 := advanceTo (beatUp s.time.now.toNat) s
        let s2 := endImageRun (applySettings (clearEngines s1))
        { s2 with sup := { s2.sup with cross := some { x with drained := some (s1.time.now.toNat : Int) } } })

/-! ### Pending actions (R31) -/

/-- A pending command is performed: it begins now and does its work. -/
def performWith (f : Family) (work : Ctx → State → State) (p : Pend) (s : State) : State :=
  match cmdOf s p.c with
  | none => s
  | some k =>
    if k.ph != .crossing then s
    else
      let s0 := miscorrect p.e s
      let s1 := beginCmd f (mkCtx s0 p.c p.e k) none s0
      work (mkCtx s1 p.c p.e ((cmdOf s1 p.c).getD k)) s1

/-- The pending commands of an opcode, in order; those that complete are pending no more. -/
def performAll (op : Nat) (f : Family) (work : Ctx → State → State) (s : State) : State :=
  let mine := s.sup.pend.filter fun p => ((cmdOf s p.c).map fun k => hOpcode k.hdr) == some op
  let s1 := mine.foldl (fun t p => performWith f work p t) s
  let left := s1.sup.pend.filter fun p => !mine.contains p || ((cmdOf s1 p.c).map (·.ph)) == some .crossing
  { s1 with sup := { s1.sup with pend := left } }

/-- A pending command of one of the opcodes has not all its quanta yet, or a stack that retrains holds it up (R282, R385). -/
def pendHeld (ops : List Nat) (s : State) : Bool :=
  s.sup.pend.any fun p => match cmdOf s p.c with
    | none => false
    | some k => match familyOf (hOpcode k.hdr) with
      | none => false
      | some f =>
        let x := mkCtx s p.c p.e k
        ops.contains (hOpcode k.hdr) && k.ph == .crossing && (!paidUp s p.c || mustWait s x.o p.e (f.reach x s))

/-- Marked cores leave the enabled set, and marked Abutment engines are retired (R12, R123). -/
def retireCores (s : State) : State :=
  let left := s.cores.usable.zipIdx.map fun x => x.1.filter fun c => !s.cores.marked.contains (13 * x.2 + c)
  let s1 := if s.cores.marked.isEmpty then s else { s with sup := { s.sup with recoveryDue := true } }
  let engines := s1.cores.abtMarked.foldl (fun l d => insNat d l) s1.cores.abtBad
  { s1 with cores := { s1.cores with usable := left, marked := [], abtBad := engines, abtMarked := [] } }

def electPending (s : State) : State := performAll 0x0F02 electFamily electWork s

/-- Steps 1 to 5 of R31. -/
def performActions (e : Circ) (s : State) : State :=
  let s1 := autoSave e (performAll 0x0A01 saveFamily saveWork s)
  let s2 := electPending (retireCores s1)
  performAll 0x0A02 restoreFamily restoreWork (performAll 0x0F03 stageFamily activateNow s2)

def setActed (s : State) : State :=
  { s with sup := { s.sup with cross := s.sup.cross.map fun x => { x with acted := true } } }

/-- The actions of a crossing wait for those that cannot be performed yet, in the order of R31. -/
def actionHeld (e : Circ) (s : State) : Bool := pendHeld [0x0A01, 0x0F02, 0x0A02, 0x0F03] s || autoHeld e s

/-- In a crossing, from c + d + 9 on, and again for what becomes pending in it; at rest, at once. A fenced part retires its
cores and performs an election (R31, R33, R353). -/
def execCrossingPendingActions (e : Circ) (s : State) : Outcome State Fault Refusal :=
  let acted := (s.sup.cross.map (·.acted)) == some true
  .next (match s.sup.cross.bind (·.drained), s.sup.dstate with
    | some d, .draining =>
      if actionHeld e s then s
      else if acted then performActions e s else setActed (startScrubs (performActions e (advanceTo (d + 9216).toNat s)))
    | some d, .fenced =>
      if pendHeld [0x0F02] s then s
      else if acted then electPending (retireCores s)
      else setActed (startScrubs (electPending (retireCores (advanceTo (d + 9216).toNat s))))
    | _, .ready => if actionHeld e s then s else performActions e s
    | _, .parked => if actionHeld e s then s else performActions e s
    | _, _ => s)

/-- A pending action keeps the next run from starting: any but an activation that the domain does not let in (R31, R414). -/
def actionsDue (s : State) : Bool :=
  s.sup.pend.any fun p => ((cmdOf s p.c).map fun k => hOpcode k.hdr) != some 0x0F03 ||
    fitsDomain s (fwHeader s true (bootRt (bootNow s)))

/-! ### The next run -/

/-- The service state that a run starting now takes (R168, R440). -/
def nextService (s : State) : Nat :=
  if s.sup.runTest then 2 else if s.sup.recoveryDue then 3 else if s.sup.startupDue then 1 else 0

/-- A command that runs again, as it was before it started. -/
def Cmd.again (k : Cmd) : Cmd :=
  { k with ph := .waiting, begun := false, thread := none, svc := none, second := true, placedAt := none, luna := none
           lunaBad := none, step := none, stepBad := none, die := none, pipe := none, scl := none, hasYielded := false, charges := none, work := [], classes := []
           banks := [], cored := false, kept := none, doer := none }

/-- Tasks that run again do so from their first command (R90, R372); one with a command in progress, an SCH.RUN, keeps its
start (R346). -/
def restartQueue (q : Queue) : Queue :=
  let again := fun t => q.tasks.any fun u => decide (u.serial = t) && u.rerun
  let busy := fun t => q.cmds.any fun k => decide (k.task = t) && isRunning k
  { q with
    cmds := q.cmds.map fun k => if again k.task && k.entered && k.ph == .done then k.again
      else k.unplaced
    tasks := q.tasks.map fun t =>
      if t.rerun then { t with rerun := false, finished := false, core := none, start := none }
      else if busy t.serial then t else { t with start := none, core := none, quad := none, roam := false } }

/-- Commands of such tasks that failed at stage 1 have a second record with the same status. -/
def repeatFailed (s0 s : State) : State :=
  (allQueues s0).foldl (fun t x =>
    (x.2.cmds.filter fun k => !k.entered && k.ph == .done && x.2.tasks.any fun u => decide (u.serial = k.task) && u.rerun).foldl
      (fun t k => complete ⟨x.1, k.idx⟩ { status := k.status, code := k.code, reply := some k.reply }
        (modCmd ⟨x.1, k.idx⟩ (fun k => { k with second := true }) t)) t) s

/-- A run begins at the present count: no marked core is left, the pipes of lock groups are bound again (R12, R315), service
state, flags, replayed tasks, RUNNING. -/
def startRun (kind : RunKind) (ms : Nat) (s0 : State) : State :=
  let s := rebind (retireCores s0)
  let svc := nextService s
  let s1 := repeatFailed s (mapQueues restartQueue s)
  setDState .running { s1 with sup := { s1.sup with
    run := some { kind := kind, start := s1.time.now.toNat, svc := svc, ms := ms }
    service := svc, cross := none, runReq := false, startupDue := false, recoveryDue := false, portHold := svc != 0 } }

/-- A run of the image would be a STARTUP or RECOVERY run that its chains cannot meet (R170). -/
def needsService (s : State) (r : ImgRun) : Bool :=
  let svc := nextService s
  (svc == 1 || svc == 3) && decide (1 < (slotOf s r).streams)

/-- STOP or PARK takes effect when the crossing ends (R352, R440). -/
def restNow (x : StopReq) (s : State) : State :=
  let s1 := cancelRun { s with sup := { s.sup with cross := none, stopReq := none } }
  setDState (match x with
    | .stop => .ready
    | .park => .parked) s1

/-- A service run starts in place of a run of the image. -/
def startService (r : ImgRun) (s : State) : State :=
  startRun .service 0 { s with img := { s.img with run := some { r with begun := true } } }

/-- At the first beat boundary after the last action, or in READY after RUN or SCH.RUN: the device rests, a service run or
a queue-fed run starts; a run of an image starts by its own row. -/
def nextRun (s : State) : State :=
  let s1 := advanceTo (beatUp s.time.now.toNat) s
  if s.sup.dstate = .draining then
    if (s.sup.cross.map (·.acted)) ≠ some true ∨ actionsDue s then s
    else match s.sup.stopReq, s.img.run with
      | some x, none => restNow x s1
      | some x, some r => if !r.begun then restNow x s1 else if needsService s r then startService r s1 else s
      | none, some r => if needsService s r then startService r s1 else s
      | none, none => startRun .queueFed s.sup.runMs s1
  else if s.sup.dstate = .ready && !fencedAny s && !actionsDue s then
    if s.sup.runReq then startRun .queueFed s.sup.runMs s1
    else match s.img.run with
      | some r => if needsService s r then startService r s1 else s
      | none => s
  else s

def execNextRunStart (s : State) : Outcome State Fault Refusal := .next (nextRun s)

/-- RUN_MS has elapsed (R441). -/
def execRunMsExpiry (s : State) : Outcome State Fault Refusal :=
  .next (match s.sup.run with
    | some r =>
      if r.kind = .queueFed ∧ r.ms ≠ 0 then beginCrossing (advanceTo (r.start + r.ms * 1000000) s) else s
    | none => s)

/-- The stream ports are released: the service run ends at a beat boundary (R170). -/
def execServiceRunEnd (s : State) : Outcome State Fault Refusal :=
  .next (if (s.sup.run.map (·.kind)) = some .service ∧ s.mem.scrubs.isEmpty then
      let s1 := advanceTo (beatUp s.time.now.toNat) s
      beginCrossing { s1 with sup := { s1.sup with portHold := false } }
    else s)

/-! ### Image runs (R406, R407) -/

/-- Lines that a read has used meet no error a second time: a corrected line is written back, an uncorrectable one poisoned. -/
def usedCirc (e : Circ) (l : List (Nat × Nat)) : Circ :=
  { e with errs := e.errs.filter fun x => !l.any fun z => (linesOf z.1 z.2).contains x.1 }

/-- A read of the image failed: its SCH.RUN, which issued it, ends with the status, and its run stops on every part (R281, R409,
log 84). -/
def failImage (st : Nat) (s : State) : State :=
  let n := s.freeCtr
  let s1 := sendDom (.abort s.dom.index (Config.stopAbort n).1 s.dom.index (Config.stopAbort n).2) { s with freeCtr := n + 1 }
  match s1.img.run with
  | none => s
  | some r =>
    if r.active then stopImage (st, 0, none) s1
    else complete r.c { status := st } { s1 with img := { s1.img with run := none } }

/-- Reads of the image in a run: they wait for a stack that retrains, leave their marks, and a failed one ends the SCH.RUN (R273,
R280 to R283). -/
def withImage (r : ImgRun) (l : List (Nat × Nat)) (s : State) (go : ImgRun → State → State) : State :=
  if mustWait s none r.e l then s
  else
    let r1 := { r with e := usedCirc r.e l }
    let s1 := noteReads none r.e l { s with img := { s.img with run := some r1 } }
    match l.findSome? fun z => readFault s none r.e z.1 z.2 with
    | some f => failImage f.1 s1
    | none => go r1 s1

/-- What a run reads of its image when it starts: header, section entry, task records; and when it releases a task: its packets. -/
def headSpans (s : State) (z : Slot) : List (Nat × Nat) :=
  let rd := imgRd s z.addr
  let g := ImgHdr.parse (rd 0 128)
  let sec := sectionOf rd g s.dom.index
  [(z.addr, 128), (z.addr + g.sect + 16 * s.dom.index, 16), (z.addr + sec.1, 32 * sec.2.2)]
def taskSpans (s : State) (z : Slot) (i : Nat) : List (Nat × Nat) :=
  let rd := imgRd s z.addr
  let sec := sectionOf rd (ImgHdr.parse (rd 0 128)) s.dom.index
  (((taskRecs rd sec)[i]?).map (taskPackets rd sec)).getD [] |>.map fun p => (z.addr + p.2.2, 64 + 64 * hPlen p.1)

/-- The tasks of this part's section, not yet released. -/
def sectionTasks (s : State) (z : Slot) : List Task :=
  let rd := imgRd s z.addr
  (taskRecs rd (sectionOf rd (ImgHdr.parse (rd 0 128)) s.dom.index)).zipIdx.map fun (t, i) =>
    { serial := s.img.serial + i, id := t.id, isOpen := true, lc := t.lc, lcore := t.lcore, beat := t.beat, released := false }

/-- An SCH.RUN that cannot start its run is refused. -/
def refuseRun (r : ImgRun) (code : Nat) (s : State) : State :=
  complete r.c (refuse code) { s with img := { s.img with run := none } }

/-- Records of an image that has ended stay in the order of its packets, which its dependencies follow (R345): the packet
numbers name the next run's commands from now on. -/
def insRec (x : Rec) : List Rec → List Rec
  | [] => [x]
  | y :: l => if x.c.idx ≤ y.c.idx then x :: y :: l else y :: insRec x l
def orderRecs (q : Queue) : Queue :=
  let mine := q.recs.filter fun x => decide (x.c.q = .img)
  { q with recs := (q.recs.filter fun x => decide (x.c.q ≠ .img)) ++ (mine.map fun x => { x with waits := [] }).foldr insRec [] }

def startImage (r : ImgRun) (z : Slot) (map : List Nat) (s : State) : State :=
  let p := planned s r
  let s1 := advanceTo (beatUp (if r.again then s.time.now.toNat else max s.time.now.toNat (p * beat))) s
  let now := s1.time.now.toNat / beat
  let ts := sectionTasks s1 z
  let q : Queue := if r.again then r.q else { r.q with cmds := [], tasks := ts, failed := [] }
  let s1 := if r.again then s1 else mapQueues orderRecs s1
  let r1 := { r with active := true, begun := true, again := false, map := map, beat := if r.again then r.beat else now, q := q }
  let s2 := { s1 with img := { s1.img with run := some r1, serial := if r.again then s1.img.serial else s1.img.serial + ts.length } }
  let s3 := startRun .image 0 (if p < now then recordSlip (now - p) none s2 else s2)
  if imageDone s3 then beginCrossing s3 else s3

def execImageRunStart (s : State) : Outcome State Fault Refusal :=
  .next (match s.img.run with
    | none => s
    | some r =>
      let atCrossing := s.sup.dstate == .draining && (s.sup.cross.map (·.acted)) == some true
      let ok := !r.active && r.ended.isNone && (s.sup.stopReq.isNone || r.begun) && !needsService s r &&
        !actionsDue s && (atCrossing || (s.sup.dstate == .ready && !fencedAny s))
      if !ok then s
      else match runSlot s r with
        | none => refuseRun r 0x84 s
        | some z => match coreMap (partCores (retireCores s)) z.lcores with
          | none => refuseRun r 0x81 s
          | some m => withImage r (if r.again then [] else headSpans s z) s fun r s => startImage r z m.1 s)

/-- The nearest earlier packet of the section with a tag (R403). -/
def packetTagged (cmds : List Cmd) (tag : Nat) : Option Nat :=
  ((cmds.filter fun k => decide (hTag k.hdr = tag)).map (·.idx)).max?

/-- A packet of a released task joins the section's queue; one that fails stage 1 aborts the run. -/
def addPacket (task beat : Nat) (s : State) (x : Nat × (Nat × Nat × Nat)) : State :=
  let q := getQ s .img
  let h := x.2.1
  let par := x.2.2.1
  let named := (List.range (min 4 (hNdep h))).map fun i => packetTagged q.cmds (hDep h i)
  let st := stage1 q.gen q.nl true (hdrFieldsOk q.gen h && named.all Option.isSome) h par s
  let due := if hOpcode h = 0x0B01 ∨ hOpcode h = 0x0B02 then fld par 191 128 else if hOpcode h = 0x0B03 then fld par 575 512 else 0
  let k : Cmd := { idx := x.1, hdr := h, par := par, entered := st == 0, task := task
                   deps := if st = 0 then named.filterMap id else [], released := decide (due ≤ beat)
                   dueAt := some s.time.now.toNat }
  let s1 := setQ .img { q with cmds := q.cmds ++ [k] } s
  if st = 0 then s1
  else
    let s2 := complete ⟨.img, x.1⟩ { status := st } s1
    if hOpcode h = 0x0702 ∧ fld par 1 0 = 1 then failGroup (shownAs par) s2 else s2

/-- A core that waits at a task's release, for a collective or in the turn of a folded core, or that is busy with its other
logical core's task, will record a slip when it starts the task (R413). -/
def markSlip (r : ImgRun) (task : Nat) (due : Int) (s : State) : State :=
  let now := { r with q := getQ s .img }
  match taskOf s .img task with
  | none => s
  | some t =>
    let waits := awaitsColl now.q task || !foldedTurn now t
    if waits || foldedBusy now t then modTask .img task (fun t => { t with slipDue := some due, slipBusy := !waits }) s else s

/-- Task `i` of the section is released at S_k + BEAT_OFF (R407), late when that instant has passed (R413). -/
def releaseTask (r : ImgRun) (i : Nat) (t : Task) (s : State) : State :=
  let due := (r.beat + t.beat) * beat
  let s1 := advanceTo due.toNat s
  let late := (((s1.time.now.toNat : Int) - due) / beat).toNat
  let z := slotOf s r
  let rd := imgRd s z.addr
  let sec := sectionOf rd (ImgHdr.parse (rd 0 128)) s.dom.index
  let recs := taskRecs rd sec
  let base := ((recs.take i).map (·.n)).sum
  let ps := ((recs[i]?).map (taskPackets rd sec)).getD []
  let tag := ((ps.head?).map fun p => hTag p.1).getD 0
  let s2 := modTask .img t.serial (fun t => { t with released := true, isOpen := false }) s1
  let s3 := (ps.zipIdx.map fun x => (base + x.2, x.1)).foldl (addPacket t.serial t.beat)
    (if due < s1.time.now.toNat then recordSlip late (some tag) s2 else s2)
  markSlip r t.serial due s3

def execTaskRelease (task : Nat) (s : State) : Outcome State Fault Refusal :=
  .next (match s.img.run with
    | none => s
    | some r =>
      match r.q.tasks.zipIdx.find? fun x => !x.1.released with
      | none => s
      | some (t, i) =>
        if r.active && t.id == task && s.sup.dstate == .running then
          withImage r (taskSpans s (slotOf s r) i) s fun r s => releaseTask r i t s
        else s)

/-- A member's ABORT: the crossing begins, no further run of the image starts, its SCH.RUN completes (R409). -/
def receiveAbort (part tag status : Nat) (s : State) : State :=
  let s1 := { s with regs := { s.regs with abortPart := BitVec.ofNat 9 part, abortValid := true } }
  beginCrossing (endImage (stRefusedDep, 0, some (rootField tag part status)) s1)

def execAbortReceive (part : BitVec 9) (tag : Word) (status : BitVec 8) (s : State) : Outcome State Fault Refusal :=
  .next (if formed s && s.sup.dstate != .off then receiveAbort part.toNat tag.toNat status.toNat s else s)

/-- An image collective is released at S_k + BEAT (R410). -/
def execCollectiveRelease (c : CmdRef) (s : State) : Outcome State Fault Refusal :=
  .next (match s.img.run, cmdOf s c with
    | some r, some k =>
      if c.q = .img ∧ r.active ∧ !k.released then
        let due := if hOpcode k.hdr = 0x0B03 then fld k.par 575 512 else fld k.par 191 128
        let t := (r.beat + due) * beat
        modCmd c (fun k => { k with released := true, dueAt := some (max t (k.dueAt.getD t)) }) (advanceTo t.toNat s)
      else s
    | _, _ => s)

/-! ### Best-effort work (R87, R371) -/

/-- A BE task has waited 100 µs for a core of its quadrant and may go to the others. -/
def execBePlacementTimeout (c : CmdRef) (s : State) : Outcome State Fault Refusal :=
  .next (match cmdOf s c with
    | none => s
    | some k =>
      let x := mkCtx s c {} k
      match familyOf (hOpcode k.hdr), x.task with
      | some f, some t =>
        if k.ph == .waiting && !x.lc && f.core k.par && t.core.isNone && (place f x s).isNone && c.q != .img then
          modTask c.q k.task (fun t => { t with roam := true, quad := t.quad <|> some (affinity f x s) }) s
        else s
      | _, _ => s)

/-- The engine that a command of an opcode works on, among those that best-effort work releases (R373): the array of a core,
the Abutment engine of a die, the expansion engine of a die, the moves. -/
def engineAt (op core : Nat) (die : Option Nat) : Nat × Nat :=
  if isMatrix op then (0, core) else if op = 0x0502 then (1, die.getD 0) else if op = 0x0102 then (2, core / 13) else (3, 0)

def engineOf (s : State) (c : CmdRef) (k : Cmd) : Nat × Nat := engineAt (hOpcode k.hdr) (mkCtx s c {} k).core k.die

/-- A latency-critical command is ready for an engine: it could start now. -/
def lcReady (s : State) (e : Nat × Nat) : Bool :=
  (allQueues s).any fun x => x.2.cmds.any fun k =>
    let c : CmdRef := ⟨x.1, k.idx⟩
    k.ph == .waiting && k.entered && canYield (hOpcode k.hdr) && lcOf s c k &&
      match familyOf (hOpcode k.hdr) with
      | none => false
      | some f => match admission (hOpcode k.hdr) f c {} k s with
        | .go q => decide (engineAt (hOpcode k.hdr) (q.getD 0) (f.abut (mkCtx s c {} k) s) = e)
        | _ => false

/-- A best-effort command in progress yields at the end of array tile, 16 output positions, 4 KiB unit or 64 KiB quantum `tile`
to a latency-critical command that needs its engine (R87, R122, R373): what it has completed is written. -/
def execBeYield (c : CmdRef) (tile : Nat) (s : State) : Outcome State Fault Refusal :=
  .next (match cmdOf s c with
    | none => s
    | some k =>
      let away := modCmd c (fun k => { k with ph := .yielded tile, hasYielded := true }) s
      let ahead := match k.ph with
        | .running p => decide (p ≤ tile)
        | _ => false
      if ahead && canYield (hOpcode k.hdr) && !lcOf s c k && lcReady away (engineOf s c k) then
        match (familyOf (hOpcode k.hdr)).bind fun f => f.yieldAt tile (mkCtx s c {} k) s with
        | some s1 => modCmd c (fun k => { k with ph := .yielded tile, hasYielded := true }) s1
        | none => s
      else s)

/-- No other command runs on the engine, and no latency-critical one is ready for it (R364): the yielded command goes on behind the
tile it completed last. -/
def execBeResume (c : CmdRef) (s : State) : Outcome State Fault Refusal :=
  .next (match cmdOf s c with
    | none => s
    | some k =>
      let taken := (allQueues s).any fun x => x.2.cmds.any fun j =>
        let d : CmdRef := ⟨x.1, j.idx⟩
        decide (d ≠ c) && isRunning j && canYield (hOpcode j.hdr) && decide (engineOf s d j = engineOf s c k) &&
          (lcOf s d j || decide ((engineOf s c k).1 < 2))
      match k.ph with
      | .yielded t => if taken || (!lcOf s c k && lcReady s (engineOf s c k)) then s
        else
          let x := mkCtx s c {} k
          zeroEngines (hOpcode k.hdr) x.job (x.task.bind (·.core)) k.thread k.die
            (modCmd c (fun k => { k with ph := .running (t + 1) }) s)
      | _ => s)

end Sys2Proof.Machine
end

