-- ==== Sys2Proof/Machine/Fence.lean ====
section
/-! DEFINITION. Heartbeats, fences and cross-checking (R399, R435 to R438), signing trees (R430), device faults (R352). -/
namespace Sys2Proof.Machine
open Host

/-! ### Fences (R437) -/

def isFenced (s : State) : Side → Bool
  | .north => s.sup.nFenced
  | .south => s.sup.sFenced

def setFenced (d : Side) (s : State) : State :=
  match d with
  | .north => { s with sup := { s.sup with nFenced := true } }
  | .south => { s with sup := { s.sup with sFenced := true } }

/-- ABORT of a part that fences or faults (R409); a part that is in no domain and has no SCH.RUN has no one to tell. -/
def faultAbort (s : State) : State :=
  if formed s || s.img.run.isSome then sendDom (.abort s.dom.index 0xFFFFFFFF s.dom.index 0xF0) s else s

/-- The device enters FENCED from RUNNING or DRAINING and drains; READY and PARKED stay (R352, R437). -/
def fenceDevice (s : State) : State :=
  match s.sup.dstate with
  | .running => beginDrain .fenced s
  | .draining => setDState .fenced s
  | _ => s

/-- A part that fences sends ABORT; an image run in progress is aborted, and its SCH.RUN completes with the status that ABORT
carries. -/
def fenceImage (s0 : State) : State :=
  let s := faultAbort s0
  match s.img.run with
  | some r =>
    if !r.begun then s
    else if r.active then
      { s with img := { s.img with run := some { r with ended := r.ended <|> some (stInternal, 0, none) } } }
    else complete r.c { status := stInternal } { s with img := { s.img with run := none } }
  | none => s

/-- A supervisor fences for a cause of SUP_FENCE; the first fence is recorded, and the leader sends vector 4. -/
def fence (d : Side) (cause : Nat) (s : State) : State :=
  if isFenced s d then s
  else
    let first := s.sup.fenceCause == 0
    let s1 := setFenced d (if first then { s with sup := { s.sup with fenceCause := cause, fenceSide := d } } else s)
    let s2 := refreshAlert (if d = s.sup.leader then devIrq 4 s1 else s1)
    fenceDevice (if first then fenceImage s2 else s2)

/-! ### Heartbeats (R436) -/

/-- Heartbeats run from Instar 2 onward in every state but OFF. -/
def beating (s : State) : Bool := decide (2 ≤ s.sup.stage) && s.sup.dstate != .off

/-- Heartbeats that a supervisor has sent, and the next one: term, leader, sequence number, FENCED (R436, R437). -/
def beatsSent (s : State) : Side → Nat
  | .north => s.sup.nSeq
  | .south => s.sup.sSeq
def nextBeat (d : Side) (s : State) : Beat := ⟨s.sup.term, s.sup.leader, beatsSent s d + 1, isFenced s d⟩

/-- The heartbeat leaves over both paths. -/
def execHeartbeatSend (side : Side) (s : State) : Outcome State Fault Refusal :=
  .next (if beating s then
      let b := nextBeat side s
      match side with
      | .north => { s with sup := { s.sup with nSeq := b.seq, nBeat := some b } }
      | .south => { s with sup := { s.sup with sSeq := b.seq, sBeat := some b } }
    else s)

/-- Whether the direct link and the sender's store-die path deliver (SUP_FENCE). -/
def setPaths (sender : Side) (direct store : Bool) (s : State) : State :=
  let s1 := { s with sup := { s.sup with directUp := direct } }
  match sender with
  | .north => { s1 with sup := { s1.sup with nPathUp := store } }
  | .south => { s1 with sup := { s1.sup with sPathUp := store } }

/-- What the copies of one heartbeat show the receiver: a cause that fences it, in the order of R436. -/
def beatCause (s : State) (direct store : Option Beat) : Option Nat :=
  let l := direct.toList ++ store.toList
  if l.any fun b => decide (b.term ≠ s.sup.term) || decide (b.leader ≠ s.sup.leader) then some 2
  else if decide (direct ≠ store) && direct.isSome && store.isSome then some 3
  else if l.any (·.fenced) then some 4
  else none

def receiveBeat (receiver : Side) (direct store : Option Beat) (s : State) : State :=
  let sender := otherSide receiver
  let s1 := setPaths sender direct.isSome store.isSome s
  if direct.isNone && store.isNone then s1
  else
    let s2 := if direct.isSome && store.isSome then s1 else
        logErr (.heartbeatMissed sender) { s1 with sup := { s1.sup with hbMiss := sat32 s1.sup.hbMiss 1 } }
    let s3 := if sender = s2.sup.leader then { s2 with sup := { s2.sup with silence := false } } else s2
    match beatCause s3 direct store with
    | some c => fence receiver c s3
    | none => s3

def execHeartbeatReceive (receiver : Side) (direct store : Option Beat) (s : State) : Outcome State Fault Refusal :=
  .next (if beating s then receiveBeat receiver direct store s else s)

/-- Fifty µs without a heartbeat on either path. -/
def execHeartbeatTimeout (receiver : Side) (s : State) : Outcome State Fault Refusal :=
  .next (if beating s then fence receiver 1 (setPaths (otherSide receiver) false false s) else s)

/-- R438: while the halves disagree and the leader is silent, the other supervisor takes the control commands. -/
def execLeaderSilenceTimeout (s : State) : Outcome State Fault Refusal :=
  .next (if beating s && fencedAny s then { s with sup := { s.sup with silence := true } } else s)

/-- The comparison of a beat under supervisor cross-checking (R399). A mismatch fences both supervisors. -/
def crossCheck (agree : Bool) (s0 : State) : State :=
  let s := advanceTo (beatUp s0.time.now.toNat) s0
  if agree then s
  else
    let first : Side := if Config.firstFence s.freeCtr then .south else .north
    fence (otherSide first) 5 (fence first 5 { s with freeCtr := s.freeCtr + 1 })

def execSupervisorCrossCheck (agree : Bool) (s : State) : Outcome State Fault Refusal :=
  .next (if beating s && decide (2 ≤ s.dom.red) then crossCheck agree s else s)

/-- The bottom tree that a supervisor generates: that of its next index if it is not cached, else the one behind it. -/
def treeDue (s : State) (d : Side) : Nat := (keysOf s d).next / 32768 + ofBool (canSign s d)

/-- The next bottom tree is generated once 1,024 indices remain in the current one, or once the indices skipped under R431 have
passed that point; it is cached, and the top-tree index of its number signs its root (R430, `signedChild`). -/
def execBottomTreeReady (side : Side) (s : State) : Outcome State Fault Refusal :=
  let k := identOf s side
  let n := (keysOf s side).next
  .next (if beating s && hasId s side && decide (treeDue s side < 32768) && (!canSign s side || decide (31744 ≤ n % 32768)) then
      setIdent side { k with trees := insNat (treeDue s side) (k.trees.filter fun t => decide (n / 32768 ≤ t)) } s
    else s)

/-! ### FAULTED (R352) -/

/-- Old or new bytes, line by line, for every line in which two memories differ. -/
def mixMem (pick : Nat → Bool) (old new : Mem) : Mem :=
  (new.filter fun x => pick (x.1 / 64)).foldl (fun m x => memSet 0 m x.1 x.2) (old.filter fun x => !pick (x.1 / 64))

/-- The lines of the stream context of a MED.DEC or MED.ENC, and of those of its lock group, which stay as they were (R296,
R317). -/
def contextLines (o : Owner) (k : Cmd) (s : State) : List Nat :=
  let lines := fun a => (List.range 1024).map fun i => viewAddr s o (a + 64 * i) / 64
  if hOpcode k.hdr = 0x0701 then lines (Dec.parse k.par).ctx
  else if hOpcode k.hdr = 0x0702 then
    let a := (shownAs k.par).1
    (((groupOf s a).map (·.members)).getD [a]).flatMap lines
  else []

/-- The destination of a stopped command holds old or new bits (log 11): its memory is between that of `s` and that of its
finished work. -/
def stopWork (c : CmdRef) (k : Cmd) (s : State) : State :=
  match familyOf (hOpcode k.hdr) with
  | none => s
  | some f =>
    let x := mkCtx s c {} k
    let t := f.work x s
    let n := s.freeCtr
    let kept := contextLines x.o k s
    let pick := fun sp l => Config.newBits n (l + sp * 2 ^ 60) && !(sp == 0 && kept.contains l)
    { s with
      freeCtr := n + 1
      mem := { s.mem with
        dev := mixMem (pick 0) s.mem.dev t.mem.dev
        comp := mixMem (pick 1) s.mem.comp t.mem.comp
        ob := mixMem (pick 2) s.mem.ob t.mem.ob
        poison := (t.mem.poison.filter (pick 0)).foldl (fun l x => insNat x l) (s.mem.poison.filter fun x => !pick 0 x) } }

/-- One command at the entry into FAULTED; an SCH.RUN counts as started once it has started a run. -/
def faultCmd (s : State) (x : CmdRef × Nat) : State :=
  match cmdOf s x.1 with
  | none => s
  | some k =>
    if k.ph = .done then s
    else if hOpcode k.hdr = 0x0C02 then
      complete x.1 (if imageInProgress s && (s.img.run.map (·.c)) == some x.1 then { status := stInternal } else refuse 0x17) s
    else if isRunning k || isYielded k then complete x.1 { status := stInternal } (stopWork x.1 k s)
    else match x.1.q with
      | .hw _ => complete x.1 (refuse 0x17) s
      | .img => s

/-- The leader completes every command that has not completed, and the part sends the one ABORT of R409. -/
def completeAll (s : State) : State :=
  let cs := (allQueues s).flatMap fun x => x.2.cmds.map fun k => ((⟨x.1, k.idx⟩ : CmdRef), k.idx)
  let s1 := cs.foldl faultCmd s
  let s2 := { s1 with dom := { s1.dom with out := s.dom.out, cols := [] } }
  let s3 := faultAbort s2
  { s3 with img := { s3.img with run := none } }

/-- FAULTED: nothing starts any more. Without a control path no command completes. -/
def enterFaulted (path : Bool) (s : State) : State :=
  let s1 := { s with sup := { s.sup with ctlPath := path } }
  let s2 := if path then completeAll (setDState .faulted s1)
    else refreshAlert { s1 with sup := { s1.sup with dstate := .faulted } }
  { s2 with sup := { s2.sup with
    run := none, cross := none, pend := [], runReq := false, runTest := false, runMs := 0, stopReq := none } }

def execDeviceFault (path : Bool) (s : State) : Outcome State Fault Refusal :=
  .next (if s.sup.dstate == .off || s.sup.dstate == .faulted then s
    else enterFaulted path (logErr .deviceFault s))

end Sys2Proof.Machine
end

