-- ==== Sys2Proof/Machine/Tollgate.lean ====
section
/-! DEFINITION. The Tollgate: grants (R384 to R388), learned factors (R389), thermal narrowing (R390), the brake (R391). -/
namespace Sys2Proof.Machine
open Host

/-! ### Energy model (R384) -/

/-- p_c in tenths of a pJ; a ring hop adds 0.5 pJ to Keystone traffic. -/
def unitEnergy (k : EClass) (hops : Nat) : Nat :=
  match k with
  | .a8 => 22 | .a4 => 12 | .a16 => 44 | .ab => 26 | .ex => 15 | .ve => 400 | .sf => 600 | .mk => 10 + 5 * hops
  | .mb => 40 | .vd => 60 | .me => 450 | .md => 150 | .ms => 50 | .ct => 0

/-- Fixed energy per command in nJ. -/
def fixedEnergy : EClass → Nat
  | .a8 => 500 | .a4 => 500 | .a16 => 500 | .ab => 500 | .ex => 100 | .ve => 200 | .sf => 0 | .mk => 100
  | .mb => 0 | .vd => 200 | .me => 20000 | .md => 10000 | .ms => 2000 | .ct => 50

/-- The prediction of R384 for `raw` nJ under factor `f` and guard `g`. -/
def predict (raw f g : Nat) : Nat := cdiv (raw * f * (256 + g)) (1024 * 256)

def rawEnergy (k : EClass) (units hops : Nat) : Nat := cdiv (units * unitEnergy k hops) 10000

def factorOf (s : State) (k : EClass) : Nat := s.tgl.factors.getD (classNum k) 1024
def guardNow (s : State) (k : EClass) : Nat := guardOf (s.tgl.counts.getD (classNum k) 0) (sinceReady s)

/-- Predicted energy of a quantum with guard `g`, the fixed energy in a command's first. -/
def quantumEnergy (s : State) (k : EClass) (units hops : Nat) (first : Bool) (g : Nat) : Nat :=
  predict (rawEnergy k units hops) (factorOf s k) g + (if first then predict (fixedEnergy k) (factorOf s k) g else 0)

/-! ### Grants (R386, R387, R390) -/

/-- D_w, R_w, and the ticks left in the window. -/
def budget (s : State) : Nat := (s.tgl.limit - s.tgl.pBase) * 1000000
def reservation (s : State) : Nat := s.tgl.lcPct * budget s / 100
def windowLeft (s : State) : Nat := (s.tgl.window + 1) * 1000000 - s.time.now.toNat

/-- DIE_W · 1 ms · θ_d / 128 in nJ. -/
def dieCap (s : State) (d : Nat) : Nat := s.tgl.dieTheta.getD d 128 * 300000000 / 128

/-- A quantum is granted within the budget and, on a compute die, within the die's thermal narrowing. -/
def grantable (s : State) (lc : Bool) (e die : Nat) : Bool :=
  let t := s.tgl
  let bound := if lc || decide (windowLeft s ≤ t.releaseUs * 1000) then budget s
    else budget s - (reservation s - t.grantedLc)
  !t.hold && decide (t.granted + e ≤ bound) &&
    (decide (16 ≤ die) || (decide (t.dieGrant.getD die 0 + e ≤ dieCap s die) && (lc || !isHot s die)))

/-- The half whose Tollgate grants a quantum (R9, R386): that of the die; the leader's for the fabric die. -/
def northPays (s : State) (die : Nat) : Bool :=
  if die < 16 then decide (die < 8)
  else if die < 20 then decide (die < 18)
  else if die < 24 then decide (die % 2 = 0)
  else s.sup.leader == .north

/-- Blocks of D_w / 100 drawn for a half that holds `have'`: what is drawn (R386). -/
def drawBlocks (s : State) (have' e : Nat) : Nat :=
  let b := max 1 (budget s / 100)
  min (cdiv (e - have') b * b) (budget s - s.tgl.drawn)

/-- A granted quantum: the paying half draws the blocks it lacks; what the account no longer holds comes from the other half's
unspent block (log 48). -/
def grant (q : Quantum) (lc : Bool) (s : State) : State :=
  let t := s.tgl
  let north := northPays s q.die
  let mine := if north then t.blockN else t.blockS
  let other := if north then t.blockS else t.blockN
  let m := drawBlocks s mine q.e
  let mine1 := mine + m - q.e
  let other1 := other - (q.e - (mine + m))
  { s with tgl := { t with
    granted := t.granted + q.e
    grantedLc := t.grantedLc + (if lc then q.e else 0)
    drawn := t.drawn + m
    blockN := if north then mine1 else other1
    blockS := if north then other1 else mine1
    openE := q :: t.openE
    dieGrant := if q.die < 16 then t.dieGrant.set q.die (t.dieGrant.getD q.die 0 + q.e) else t.dieGrant } }

/-- The Tollgate works once the device has been READY. -/
def tollgateOn (s : State) : Bool := s.sup.dstate != .off && s.sup.dstate != .instar

/-- A quantum with its predicted energy, with and without guard. -/
def quantumOf (s : State) (o : Offer) : Quantum :=
  ⟨o.c, classNum o.k, quantumEnergy s o.k o.units o.hops o.first (guardNow s o.k),
    quantumEnergy s o.k o.units o.hops o.first 0, o.die⟩

/-- A quantum is offered: it is granted, or waits for the next window (R387). -/
def offer (o : Offer) (s : State) : State :=
  match cmdOf s o.c with
  | none => s
  | some k =>
    let lc := lcOf s o.c k
    let q := quantumOf s o
    if k.ph = .done then s
    else if grantable s lc q.e o.die then grant q lc s
    else { s with tgl := { s.tgl with waiting := s.tgl.waiting ++ [o] } }

/-! ### Quanta (R384, R385) -/

/-- What a command has left to be granted: as kept, or, before its first offer, its family's work and the Luna record that it
reads. -/
def chargesOf (c : CmdRef) (k : Cmd) (s : State) : List Charge :=
  match k.charges with
  | some l => l
  | none => match familyOf (hOpcode k.hdr) with
    | none => []
    | some f =>
      let x := mkCtx s c {} k
      let rec' := if f.draws k.par then ((look s.luna x.job).map fun a => (a, 128)).toList else []
      f.charges x s ++ (traffic (x.core / 52) rec').filter fun y => decide (0 < y.units)

/-- A quantum of a class with some ring hops leaves a list of charges; its units, and what is left. -/
def takeQuantum (k : EClass) (hops : Nat) : List Charge → Option (Nat × List Charge)
  | [] => none
  | y :: r =>
    if y.k = k ∧ y.hops = hops then
      some (if y.units ≤ y.quantum then (y.units, r) else (y.quantum, { y with units := y.units - y.quantum } :: r))
    else (takeQuantum k hops r).map fun z => (z.1, y :: z.2)

/-- The die of a command's quanta: its core's, its Abutment engine's, else one that is no compute die (log 48). -/
def dieFits (c : CmdRef) (k : Cmd) (die : Nat) (s : State) : Bool :=
  match familyOf (hOpcode k.hdr) with
  | none => false
  | some f =>
    let x := mkCtx s c {} k
    if f.core k.par then (x.task.bind (·.core)).isSome && decide (die = x.core / 13)
    else match k.die <|> f.abut x s with
      | some d => decide (die = d)
      | none => decide (16 ≤ die)

/-- The command's next quantum of a class, when it is the one that a row offers: what is left after it. -/
def nextQuantum (c : CmdRef) (k : Cmd) (q : EClass) (units hops : Nat) (first : Bool) (die : Nat) (s : State) :
    Option (List Charge) :=
  match takeQuantum q hops (chargesOf c k s) with
  | none => none
  | some z => if z.1 = units ∧ first = !k.classes.contains (classNum q) ∧ dieFits c k die s then some z.2 else none

/-- The command, with the quanta `w`, has one fewer to offer, and a class more in which it counts. -/
def Cmd.offered (w l : List Charge) (q : EClass) (k : Cmd) : Cmd :=
  { k with charges := some l, work := if k.charges.isNone then w else k.work, classes := insNat (classNum q) k.classes }

/-- A row that names no quantum of the command is inert (log 48). -/
def execQuantumGrant (c : CmdRef) (k : EClass) (units : Nat) (hops : Route) (first : Bool) (die : Fin 25) (s : State) :
    Outcome State Fault Refusal :=
  .next (match cmdOf s c with
    | none => s
    | some q =>
      if tollgateOn s && q.entered && q.ph != .done then
        match nextQuantum c q k units hops.val first die.val s with
        | none => s
        | some l => offer ⟨c, k, units, hops.val, first, die.val⟩ (modCmd c (Cmd.offered (chargesOf c q s) l k) s)
      else s)

/-- Waiting quanta in the order in which they are offered: LC first, then in the order of R364. -/
def offerLt (s : State) (x y : Offer) : Bool :=
  match cmdOf s x.c, cmdOf s y.c with
  | some k, some j => keyLt (queueKey s x.c k) (queueKey s y.c j)
  | _, _ => true

def insOffer (s : State) (x : Offer) : List Offer → List Offer
  | [] => [x]
  | y :: r => if offerLt s y x then y :: insOffer s x r else x :: y :: r

/-- Quanta that were not granted are offered again (R387). -/
def offerAgain (s : State) : State :=
  let l := s.tgl.waiting.foldr (insOffer s) []
  l.foldl (fun t o => offer o t) { s with tgl := { s.tgl with waiting := [] } }

/-! ### Measurement (R388, R391) -/

/-- E_open: the granted quanta that have not finished. -/
def openEnergy (s : State) : Nat := (s.tgl.openE.map (·.e)).sum

/-- The test of R388, in nJ. -/
def mustHold (s : State) : Bool :=
  decide (s.tgl.limit * 1000000 ≤ s.tgl.measured + s.tgl.pBase * windowLeft s + 2 * openEnergy s)

/-- R388: no further grant in this window, which is counted once. -/
def holdWindow (s : State) : State :=
  if s.tgl.hold || !mustHold s then s
  else { s with tgl := { s.tgl with hold := true, holds := sat32 s.tgl.holds 1 } }

/-- The region of R443 in which a sample finds an input that is in range: low tolerance from 38.00 V to below
40.00 V, high tolerance above 50.00 V, or below 38.00 V for less than the times of an undervoltage. -/
def noteRegion (vin : BitVec 13) (s : State) : State :=
  { s with power := { s.power with
    lowTol := s.power.inputOk && decide (3800 ≤ vin.toNat) && decide (vin.toNat < 4000)
    highTol := s.power.inputOk && decide (5000 < vin.toNat)
    sagging := s.power.inputOk && decide (vin.toNat < 3800) } }

/-- A sample enters TGL_VIN. -/
def noteInput (vin iin : BitVec 13) (s : State) : State :=
  refreshAlert { s with power := { s.power with vin := vin, iin := iin } }

/-- One sample per µs: 10 mV × 0.1 A × 1 µs is 1 nJ. -/
def samplePower (vin iin : BitVec 13) (s0 : State) : State :=
  let s := advanceTo ((s0.time.now.toNat / 1000 + 1) * 1000) s0
  let t := s.tgl
  let held := t.brake && decide ((t.brakeA - 4) * 10 < iin.toNat)
  let s1 := { s with
    tgl := { t with
      measured := t.measured + vin.toNat * iin.toNat, samples := t.samples + 1, peakNow := max t.peakNow iin.toNat
      overUs := if t.brakeA * 10 < iin.toNat then t.overUs + 1 else 0
      arrayHeld := held
      relaxUs := if held then 0 else t.relaxUs + 1 } }
  holdWindow s1

/-- More than 100 µs above BRAKE_A (R391). -/
def execBrakeEngage (s : State) : Outcome State Fault Refusal :=
  .next (if tollgateOn s && !s.tgl.brake && decide (100 < s.tgl.overUs) then
      refreshAlert (devIrq 3 { s with tgl := { s.tgl with brake := true, brakes := sat32 s.tgl.brakes 1, relaxUs := 0 } })
    else s)

/-- 100 consecutive intervals that do not hold (R391). -/
def execBrakeDisengage (s : State) : Outcome State Fault Refusal :=
  .next (if s.tgl.brake && decide (100 ≤ s.tgl.relaxUs) then
      refreshAlert { s with tgl := { s.tgl with brake := false, arrayHeld := false } }
    else s)

/-! ### The end of a window (R386, R389, R394, R395) -/

/-- R389 for one class of one die: `m` measured, `e` predicted for the die, `ec` for the class. -/
def learn (m e ec f : Nat) : Nat :=
  let d : Int := 8192 * (e * e : Nat)
  let v : Int := (f : Int) * (d + ((m : Int) - e) * ec * 1024) / d
  min 2048 (max 512 v.toNat)

/-- R389 over the dies and classes in ascending order, for dies with at least 1 mJ predicted. -/
def learnAll (dies : List (Nat × Nat)) (ran : List (Nat × Nat × Nat)) (fs : List Nat) : List Nat :=
  (List.range dies.length).foldl (fun fs d =>
    let mine := ran.filter fun x => decide (x.1 = d)
    let e := (mine.map (·.2.2)).sum
    if e < 1000000 then fs
    else
      let z := dies.getD d (0, 0)
      mine.foldl (fun fs x => fs.set x.2.1 (learn (z.1 - z.2) e x.2.2 (fs.getD x.2.1 1024))) fs) fs

/-- P_BASE as measured lies in the range of R5. -/
def baseWatts (w : Nat) : Nat := min 720 (max 560 w)

def endWindow (dies : List (Nat × Nat)) (pBase : BitVec 12) (s0 : State) : State :=
  let s := advanceTo ((s0.tgl.window + 1) * 1000000) s0
  let t := s.tgl
  let learned := learnAll dies t.ran t.factors
  { s with tgl := { t with
    factors := learned
    pBase := if t.granted = 0 then baseWatts pBase.toNat else t.pBase
    powerW := min 4095 (t.measured / 1000000)
    lcUsed := if t.granted = 0 then 0 else 100 * t.grantedLc / t.granted
    ipeak := min 255 (t.peakNow / 10)
    diePower := (List.range 25).map fun d => min 4095 ((dies.getD d (0, 0)).1 / 1000000)
    limit := t.limitSet, lcPct := t.lcPctSet, releaseUs := t.releaseSet, brakeA := t.brakeSet
    window := s.time.now.toNat / 1000000
    granted := 0, grantedLc := 0, drawn := 0, blockN := 0, blockS := 0, dieGrant := List.replicate 16 0
    measured := 0, samples := 0, peakNow := 0, ran := [], hold := false } }

def execBudgetWindowEnd (dies : List (Nat × Nat)) (pBase : BitVec 12) (s : State) : Outcome State Fault Refusal :=
  .next (if tollgateOn s then offerAgain (endWindow dies pBase s) else s)

/-! ### Temperatures (R390) -/

/-- θ_d for a temperature in 0.25 °C. -/
def theta (tLo tHi t : Nat) : Nat :=
  if t ≤ 4 * tLo then 128 else if 4 * tHi ≤ t then 16 else 128 - 112 * (t - 4 * tLo) / (4 * (tHi - tLo))

/-- Consecutive reads at or above 110 °C, per die and sensor (R464). -/
def countTrips (temps : List (List (BitVec 12))) (s : State) : State :=
  { s with tgl := { s.tgl with
    trips := (List.range 25).map fun d => (temps.getD d []).zipIdx.map fun x =>
      if 440 ≤ x.1.toNat then (s.tgl.trips.getD d []).getD x.2 0 + 1 else 0 } }

/-- θ of every die from its highest sensor and the limits in effect (R390). -/
def dieThetas (t : Tollgate) : List Nat :=
  t.dieTemp.zipIdx.map fun x => if x.2 < 16 then theta t.tLo t.tHi x.1 else 128

def readSensors (temps : List (List (BitVec 12))) (s0 : State) : State :=
  let s := countTrips temps (advanceTo ((s0.time.now.toNat / 100000 + 1) * 100000) s0)
  let t := { s.tgl with dieTemp := (List.range 25).map fun d => ((temps.getD d []).map BitVec.toNat).foldl max 0 }
  refreshAlert { s with tgl := { t with dieTheta := dieThetas t } }

/-- Held in reset, the dies compare their sensors in hardware and nothing else is kept (R464). -/
def execThermalSensorRead (temps : List (List (BitVec 12))) (s : State) : Outcome State Fault Refusal :=
  .next (if s.sup.dstate = .off then (if s.power.pgood then countTrips temps s else s) else readSensors temps s)

/-- Ten ms after READY the limits rise, and θ with them (R390). -/
def execThermalLimitRelax (s : State) : Outcome State Fault Refusal :=
  .next (if tollgateOn s && s.tgl.therm then
      let s1 := advanceTo (s.sup.readyTick + 10000000).toNat s
      let t := { s1.tgl with therm := false, tLo := 95, tHi := 102 }
      refreshAlert { s1 with tgl := { t with dieTheta := dieThetas t } }
    else s)

end Sys2Proof.Machine
end

