-- ==== Sys2Proof/Machine/Power.lean ====
section
/-! DEFINITION. Power, reset and start-up: the hot-swap switch (R443 to R447, R449, R464, R465), MOD_RESET_N (R447, R448) and
the Instar stages (R421 to R424). -/
namespace Sys2Proof.Machine
open Host

def setPower (p : Power) (s : State) : State := { s with power := p }

/-! ### OFF -/

/-- The device enters OFF and keeps nothing (R29, R352, R421, R447) but the flash with its test records, row-sparing records,
identities and fault log, what its silicon holds (the ROM key, the PUF), and the companion's own memory. The dies compare
their sensors in hardware, and go on where their rails stay (R464). -/
def enterOff (s : State) : State :=
  { s with
    time := {}
    sup := { dstate := .off, flash := s.sup.flash, rom := s.sup.rom, nPuf := s.sup.nPuf, sPuf := s.sup.sPuf
             nIdent := s.sup.nIdent, sIdent := s.sup.sIdent, testNext := s.sup.testNext }
    regs := { resp := s.regs.resp, errLog := s.regs.errLog }
    mem := { comp := s.mem.comp, spare := s.mem.spare }
    queues := {}
    cores := {}
    cocoons := []
    luna := []
    tgl := { trips := s.tgl.trips }
    dom := {}
    img := {}
    media := {}
    link := {}
    power := { s.power with vin := 0, iin := 0, alert := false, status := 0, badRelease := false } }

/-- Whether a die signals a trip (R464). -/
def tripSignalled (s : State) : Bool := s.tgl.trips.any fun l => l.any fun n => decide (3 ≤ n)

/-- The switch opens for a cause of R458; all but a falling MOD_EN latch it. A further cause of the same 1 µs sample latches it
too, and the first in the list of R446, whose order is that of the codes, is the cause recorded. -/
def openSwitch (cause : BitVec 8) (latch : Bool) (s : State) : State :=
  if s.power.switchClosed || s.power.precharging then
    let s1 := { enterOff s with tgl := {} }
    setPower { s1.power with
      switchClosed := false, precharging := false, ramping := false, pgood := false
      latched := s1.power.latched || latch, lastOff := cause, opened := true, tripDue := tripSignalled s
      tap := List.replicate 5 .bypass } s1
  else if s.power.opened then
    setPower { s.power with
      latched := s.power.latched || latch, lastOff := if cause < s.power.lastOff then cause else s.power.lastOff } s
  else s

/-- The 1 µs sample of the last opening is over. -/
def nextSample (s : State) : State := setPower { s.power with opened := false, tripDue := false } s

/-- The precharge begins when the input is in the operating region, MOD_EN is high and no latch holds (R445). -/
def tryPrecharge (s : State) : State :=
  let p := s.power
  if p.inputOk && !p.lowTol && !p.highTol && !p.sagging && p.modEn && !p.latched && !p.switchClosed && !p.precharging then
    setPower { p with precharging := true } s
  else s

/-- The input is applied: it enters the operating region. -/
def execInputApplied (s : State) : Outcome State Fault Refusal :=
  .next (refreshAlert (tryPrecharge (setPower { s.power with
    inputOk := true, lowTol := false, highTol := false, sagging := false, opened := false, tripDue := false } s)))

/-- At least 100 ms low clear the latch (R446, R448). -/
def execModEnRise (lowMs : Nat) (s : State) : Outcome State Fault Refusal :=
  .next (if s.power.modEn then s
    else
      let clear := decide (100 ≤ lowMs)
      tryPrecharge (setPower { s.power with
        modEn := true, opened := false, tripDue := false
        latched := s.power.latched && !clear, tripLatch := s.power.tripLatch && !clear } s))

/-- One sample of the input (R388, R443, R458): the Tollgate's account; the controller's view of the region, also in OFF, where
an input that enters the operating region starts the precharge (R445). -/
def execPowerSample (vin iin : BitVec 13) (s : State) : Outcome State Fault Refusal :=
  let s0 := noteRegion vin (nextSample s)
  .next (if s.sup.dstate = .off then tryPrecharge s0
    else
      let s1 := noteInput vin iin s0
      if tollgateOn s then samplePower vin iin s1 else s1)

/-- THERM_TRIP_N is asserted while the latch of a trip holds, and with MOD_EN low and the input in range if a trip has set the
latch since the input was applied (R464, R465). -/
def thermTripAsserted (s : State) : Bool := s.power.tripLatch || (s.power.inputOk && !s.power.modEn && s.power.tripped)

def execPrechargeEnd (s : State) : Outcome State Fault Refusal :=
  .next (if s.power.precharging then
      setPower { s.power with precharging := false, switchClosed := true, ramping := true } s
    else s)

/-- An attempt that does not reach 38.0 V ends as a rail fault (R445). -/
def execPrechargeTimeout (s : State) : Outcome State Fault Refusal :=
  .next (if s.power.precharging then openSwitch 5 true s else s)

def execInputOvervoltage (s : State) : Outcome State Fault Refusal :=
  .next (openSwitch 2 true (setPower { s.power with
    inputOk := false, lowTol := false, highTol := false, sagging := false } s))

def execInputUndervoltage (s : State) : Outcome State Fault Refusal :=
  .next (openSwitch 1 true (setPower { s.power with
    inputOk := false, lowTol := false, highTol := false, sagging := false } s))

/-- More than 10 ms in the low-tolerance region. -/
def execLowToleranceTimeout (s : State) : Outcome State Fault Refusal :=
  .next (if s.power.lowTol then openSwitch 1 true (setPower { s.power with inputOk := false } s) else s)

def execBreakerTrip (s : State) : Outcome State Fault Refusal := .next (openSwitch 3 true s)
def execRailFault (s : State) : Outcome State Fault Refusal := .next (openSwitch 5 true s)

def execModEnFall (s : State) : Outcome State Fault Refusal :=
  .next (openSwitch 6 false (setPower { s.power with modEn := false } s))

/-- Without input nothing operates, and the latch and the controller's record are lost (R446). -/
def execInputRemoval (s : State) : Outcome State Fault Refusal :=
  let s1 := openSwitch 1 true s
  .next (setPower { s1.power with
    inputOk := false, lowTol := false, highTol := false, sagging := false, latched := false, tripLatch := false
    tripped := false, lastOff := 0, opened := false, tripDue := false } s1)

/-- A die has signalled a sensor at or above 110 °C on three consecutive reads (R464). -/
def execThermalTrip (s : State) : Outcome State Fault Refusal :=
  .next (if tripSignalled s || s.power.tripDue then
      let s1 := openSwitch 4 true s
      setPower { s1.power with tripLatch := true, tripped := true } s1
    else s)

/-! ### MOD_RESET_N -/

/-- From OFF to INSTAR with the time base at 0 (R25, R421). A release that breaks R448 lets no stage run. -/
def enterInstar (good : Bool) (s : State) : State :=
  let s1 := enterOff s
  refreshAlert { s1 with
    sup := { s1.sup with dstate := .instar }
    power := { s1.power with
      badRelease := !good
      tap := s1.power.tap.map fun t => if t = .idcode then .idcode else .bypass } }

/-- MOD_PGOOD asserts. A MOD_RESET_N that is high already breaks the 10 ms hold. -/
def execRailsInRegulation (s : State) : Outcome State Fault Refusal :=
  .next (if s.power.ramping then
      let s1 := setPower { s.power with ramping := false, pgood := true } s
      if s1.power.resetN then enterInstar false s1 else s1
    else s)

/-- An assertion is a removal of input power (R447), and the controller records it (R446). The 1 µs sample of an opening goes
on: the rails of the dies, and their sensors, are as they were. -/
def execModResetNAssert (s : State) : Outcome State Fault Refusal :=
  .next (if s.power.resetN then
      let s1 := enterOff s
      setPower { s1.power with resetN := false, lastOff := if s1.power.switchClosed then 7 else s1.power.lastOff } s1
    else s)

def execModResetNRelease (r : Release) (s : State) : Outcome State Fault Refusal :=
  .next (if s.power.resetN then s
    else
      let s1 := setPower { s.power with resetN := true, sbAddr := r.straps } s
      if s1.power.inputOk && s1.power.modEn && s1.power.pgood then
        enterInstar (r.clockOk && s1.power.refclk && r.holdOk && r.pulseOk) s1
      else s1)

/-! ### Instar 0 (R422, R428, R429) -/

/-- A stage of Instar can end: the release was correct and the clock is present (R448). -/
def inStage (n : Nat) (s : State) : Bool :=
  s.sup.dstate == .instar && s.sup.stage == n && !s.power.badRelease && s.power.refclk

/-- Start-up ends in FAULTED with a boot failure code (R423, R424). -/
def bootFailed (code : Nat) (s : State) : State :=
  let s1 := { s with sup := { s.sup with fail := code } }
  setDState .faulted s1

/-- A supervisor accepts a record: MAGIC, its own MAC, and the serial number of its certificate (R428). -/
def recordOk (s : State) (d : Side) (slot : Bool) : Bool :=
  let r := bootRecord s slot
  fld r 31 0 == 0x4B5A4252 && bootMac s d r == (match d with
    | .north => fld r 447 192
    | .south => fld r 703 448) && bootSerial r == (identOf s d).serial.toNat

/-- The slot a supervisor with identity uses: the accepted one with the higher SEQ (R428). -/
def acceptSlot (s : State) (d : Side) : Option Bool :=
  match recordOk s d false, recordOk s d true with
  | true, true => some (decide (bootSeq (bootRecord s false) < bootSeq (bootRecord s true)))
  | true, false => some false
  | false, true => some true
  | false, false => none

/-- What a supervisor chooses between the copies of a stage: the primary if it accepts it, else the other. -/
def chooseCopy (primary : Bool) (ok : Bool → Bool) : Option Bool :=
  if ok primary then some primary else if ok (!primary) then some (!primary) else none

/-- The copy of a stage that a boot record names as primary (R428). -/
def primaryOf (rt : Bool) (r : Nat) : Bool := if rt then bootRt r else bootI1 r

/-- R422, step 2: a supervisor whose record is `r` accepts a copy. -/
def acceptsCopy (s : State) (rt : Bool) (r : Nat) (copy : Bool) : Bool :=
  copyOk s rt copy && decide (bootFloor r ≤ fwVersion (fwHeader s rt copy))

/-- R422, steps 2 to 4, with the records of North and South: each chooses by its own record; where the choices differ, the copy
that both accept, preferring the primary of the record in use (log 64). -/
def agreeCopy (s : State) (rt : Bool) (n m : Nat) : Option Bool :=
  let a := chooseCopy (primaryOf rt n) (acceptsCopy s rt n)
  if a = chooseCopy (primaryOf rt m) (acceptsCopy s rt m) then a
  else chooseCopy (primaryOf rt n) fun copy => acceptsCopy s rt n copy && acceptsCopy s rt m copy

def endInstar0 (b : BootCheck) (s : State) : State :=
  let n := reconstruct s .north b.nDiff
  let m := reconstruct s .south b.sDiff
  let s0 := { s with
    time := { s.time with refOk := true }
    sup := { s.sup with
      nSeed := n, sSeed := m, nId := seedOk s .north n, sId := seedOk s .south m
      nKeys := keysAtPowerUp s .north, sKeys := keysAtPowerUp s .south } }
  if !b.flashOk then bootFailed 4 s0
  else
    let n := if s0.sup.nId then acceptSlot s0 .north else none
    let m := if s0.sup.sId then acceptSlot s0 .south else none
    match n <|> m with
    | none => bootFailed 3 s0
    | some slot =>
      let r := bootRecord s0 slot
      let south := (m <|> n).getD slot
      match agreeCopy s0 false r (bootRecord s0 south) with
      | none => bootFailed 1 s0
      | some c =>
        let h := fwHeader s0 false c
        { s0 with sup := { s0.sup with
          stage := 1, brSlot := slot, brSouth := south, brSeq := BitVec.ofNat 32 (bootSeq r), fwFloor := BitVec.ofNat 32 (bootFloor r)
          i1Copy := c, fwI1 := BitVec.ofNat 32 (fwVersion h), setI1 := BitVec.ofNat 32 (fld h 127 96) } }

def execInstar0Complete (b : BootCheck) (s : State) : Outcome State Fault Refusal :=
  .next (if inStage 0 s then endInstar0 b s else s)

/-! ### Instar 1 (R11, R423, R424) -/

/-- Usable physical cores of a die (R11, R423). -/
def usableOf (t : SelfTest) (die : Nat) : List Nat :=
  if t.badDies.contains die then []
  else
    let good := (List.range 13).filter fun c => !t.badCores.contains (die, c)
    if good.length = 13 then List.range 12 else good

/-- The boot failure of the self-test, 0 for none. -/
def selfTestFail (s : State) (t : SelfTest) : Nat :=
  if t.storeBad then 5 else if t.halfBad then 6
  else if !(s.sup.nId && t.nLeadFn) && !(s.sup.sId && t.sLeadFn) then 7
  else if t.fabricBad then 8 else 0

/-- Repair map, exclusions, offline stacks, trained link, zeroed memory (R11, R275, R361, R423). -/
def applySelfTest (t : SelfTest) (s : State) : State :=
  let s1 := { s with
    sup := { s.sup with
      nLeadOk := s.sup.nId && t.nLeadFn, sLeadOk := s.sup.sId && t.sLeadFn
      test := { cores := t.badCores, dies := t.badDies, offl := t.badStacks, enc := t.badEnc, dec := t.badDec
                scl := t.badScl, ports := t.badPorts, train := t.training } }
    cores := { s.cores with
      usable := (List.range 16).map (usableOf t), abtBad := t.badDies.foldl (fun l d => insNat d l) [] }
    media := { s.media with badEnc := t.badEnc, badDec := t.badDec, badScl := t.badScl }
    dom := { s.dom with excluded := t.badPorts }
    regs := { s.regs with offline := t.badStacks.foldl setBit 0 }
    mem := { s.mem with
      dev := [], ob := [], poison := [], retrain := [], lateWrites := [], rowFix := []
      scrubPos := List.replicate 36 0, scrubPass := List.replicate 36 0, spared := s.mem.spare } }
  trainLink t.linkGen t.linkLanes (t.badStacks.foldl (fun u b => logErr (.offline b) u) s1)

/-- The test record of R424, in a layout that no rule gives. -/
def writeTestRecord (ok : Bool) (s : State) : State :=
  if !ok then logErr .testRecordLost s
  else
    let s1 := putFlash (0x0B000000 + 4096 * s.sup.testNext) (testRecordBytes s) s
    { s1 with sup := { s1.sup with testNext := (s.sup.testNext + 1) % 3840 } }

def endInstar1 (t : SelfTest) (s : State) : State :=
  let s1 := applySelfTest t s
  let code := selfTestFail s t
  if code ≠ 0 then bootFailed code s1
  else
    let s2 := writeTestRecord t.recordOk s1
    match agreeCopy s2 true (bootNow s2) (bootRecord s2 s2.sup.brSouth) with
    | none => bootFailed 2 s2
    | some c =>
      let s3 := runRuntime c s2
      { s3 with sup := { s3.sup with stage := 2 } }

def execInstar1Complete (t : SelfTest) (s : State) : Outcome State Fault Refusal :=
  .next (if inStage 1 s then endInstar1 t s else s)

/-! ### Instar 2 (R424) -/

/-- The leader of term 1 is elected; READY, with a STARTUP run to come. -/
def endInstar2 (pBase : Nat) (s : State) : State :=
  let now := s.time.now.toNat
  setDState .ready { s with
    sup := { s.sup with
      stage := 3, term := 1, storeTerm := List.replicate 4 1, leader := if s.sup.nLeadOk then .north else .south
      readyTick := (now : Int), startupDue := true }
    tgl := { s.tgl with pBase := baseWatts pBase, window := now / 1000000 } }

def execInstar2Complete (pBase : BitVec 12) (s : State) : Outcome State Fault Refusal :=
  .next (if inStage 2 s then endInstar2 pBase.toNat s else s)

end Sys2Proof.Machine
end

