-- ==== Sys2Proof/Machine/Registers.lean ====
section
/-! DEFINITION. Companion accesses to the register window (R39, R357, R358) and the registers they write (R26, R283, R332,
R397, R413). -/
namespace Sys2Proof.Machine
open Host

def ignoreWrite (a : Nat) (s : State) : State := logErr (.ignoredWrite a) s
def setRegs (s : State) (r : Regs) : State := { s with regs := r }

/-- The 48-bit address register `a` with its low or high half written, under a mask of its stored low bits. -/
def halfWrite (a : BitVec 48) (hi : Bool) (v : Word) (drop : Nat) : BitVec 48 :=
  if hi then BitVec.ofNat 48 (a.toNat % 2 ^ 32 + v.toNat % 2 ^ 16 * 2 ^ 32)
  else BitVec.ofNat 48 (a.toNat / 2 ^ 32 * 2 ^ 32 + v.toNat / 2 ^ drop * 2 ^ drop)

def clampTo (n lo hi : Nat) : Nat := max lo (min n hi)

/-- ERR_MEM_CFG as stored: each field at the nearer bound (R283). -/
def memCfgStored (v : Word) : Word :=
  BitVec.ofNat 32 (clampTo (fld v.toNat 10 0) 20 2000 + clampTo (fld v.toNat 23 16) 15 240 <<< 16
    + clampTo (fld v.toNat 31 24) 1 100 <<< 24)

/-! ### Plain writes -/

/-- SUP_EMCIA_BASE takes effect at once at rest, else at the next crossing (R358). -/
def writeEmcia (hi : Bool) (v : Word) (s : State) : State :=
  let old := s.regs.emciaSet.toNat
  let n : DWord := if hi then BitVec.ofNat 64 (old % 2 ^ 32 + v.toNat * 2 ^ 32)
    else BitVec.ofNat 64 (old / 2 ^ 32 * 2 ^ 32 + v.toNat / 4096 * 4096)
  setRegs s { s.regs with emciaSet := n, emcia := if atRest s then n else s.regs.emcia }

/-- Configuration that takes effect at once in READY, else at the next crossing (R283, R332, R413). -/
def inReady (s : State) : Bool := s.sup.dstate == .ready

def writeMedCfg (v : Word) (s : State) : State :=
  let n : Word := v &&& 0x3FF
  setRegs s { s.regs with medSet := n, medCfg := if inReady s then n else s.regs.medCfg }

def writeErrCfg (v : Word) (s : State) : State :=
  let n := memCfgStored v
  setRegs s { s.regs with errSet := n, errCfg := if inReady s then n else s.regs.errCfg }

def writeColCfg (v : Word) (s : State) : State :=
  let n := BitVec.ofNat 16 (clampTo (v.toNat % 65536) 1 60000)
  setRegs s { s.regs with colSet := n, colTimeout := if inReady s then n else s.regs.colTimeout }

/-- SUP_DOM_CFG and SUP_DOM_ID are written at rest while no formation is in progress (R397). -/
def writeDom (a : Nat) (v : Word) (s : State) : State :=
  if !atRest s || s.dom.dstate == 1 then ignoreWrite a s
  else if a % 0x1000 = 0x100 then setRegs s { s.regs with domCfg := BitVec.ofNat 22 v.toNat }
  else setRegs s { s.regs with domId := v }

/-- A permitted write to a register without a row of its own; a read-only register keeps its value. -/
def writeReg (a : Nat) (v : Word) (s : State) : State :=
  match a with
  | 0x0F0000000040 => writeEmcia false v s
  | 0x0F0000000044 => writeEmcia true v s
  | 0x0F0000000050 => setRegs s { s.regs with irqAddr := halfWrite s.regs.irqAddr false v 16 }
  | 0x0F0000000054 => setRegs s { s.regs with irqAddr := halfWrite s.regs.irqAddr true v 0 }
  | 0x0F0000000058 => setRegs s { s.regs with irqEn := bit v.toNat 0, evEn := BitVec.ofNat 7 (v.toNat / 2) }
  | 0x0F0000000100 => writeDom a v s
  | 0x0F0000000104 => writeDom a v s
  | 0x0F0000030008 => { s with time := { s.time with loadLo := BitVec.ofNat 32 (v.toNat / 1024 * 1024) } }
  | 0x0F000003000C => { s with time := { s.time with loadHi := v } }
  | 0x0F0000040000 => writeMedCfg v s
  | 0x0F0000050200 => writeErrCfg v s
  | 0x0F0000050300 => writeColCfg v s
  | _ => s

/-- Bytes at an address are reserved: outside every mapped range, or in the register window where no register lies. -/
def reservedAt (s : State) (a : Nat) : Bool :=
  !(inBorug a || inKs a || inWin a) && (regRead s a).isNone

def logAccess (write : Bool) (a : Nat) (s : State) : State := logErr (.reservedAccess write a) s

def execRegisterWrite (addr : BitVec 48) (v : Word) (s : State) : Outcome State Fault Refusal :=
  let a := addr.toNat
  .next (if !reachable s then s
    else if (regRead s a).isNone || a == 0x0F0000010000 then logAccess true a s
    else writeReg a v s)

/-! ### Counters -/

def clearOnes {w : Nat} (x v : BitVec w) : BitVec w := x &&& ~~~v

/-- The write-1s-to-clear counters (R283, R357, R395, R413, R424). -/
def clearCounter (a : Nat) (v : Word) (s : State) : State :=
  let r := s.regs
  match a with
  | 0x0F0000000218 => { s with sup := { s.sup with hbMiss := clearOnes s.sup.hbMiss v } }
  | 0x0F0000010020 => setRegs s { r with badDb := clearOnes r.badDb v }
  | 0x0F0000020014 => { s with tgl := { s.tgl with brakes := clearOnes s.tgl.brakes v } }
  | 0x0F0000020018 => { s with tgl := { s.tgl with holds := clearOnes s.tgl.holds v } }
  | 0x0F0000050210 => setRegs s { r with corr := clearOnes r.corr v }
  | 0x0F0000050214 => setRegs s { r with
      uncorr := clearOnes r.uncorr (BitVec.ofNat 16 v.toNat), timeouts := clearOnes r.timeouts (BitVec.ofNat 16 (v.toNat / 65536)) }
  | 0x0F0000050304 => setRegs s { r with slips := clearOnes r.slips v }
  | 0x0F0000050308 => setRegs s { r with slipMax := clearOnes r.slipMax v }
  | _ => s

def execCounterClearWrite (addr : BitVec 48) (v : Word) (s : State) : Outcome State Fault Refusal :=
  .next (if reachable s then clearCounter addr.toNat v s else s)

/-! ### Other accesses (R39, R357) -/

def setResp (v : Nat) (err : Bool) (s : State) : State := setRegs s { s.regs with resp := some (v, err) }

/-- An access that the register window permits: an aligned 32-bit word, or the 64-bit doorbell. -/
def permitted (s : State) (write : Bool) (a bytes : Nat) : Bool :=
  if a = 0x0F0000010000 then bytes == 8 || (!write && bytes == 4)
  else bytes == 4 && a % 4 == 0 && (regRead s a).isSome

/-- An access to a reserved address or of an illegal size answers all ones with the error flag, or is discarded, and is
logged; a permitted read answers the register. -/
def companionAccess (write : Bool) (a bytes : Nat) (s : State) : State :=
  if a / 2 ^ 40 = 0xF then
    if permitted s write a bytes then (if write then s else setResp ((regRead s a).getD 0) false s)
    else logAccess write a (if write then s else setResp (2 ^ (8 * bytes) - 1) true s)
  else if (List.range bytes).any fun i => reservedAt s (a + i) then
    logAccess write a (if write then s else setResp (2 ^ (8 * bytes) - 1) true s)
  else s

def execCompanionReservedAccess (write : Bool) (addr : BitVec 48) (bytes : Nat) (_v : DWord) (s : State) :
    Outcome State Fault Refusal :=
  .next (if reachable s then companionAccess write addr.toNat bytes s
    else if write then s else setResp (2 ^ (8 * bytes) - 1) true s)

/-- R283: the read answers address bits [31:6] and latches ERR_MEM_LAST_HI. -/
def execErrMemLastLoRead (s : State) : Outcome State Fault Refusal :=
  .next (if reachable s then
      let r := s.regs
      setRegs s { r with
        lastHi := BitVec.ofNat 32 (r.lastAddr.toNat / 2 ^ 32 + r.lastKind.toNat <<< 16)
        resp := some (r.lastAddr.toNat % 2 ^ 32, false) }
    else setResp (2 ^ 32 - 1) true s)

/-! ### The control queue and the queue table (R358) -/

/-- RING_LOG2 and IRQ_EN of a write of SUP_CQ_CFG are acceptable as the queue stands. -/
def cqCfgOk (v : Word) (s : State) : Bool :=
  let same := fld v.toNat 4 0 == s.regs.cqLog2 && bit v.toNat 6 == s.regs.cqIrqEn
  within (fld v.toNat 4 0) 4 16 && (same || (inReady s && !cqOpen s))

def cqStore (v : Word) (s : State) : State := setRegs s { s.regs with cqLog2 := fld v.toNat 4 0, cqIrqEn := bit v.toNat 6 }

/-- The control queue as it opens: job 0, class LC, NL3, generation 3 (R334). -/
def openControl (s : State) : State :=
  let q := queueOf s 0
  setQ (.hw 0) { state := .opened, lc := true, nl := 3, gen := 3, log2 := s.regs.cqLog2, irqEn := s.regs.cqIrqEn, job := 0
                 cmdAddr := s.regs.cqCmd.toNat, cplAddr := s.regs.cqCpl.toNat, serial := q.serial } s

/-- A write of SUP_CQ_CFG with OPEN = 1. -/
def openWrite (v : Word) (s : State) : State :=
  if !cqCfgOk v s then ignoreWrite 0x0F0000000020 s
  else if cqOpen s then s
  else if !inReady s || !spanBorug s.regs.qtbBase.toNat 0x4000000 then ignoreWrite 0x0F0000000020 s
  else openControl (cqStore v s)

def execControlQueueOpen (v : Word) (s : State) : Outcome State Fault Refusal :=
  .next (if reachable s then openWrite v s else s)

def ringWrite (off : Nat) (v : Word) (s : State) : State :=
  if off = 0x20 then (if bit v.toNat 5 then openWrite v s else if cqCfgOk v s then cqStore v s else ignoreWrite 0x0F0000000020 s)
  else if !inReady s || cqOpen s then ignoreWrite (0x0F0000000000 + off) s
  else
    let r := s.regs
    match off with
    | 0x10 => setRegs s { r with cqCmd := halfWrite r.cqCmd false v 12 }
    | 0x14 => setRegs s { r with cqCmd := halfWrite r.cqCmd true v 0 }
    | 0x18 => setRegs s { r with cqCpl := halfWrite r.cqCpl false v 12 }
    | 0x1C => setRegs s { r with cqCpl := halfWrite r.cqCpl true v 0 }
    | _ => s

/-- A write of SUP_CQ_CMD, SUP_CQ_CPL or SUP_CQ_CFG, by its offset in the SUP block. -/
def execControlRingConfigWrite (off : BitVec 16) (v : Word) (s : State) : Outcome State Fault Refusal :=
  let o := off.toNat
  .next (if reachable s && (o == 0x10 || o == 0x14 || o == 0x18 || o == 0x1C || o == 0x20) then ringWrite o v s else s)

/-- Every queue is closed. -/
def allClosed (s : State) : Bool := s.queues.qs.all fun x => x.2.state == .closed

def execQtbBaseWrite (hi : Bool) (v : Word) (s : State) : Outcome State Fault Refusal :=
  .next (if !reachable s then s
    else if inReady s && allClosed s then
      setRegs s { s.regs with qtbBase := halfWrite s.regs.qtbBase hi v (if hi then 0 else 26) }
    else ignoreWrite (if hi then 0x0F0000010014 else 0x0F0000010010) s)

end Sys2Proof.Machine
end

