-- ==== Sys2Proof/Machine/Sideband.lean ====
section
/-! DEFINITION. The sideband SMBus (R458, R459) and the test access port (R455). -/
namespace Sys2Proof.Machine
open Host

/-! ### SMBus -/

/-- The module answers from the start of Instar 0 until it enters OFF. -/
def smbAwake (s : State) : Bool := s.sup.dstate != .off && !s.power.badRelease

/-- The module's 7-bit address. -/
def smbAddr (s : State) : Nat := 0x58 + s.power.sbAddr.toNat

def setSmb (x : Option (List Byte)) (s : State) : State := { s with power := { s.power with smb := x } }

/-- Packet Error Code of the System Management Bus (log 77): the remainder of the bytes of a transaction by
x^8 + x^2 + x + 1. -/
def pecBit (v : Nat) : Nat := if v < 128 then 2 * v else (2 * v) % 256 ^^^ 7
def pec (l : List Byte) : Byte :=
  BitVec.ofNat 8 (l.foldl (fun v b => (List.range 8).foldl (fun u _ => pecBit u) (v ^^^ b.toNat)) 0)

/-- An answer closes with the PEC of the whole transaction: addresses with their direction bit, command code, data (R458). -/
def withPec (head data : List Byte) : List Byte := data ++ [pec (head ++ data)]

/-- A read of command code `code`: the bytes that the module drives; not acknowledged at another address. -/
def smbAnswer (addr7 : BitVec 7) (code : Byte) (data : List Byte) (s : State) : Outcome State Fault Refusal :=
  let a := BitVec.ofNat 8 (2 * addr7.toNat)
  .next (setSmb (if smbAwake s && addr7.toNat == smbAddr s then some (withPec [a, code, a + 1] data) else none) s)

/-- Read Byte and Read Word: `n` value bytes, least significant first. -/
def smbRead (addr7 : BitVec 7) (code : Byte) (n v : Nat) (s : State) : Outcome State Fault Refusal :=
  smbAnswer addr7 code (leBytes n v) s

def execModId (addr7 : BitVec 7) (s : State) : Outcome State Fault Refusal := smbRead addr7 0x00 2 0x2532 s
def execStepping (addr7 : BitVec 7) (s : State) : Outcome State Fault Refusal := smbRead addr7 0x01 1 0xA1 s
def execDstate (addr7 : BitVec 7) (s : State) : Outcome State Fault Refusal := smbRead addr7 0x02 1 s.sup.dstate.code s
def execStatus (addr7 : BitVec 7) (s : State) : Outcome State Fault Refusal := smbRead addr7 0x03 1 (statusByte s) s
def execVin (addr7 : BitVec 7) (s : State) : Outcome State Fault Refusal := smbRead addr7 0x04 2 s.power.vin.toNat s
def execIin (addr7 : BitVec 7) (s : State) : Outcome State Fault Refusal := smbRead addr7 0x05 2 s.power.iin.toNat s
def execPower (addr7 : BitVec 7) (s : State) : Outcome State Fault Refusal := smbRead addr7 0x06 2 s.tgl.powerW s
def execTempMax (addr7 : BitVec 7) (s : State) : Outcome State Fault Refusal := smbRead addr7 0x07 2 (s.tgl.dieTemp.foldl max 0) s
def execLastOff (addr7 : BitVec 7) (s : State) : Outcome State Fault Refusal := smbRead addr7 0x08 1 s.power.lastOff.toNat s
def execBootFail (addr7 : BitVec 7) (s : State) : Outcome State Fault Refusal := smbRead addr7 0x09 1 s.sup.fail s
/-- A Block Read: the byte count stands before the value. -/
def execSerial (addr7 : BitVec 7) (s : State) : Outcome State Fault Refusal :=
  smbAnswer addr7 0x0A (8 :: leBytes 8 (bootSerial (bootNow s))) s

/-- A read of the Alert Response Address 0x0C: the module returns its address in the high seven bits and releases SB_ALERT_N. The
low bit is open (log 77). -/
def execSmbusAlertResponse (s : State) : Outcome State Fault Refusal :=
  .next (if smbAwake s && s.power.alert then
      setSmb (some (withPec [0x19] [BitVec.ofNat 8 (2 * smbAddr s + ofBool Config.alertBit)])) { s with power := { s.power with alert := false } }
    else setSmb none s)

/-- A write, an unlisted code or a wrong PEC. -/
def execSmbusReject (s : State) : Outcome State Fault Refusal := .next (setSmb none s)
def execSmbusTimeout (s : State) : Outcome State Fault Refusal := .next (setSmb none s)

/-! ### Test access (R455) -/

/-- An instruction is loaded into a die of the chain: all but BYPASS and IDCODE only while MOD_RESET_N is asserted. -/
def loadTap (die : Fin 5) (t : Tap) (s : State) : Outcome State Fault Refusal :=
  .next (if !s.power.pgood then s
    else
      let u := if t = .idcode || !s.power.resetN then t else .bypass
      let n := s.freeCtr
      let sampled := u == .sample || u == .extest
      { s with
        power := { s.power with
          tap := s.power.tap.set die.val u
          tdo := if u = .idcode then 0x12532B47 else if sampled then Config.boundaryWord n else 0 }
        freeCtr := if sampled then n + 1 else n })

def execBypass (die : Fin 5) (s : State) : Outcome State Fault Refusal := loadTap die .bypass s
def execIdcode (die : Fin 5) (s : State) : Outcome State Fault Refusal := loadTap die .idcode s
def execSamplePreload (die : Fin 5) (s : State) : Outcome State Fault Refusal := loadTap die .sample s
def execExtest (die : Fin 5) (s : State) : Outcome State Fault Refusal := loadTap die .extest s
def execClamp (die : Fin 5) (s : State) : Outcome State Fault Refusal := loadTap die .clamp s
def execHighz (die : Fin 5) (s : State) : Outcome State Fault Refusal := loadTap die .highz s

end Sys2Proof.Machine
end

