-- ==== Sys2Proof/Machine/Dispatch.lean ====
section
/-! DEFINITION. One arm per constructor of Instr: a direct call of its meaning. -/
namespace Sys2Proof.Machine
open Host

def exec (i : Instr) (s : State) : Host.Outcome State Fault Refusal :=
  match i with
  | .movTile c e => Sys2Proof.Machine.execMovTile c e s
  | .movExpand c e => Sys2Proof.Machine.execMovExpand c e s
  | .movGather c e => Sys2Proof.Machine.execMovGather c e s
  | .movFill c e => Sys2Proof.Machine.execMovFill c e s
  | .mtxRun c e => Sys2Proof.Machine.execMtxRun c e s
  | .mtxChain2 c e => Sys2Proof.Machine.execMtxChain2 c e s
  | .mtxMv c e => Sys2Proof.Machine.execMtxMv c e s
  | .vecRun c e => Sys2Proof.Machine.execVecRun c e s
  | .vecStats c e => Sys2Proof.Machine.execVecStats c e s
  | .vecUpdate c e => Sys2Proof.Machine.execVecUpdate c e s
  | .vecSched c e => Sys2Proof.Machine.execVecSched c e s
  | .attFwd c e => Sys2Proof.Machine.execAttFwd c e s
  | .attBwd c e => Sys2Proof.Machine.execAttBwd c e s
  | .kvAppend c e => Sys2Proof.Machine.execKvAppend c e s
  | .kvMap c e => Sys2Proof.Machine.execKvMap c e s
  | .cnvFuse c e => Sys2Proof.Machine.execCnvFuse c e s
  | .abtRun c e => Sys2Proof.Machine.execAbtRun c e s
  | .rngSet c e => Sys2Proof.Machine.execRngSet c e s
  | .smpGumbel c e => Sys2Proof.Machine.execSmpGumbel c e s
  | .medDec c e => Sys2Proof.Machine.execMedDec c e s
  | .medEnc c e => Sys2Proof.Machine.execMedEnc c e s
  | .medScale c e => Sys2Proof.Machine.execMedScale c e s
  | .medLock c e => Sys2Proof.Machine.execMedLock c e s
  | .synSignal c e => Sys2Proof.Machine.execSynSignal c e s
  | .synWait c e => Sys2Proof.Machine.execSynWait c e s
  | .synFence c e => Sys2Proof.Machine.execSynFence c e s
  | .tskBegin c e => Sys2Proof.Machine.execTskBegin c e s
  | .tskCommit c e => Sys2Proof.Machine.execTskCommit c e s
  | .tskDiscard c e => Sys2Proof.Machine.execTskDiscard c e s
  | .ctxSave c e => Sys2Proof.Machine.execCtxSave c e s
  | .ctxRestore c e => Sys2Proof.Machine.execCtxRestore c e s
  | .colSend c e => Sys2Proof.Machine.execColSend c e s
  | .colRecv c e => Sys2Proof.Machine.execColRecv c e s
  | .colReduce c e => Sys2Proof.Machine.execColReduce c e s
  | .schLoad c e => Sys2Proof.Machine.execSchLoad c e s
  | .schRun c e => Sys2Proof.Machine.execSchRun c e s
  | .tglLimit c e => Sys2Proof.Machine.execTglLimit c e s
  | .tglReserve c e => Sys2Proof.Machine.execTglReserve c e s
  | .supState c e => Sys2Proof.Machine.execSupState c e s
  | .supElect c e => Sys2Proof.Machine.execSupElect c e s
  | .supFwstage c e => Sys2Proof.Machine.execSupFwstage c e s
  | .supAttest c e => Sys2Proof.Machine.execSupAttest c e s
  | .supQueue c e => Sys2Proof.Machine.execSupQueue c e s
  | .commandDoorbell stores v => Sys2Proof.Machine.execCommandDoorbell stores v s
  | .completionDoorbell v => Sys2Proof.Machine.execCompletionDoorbell v s
  | .slotFetch qid => Sys2Proof.Machine.execSlotFetch qid s
  | .completionRecordWrite qid c => Sys2Proof.Machine.execCompletionRecordWrite qid c s
  | .irqModerationExpiry qid => Sys2Proof.Machine.execIrqModerationExpiry qid s
  | .queueDrainComplete qid => Sys2Proof.Machine.execQueueDrainComplete qid s
  | .bePlacementTimeout c => Sys2Proof.Machine.execBePlacementTimeout c s
  | .beYield c tile => Sys2Proof.Machine.execBeYield c tile s
  | .beResume c => Sys2Proof.Machine.execBeResume c s
  | .quantumGrant c k units hops first die => Sys2Proof.Machine.execQuantumGrant c k units hops first die s
  | .runMsExpiry => Sys2Proof.Machine.execRunMsExpiry s
  | .crossingDrainEnd => Sys2Proof.Machine.execCrossingDrainEnd s
  | .crossingPendingActions e => Sys2Proof.Machine.execCrossingPendingActions e s
  | .nextRunStart => Sys2Proof.Machine.execNextRunStart s
  | .serviceRunEnd => Sys2Proof.Machine.execServiceRunEnd s
  | .imageRunStart => Sys2Proof.Machine.execImageRunStart s
  | .taskRelease task => Sys2Proof.Machine.execTaskRelease task s
  | .abortReceive part tag status => Sys2Proof.Machine.execAbortReceive part tag status s
  | .collectiveRelease c => Sys2Proof.Machine.execCollectiveRelease c s
  | .tmbLoad v => Sys2Proof.Machine.execTmbLoad v s
  | .timeLoadApply => Sys2Proof.Machine.execTimeLoadApply s
  | .tmbPpsEnable v => Sys2Proof.Machine.execTmbPpsEnable v s
  | .tmbSourceSelect v => Sys2Proof.Machine.execTmbSourceSelect v s
  | .tmbNowLoRead => Sys2Proof.Machine.execTmbNowLoRead s
  | .refclkLoss => Sys2Proof.Machine.execRefclkLoss s
  | .refclkRestore => Sys2Proof.Machine.execRefclkRestore s
  | .ppsEdge dt => Sys2Proof.Machine.execPpsEdge dt s
  | .ppsLoss => Sys2Proof.Machine.execPpsLoss s
  | .registerWrite addr v => Sys2Proof.Machine.execRegisterWrite addr v s
  | .counterClearWrite addr v => Sys2Proof.Machine.execCounterClearWrite addr v s
  | .companionReservedAccess write addr bytes v => Sys2Proof.Machine.execCompanionReservedAccess write addr bytes v s
  | .errMemLastLoRead => Sys2Proof.Machine.execErrMemLastLoRead s
  | .controlQueueOpen v => Sys2Proof.Machine.execControlQueueOpen v s
  | .controlRingConfigWrite off v => Sys2Proof.Machine.execControlRingConfigWrite off v s
  | .qtbBaseWrite hi v => Sys2Proof.Machine.execQtbBaseWrite hi v s
  | .domainForm links => Sys2Proof.Machine.execDomainForm links s
  | .domainLeave => Sys2Proof.Machine.execDomainLeave s
  | .helloReceive h => Sys2Proof.Machine.execHelloReceive h s
  | .formationTimeout => Sys2Proof.Machine.execFormationTimeout s
  | .timeMasterAdopt count => Sys2Proof.Machine.execTimeMasterAdopt count s
  | .timeMessage => Sys2Proof.Machine.execTimeMessage s
  | .timeMessageTimeout => Sys2Proof.Machine.execTimeMessageTimeout s
  | .viaductLinkDown port => Sys2Proof.Machine.execViaductLinkDown port s
  | .collectiveDataArrival m => Sys2Proof.Machine.execCollectiveDataArrival m s
  | .collectiveTimeout c => Sys2Proof.Machine.execCollectiveTimeout c s
  | .chrysalisMirrorCopyEnd => Sys2Proof.Machine.execChrysalisMirrorCopyEnd s
  | .heartbeatSend side => Sys2Proof.Machine.execHeartbeatSend side s
  | .heartbeatReceive receiver direct store => Sys2Proof.Machine.execHeartbeatReceive receiver direct store s
  | .heartbeatTimeout receiver => Sys2Proof.Machine.execHeartbeatTimeout receiver s
  | .leaderSilenceTimeout => Sys2Proof.Machine.execLeaderSilenceTimeout s
  | .supervisorCrossCheck agree => Sys2Proof.Machine.execSupervisorCrossCheck agree s
  | .bottomTreeReady side => Sys2Proof.Machine.execBottomTreeReady side s
  | .deviceFault path => Sys2Proof.Machine.execDeviceFault path s
  | .inputApplied => Sys2Proof.Machine.execInputApplied s
  | .modEnRise lowMs => Sys2Proof.Machine.execModEnRise lowMs s
  | .prechargeEnd => Sys2Proof.Machine.execPrechargeEnd s
  | .prechargeTimeout => Sys2Proof.Machine.execPrechargeTimeout s
  | .railsInRegulation => Sys2Proof.Machine.execRailsInRegulation s
  | .modResetNAssert => Sys2Proof.Machine.execModResetNAssert s
  | .modResetNRelease r => Sys2Proof.Machine.execModResetNRelease r s
  | .instar0Complete b => Sys2Proof.Machine.execInstar0Complete b s
  | .instar1Complete t => Sys2Proof.Machine.execInstar1Complete t s
  | .instar2Complete pBase => Sys2Proof.Machine.execInstar2Complete pBase s
  | .inputOvervoltage => Sys2Proof.Machine.execInputOvervoltage s
  | .inputUndervoltage => Sys2Proof.Machine.execInputUndervoltage s
  | .lowToleranceTimeout => Sys2Proof.Machine.execLowToleranceTimeout s
  | .breakerTrip => Sys2Proof.Machine.execBreakerTrip s
  | .railFault => Sys2Proof.Machine.execRailFault s
  | .modEnFall => Sys2Proof.Machine.execModEnFall s
  | .inputRemoval => Sys2Proof.Machine.execInputRemoval s
  | .thermalTrip => Sys2Proof.Machine.execThermalTrip s
  | .budgetWindowEnd dies pBase => Sys2Proof.Machine.execBudgetWindowEnd dies pBase s
  | .powerSample vin iin => Sys2Proof.Machine.execPowerSample vin iin s
  | .brakeEngage => Sys2Proof.Machine.execBrakeEngage s
  | .brakeDisengage => Sys2Proof.Machine.execBrakeDisengage s
  | .thermalSensorRead temps => Sys2Proof.Machine.execThermalSensorRead temps s
  | .thermalLimitRelax => Sys2Proof.Machine.execThermalLimitRelax s
  | .scrubRead unit found => Sys2Proof.Machine.execScrubRead unit found s
  | .lowerTierTimeout line write => Sys2Proof.Machine.execLowerTierTimeout line write s
  | .stackRetrainEnd stack ok => Sys2Proof.Machine.execStackRetrainEnd stack ok s
  | .recoveryScrubEnd keystone unit found => Sys2Proof.Machine.execRecoveryScrubEnd keystone unit found s
  | .gatherRowArrival c row => Sys2Proof.Machine.execGatherRowArrival c row s
  | .passThroughGrant die => Sys2Proof.Machine.execPassThroughGrant die s
  | .emciaLinkDown => Sys2Proof.Machine.execEmciaLinkDown s
  | .emciaLinkUp gen lanes => Sys2Proof.Machine.execEmciaLinkUp gen lanes s
  | .lockGroupPictureStart ctx => Sys2Proof.Machine.execLockGroupPictureStart ctx s
  | .modId addr7 => Sys2Proof.Machine.execModId addr7 s
  | .stepping addr7 => Sys2Proof.Machine.execStepping addr7 s
  | .dstate addr7 => Sys2Proof.Machine.execDstate addr7 s
  | .status addr7 => Sys2Proof.Machine.execStatus addr7 s
  | .vin addr7 => Sys2Proof.Machine.execVin addr7 s
  | .iin addr7 => Sys2Proof.Machine.execIin addr7 s
  | .power addr7 => Sys2Proof.Machine.execPower addr7 s
  | .tempMax addr7 => Sys2Proof.Machine.execTempMax addr7 s
  | .lastOff addr7 => Sys2Proof.Machine.execLastOff addr7 s
  | .bootFail addr7 => Sys2Proof.Machine.execBootFail addr7 s
  | .serial addr7 => Sys2Proof.Machine.execSerial addr7 s
  | .smbusAlertResponse => Sys2Proof.Machine.execSmbusAlertResponse s
  | .smbusReject => Sys2Proof.Machine.execSmbusReject s
  | .smbusTimeout => Sys2Proof.Machine.execSmbusTimeout s
  | .bypass die => Sys2Proof.Machine.execBypass die s
  | .idcode die => Sys2Proof.Machine.execIdcode die s
  | .samplePreload die => Sys2Proof.Machine.execSamplePreload die s
  | .extest die => Sys2Proof.Machine.execExtest die s
  | .clamp die => Sys2Proof.Machine.execClamp die s
  | .highz die => Sys2Proof.Machine.execHighz die s

end Sys2Proof.Machine
end

