-- ==== Sys2Proof/WellFormed.lean ====
section
/-!
DEFINITION. Well-formed commands: every operand within the range that the spec gives it. The machine runs an ill-formed
command too, and then its meaning decides; statements that need a range say so with `Instr.wf`.
-/
namespace Sys2Proof

/-- A word carries the bit that its row names. -/
def hasBit (v i : Nat) : Bool := v.testBit i

/-- A codeword has 72 bytes (R271). -/
def ErrPat.wf (p : ErrPat) : Bool := p.all fun x => decide (x.1 < 72)

/-- Operand-buffer offsets lie in a 6 MiB buffer, lines in the 48-bit address space (R34, R81). -/
def Circ.wf (e : Circ) : Bool :=
  e.parity.all (fun o => decide (o < 0x600000)) &&
  e.errs.all (fun x => decide (x.1 < 2 ^ 42) && ErrPat.wf x.2) &&
  e.late.all (fun a => decide (a < 2 ^ 48))

/-- Part indices below 512, size at most 512, RED_MIN at most 3, ports below 36 (R397). -/
def Hello.wf (h : Hello) : Bool :=
  decide (h.part < 512) && decide (h.sizeM1 < 512) && decide (h.redMin < 4) &&
  h.links.all fun l => decide (l.1 < 36) && decide (l.2 < 512)

/-- Data travel in whole 64-byte lines (R410). -/
def ColMsg.wf : ColMsg → Bool
  | .data peer channel _ _ off bytes =>
    decide (peer < 512) && decide (channel < 65536) && decide (off % 64 = 0) && decide (bytes.length % 64 = 0)
  | .ack peer channel _ _ _ => decide (peer < 512) && decide (channel < 65536)
  | .vec rank channel _ _ xs => decide (rank < 512) && decide (channel < 65536) && decide (xs.length % 16 = 0)

/-- Dies, cores, stacks, media units and ports that exist (R9, R398). -/
def SelfTest.wf (t : SelfTest) : Bool :=
  t.badCores.all (fun c => decide (c.1 < 16) && decide (c.2 < 13)) && t.badDies.all (fun d => decide (d < 16)) &&
  t.badStacks.all (fun b => decide (b < 32)) && t.badPorts.all fun p => decide (p < 36)

/-- A register offset is a multiple of 4 in the register window (R39). -/
def regAddr (a : BitVec 48) : Bool := decide (a.toNat / 2 ^ 40 = 0xF) && decide (a.toNat % 4 = 0)

def Instr.wf : Instr → Bool
  | .movTile _ e => e.wf
  | .movExpand _ e => e.wf
  | .movGather _ e => e.wf
  | .movFill _ e => e.wf
  | .mtxRun _ e => e.wf
  | .mtxChain2 _ e => e.wf
  | .mtxMv _ e => e.wf
  | .vecRun _ e => e.wf
  | .vecStats _ e => e.wf
  | .vecUpdate _ e => e.wf
  | .vecSched _ e => e.wf
  | .attFwd _ e => e.wf
  | .attBwd _ e => e.wf
  | .kvAppend _ e => e.wf
  | .kvMap _ e => e.wf
  | .cnvFuse _ e => e.wf
  | .abtRun _ e => e.wf
  | .rngSet _ e => e.wf
  | .smpGumbel _ e => e.wf
  | .medDec _ e => e.wf
  | .medEnc _ e => e.wf
  | .medScale _ e => e.wf
  | .medLock _ e => e.wf
  | .synSignal _ e => e.wf
  | .synWait _ e => e.wf
  | .synFence _ e => e.wf
  | .tskBegin _ e => e.wf
  | .tskCommit _ e => e.wf
  | .tskDiscard _ e => e.wf
  | .ctxSave _ e => e.wf
  | .ctxRestore _ e => e.wf
  | .colSend _ e => e.wf
  | .colRecv _ e => e.wf
  | .colReduce _ e => e.wf
  | .schLoad _ e => e.wf
  | .schRun _ e => e.wf
  | .tglLimit _ e => e.wf
  | .tglReserve _ e => e.wf
  | .supState _ e => e.wf
  | .supElect _ e => e.wf
  | .supFwstage _ e => e.wf
  | .supAttest _ e => e.wf
  | .supQueue _ e => e.wf
  | .commandDoorbell stores v => stores.all (fun x => decide (x.1 < 2 ^ 64)) && !hasBit v.toNat 20
  | .completionDoorbell v => hasBit v.toNat 20
  | .slotFetch _ => true
  | .completionRecordWrite _ _ => true
  | .irqModerationExpiry _ => true
  | .queueDrainComplete _ => true
  | .bePlacementTimeout _ => true
  | .beYield _ _ => true
  | .beResume _ => true
  | .quantumGrant _ _ _ _ _ _ => true
  | .runMsExpiry => true
  | .crossingDrainEnd => true
  | .crossingPendingActions e => e.wf
  | .nextRunStart => true
  | .serviceRunEnd => true
  | .imageRunStart => true
  | .taskRelease task => decide (task < 2 ^ 32)
  | .abortReceive _ _ _ => true
  | .collectiveRelease _ => true
  | .tmbLoad v => hasBit v.toNat 0
  | .timeLoadApply => true
  | .tmbPpsEnable v => hasBit v.toNat 1
  | .tmbSourceSelect _ => true
  | .tmbNowLoRead => true
  | .refclkLoss => true
  | .refclkRestore => true
  | .ppsEdge _ => true
  | .ppsLoss => true
  | .registerWrite addr _ => regAddr addr
  | .counterClearWrite addr _ => regAddr addr
  | .companionReservedAccess _ _ bytes _ => decide (0 < bytes) && decide (bytes ≤ 64)
  | .errMemLastLoRead => true
  | .controlQueueOpen v => hasBit v.toNat 5
  | .controlRingConfigWrite off _ => decide (off.toNat % 4 = 0) && decide (0x10 ≤ off.toNat) && decide (off.toNat ≤ 0x20)
  | .qtbBaseWrite _ _ => true
  | .domainForm links => links.all fun l => decide (l.1 < 36) && decide (l.2 < 512)
  | .domainLeave => true
  | .helloReceive h => h.wf
  | .formationTimeout => true
  | .timeMasterAdopt _ => true
  | .timeMessage => true
  | .timeMessageTimeout => true
  | .viaductLinkDown port => decide (port < 36)
  | .collectiveDataArrival m => m.wf
  | .collectiveTimeout _ => true
  | .chrysalisMirrorCopyEnd => true
  | .heartbeatSend _ => true
  | .heartbeatReceive _ _ _ => true
  | .heartbeatTimeout _ => true
  | .leaderSilenceTimeout => true
  | .supervisorCrossCheck _ => true
  | .bottomTreeReady _ => true
  | .deviceFault _ => true
  | .inputApplied => true
  | .modEnRise _ => true
  | .prechargeEnd => true
  | .prechargeTimeout => true
  | .railsInRegulation => true
  | .modResetNAssert => true
  | .modResetNRelease _ => true
  | .instar0Complete _ => true
  | .instar1Complete t => t.wf
  | .instar2Complete _ => true
  | .inputOvervoltage => true
  | .inputUndervoltage => true
  | .lowToleranceTimeout => true
  | .breakerTrip => true
  | .railFault => true
  | .modEnFall => true
  | .inputRemoval => true
  | .thermalTrip => true
  | .budgetWindowEnd dies _ => decide (dies.length = 25)
  | .powerSample _ _ => true
  | .brakeEngage => true
  | .brakeDisengage => true
  | .thermalSensorRead temps => decide (temps.length = 25)
  | .thermalLimitRelax => true
  | .scrubRead u r => (!u.keystone || decide (u.unit.val < 4)) && ErrPat.wf r.err
  | .lowerTierTimeout line _ => decide (line < 2 ^ 42)
  | .stackRetrainEnd _ _ => true
  | .recoveryScrubEnd keystone unit found => (!keystone || decide (unit.val < 4)) && 
    found.all fun l => decide (l.1 < 2 ^ 42) && ErrPat.wf l.2
  | .gatherRowArrival _ _ => true
  | .passThroughGrant _ => true
  | .emciaLinkDown => true
  | .emciaLinkUp _ _ => true
  | .lockGroupPictureStart ctx => decide (ctx < 2 ^ 48)
  | .modId _ => true
  | .stepping _ => true
  | .dstate _ => true
  | .status _ => true
  | .vin _ => true
  | .iin _ => true
  | .power _ => true
  | .tempMax _ => true
  | .lastOff _ => true
  | .bootFail _ => true
  | .serial _ => true
  | .smbusAlertResponse => true
  | .smbusReject => true
  | .smbusTimeout => true
  | .bypass _ => true
  | .idcode _ => true
  | .samplePreload _ => true
  | .extest _ => true
  | .clamp _ => true
  | .highz _ => true

end Sys2Proof
end

