-- ==== Sys2Proof/Safety.lean ====
section
/-!
DEFINITION. The terms in which claims are made: legal power states and device-state changes, queue commands and their
families, the start of a command, frames of memory.
-/
namespace Sys2Proof.Machine
open Host

/-! ### Legal states -/

/-- Every queue holds the same commands. -/
def SameCmds (s t : State) : Prop := ∀ r, (getQ t r).cmds = (getQ s r).cmds

/-- Every queue holds the same commands, with the instants from which their timeouts run moved by `d` (R27). -/
def MovedCmds (d : Int) (s t : State) : Prop :=
  ∀ r, (getQ t r).cmds = (getQ s r).cmds.map fun k => { k with dueAt := k.dueAt.map (· + d) }

/-- Pins and switch agree with the device state (R445 to R448): out of OFF the rails are good and MOD_RESET_N is high. -/
def PowerOk (s : State) : Prop :=
  (s.sup.dstate ≠ .off → s.power.pgood = true ∧ s.power.resetN = true) ∧
  (s.power.pgood = true → s.power.switchClosed = true) ∧
  (s.power.ramping = true → s.power.switchClosed = true ∧ s.power.pgood = false) ∧
  (s.power.precharging = true → s.power.switchClosed = false)

/-- STATUS as last compared for SB_ALERT_N is STATUS as it is (R459). -/
def StatusOk (s : State) : Prop := s.sup.dstate ≠ .off → s.power.status = BitVec.ofNat 8 (statusByte s)

/-- What the device keeps in OFF: flash with its records and journals, the row-sparing record, the fault log, what the silicon
holds; the companion's memory is the companion's own (R29, R352, R425, R447). -/
def KeptOff (s t : State) : Prop :=
  t.sup.dstate = .off ∧ t.mem = { comp := s.mem.comp, spare := s.mem.spare } ∧ t.queues = {} ∧ t.cores = {} ∧ t.cocoons = [] ∧
  t.luna = [] ∧ t.dom = {} ∧ t.img = {} ∧ t.sup.flash = s.sup.flash ∧ t.sup.rom = s.sup.rom ∧ t.sup.nPuf = s.sup.nPuf ∧
  t.sup.sPuf = s.sup.sPuf ∧ t.sup.nIdent = s.sup.nIdent ∧ t.sup.sIdent = s.sup.sIdent ∧ t.regs.errLog = s.regs.errLog

/-- The device is OFF with the switch open for a cause of R458. -/
def OffBy (s t : State) (cause : BitVec 8) : Prop :=
  KeptOff s t ∧ t.power.switchClosed = false ∧ t.power.pgood = false ∧ t.power.lastOff = cause

/-- Side `d` has fenced for the first cause of a fence (R437): the device drains from RUNNING and DRAINING, and keeps its state
elsewhere; nothing else of the work has changed. -/
def FencedFor (s t : State) (d : Side) (cause : Nat) : Prop :=
  isFenced t d = true ∧ t.sup.fenceCause = cause ∧ t.sup.fenceSide = d ∧ (statusByte t).testBit 3 = true ∧
  t.sup.dstate = (if s.sup.dstate = .running ∨ s.sup.dstate = .draining then .fenced else s.sup.dstate) ∧
  SameCmds s t ∧ t.mem.dev = s.mem.dev ∧ t.mem.ob = s.mem.ob ∧ t.sup.term = s.sup.term ∧ t.sup.leader = s.sup.leader

/-- The changes of the device state that R352 tables, with no change and every way into OFF. -/
def tabled : DState → DState → Bool
  | .off, b => b == .off || b == .instar
  | a, .off => a != .off
  | .instar, b => b == .instar || b == .ready || b == .faulted
  | .ready, b => b == .ready || b == .running || b == .parked || b == .faulted
  | .running, b => b == .running || b == .draining || b == .fenced || b == .faulted
  | .draining, b => b == .draining || b == .running || b == .ready || b == .parked || b == .fenced || b == .faulted
  | .fenced, b => b == .fenced || b == .ready || b == .faulted
  | .parked, b => b == .parked || b == .ready || b == .faulted
  | .faulted, b => b == .faulted

/-! ### Queue commands -/

/-- Opcode, family, place and circumstances of a row that is a queue command. -/
def queueRow : Instr → Option (Nat × Family × CmdRef × Circ)
  | .movTile c e => some (0x0101, movTileFamily, c, e)
  | .movExpand c e => some (0x0102, movExpandFamily, c, e)
  | .movGather c e => some (0x0103, movGatherFamily, c, e)
  | .movFill c e => some (0x0104, movFillFamily, c, e)
  | .mtxRun c e => some (0x0201, mtxFamily false, c, e)
  | .mtxChain2 c e => some (0x0202, chain2Family, c, e)
  | .mtxMv c e => some (0x0203, mtxFamily true, c, e)
  | .vecRun c e => some (0x0301, vecRunFamily, c, e)
  | .vecStats c e => some (0x0302, vecStatsFamily, c, e)
  | .vecUpdate c e => some (0x0303, updateFamily, c, e)
  | .vecSched c e => some (0x0304, schedFamily, c, e)
  | .attFwd c e => some (0x0401, attFwdFamily, c, e)
  | .attBwd c e => some (0x0402, attBwdFamily, c, e)
  | .kvAppend c e => some (0x0403, kvAppendFamily, c, e)
  | .kvMap c e => some (0x0404, kvMapFamily, c, e)
  | .cnvFuse c e => some (0x0501, fuseFamily, c, e)
  | .abtRun c e => some (0x0502, abtFamily, c, e)
  | .rngSet c e => some (0x0601, rngFamily, c, e)
  | .smpGumbel c e => some (0x0602, gumbelFamily, c, e)
  | .medDec c e => some (0x0701, decFamily, c, e)
  | .medScale c e => some (0x0703, mScaleFamily, c, e)
  | .medLock c e => some (0x0704, lockFamily, c, e)
  | .synSignal c e => some (0x0801, signalFamily, c, e)
  | .synWait c e => some (0x0802, waitFamily, c, e)
  | .synFence c e => some (0x0803, fenceFamily, c, e)
  | .tskBegin c e => some (0x0901, beginFamily, c, e)
  | .tskCommit c e => some (0x0902, commitFamily, c, e)
  | .tskDiscard c e => some (0x0903, discardFamily, c, e)
  | .ctxSave c e => some (0x0A01, saveFamily, c, e)
  | .ctxRestore c e => some (0x0A02, restoreFamily, c, e)
  | .colSend c e => some (0x0B01, sendFamily, c, e)
  | .colRecv c e => some (0x0B02, recvFamily, c, e)
  | .colReduce c e => some (0x0B03, reduceFamily, c, e)
  | .schLoad c e => some (0x0C01, loadFamily, c, e)
  | .schRun c e => some (0x0C02, schRunFamily, c, e)
  | .tglLimit c e => some (0x0E01, limitFamily, c, e)
  | .tglReserve c e => some (0x0E02, reserveFamily, c, e)
  | .supState c e => some (0x0F01, stateFamily, c, e)
  | .supElect c e => some (0x0F02, electFamily, c, e)
  | .supFwstage c e => some (0x0F03, stageFamily, c, e)
  | .supAttest c e => some (0x0F04, attestFamily, c, e)
  | .supQueue c e => some (0x0F05, queueFamily, c, e)
  | _ => none

/-- The plan of a command that works by pieces, opcode by opcode (`planOf`). -/
def planOf : Instr → Option (Ctx → State → Plan)
  | .movTile .. => some movTilePlan
  | .movExpand .. => some movExpandPlan
  | .movGather .. => some movGatherPlan
  | .movFill .. => some movFillPlan
  | .mtxRun .. => some (mtxPlan false)
  | .mtxChain2 .. => some chain2Plan
  | .mtxMv .. => some (mtxPlan true)
  | .vecRun .. => some vecRunPlan
  | .vecStats .. => some vecStatsPlan
  | .vecUpdate .. => some updatePlan
  | .vecSched .. => some schedPlan
  | .attFwd .. => some attFwdPlan
  | .attBwd .. => some attBwdPlan
  | .kvAppend .. => some kvAppendPlan
  | .kvMap .. => some kvMapPlan
  | .cnvFuse .. => some fusePlan
  | .abtRun .. => some abtPlan
  | .rngSet .. => some rngPlan
  | .smpGumbel .. => some gumbelPlan
  | .medDec .. => some decPlan
  | .medScale .. => some mScalePlan
  | .medLock .. => some lockPlan
  | .synSignal .. => some signalPlan
  | .synWait .. => some waitPlan
  | _ => none

/-- Commands that read or write rows in the Borug memory through requests of their own (R14, R131). -/
def rowOps : List Nat := [0x0103, 0x0301, 0x0401, 0x0402, 0x0403, 0x0404]

/-- The circumstances of a row: for a command of row requests, with its lines that timed out (R132). -/
def circOf (op : Nat) (c : CmdRef) (e : Circ) (s : State) : Circ := if op ∈ rowOps then withLate c e s else e

/-- No row that the command asked for is still on its way (R131). -/
def rowsIn (op : Nat) (c : CmdRef) (e : Circ) (s : State) : Bool := !(decide (op ∈ rowOps) && rowOut? s c e)

/-- A waiting command that may start now, with the context and the state in which its work begins: it stands in its queue
with its opcode, it is admitted (R343, R344, R353, R370, R371, R385), and its circumstances and the quanta granted to it let it run
to its end. -/
def startOf (op : Nat) (f : Family) (c : CmdRef) (e0 : Circ) (s : State) : Option (Ctx × State) :=
  let e := circOf op c e0 s
  match cmdOf s c with
  | none => none
  | some k =>
    if k.entered && hOpcode k.hdr == op && k.ph == .waiting && e.hold.isNone && !e.broken && rowsIn op c e0 s then
      match admission op f c e k s with
      | .go core =>
        let s0 := miscorrect e s
        let s1 := beginCmd f (mkCtx s0 c e k) core s0
        let x := ctxNow c e k s1
        if mayEnd f x s1 then some (x, s1) else none
      | _ => none
    else none

/-- Command `c` is done in `t` with a status and a reply. -/
def endsAs (t : State) (c : CmdRef) (st reply : Nat) : Prop :=
  ∃ k, cmdOf t c = some k ∧ k.ph = .done ∧ k.status = st ∧ k.reply = reply

/-- Command `c` is done in `t` with ST_REFUSED_STATE and a state code. -/
def refusedAs (t : State) (c : CmdRef) (code : Nat) : Prop :=
  ∃ k, cmdOf t c = some k ∧ k.ph = .done ∧ k.status = stRefusedState ∧ k.code = code

/-! ### Frames -/

/-- Byte `a` lies outside every span of a list. -/
def outside (l : List (Nat × Nat)) (a : Nat) : Prop := ∀ x ∈ l, a < x.1 ∨ x.1 + x.2 ≤ a

/-- Device memory, companion memory and operand buffers read as before. -/
def SameMem (s t : State) : Prop := t.mem.dev = s.mem.dev ∧ t.mem.comp = s.mem.comp ∧ t.mem.ob = s.mem.ob

/-- Device spans and operand-buffer spans that pieces write, and buffer spans as keys of a core (R81). -/
def devSpans (ps : List Piece) : List (Nat × Nat) :=
  ps.flatMap fun p => p.writes.filterMap fun w => match w.d with
    | .dev a => some (a, w.bytes.length)
    | .ob _ => none
def obSpans (ps : List Piece) : List (Nat × Nat) :=
  ps.flatMap fun p => p.writes.filterMap fun w => match w.d with
    | .dev _ => none
    | .ob o => some (o, w.bytes.length)
def obKeys (core : Nat) (l : List (Nat × Nat)) : List (Nat × Nat) := l.map fun x => (obKey core x.1, x.2)

/-- What reads and writes of lines may change: memory, registers of the ERR block, Cocoons, held messages, the marks of a
recovery scrub, the counter of free values. -/
def LineWork (s t : State) : Prop :=
  ∃ (m : Memory) (r : Regs) (k : List Cocoon) (n : Nat) (i : List (Nat × Nat)) (a b : Bool),
    t = { s with mem := m, regs := r, cocoons := k, freeCtr := n, queues := { s.queues with irqHeld := i }
                 sup := { s.sup with recoveryDue := a, portHold := b } }

/-- What a completion may change: queues and the image run, the end of a run, ABORT messages, the classes counted and the
quanta that are granted or wait, held banks, interrupt messages with their log, SB_ALERT_N. -/
def CompletionWork (s t : State) : Prop :=
  ∃ (q : Queues) (i : Img) (d : DState) (r : Option Run) (x : Option Cross) (o : List DomMsg) (n : List Nat) (g : List Quantum)
    (w : List Offer) (b : List Bank) (m : Mem) (a : Bool) (st : BitVec 8) (l : List ErrEvent),
    t = { s with queues := q, img := i, sup := { s.sup with dstate := d, run := r, cross := x }, dom := { s.dom with out := o }
                 tgl := { s.tgl with counts := n, openE := g, waiting := w }, cores := { s.cores with banks := b }
                 mem := { s.mem with comp := m }, power := { s.power with alert := a, status := st }
                 regs := { s.regs with errLog := l } }

/-- Healthy device memory: no line poisoned, no stack offline or in retraining, no error, late line or timed-out request in the
circumstances. -/
abbrev healthy (s : State) (e : Circ) : Prop :=
  s.mem.poison = [] ∧ s.regs.offline = 0 ∧ s.mem.retrain = [] ∧ e.errs = [] ∧ e.late = [] ∧ e.parity = [] ∧ e.gone = []

end Sys2Proof.Machine
end

