-- ==== Sys2Proof/Certificates/Slice0/Obligations.lean ====
section
/-!
DEFINITION. The statements for the provers.
-/
open Sys2Proof Sys2Proof.Machine Host

/-! ### Steps, reset, the whole machine -/

/-- A step takes the command at the front of the queue and is `exec` of it with the queue's rest. -/
def Obligations.StepRunsFrontCommand : Prop :=
  ∀ (s : State) (i : Instr) (rest : List Instr), s.pending = i :: rest → step s = exec i { s with pending := rest }

/-- Every command of the block, in every state, answers a next state: no row stops the machine. That a row whose condition
does not hold leaves the state as it is, and answers so, is the model's reading (log 5); what each command does is said by
the statements about it. -/
def Obligations.EveryCommandCompletes : Prop :=
  ∀ (i : Instr) (s : State), ∃ t, exec i s = .next t

/-- On an empty queue a powered block counts one tick of the time base while nothing is to be slewed at this tick (R23, R25;
log 2), and in OFF nothing happens. -/
def Obligations.EmptyQueueTicks : Prop :=
  ∀ s : State, s.pending = [] →
    (s.sup.dstate = .off → step s = .next s) ∧
    (s.sup.dstate ≠ .off → s.time.slew = 0 ∨ s.time.now.toNat % 20000 ≠ 0 →
      step s = .next { s with time := { s.time with now := s.time.now + 1, slewHeld := false } })

/-- After reset every register whose Reset column gives all of it reads as that column says, at the addresses of R26, R283,
R332, R357, R395, R397, R413, R424 and R437. At 0x0F0000000200, SUP_BOOT, the Reset column has a dash for bits [8:3]; that
they read 0 there is log 10's choice. The registers with a dash throughout (SUP_FW_*, TGL_BASE) are not claimed. The state
after reset is a legal one: canonical memory, a legal state of pins and switch, an empty queue, INSTAR. -/
def Obligations.ResetState : Prop :=
  (
    (∀ a v : Nat, (a, v) ∈ [(0x0F0000000000, 0x001A2532), (0x0F0000000004, 0x11), (0x0F0000000008, 0), (0x0F0000000010, 0),
        (0x0F0000000014, 0), (0x0F0000000018, 0), (0x0F000000001C, 0), (0x0F0000000020, 0x4), (0x0F0000000040, 0),
        (0x0F0000000044, 0), (0x0F0000000050, 0), (0x0F0000000054, 0), (0x0F0000000058, 0), (0x0F0000000060, 0),
        (0x0F0000000100, 0x80000), (0x0F0000000104, 0), (0x0F0000000108, 0), (0x0F000000010C, 0), (0x0F0000000110, 0),
        (0x0F0000000114, 0), (0x0F0000000200, 0), (0x0F0000000210, 0), (0x0F0000000218, 0),
        (0x0F0000010010, 0xFC000000), (0x0F0000010014, 0x17F), (0x0F0000010020, 0), (0x0F0000010024, 0),
        (0x0F0000020000, 0xC80 + 0x28 <<< 12 + 0x64 <<< 19), (0x0F0000020004, 0x10 + 0x5C <<< 7), (0x0F0000020008, 3),
        (0x0F0000020010, 0), (0x0F0000020014, 0), (0x0F0000020018, 0), (0x0F000002001C, 0),
        (0x0F0000020020, 0x55 + 0x5C <<< 8 + 0x12C <<< 16), (0x0F0000030000, 0), (0x0F0000030004, 0), (0x0F0000030008, 0),
        (0x0F000003000C, 0), (0x0F0000030010, 0), (0x0F0000030014, 0), (0x0F0000040000, 0x122), (0x0F0000040004, 0),
        (0x0F0000050200, 0x0A3C00C8), (0x0F0000050204, 0), (0x0F0000050208, 0), (0x0F000005020C, 0), (0x0F0000050210, 0),
        (0x0F0000050214, 0), (0x0F0000050218, 0), (0x0F000005021C, 0), (0x0F0000050300, 0x3E8), (0x0F0000050304, 0),
        (0x0F0000050308, 0), (0x0F000005030C, 0), (0x0F0000050310, 0)] →
      regRead State.reset a = some v) ∧
    (∀ d, d < 25 → regRead State.reset (0x0F0000020100 + 4 * d) = some 0x80000000)) ∧
  (
    State.reset.mem.wf = true ∧ PowerOk State.reset ∧ State.reset.pending = [] ∧ State.reset.sup.dstate = .instar)

/-- Every step of the machine keeps its byte memories canonical. -/
def Obligations.StepKeepsMemoryCanonical : Prop :=
  ∀ s t : State, s.mem.wf = true → step s = .next t → t.mem.wf = true

/-- Every step keeps pins, switch and device state in accordance: out of OFF the switch is closed, MOD_PGOOD is high and
MOD_RESET_N is released (R445 to R447, R464). -/
def Obligations.StepKeepsPowerLegal : Prop :=
  ∀ s t : State, PowerOk s → step s = .next t → PowerOk t

/-- The device changes state only as the table of R352 sets out. Where an image run has no task, its row starts and ends it
in one step, so READY is followed by DRAINING there (the model's reading, log 47). -/
def Obligations.DeviceStateChangesAsTabled : Prop :=
  ∀ s t : State, PowerOk s → step s = .next t →
    tabled s.sup.dstate t.sup.dstate = true ∨
      (s.pending.head? = some .imageRunStart ∧ s.sup.dstate = .ready ∧ t.sup.dstate = .draining)

/-- R459: STATUS as it was last compared is STATUS as it is, after every step; SB_ALERT_N is asserted after a step in which a
bit of STATUS has risen, a step in which none has risen asserts nothing, and SB_ALERT_N is released when the module returns
its address to a read of the Alert Response Address. -/
def Obligations.AlertFollowsStatus : Prop :=
  (∀ s t : State, PowerOk s → StatusOk s → step s = .next t →
    StatusOk t ∧
    (t.sup.dstate ≠ .off → (∃ i, (statusByte t).testBit i = true ∧ (statusByte s).testBit i = false) → t.power.alert = true) ∧
    (s.sup.dstate ≠ .off → t.sup.dstate ≠ .off → (∀ i, (statusByte t).testBit i = true → (statusByte s).testBit i = true) →
      t.power.alert = true → s.power.alert = true)) ∧
  (∀ s : State, s.sup.dstate ≠ .off → s.power.badRelease = false → s.power.alert = true → ∃ t,
    exec .smbusAlertResponse s = .next t ∧ t.power.alert = false ∧ t.power.smb ≠ none)

/-! ### Queue commands -/

/-- A queue command that may start (R343, R344, R353, R370, R371, R385: for one, with a quantum granted to it) does its
family's work. For the commands that read or write rows in the Borug memory, rows that have arrived are forgotten (R14,
R131). -/
def Obligations.QueueCommandsStartTheirWork : Prop :=
  ∀ (i : Instr) (op : Nat) (f : Family) (c : CmdRef) (e : Circ) (s s1 : State) (x : Ctx),
    queueRow i = some (op, f, c, e) → startOf op f c e s = some (x, s1) → s.img.run.map (·.c) ≠ some c →
      exec i s = .next (if op ∈ rowOps then dropRows c (f.work x s1) else f.work x s1)

/-- A command that works by pieces and meets no failure completes: it is done with ST_OK (SYN.WAIT: with the status that the
object's FAILED gives), its reply is the one its chapter gives, and device memory, operand buffers, poison and Cocoons are as
its pieces leave them. -/
def Obligations.DataCommandsComplete : Prop :=
  ∀ (i : Instr) (op : Nat) (f : Family) (c : CmdRef) (e : Circ) (s s1 : State) (x : Ctx) (plan : Ctx → State → Plan),
    queueRow i = some (op, f, c, e) → planOf i = some plan → startOf op f c e s = some (x, s1) →
    x.e.mis1 = none → firstFault s1 x.o x.e (plan x s1).pieces = none →
    (runPieces (plan x s1).mixed x.o x.e x.core (plan x s1).pieces ((plan x s1).enter x none s1)).2 = none →
      ∃ t k, exec i s = .next t ∧ cmdOf t c = some k ∧ k.ph = .done ∧ k.status = ((plan x s1).out {}).status ∧
        (op ≠ 0x0802 → k.status = stOk) ∧ (∀ r, ((plan x s1).out {}).reply = some r → k.reply = r) ∧
        (let u := (runPieces (plan x s1).mixed x.o x.e x.core (plan x s1).pieces ((plan x s1).enter x none s1)).1
         t.mem.dev = u.mem.dev ∧ t.mem.ob = u.mem.ob ∧ t.mem.poison = u.mem.poison ∧ t.cocoons = u.cocoons)

/-- Where a data command writes. With or without failures, device bytes outside its pieces' device writes and operand-buffer
bytes outside their buffer writes and the work region read as when the work began, for a task without a Cocoon; the time
base, the link, flash and the commands that wait stay. -/
def Obligations.DataCommandsWriteTheirSpans : Prop :=
  ∀ (i : Instr) (op : Nat) (f : Family) (c : CmdRef) (e : Circ) (s s1 : State) (x : Ctx) (plan : Ctx → State → Plan),
    queueRow i = some (op, f, c, e) → planOf i = some plan → startOf op f c e s = some (x, s1) →
    s1.mem.wf = true → cocoonOf s1 x.o = none →
      ∃ t, exec i s = .next t ∧
        (∀ a, outside (devSpans (plan x s1).pieces) a → memGet 0 t.mem.dev a = memGet 0 s1.mem.dev a) ∧
        (∀ a, outside (obKeys x.core ((plan x s1).scratch ++ obSpans (plan x s1).pieces)) a →
          memGet 0 t.mem.ob a = memGet 0 s1.mem.ob a) ∧
        t.time = s.time ∧ t.link = s.link ∧ t.pending = s.pending ∧ t.sup.flash = s.sup.flash

/-- R265, R269: MOV.TILE RAW between device spans that do not meet copies the source to the destination, byte for byte; a
constant MOV.FILL of memory fills its span with its word. Nothing else of device memory changes. -/
def Obligations.MovesAndFills : Prop :=
  (∀ (c : CmdRef) (e : Circ) (s s1 : State) (x : Ctx) (a b : Nat), startOf 0x0101 movTileFamily c e s = some (x, s1) →
    (let p := MovTile.parse x.par
     p.layout = 0 → p.src = .dev a → p.dst = .dev b → p.repl = 0 → 0 < p.len → spanMem a p.len = true → spanMem b p.len = true →
     overlap a p.len b p.len = false → healthy s1 e → e.mis1 = none → s1.mem.wf = true → cocoonOf s1 x.o = none →
     ∃ t, exec (.movTile c e) s = .next t ∧ (∃ k, cmdOf t c = some k ∧ k.ph = .done ∧ k.status = stOk) ∧
       memRead 0 t.mem.dev b p.len = memRead 0 s.mem.dev a p.len ∧
       (∀ i, i < b ∨ b + p.len ≤ i → memGet 0 t.mem.dev i = memGet 0 s.mem.dev i))) ∧
  (∀ (c : CmdRef) (e : Circ) (s s1 : State) (x : Ctx), startOf 0x0104 movFillFamily c e s = some (x, s1) →
    (let p := Fill.parse x.par
     p.ob = false → p.dst % 4 = 0 → p.len % 4 = 0 → 0 < p.len → spanMem p.dst p.len = true → healthy s1 e → e.mis1 = none →
     s1.mem.wf = true → cocoonOf s1 x.o = none →
     ∃ t, exec (.movFill c e) s = .next t ∧ (∃ k, cmdOf t c = some k ∧ k.ph = .done ∧ k.status = stOk) ∧
       memRead 0 t.mem.dev p.dst p.len = (List.replicate (p.len / 4) (leBytes 4 p.value.toNat)).flatten ∧
       (∀ i, i < p.dst ∨ p.dst + p.len ≤ i → memGet 0 t.mem.dev i = memGet 0 s.mem.dev i)))

/-- R223, R232: RNG.SET binds its Luna record to the job and replies with its address. INIT writes the whole record: the key,
the offsets of the slots in MASK and 0 in every other field. OFFSETS writes the offsets of the slots in MASK, ADVANCE adds to
them modulo 2^28; either leaves the reserved bits beside an offset and the rest of the record. BIND writes nothing. No other
byte changes. -/
def Obligations.RandomStreams : Prop :=
  ∀ (c : CmdRef) (e : Circ) (s s1 : State) (x : Ctx), startOf 0x0601 rngFamily c e s = some (x, s1) →
    (let p := RngSet.parse x.par
     spanKs p.rec1 128 = true → p.rec1 % 128 = 0 → healthy s1 e → e.mis1 = none → s1.mem.wf = true → cocoonOf s1 x.o = none →
     ∃ t, exec (.rngSet c e) s = .next t ∧ endsAs t c stOk p.rec1 ∧ look t.luna x.job = some p.rec1 ∧
       (p.op = 0 → memRead 0 t.mem.dev p.rec1 16 = leBytes 16 p.key ∧ memRead 0 t.mem.dev (p.rec1 + 16) 4 = leBytes 4 0 ∧
         (∀ i, 1 ≤ i → i ≤ 15 → memRead 0 t.mem.dev (p.rec1 + 16 + 4 * i) 4 = leBytes 4 (if p.mask.testBit i then p.val i else 0)) ∧
         (∀ a, p.rec1 + 80 ≤ a → a < p.rec1 + 128 → memGet 0 t.mem.dev a = 0)) ∧
       (p.op = 1 ∨ p.op = 2 →
         (∀ i, 1 ≤ i → i ≤ 15 → p.mask.testBit i = true →
           (let w := leNat (memRead 0 s.mem.dev (p.rec1 + 16 + 4 * i) 4)
            memRead 0 t.mem.dev (p.rec1 + 16 + 4 * i) 4 =
              leBytes 4 ((if p.op = 2 then (w + p.val i) % 2 ^ 28 else p.val i) + w / 2 ^ 28 * 2 ^ 28))) ∧
         (∀ a, (∀ i, 1 ≤ i → i ≤ 15 → p.mask.testBit i = true → a < p.rec1 + 16 + 4 * i ∨ p.rec1 + 20 + 4 * i ≤ a) →
           memGet 0 t.mem.dev a = memGet 0 s.mem.dev a)) ∧
       (p.op = 3 → t.mem.dev = s.mem.dev) ∧
       (∀ a, a < p.rec1 ∨ p.rec1 + 128 ≤ a → memGet 0 t.mem.dev a = memGet 0 s.mem.dev a))

/-- R295, R297, R298: MED.ENC. Opening a stream context marks it an encode context, closing it clears it; neither writes
outside the context (that the mark is the context's first byte, 2 when open and 0 when closed, is the model's choice, log
14). A picture of a stream in no lock group, with source, output and references in healthy Keystone memory, completes with
the reply of R298: with ST_OK and its length where its bytes fit the output, else with ST_MEDIA, code 4 and the bytes that
fit. -/
def Obligations.Encoding : Prop :=
  ∀ (c : CmdRef) (e : Circ) (s s1 : State) (x : Ctx), startOf 0x0702 encFamily c e s = some (x, s1) →
    (let p := Enc.parse x.par
     let z := shotOf p x s1
     let n := (z.code.unit z.q.tiled).length
     healthy s1 e → spanKs p.ctx ctxLen = true → p.ctx % 4096 = 0 → s1.mem.wf = true → cocoonOf s1 x.o = none →
     (p.op ≠ 1 →
       ∃ t, exec (.medEnc c e) s = .next t ∧ endsAs t c stOk (x.cmd.pipe.getD 0 <<< 52) ∧
         memGet 0 t.mem.dev p.ctx = (if p.op = 0 then 2 else 0) ∧
         (∀ a, a < p.ctx ∨ p.ctx + ctxLen ≤ a → memGet 0 t.mem.dev a = memGet 0 s.mem.dev a) ∧ t.mem.ob = s.mem.ob) ∧
     (p.op = 1 → groupOf s p.ctx = none → partDone s c = false →
       (∀ y ∈ (z.q.srcMem z.src).reads z.q.sw z.q.sh, spanKs y.1 y.2 = true) → spanKs p.out p.outLen = true → 0 < p.outLen →
       spanKs z.base (3 * slotLen z.q.w z.q.h z.q.depth) = true →
       ∃ t, exec (.medEnc c e) s = .next t ∧ t.mem.ob = s.mem.ob ∧
         (n ≤ p.outLen → endsAs t c stOk (encReply z z.code n 0 x)) ∧
         (p.outLen < n → endsAs t c stMedia (encReply z z.code p.outLen 4 x))))

/-- R316: when every member of a lock group has a command for the picture that may start, the picture starts at a beat
boundary: every member's command is in progress, and no memory changes. (No other command still holds a pipe of the group.)
-/
def Obligations.LockGroupsStartTogether : Prop :=
  ∀ (s : State) (ctx : Nat) (g : Group), groupOf s ctx = some g → g.started = none →
    (∀ i ∈ g.pipes, i ∉ heldPipes s 0x0702) → s.sup.dstate ≠ .off →
    s.time.now.toNat + 1024 < 2 ^ 64 →
    (∀ m ∈ g.members, ∃ c k core, encCmdOf s m = some (c, k) ∧ cmdOf s c = some k ∧
      admission 0x0702 (encFamilyOf true) c {} k s = .go core) →
    ∃ t, exec (.lockGroupPictureStart ctx) s = .next t ∧ t.time.now.toNat % 1024 = 0 ∧ s.time.now.toNat ≤ t.time.now.toNat ∧
      t.time.now.toNat < s.time.now.toNat + 1024 ∧
      (∀ m ∈ g.members, ∀ c k, encCmdOf s m = some (c, k) → ∃ k', cmdOf t c = some k' ∧ k'.ph = .running 0) ∧
      t.mem = s.mem ∧ t.sup = s.sup ∧
      t.regs = { s.regs with slips := t.regs.slips, slipMax := t.regs.slipMax, slipTag := t.regs.slipTag }

/-- R349 to R351: SYN.SIGNAL writes VALUE and nothing else; SYN.WAIT starts only when FAILED is set or VALUE has reached its
parameter, and completes with ST_OK, or with ST_REFUSED_DEP and the object's ROOT; SYN.FENCE starts only when every earlier
command of its queue is done and has had its record written, and replies with the failures counted since the fence before it.
-/
def Obligations.Synchronisation : Prop :=
  (∀ (c : CmdRef) (e : Circ) (s s1 : State) (x : Ctx), startOf 0x0801 signalFamily c e s = some (x, s1) →
    e.mis1 = none → healthy s1 e → s1.mem.wf = true → cocoonOf s1 x.o = none → spanKs (synObj x.par) 32 = true →
    synObj x.par % 32 = 0 →
    ∃ t, exec (.synSignal c e) s = .next t ∧ endsAs t c stOk 0 ∧
      memRead 0 t.mem.dev (synObj x.par) 8 = leBytes 8 (synSet x.par) ∧
      (∀ a, a < synObj x.par ∨ synObj x.par + 8 ≤ a → memGet 0 t.mem.dev a = memGet 0 s.mem.dev a) ∧ t.mem.ob = s.mem.ob) ∧
  (∀ (c : CmdRef) (e : Circ) (s s1 : State) (x : Ctx), startOf 0x0802 waitFamily c e s = some (x, s1) →
    e.errs = [] → readFault s x.o e (synObj x.par) 32 = none →
    (let z := synRead x s
     (z.2.1 = true ∨ synSet x.par ≤ z.1) ∧
     ∃ t, exec (.synWait c e) s = .next t ∧ t.mem.dev = s.mem.dev ∧ t.mem.ob = s.mem.ob ∧
       (z.2.1 = true → endsAs t c stRefusedDep z.2.2) ∧ (z.2.1 = false → endsAs t c stOk 0))) ∧
  (∀ (c : CmdRef) (e : Circ) (s s1 : State) (x : Ctx), startOf 0x0803 fenceFamily c e s = some (x, s1) →
    (∀ k ∈ (getQ s c.q).cmds, k.idx < c.idx → k.ph = .done) ∧
    (∀ r ∈ (queueOf s (ringOf s c.q)).recs, r.c.q = c.q → c.idx ≤ r.c.idx) ∧
    ∃ t, exec (.synFence c e) s = .next t ∧
      endsAs t c stOk (((getQ s c.q).failed.filter fun i => decide (i < c.idx)).eraseDups.length % 2 ^ 32) ∧
      (∀ i ∈ (getQ t c.q).failed, c.idx ≤ i) ∧ t.mem.dev = s1.mem.dev ∧ t.mem.ob = s.mem.ob)

/-- R375 to R378, R382, R383: TSK.BEGIN puts its task into speculation with the lowest free Cocoon; TSK.COMMIT publishes the
marked lines of the target's Cocoon to their originals, leaves every other byte, frees the Cocoon and replies with the
granules published; TSK.DISCARD frees it, changes no original, and replies with the granules copied. -/
def Obligations.SpeculativeTasks : Prop :=
  (∀ (c : CmdRef) (e : Circ) (s s1 : State) (x : Ctx), startOf 0x0901 beginFamily c e s = some (x, s1) →
    cocoonOf s x.o = none → x.cmd.second = false →
    (let p := Pool.parse x.par
     ∃ t n, exec (.tskBegin c e) s = .next t ∧ endsAs t c stOk n ∧ n < 64 ∧ (∀ k ∈ s.cocoons, k.num ≠ n) ∧
       (∀ m, m < n → ∃ k ∈ s.cocoons, k.num = m) ∧
       t.cocoons = s.cocoons ++ [{ num := n, q := c.q, task := x.cmd.task, ks := p.ks, ksN := p.ksN, bg := p.bg, bgN := p.bgN }] ∧
       ((taskOf s c.q x.cmd.task).isSome = true → ∃ y, taskOf t c.q x.cmd.task = some y ∧ y.state = .speculative) ∧
       t.mem.dev = s1.mem.dev ∧ t.mem.ob = s.mem.ob)) ∧
  (∀ (c : CmdRef) (e : Circ) (s s1 : State) (x : Ctx) (y : Task) (k : Cocoon), startOf 0x0902 commitFamily c e s = some (x, s1) →
    targetTask x s1 = some y → targetCocoon x s1 = some k → healthy s1 e → s1.mem.wf = true → (k.granules.map (·.orig)).Nodup →
    (∀ g ∈ k.granules, spanMem (g.orig * 4096) 4096 = true ∧ spanMem (g.copy * 4096) 4096 = true) →
    ∃ t, exec (.tskCommit c e) s = .next t ∧ endsAs t c stOk (k.granules.filter fun g => g.marks != 0).length ∧
      t.cocoons = s.cocoons.filter (fun j => decide (j.num ≠ k.num)) ∧
      (∃ z, taskOf t (targetQ x s1) y.serial = some z ∧ z.state = .committed) ∧
      (∀ g ∈ k.granules, ∀ i, i < 4096 → memGet 0 t.mem.dev (g.orig * 4096 + i) =
        memGet 0 s.mem.dev ((if g.marks.getLsbD (i / 64) = true then g.copy else g.orig) * 4096 + i)) ∧
      (∀ a, (∀ g ∈ k.granules, g.orig ≠ a / 4096) → memGet 0 t.mem.dev a = memGet 0 s.mem.dev a) ∧ t.mem.ob = s.mem.ob) ∧
  (∀ (c : CmdRef) (e : Circ) (s s1 : State) (x : Ctx) (y : Task) (k : Cocoon), startOf 0x0903 discardFamily c e s = some (x, s1) →
    targetTask x s1 = some y → targetCocoon x s1 = some k →
    ∃ t, exec (.tskDiscard c e) s = .next t ∧ endsAs t c stOk k.granules.length ∧
      t.cocoons = s.cocoons.filter (fun j => decide (j.num ≠ k.num)) ∧
      (∃ z, taskOf t (targetQ x s1) y.serial = some z ∧ z.state = .discarded) ∧ t.mem.dev = s1.mem.dev ∧ t.mem.ob = s.mem.ob)

/-- R415, R416: CTX.SAVE of regions that fit its destination and do not meet it replies with the Chrysalis's length and SEQ,
and counts the save; device bytes outside the destination stay. R417: CTX.RESTORE of a Chrysalis that passes its checks and
its CRC writes the regions' lines from it and no other byte, binds the job's Luna record that it names, makes the next run a
RECOVERY run, and replies with IMG_ID and RUNS_LEFT. That a record address of 0 leaves the job without a bound record is the
model's reading (log 39). -/
def Obligations.Contexts : Prop :=
  (
    ∀ (c : CmdRef) (e : Circ) (s s1 s2 : State) (x : Ctx) (l : List (Nat × Nat)), startOf 0x0A01 saveFamily c e s = some (x, s1) →
      (let p := Save.parse x.par
       let seq := (look s.img.seqs x.job).getD 0 + 1
       let s0 := if p.n = 0 then s1 else noteReads x.o x.e [(p.rgn, 16 * p.n)] s1
       p.regions x s1 = some l → (p.n ≠ 0 → readFault s1 x.o e p.rgn (16 * p.n) = none) → chryLen l ≤ 4096 * p.len4k →
       (∀ r ∈ l, overlap p.dst (4096 * p.len4k) r.1 (4096 * r.2) = false) →
       touchesTable s1 (regionSpans l) = false → touchesPool s1 (regionSpans l) = false →
       saveTo x.o e p.dst (chryNow s1 x.job x.nl l) s0 = (s2, 0) → s1.mem.wf = true → cocoonOf s1 x.o = none →
       ∃ t, exec (.ctxSave c e) s = .next t ∧ endsAs t c stOk (chryLen l / 4096 + seq <<< 32) ∧ look t.img.seqs x.job = some seq ∧
         t.mem.dev = s2.mem.dev ∧ t.mem.ob = s.mem.ob ∧
         (∀ a, a < p.dst ∨ p.dst + 4096 * p.len4k ≤ a → memGet 0 t.mem.dev a = memGet 0 s1.mem.dev a))) ∧
  (
    ∀ (c : CmdRef) (e : Circ) (s s1 : State) (x : Ctx) (l : List (Nat × Nat)), startOf 0x0A02 restoreFamily c e s = some (x, s1) →
      (let p := Restore.parse x.par
       let h := leNat (p.bytes x s1 0 128)
       let n := fld h 90 80
       let data := p.bytes x s1 0 (chryLen l)
       (p.remote = true → p.part < s.dom.size) → p.fault x s1 0 128 = 0 → n ≤ 1024 → chryHead n ≤ 4096 * p.len4k →
       p.fault x s1 0 (chryHead n) = 0 → regionsOf (p.bytes x s1 128 (16 * n)) n = some l →
       Restore.check h (some l) p x s1 = none → p.fault x s1 0 (chryLen l) = 0 →
       crc32 (data.take 44 ++ List.replicate 4 0 ++ data.drop 48) = fld h 383 352 →
       healthy s1 e → s1.mem.wf = true → cocoonOf s1 x.o = none → ((chryLines l).map (·.1)).Nodup →
       ∃ t, exec (.ctxRestore c e) s = .next t ∧ endsAs t c stOk (fld h 127 96 + fld h 191 160 <<< 32) ∧
         (∀ y ∈ chryLines l, memRead 0 t.mem.dev y.1 64 = (data.drop y.2).take 64) ∧
         (∀ a, (∀ y ∈ chryLines l, a < y.1 ∨ y.1 + 64 ≤ a) → memGet 0 t.mem.dev a = memGet 0 s.mem.dev a) ∧
         look t.luna x.job = (if fld h 239 192 = 0 then none else some (fld h 239 192)) ∧ t.sup.recoveryDue = true ∧
         t.mem.ob = s.mem.ob))

/-- R410, R411: a collective begins: it takes the next number of its peer and channel and is in progress; COL.SEND sends its
lines, COL.REDUCE its vector. A COL.SEND completes with ST_OK and its count of lines when its peer has acknowledged them all.
That the number is counted when the command starts, and that a COL.REDUCE is paired by its channel alone, is the model's
reading (log 43). -/
def Obligations.CollectivesBegin : Prop :=
  (∀ (c : CmdRef) (e : Circ) (s s1 : State) (x : Ctx), startOf 0x0B01 sendFamily c e s = some (x, s1) →
    (let p := Xfer.parse x.par
     let n := collCount s (0, p.peer, p.channel)
     collOf s c = none → p.peer ≠ s.dom.index → hasRoute s p.peer = true → healthy s1 e → spanMem p.addr p.len = true →
     p.addr % 64 = 0 → p.len % 64 = 0 →
     ∃ t k y, exec (.colSend c e) s = .next t ∧ cmdOf t c = some k ∧ k.ph = .running 0 ∧ collOf t c = some y ∧ y.k = n ∧
       t.dom.out = .data c p.peer p.channel n p.len 0 (readBytes s none p.addr p.len) :: s.dom.out ∧
       collCount t (0, p.peer, p.channel) = n + 1 ∧ t.mem = s.mem ∧ t.sup = s.sup ∧ t.time = s.time)) ∧
  (∀ (c : CmdRef) (e : Circ) (s s1 : State) (x : Ctx), startOf 0x0B02 recvFamily c e s = some (x, s1) →
    (let p := Xfer.parse x.par
     let n := collCount s (1, p.peer, p.channel)
     collOf s c = none → hasRoute s p.peer = true → s.dom.inbox = [] →
     ∃ t k y, exec (.colRecv c e) s = .next t ∧ cmdOf t c = some k ∧ k.ph = .running 0 ∧ collOf t c = some y ∧ y.k = n ∧
       t.dom.out = s.dom.out ∧ collCount t (1, p.peer, p.channel) = n + 1 ∧ t.mem = s1.mem ∧ t.sup = s.sup ∧ t.time = s.time)) ∧
  (∀ (c : CmdRef) (e : Circ) (s s1 : State) (x : Ctx), startOf 0x0B03 reduceFamily c e s = some (x, s1) →
    (let p := Reduce.parse x.par
     let n := collCount s (2, 0, p.channel)
     collOf s c = none → 2 ≤ p.n → (∀ i, i < p.n → hasRoute s (p.lo + i) = true) → healthy s1 e →
     spanMem p.src (4 * p.count) = true → s.dom.inbox = [] →
     ∃ t k y, exec (.colReduce c e) s = .next t ∧ cmdOf t c = some k ∧ k.ph = .running 0 ∧ collOf t c = some y ∧ y.k = n ∧
       t.dom.out = .vec (s.dom.index - p.lo) p.channel n (Reduce.common x.par) (readWords s p.src p.count) :: s.dom.out ∧
       collCount t (2, 0, p.channel) = n + 1 ∧ t.mem = s.mem ∧ t.sup = s.sup ∧ t.time = s.time)) ∧
  (∀ (s : State) (y : Coll) (peer channel lines : Nat), s.dom.dstate = 2 → s.sup.dstate ≠ .off →
    findColl s 0 peer channel y.k = some y → (∃ k, cmdOf s y.c = some k ∧ k.ph ≠ .done) →
    (let p := Xfer.parse (parOf s y.c)
     p.len / 64 ≤ lines →
     ∃ t, exec (.collectiveDataArrival (.ack peer channel y.k p.len lines)) s = .next t ∧ endsAs t y.c stOk (p.len / 64) ∧
       collOf t y.c = none ∧ t.mem.dev = s.mem.dev ∧ t.mem.ob = s.mem.ob))

/-- R404 to R407: SCH.LOAD of an image that passes its checks registers it in its slot with its claims and replies with
IMG_ID, the physical cores in use and the folds; UNLOAD frees slot and claims. An SCH.RUN that starts is kept for its first
run, which IMAGE_RUN_START starts; that it starts only when no other SCH.RUN is in progress is the model's choice (log 41).
-/
def Obligations.ScheduleImages : Prop :=
  (∀ (c : CmdRef) (e : Circ) (s s1 : State) (x : Ctx) (m : List Nat × Nat), startOf 0x0C01 loadFamily c e s = some (x, s1) →
    (let p := Load.parse x.par
     let g := ImgHdr.parse (imgRd s1 p.addr 0 128)
     p.op = 0 → readFault s1 x.o e p.addr 128 = none → fmtAccepted s g.fmt = true → g.magic = 0x4B5A494D → 128 ≤ g.len →
     spanMem p.addr g.len = true → readFault s1 x.o e p.addr g.len = none → imageBad (imgRd s1 p.addr) p.addr = false →
     g.nl = x.nl → (formed s = true → g.nl = s.dom.nlDom) → loadState x p g s1 = none →
     touchesTable s1 ((p.addr, g.len) :: regionSpans ((imgRegions (imgRd s1 p.addr) g).getD [])) = false → touchesPool s1 [(p.addr, g.len)] = false →
     coreMap (partCores s) g.lcores = some m →
     ∃ t z, exec (.schLoad c e) s = .next t ∧ endsAs t c stOk (g.imgId + (g.lcores - m.2) <<< 32 + m.2 <<< 40) ∧
       look t.img.slots p.slot = some z ∧ z.addr = p.addr ∧ z.imgId = g.imgId ∧ z.job = x.job ∧ z.nl = g.nl ∧
       z.lcores = g.lcores ∧ z.period = g.period ∧ (∀ n, n ≠ p.slot → look t.img.slots n = look s.img.slots n) ∧
       (∀ i, i < g.ksCount → (g.ksFirst + i, x.job, p.slot) ∈ t.img.claims) ∧ t.mem.dev = s1.mem.dev ∧ t.mem.ob = s.mem.ob)) ∧
  (∀ (c : CmdRef) (e : Circ) (s s1 : State) (x : Ctx), startOf 0x0C01 loadFamily c e s = some (x, s1) →
    (let p := Load.parse x.par
     p.op = 1 → (look s.img.slots p.slot).isSome = true → s.img.run.map (·.slot) ≠ some p.slot →
     (∀ y ∈ runsPending s1, y.2 ≠ p.slot) →
     ∃ t, exec (.schLoad c e) s = .next t ∧ endsAs t c stOk 0 ∧ look t.img.slots p.slot = none ∧
       (∀ n, n ≠ p.slot → look t.img.slots n = look s.img.slots n) ∧ (∀ z ∈ t.img.claims, z.2.2 ≠ p.slot) ∧
       t.mem.dev = s1.mem.dev ∧ t.mem.ob = s.mem.ob)) ∧
  (∀ (c : CmdRef) (e : Circ) (s s1 : State) (x : Ctx), startOf 0x0C02 schRunFamily c e s = some (x, s1) →
    (let p := SchRun.parse x.par
     ∃ t k r, exec (.schRun c e) s = .next t ∧ s.img.run = none ∧ cmdOf t c = some k ∧ k.ph = .running 0 ∧ t.img.run = some r ∧
       r.c = c ∧ r.slot = p.slot ∧ r.count = p.count ∧ r.startBeat = p.start ∧ r.ckEn = p.ckEn ∧ r.ckAddr = p.ckAddr ∧
       r.ckSlot = p.ckSlot ∧ r.job = x.job ∧ r.k = 0 ∧ r.active = false ∧ r.begun = false ∧ look t.img.seqs x.job = some 0 ∧
       t.mem = s1.mem ∧ t.sup = s.sup ∧ t.time = s.time))

/-- R393, R394: TGL.LIMIT and TGL.RESERVE keep their settings for the next budget window, whose index (modulo 2^32) is the
reply. LC_BANKS takes effect at once at rest and in a crossing, else at the next crossing. -/
def Obligations.TollgateSettings : Prop :=
  (∀ (c : CmdRef) (e : Circ) (s s1 : State) (x : Ctx), startOf 0x0E01 limitFamily c e s = some (x, s1) →
    ∃ t, exec (.tglLimit c e) s = .next t ∧ endsAs t c stOk ((s.time.now.toNat / 1000000 + 1) % 2 ^ 32) ∧
      t.tgl = { s.tgl with
        limitSet := fld x.par 11 0, brakeSet := fld x.par 19 12, counts := t.tgl.counts, openE := t.tgl.openE,
        waiting := t.tgl.waiting, ran := t.tgl.ran } ∧
      t.cores.lcBanks = s.cores.lcBanks ∧ t.mem.dev = s1.mem.dev ∧ t.mem.ob = s.mem.ob ∧ t.sup = s.sup ∧ t.time = s.time) ∧
  (∀ (c : CmdRef) (e : Circ) (s s1 : State) (x : Ctx), startOf 0x0E02 reserveFamily c e s = some (x, s1) →
    ∃ t, exec (.tglReserve c e) s = .next t ∧ endsAs t c stOk ((s.time.now.toNat / 1000000 + 1) % 2 ^ 32) ∧
      t.tgl = { s.tgl with
        lcPctSet := fld x.par 6 0, releaseSet := fld x.par 15 7, counts := t.tgl.counts, openE := t.tgl.openE,
        waiting := t.tgl.waiting, ran := t.tgl.ran } ∧
      t.cores.lcSet = fld x.par 22 16 ∧
      t.cores.lcBanks = (if atRest s = true ∨ s.sup.cross ≠ none then fld x.par 22 16 else s.cores.lcBanks) ∧
      t.mem.dev = s1.mem.dev ∧ t.mem.ob = s.mem.ob ∧ t.sup = s.sup ∧ t.time = s.time)

/-- R440, R441: SUP.STATE. QUERY changes nothing. RUN asks for a run from READY, sets TEST and RUN_MS and cancels a pending
STOP or PARK. STOP and PARK cancel a RUN in READY, or end the run in progress with the device DRAINING and READY or PARKED to
follow; PARK in READY parks at once, UNPARK returns to READY, CROSS begins a crossing. While an SCH.RUN is in progress STOP
and PARK wait and CROSS does not apply; with IMMEDIATE the image run is aborted, and its SCH.RUN will complete with
SUP_STOPPED. -/
def Obligations.StateCommands : Prop :=
  ∀ (c : CmdRef) (e : Circ) (s s1 : State) (x : Ctx), startOf 0x0F01 stateFamily c e s = some (x, s1) →
    (let op := fld x.par 2 0
     let d := s.sup.dstate
     let req := if op = 2 then StopReq.stop else StopReq.park
     ∃ t, exec (.supState c e) s = .next t ∧ endsAs t c stOk (stateReply t) ∧ t.mem.dev = s1.mem.dev ∧ t.mem.ob = s.mem.ob ∧
       t.time = s.time ∧ t.sup.term = s.sup.term ∧ t.sup.leader = s.sup.leader ∧
       (op = 0 → t.sup = s.sup) ∧
       (op = 1 → t.sup = { s.sup with stopReq := none, runReq := s.sup.runReq || d == .ready, runTest := bit x.par 3,
                                        runMs := fld x.par 63 32 }) ∧
       (op = 2 → d = .ready → t.sup = { s.sup with runReq := false, runTest := false, runMs := 0 }) ∧
       (op = 3 → d = .ready → t.sup = { s.sup with dstate := .parked, runReq := false, runTest := false, runMs := 0 }) ∧
       (op = 4 → d = .parked → t.sup = { s.sup with dstate := .ready }) ∧
       (op = 2 ∨ op = 3 → d = .running → s.img.run = none →
         t.sup = { s.sup with dstate := .draining, run := none, cross := t.sup.cross, stopReq := some req }) ∧
       (op = 2 ∨ op = 3 → d = .draining → s.img.run = none → t.sup = { s.sup with stopReq := some req }) ∧
       (op = 5 → d = .running → s.img.run = none →
         t.sup = { s.sup with dstate := .draining, run := none, cross := some { began := (s.time.now.toNat : Int) } }) ∧
       (∀ r, s.img.run = some r → r.begun = true → r.active = true → r.ended = none → d = .running →
         (op = 2 ∨ op = 3 → bit x.par 4 = false → t.sup = { s.sup with stopReq := some req }) ∧
         (op = 2 ∨ op = 3 → bit x.par 4 = true → t.sup.dstate = .draining ∧ t.sup.stopReq = some req ∧
           ∃ u, t.img.run = some u ∧ u.ended = some (stRefusedState, 0x94, none)) ∧
         (op = 5 → t.sup = s.sup)))

/-- R354, R355: SUP.QUEUE changes the state of the queue it names as the table says, and replies with HEAD and STATE after
it; OPEN writes the descriptor with all four counts 0. Every other queue but the control queue stays. -/
def Obligations.QueueCommands : Prop :=
  ∀ (c : CmdRef) (e : Circ) (s s1 : State) (x : Ctx), startOf 0x0F05 queueFamily c e s = some (x, s1) →
    (let p := QueueOp.parse x.par
     let q := queueOf s p.qid
     p.qid ≠ 0 →
     ∃ t, exec (.supQueue c e) s = .next t ∧ endsAs t c stOk (queueReply (queueOf t p.qid)) ∧
       (p.op = 0 → q.state = .closed ∧
         (let z := queueOf t p.qid
          z.state = .opened ∧ z.lc = p.lc ∧ z.nl = p.nl ∧ z.gen = p.gen ∧ z.log2 = p.log2 ∧ z.irqEn = p.irqEn ∧ z.job = p.job ∧
          z.cmdAddr = p.cmd ∧ z.cplAddr = p.cpl ∧ z.irqVec = p.vec ∧ z.irqMod = p.modUs ∧ z.fetched = 0 ∧ z.written = 0 ∧
          z.tail = 0 ∧ z.cplHead = 0 ∧ z.cmds = [] ∧ z.recs = [])) ∧
       (p.op = 1 → q.state = .opened ∧ queueOf t p.qid = { q with state := .paused }) ∧
       (p.op = 2 → q.state = .paused ∧ queueOf t p.qid = { q with state := .opened }) ∧
       (p.op = 3 → (q.state = .opened ∨ q.state = .paused) ∧ queueOf t p.qid = { q with state := .draining }) ∧
       (p.op = 4 → (q.state = .opened ∨ q.state = .paused) ∧ q.idle = true ∧ queueOf t p.qid = { q with state := .closed }) ∧
       (p.op = 5 → queueOf t p.qid = q) ∧
       (∀ n, n ≠ p.qid → n ≠ 0 → queueOf t n = queueOf s n) ∧ t.mem.dev = s1.mem.dev ∧ t.mem.ob = s.mem.ob ∧ t.sup = s.sup ∧
       t.time = s.time)

/-- R439: SUP.ELECT with a term above the present one, an eligible choice and an acknowledgement takes the term to the part
and its store dies, passes leadership, ends every fence and makes the next run a RECOVERY run; from FENCED the device enters
READY. Otherwise it is refused with TERM_STALE, SUP_INELIGIBLE or SUP_PARTNER, and term and state are unchanged. -/
def Obligations.Elections : Prop :=
  ∀ (c : CmdRef) (e : Circ) (s s1 : State) (x : Ctx), startOf 0x0F02 electFamily c e s = some (x, s1) →
    (let term := fld x.par 31 0
     let side : Side := if fld x.par 33 32 = 1 then .north else if fld x.par 33 32 = 2 then .south
       else if s.sup.nLeadOk = true then .north else .south
     ∃ t, exec (.supElect c e) s = .next t ∧ t.mem.dev = s1.mem.dev ∧ t.mem.ob = s.mem.ob ∧ t.time = s.time ∧
       (term ≤ s.sup.term.toNat → refusedAs t c 0x90 ∧ t.sup = s.sup) ∧
       (s.sup.term.toNat < term → leadOk s side = false → refusedAs t c 0x92 ∧ t.sup = s.sup) ∧
       (s.sup.term.toNat < term → leadOk s side = true → e.ack = false → refusedAs t c 0x91 ∧ t.sup = s.sup) ∧
       (s.sup.term.toNat < term → leadOk s side = true → e.ack = true →
         endsAs t c stOk (term + sideBit side <<< 32) ∧ t.sup.term.toNat = term ∧ t.sup.leader = side ∧
         t.sup.storeTerm = List.replicate 4 t.sup.term ∧ fencedAny t = false ∧ t.sup.fenceCause = 0 ∧
         t.sup.recoveryDue = true ∧ t.sup.dstate = (if s.sup.dstate = .fenced then .ready else s.sup.dstate)))

/-- R433, R434, R414: SUP.FWSTAGE. QUERY changes nothing. WRITE programs the span of the inactive copy and clears its
verified mark; VERIFY sets the mark of a copy that passes R427, unless its version lies below FLOOR, which refuses it; a
stage whose activation is pending refuses them and ACTIVATE with FW_BUSY. ACTIVATE of a verified copy writes a new boot
record: an Instar 1 copy stays pending; a runtime copy waits for the next crossing, or at rest, where no domain is formed or
the copy implements its level and formats, is verified again and runs, or the old one stays, the record names it again, and
the command ends with FW_NONE. RAISE writes the floor of R433. That FW_BUSY comes before FW_NONE, that VERIFY of a copy that
fails R427 completes with ST_OK unverified, that a copy keeps its mark while the record names it as primary, and that a copy
that failed at its activation or lies below a raised floor loses it, is the model's reading (log 36). -/
def Obligations.FirmwareStages : Prop :=
  ∀ (c : CmdRef) (e : Circ) (s s1 : State) (x : Ctx), startOf 0x0F03 stageFamily c e s = some (x, s1) →
    (let p := FwStage.parse x.par
     let h := fwHeader s p.rt (inactive s p.rt)
     let a := copyBase p.rt (inactive s p.rt) + p.offset
     let r := bootNow s
     ∃ t, exec (.supFwstage c e) s = .next t ∧ t.mem.ob = s.mem.ob ∧ t.time = s.time ∧ t.sup.dstate = s.sup.dstate ∧
       (p.op = 4 → endsAs t c stOk (stageReply (inactiveVersion p.rt s) p.rt s) ∧ t.sup = s.sup) ∧
       (p.op ≤ 2 → activation s p.rt = true → t.sup = s.sup ∧ refusedAs t c 0x9A ∧
         (p.op = 0 → ∃ k, cmdOf t c = some k ∧ k.reply = stageReply 0 p.rt t)) ∧
       (p.op = 0 → activation s p.rt = false → e.flashBad = false → readFault s1 x.o e p.src p.len = none →
         Memory.wfOf 0xFF s.sup.flash = true →
         endsAs t c stOk (stageReply p.len p.rt t) ∧ verified t p.rt = false ∧
         memRead 0xFF t.sup.flash a p.len = readBytes s1 x.o p.src p.len ∧
         (∀ b, b < a ∨ a + p.len ≤ b → memGet 0xFF t.sup.flash b = memGet 0xFF s.sup.flash b)) ∧
       (p.op = 1 → activation s p.rt = false → t.sup.flash = s.sup.flash ∧
         (copyOk s p.rt (inactive s p.rt) = true → s.sup.fwFloor.toNat ≤ fwVersion h →
           endsAs t c stOk (stageReply (fwVersion h) p.rt t) ∧ verified t p.rt = true) ∧
         (copyOk s p.rt (inactive s p.rt) = true → fwVersion h < s.sup.fwFloor.toNat → refusedAs t c 0x99 ∧ verified t p.rt = false) ∧
         (copyOk s p.rt (inactive s p.rt) = false →
           endsAs t c stOk (stageReply (fwVersion h) p.rt t) ∧ verified t p.rt = false)) ∧
       (p.op = 2 → activation s p.rt = false → verified s p.rt = false → refusedAs t c 0x98 ∧ t.sup = s.sup) ∧
       (p.op = 2 → p.rt = false → activation s false = false → verified s false = true → e.ack = true → e.flashBad = false →
         endsAs t c stOk (stageReply (inactiveVersion false s) false t) ∧ activation t false = true ∧
         verified t false = verifiedPrim s false ∧ verifiedPrim t false = true ∧
         t.sup.brSlot = !s.sup.brSlot ∧ t.sup.brSeq.toNat = (bootSeq r + 1) % 2 ^ 32) ∧
       (p.op = 2 → p.rt = true → activation s true = false → verified s true = true → e.ack = true → e.flashBad = false →
         Memory.wfOf 0xFF s.sup.flash = true →
         (let joins := formed s = false ∨ (bit h (126 + s.dom.nlDom) = true ∧ ∀ f ∈ s.dom.fmts, bit h (128 + f) = true)
          (atRest s = false ∨ ¬ joins → activation t true = true ∧ verified t true = verifiedPrim s true ∧
            t.sup.brSlot = !s.sup.brSlot ∧ t.sup.rtCopy = s.sup.rtCopy ∧ t.sup.pend = s.sup.pend ++ [⟨c, e⟩] ∧
            ∃ k, cmdOf t c = some k ∧ k.ph = .crossing) ∧
          (atRest s = true → joins → activation t true = false ∧
            (copyOk s true (inactive s true) = true → bootFloor r ≤ fwVersion h →
              endsAs t c stOk (stageReply (fwVersion h) true t) ∧ t.sup.rtCopy = inactive s true ∧ t.sup.fwRt.toNat = fwVersion h ∧
              verified t true = verifiedPrim s true ∧ t.sup.brSlot = !s.sup.brSlot) ∧
            (copyOk s true (inactive s true) = false ∨ fwVersion h < bootFloor r → s.sup.rtCopy = bootRt r →
              refusedAs t c 0x98 ∧ t.sup.rtCopy = s.sup.rtCopy ∧ t.sup.fwRt = s.sup.fwRt ∧ bootRt (bootNow t) = s.sup.rtCopy ∧
              t.sup.brSlot = s.sup.brSlot ∧ t.sup.brSeq.toNat = (bootSeq r + 2) % 2 ^ 32 ∧ verified t true = false)))) ∧
       (p.op = 3 → e.ack = true → e.flashBad = false →
         t.sup.fwFloor = BitVec.ofNat 32 (max (bootFloor r) (min s.sup.setI1.toNat s.sup.setRt.toNat)) ∧
         t.sup.brSlot = !s.sup.brSlot ∧
         (∀ b, (inactiveVersion b t < t.sup.fwFloor.toNat → verified t b = false) ∧
           (fwVersion (fwHeader t b (!inactive t b)) < t.sup.fwFloor.toNat → verifiedPrim t b = false))))

/-- R430 to R432: SUP.ATTEST writes the report of R432 and its HSS signature, under the key of the supervisor's seed at its
next index, to its destination, and replies with that index. The next index is one higher, and the index used lies below the
end that the flash journal reserves, at or past which the supervisor's indices go on after a power loss: an index is never
used again. (The layout of the journal, 8,192 entries of 64 bytes with RESERVED_END in the first four, which the entry number
and the keys at power-up rest on, is the model's choice, log 37.) -/
def Obligations.Attestation : Prop :=
  ∀ (c : CmdRef) (e : Circ) (s s1 : State) (x : Ctx), startOf 0x0F04 attestFamily c e s = some (x, s1) →
    (let d := signer x.par s
     let k := keysOf s d
     let a := fld x.par 47 0
     e.flashBad = false → healthy s1 e → s1.mem.wf = true → cocoonOf s1 x.o = none → spanKs a 5652 = true →
     k.next ≤ k.reservedEnd → k.entry < 8192 → k.reservedEnd ≤ (keysAtPowerUp s d).next → Memory.wfOf 0xFF s.sup.flash = true →
     ∃ t, exec (.supAttest c e) s = .next t ∧ endsAs t c stOk k.next ∧ (keysOf t d).next = k.next + 1 ∧
       k.next < (keysOf t d).reservedEnd ∧ (keysOf t d).reservedEnd ≤ (keysAtPowerUp t d).next ∧ (keysOf t d).entry < 8192 ∧ keysOf t (otherSide d) = keysOf s (otherSide d) ∧
       memRead 0 t.mem.dev a 256 = leBytes 256 (report d x.par s) ∧
       memRead 0 t.mem.dev (a + 256) 5396 =
         beBytes 5396 (hssSign (seedOf s d) k.next 256 (beNat (leBytes 256 (report d x.par s)))) ∧
       (∀ b, b < a ∨ a + 5652 ≤ b → memGet 0 t.mem.dev b = memGet 0 s.mem.dev b) ∧ t.mem.ob = s.mem.ob ∧ t.time = s.time)

/-! ### The time base and its inputs -/

/-- R26: a write of TMB_CTRL, by whichever of its rows. A reserved SOURCE voids it, and it is logged; else SOURCE and PPS_EN
take their fields, and LOAD asks for a load unless SOURCE is 0b01, in which case the request is dropped. The count stays.
R27: where a load may take effect, the count at the next beat boundary reads the loaded value, LOAD clears, and the budget
window is that of the new count; the run, the memories, every register but the count and the queues' commands stay. That the
instants which the model keeps for its commands move with the count is its own reading (log 17). R26: a read of TMB_NOW_LO
answers the low word and latches the high word, so that the two words are one count. -/
def Obligations.TimeControl : Prop :=
  (
    ∀ (s : State) (v : Word), reachable s = true → ∃ t,
      exec (.tmbLoad v) s = .next t ∧ exec (.tmbPpsEnable v) s = .next t ∧ exec (.tmbSourceSelect v) s = .next t ∧
      t.time.now = s.time.now ∧ t.mem = s.mem ∧ t.queues = s.queues ∧ t.sup = s.sup ∧
      (2 ≤ fld v.toNat 3 2 →
        regRead t 0x0F0000030010 = regRead s 0x0F0000030010 ∧ t.regs.errLog = .ignoredWrite 0x0F0000030010 :: s.regs.errLog) ∧
      (fld v.toNat 3 2 < 2 →
        t.regs = s.regs ∧ t.time.source.toNat = fld v.toNat 3 2 ∧ t.time.ppsEn = bit v.toNat 1 ∧
        t.time.loadReq = (fld v.toNat 3 2 == 0 && (s.time.loadReq || bit v.toNat 0)))) ∧
  (
    ∀ s : State, s.time.loadReq = true → mayLoad s = true → s.sup.dstate ≠ .off → ∃ t b,
      b % 1024 = 0 ∧ s.time.now.toNat ≤ b ∧ b < s.time.now.toNat + 1024 ∧
      exec .timeLoadApply s = .next t ∧ t.time.now.toNat = s.time.loadHi.toNat * 2 ^ 32 + s.time.loadLo.toNat ∧
      t.time.loadReq = false ∧ t.sup.run = s.sup.run ∧ t.sup.dstate = s.sup.dstate ∧ t.mem = s.mem ∧ t.regs = s.regs ∧
      t.tgl = { s.tgl with window := t.time.now.toNat / 1000000 } ∧ t.cores = s.cores ∧
      MovedCmds ((t.time.now.toNat : Int) - (b % 2 ^ 64 : Nat)) s t) ∧
  (
    ∀ s : State, reachable s = true → ∃ t v,
      exec .tmbNowLoRead s = .next t ∧ t.regs.resp = some (v, false) ∧ regRead t 0x0F0000030004 = some t.time.nowHi.toNat ∧
      t.time.nowHi.toNat * 2 ^ 32 + v = s.time.now.toNat ∧
      t = { s with time := { s.time with nowHi := t.time.nowHi }, regs := { s.regs with resp := t.regs.resp } })

/-- R26: the loss of TB_REFCLK clears REF_OK and puts an entry into the error log, with a second one where its interrupt
message has no place in the companion window; the clock's return sets REF_OK; the count goes on from where it is, and no
engine state changes. R457: with PPS_EN set and this part free to follow TB_PPS, the first edge records its count; a later
edge within 1 ms of a whole number of seconds sets the slew to the difference, and one farther off is logged and ignored: the
base stays, and so does what is left of the slew after the count has come to the edge. Without an edge for 1.1 s PPS_SEEN
clears (R26). The count itself never jumps. That PPS_SEEN follows every edge, that a formed member that is no master ignores
it, and that a slew is one tick at each multiple of 20,000, is the model's reading (log 17). -/
def Obligations.TimeReferences : Prop :=
  (
    (∀ s : State, s.sup.dstate ≠ .off → s.time.refOk = true → ∃ t,
      exec .refclkLoss s = .next t ∧ t.time = { s.time with refOk := false } ∧ t.power.refclk = false ∧
      t.regs.errLog = (if s.regs.evEn.getLsbD 2 = true ∧ s.regs.irqEn = true ∧ s.link.up = true ∧
        spanWin s.regs.irqAddr.toNat 0x10000 = false then [ErrEvent.irqDropped 2] else []) ++ ErrEvent.refclkLost :: s.regs.errLog ∧
      (tmbStatus t).testBit 0 = false ∧ t.mem.dev = s.mem.dev ∧ t.mem.ob = s.mem.ob ∧ t.queues.qs = s.queues.qs ∧
      t.sup = s.sup ∧ t.cores = s.cores ∧ t.tgl = s.tgl) ∧
    (∀ s : State, s.sup.dstate ≠ .off → s.time.refOk = false → s.power.badRelease = false → s.power.resetN = true → ∃ t,
      exec .refclkRestore s = .next t ∧ t.time = { s.time with refOk := true } ∧ t.power.refclk = true ∧
      (tmbStatus t).testBit 0 = true ∧ t.mem.dev = s.mem.dev ∧ t.mem.ob = s.mem.ob ∧ t.queues.qs = s.queues.qs ∧
      t.sup = s.sup ∧ t.cores = s.cores ∧ t.tgl = s.tgl)) ∧
  (
    (∀ (s : State) (dt : Nat), s.sup.dstate ≠ .off → s.time.ppsEn = true → (formed s && !domMaster s) = false →
      s.time.now.toNat + dt < 2 ^ 64 → ∃ t,
      exec (.ppsEdge dt) s = .next t ∧ t.time.now.toNat = s.time.now.toNat + dt ∧ t.time.ppsSeen = true ∧
      t.mem = s.mem ∧ t.sup = s.sup ∧ t.queues = s.queues ∧
      (s.time.ppsBase = none → t.time.ppsBase = some (s.time.now.toNat + dt) ∧ t.regs = s.regs) ∧
      (∀ c0, s.time.ppsBase = some c0 → t.time.ppsBase = some c0 ∧
        (let d : Int := (c0 : Int) + 1000000000 * (secondsNear (s.time.now.toNat + dt - c0) : Int) - ((s.time.now.toNat + dt : Nat) : Int)
         (-1000000 ≤ d → d ≤ 1000000 → t.time.slew = d ∧ t.regs = s.regs) ∧
         (d < -1000000 ∨ 1000000 < d → t.regs = { s.regs with errLog := .ppsIgnored :: s.regs.errLog } ∧
           t.time.slew = spendSlew ((s.time.now.toNat + dt) / 20000 - s.time.now.toNat / 20000) s.time.slew)))) ∧
    (∀ s : State, exec .ppsLoss s = .next { s with time := { s.time with ppsSeen := false } }))

/-! ### Registers -/

/-- R39, R283, R357 and the register maps: what a write of a word leaves in a writable register, and that a write to a
reserved address is logged and changes no register. That reserved bits of a write are dropped, and that a register whose
effect is pending reads as written, is the model's choice (log 46). -/
def Obligations.RegisterWrites : Prop :=
  ∀ (s : State) (v : Word), reachable s = true → ∃ w : Nat → State,
    (∀ a, a < 2 ^ 48 → exec (.registerWrite (BitVec.ofNat 48 a) v) s = .next (w a)) ∧
    regRead (w 0x0F0000000050) 0x0F0000000050 = some (v.toNat / 2 ^ 16 * 2 ^ 16) ∧
    regRead (w 0x0F0000000054) 0x0F0000000054 = some (v.toNat % 2 ^ 16) ∧
    regRead (w 0x0F0000000058) 0x0F0000000058 = some (v.toNat % 2 ^ 8) ∧
    regRead (w 0x0F0000000040) 0x0F0000000040 = some (v.toNat / 2 ^ 12 * 2 ^ 12) ∧
    regRead (w 0x0F0000000044) 0x0F0000000044 = some v.toNat ∧
    (atRest s = true → s.dom.dstate ≠ 1 → regRead (w 0x0F0000000100) 0x0F0000000100 = some (v.toNat % 2 ^ 22) ∧
      regRead (w 0x0F0000000104) 0x0F0000000104 = some v.toNat) ∧
    regRead (w 0x0F0000030008) 0x0F0000030008 = some (v.toNat / 2 ^ 10 * 2 ^ 10) ∧
    regRead (w 0x0F000003000C) 0x0F000003000C = some v.toNat ∧
    regRead (w 0x0F0000040000) 0x0F0000040000 = some (v.toNat % 2 ^ 10) ∧
    regRead (w 0x0F0000050200) 0x0F0000050200 = some (max 20 (min (v.toNat % 2 ^ 11) 2000) +
      max 15 (min (v.toNat / 2 ^ 16 % 2 ^ 8) 240) * 2 ^ 16 + max 1 (min (v.toNat / 2 ^ 24) 100) * 2 ^ 24) ∧
    regRead (w 0x0F0000050300) 0x0F0000050300 = some (max 1 (min (v.toNat % 2 ^ 16) 60000)) ∧
    (∀ a, a < 2 ^ 48 → (w a).mem = s.mem ∧ (w a).sup = s.sup ∧ (w a).queues = s.queues ∧ (w a).cores = s.cores ∧
      (w a).tgl = s.tgl ∧ (w a).power = s.power ∧ (w a).time.now = s.time.now ∧ (w a).dom = s.dom) ∧
    (∀ a, a < 2 ^ 48 → regRead s a = none → (w a).regs = { s.regs with errLog := .reservedAccess true a :: s.regs.errLog } ∧
      (w a).time = s.time)

/-- Counters that are cleared by ones keep the other bits; every other counter reads as before, and nothing else changes
(R283, R357, R395, R413, R424). R39, R357: an access to a reserved address, one of the register window in another size than a
word or at an unaligned address, or a 32-bit write of the doorbell. A read answers all ones with the error flag, a write is
discarded; either is logged, and nothing else changes. R283: a read of ERR_MEM_LAST_LO answers address bits [31:6] of the
last error and latches its upper bits and its kind. -/
def Obligations.SpecialAccesses : Prop :=
  (
    ∀ (s : State) (a : Nat) (v : Word), reachable s = true →
      a ∈ [0x0F0000000218, 0x0F0000010020, 0x0F0000020014, 0x0F0000020018, 0x0F0000050210, 0x0F0000050214, 0x0F0000050304,
        0x0F0000050308] → ∃ t x,
      exec (.counterClearWrite (BitVec.ofNat 48 a) v) s = .next t ∧ regRead s a = some x ∧
      regRead t a = some ((BitVec.ofNat 32 x &&& ~~~v).toNat) ∧
      (∀ b ∈ [0x0F0000000218, 0x0F0000010020, 0x0F0000020014, 0x0F0000020018, 0x0F0000050210, 0x0F0000050214, 0x0F0000050304,
        0x0F0000050308], b ≠ a → regRead t b = regRead s b) ∧
      t = { s with sup := { s.sup with hbMiss := t.sup.hbMiss }, tgl := { s.tgl with brakes := t.tgl.brakes, holds := t.tgl.holds }
                   regs := { s.regs with badDb := t.regs.badDb, corr := t.regs.corr, uncorr := t.regs.uncorr
                                         timeouts := t.regs.timeouts, slips := t.regs.slips, slipMax := t.regs.slipMax } }) ∧
  (
    ∀ (s : State) (a : BitVec 48) (n : Nat) (v : DWord), reachable s = true →
      ((a.toNat / 2 ^ 40 = 0xF ∧ n ≠ 4 ∧ n ≠ 8) ∨ (a.toNat / 2 ^ 40 = 0xF ∧ n = 8 ∧ a ≠ 0x0F0000010000) ∨
        (a.toNat / 2 ^ 40 = 0xF ∧ n = 4 ∧ (regRead s a.toNat = none ∨ a.toNat % 4 ≠ 0)) ∨
        (a.toNat / 2 ^ 40 ≠ 0xF ∧ 0 < n ∧ inBorug a.toNat = false ∧ inKs a.toNat = false ∧ inWin a.toNat = false ∧
          regRead s a.toNat = none)) →
      exec (.companionReservedAccess false a n v) s = .next { s with regs := { s.regs with
        resp := some (2 ^ (8 * n) - 1, true), errLog := .reservedAccess false a.toNat :: s.regs.errLog } } ∧
      exec (.companionReservedAccess true a n v) s = .next { s with regs := { s.regs with
        errLog := .reservedAccess true a.toNat :: s.regs.errLog } } ∧
      exec (.companionReservedAccess true 0x0F0000010000 4 v) s = .next { s with regs := { s.regs with
        errLog := .reservedAccess true 0x0F0000010000 :: s.regs.errLog } }) ∧
  (
    ∀ s : State, reachable s = true → ∃ t v,
      exec .errMemLastLoRead s = .next t ∧ t.regs.resp = some (v, false) ∧
      regRead t 0x0F000005021C = some t.regs.lastHi.toNat ∧
      v + t.regs.lastHi.toNat % 2 ^ 16 * 2 ^ 32 = s.regs.lastAddr.toNat ∧
      t.regs.lastHi.toNat / 2 ^ 16 = s.regs.lastKind.toNat ∧
      t = { s with regs := { s.regs with lastHi := t.regs.lastHi, resp := t.regs.resp } })

/-- R358: in READY, with the control queue closed and the queue table inside the Borug range, a write of SUP_CQ_CFG with OPEN
and RING_LOG2 in 4 to 16 opens the control queue: class LC, NL3, generation 3, counts 0 (R334, R335). R358: the four ring
addresses of the control queue are written in READY while the queue is closed, a 4 KiB boundary in the low words; otherwise
the write is ignored as a whole and logged. That bits [11:0] of a low word are dropped is the model's choice (log 46). R358:
a half of QTB_BASE is stored as written in READY while every queue is closed, a 64 MiB boundary in the low word (the bits
below are dropped, log 46); otherwise the write is ignored and logged. -/
def Obligations.ControlQueue : Prop :=
  (
    ∀ (s : State) (v : Word), reachable s = true → s.sup.dstate = .ready → cqOpen s = false →
      spanBorug s.regs.qtbBase.toNat 0x4000000 = true → 4 ≤ fld v.toNat 4 0 → fld v.toNat 4 0 ≤ 16 → bit v.toNat 5 = true →
      ∃ t, exec (.controlQueueOpen v) s = .next t ∧ exec (.controlRingConfigWrite 0x20 v) s = .next t ∧
        (let q := queueOf t 0
         q.state = .opened ∧ q.lc = true ∧ q.nl = 3 ∧ q.gen = 3 ∧ q.job = 0 ∧ q.log2 = fld v.toNat 4 0 ∧ q.irqEn = bit v.toNat 6 ∧
         q.cmdAddr = s.regs.cqCmd.toNat ∧ q.cplAddr = s.regs.cqCpl.toNat ∧ q.fetched = 0 ∧ q.written = 0 ∧ q.tail = 0 ∧
         q.cplHead = 0 ∧ q.cmds = []) ∧
        (∀ n, n ≠ 0 → queueOf t n = queueOf s n) ∧ t.mem = s.mem ∧ t.sup = s.sup ∧ t.time = s.time ∧ t.cores = s.cores) ∧
  (
    ∀ (s : State) (v : Word), reachable s = true →
      (s.sup.dstate = .ready → cqOpen s = false → ∃ w : BitVec 16 → State,
        (∀ o, o ∈ [0x10#16, 0x14#16, 0x18#16, 0x1C#16] → exec (.controlRingConfigWrite o v) s = .next (w o) ∧
          w o = { s with regs := { s.regs with cqCmd := (w o).regs.cqCmd, cqCpl := (w o).regs.cqCpl } }) ∧
        regRead (w 0x10) 0x0F0000000010 = some (v.toNat / 2 ^ 12 * 2 ^ 12) ∧
        regRead (w 0x14) 0x0F0000000014 = some (v.toNat % 2 ^ 16) ∧
        regRead (w 0x18) 0x0F0000000018 = some (v.toNat / 2 ^ 12 * 2 ^ 12) ∧
        regRead (w 0x1C) 0x0F000000001C = some (v.toNat % 2 ^ 16)) ∧
      (s.sup.dstate ≠ .ready ∨ cqOpen s = true → ∀ o, o ∈ [0x10#16, 0x14#16, 0x18#16, 0x1C#16] →
        exec (.controlRingConfigWrite o v) s =
          .next { s with regs := { s.regs with errLog := .ignoredWrite (0x0F0000000000 + o.toNat) :: s.regs.errLog } })) ∧
  (
    ∀ (s : State) (hi : Bool) (v : Word), reachable s = true →
      (s.sup.dstate = .ready → allClosed s = true → ∃ t, exec (.qtbBaseWrite hi v) s = .next t ∧
        t = { s with regs := { s.regs with qtbBase := t.regs.qtbBase } } ∧
        (if hi then regRead t 0x0F0000010014 = some (v.toNat % 2 ^ 16) ∧ regRead t 0x0F0000010010 = regRead s 0x0F0000010010
         else regRead t 0x0F0000010010 = some (v.toNat / 2 ^ 26 * 2 ^ 26) ∧ regRead t 0x0F0000010014 = regRead s 0x0F0000010014)) ∧
      (s.sup.dstate ≠ .ready ∨ allClosed s = false →
        exec (.qtbBaseWrite hi v) s = .next { s with regs := { s.regs with
          errLog := .ignoredWrite (if hi then 0x0F0000010014 else 0x0F0000010010) :: s.regs.errLog } }))

/-! ### Queues -/

/-- R338: a doorbell that passes its test moves TAIL or CPL_HEAD of its queue and nothing else; one that fails is counted in
QTB_BAD_DB with its queue in QTB_BAD_QID and changes nothing else. The stores that a command doorbell's row carries are the
companion's own (log 4). The stores of a command doorbell's row reach companion memory, whether or not the part hears the
doorbell (log 4). R360: a queue's held message is sent at the end of its interval, as one message for its vector and queue,
and none is due then. R354: a DRAINING queue whose announced commands all have their records written closes; nothing else
changes. -/
def Obligations.DoorbellsAndQueueEvents : Prop :=
  (
    ∀ (s : State) (v : DWord), reachable s = true →
      (let qid := fld v.toNat 19 0
       let n := fld v.toNat 63 32
       let q := queueOf s qid
       exec (.completionDoorbell v) s = exec (.commandDoorbell [] v) s ∧
       ((bit v.toNat 20 = false ∧ (q.state = .opened ∨ q.state = .paused) ∧ diff32 n q.fetched ≤ 2 ^ q.log2 ∧
           diff32 n q.tail.toNat ≤ 2 ^ q.log2 →
         ∃ t, exec (.commandDoorbell [] v) s = .next t ∧ queueOf t qid = { q with tail := BitVec.ofNat 32 n } ∧
           (∀ m, m ≠ qid → queueOf t m = queueOf s m) ∧ t = { s with queues := { s.queues with qs := t.queues.qs } }) ∧
        (bit v.toNat 20 = true ∧ q.state ≠ .closed ∧ diff32 n q.cplHead.toNat ≤ diff32 q.written q.cplHead.toNat →
         ∃ t, exec (.completionDoorbell v) s = .next t ∧ queueOf t qid = { q with cplHead := BitVec.ofNat 32 n } ∧
           (∀ m, m ≠ qid → queueOf t m = queueOf s m) ∧ t = { s with queues := { s.queues with qs := t.queues.qs } }) ∧
        ((bit v.toNat 20 = false ∧ (q.state = .closed ∨ q.state = .draining ∨ 2 ^ q.log2 < diff32 n q.fetched ∨
            2 ^ q.log2 < diff32 n q.tail.toNat)) ∨
          (bit v.toNat 20 = true ∧ (q.state = .closed ∨ diff32 q.written q.cplHead.toNat < diff32 n q.cplHead.toNat)) →
         exec (.commandDoorbell [] v) s = .next { s with regs := { s.regs with
           badDb := BitVec.ofNat 32 (min (2 ^ 32 - 1) (s.regs.badDb.toNat + 1)), badQid := BitVec.ofNat 20 qid } })))) ∧
  (
    ∀ (s : State) (l : List (Nat × Byte)) (v : DWord), ∃ t, exec (.commandDoorbell l v) s = .next t ∧
      t.mem = { s.mem with comp := l.foldl (fun m x => memSet 0 m (x.1 % 2 ^ 64) x.2) s.mem.comp } ∧
      t.sup = s.sup ∧ t.time = s.time ∧ t.cores = s.cores ∧ t.img = s.img) ∧
  (
    ∀ (s : State) (qid : BitVec 20) (m : Int),
      (let q := queueOf s qid.toNat
       let at1 := (m + 1000 * (q.irqMod : Int)).toNat
       q.irqDue = true → q.lastMsg = some m → s.regs.irqEn = true → s.link.up = true → s.sup.dstate ≠ .off → s.mem.wf = true →
       spanWin s.regs.irqAddr.toNat 0x10000 = true → s.time.now.toNat ≤ at1 → at1 < 2 ^ 64 →
       ∃ t, exec (.irqModerationExpiry qid) s = .next t ∧ t.time.now.toNat = at1 ∧
         (queueOf t qid.toNat) = { q with irqDue := false, lastMsg := some (at1 : Int) } ∧
         memRead 0 t.mem.comp (compAddr s (s.regs.irqAddr.toNat + 16 * q.irqVec)) 16 =
           leBytes 8 (q.irqVec + qid.toNat <<< 16) ++ leBytes 8 at1 ∧
         t.mem.dev = s.mem.dev ∧ t.mem.ob = s.mem.ob ∧ t.sup = s.sup ∧ t.regs = s.regs)) ∧
  (
    ∀ (s : State) (qid : BitVec 20), (queueOf s qid.toNat).state = .draining → (queueOf s qid.toNat).idle = true →
      ∃ t, exec (.queueDrainComplete qid) s = .next t ∧ queueOf t qid.toNat = { queueOf s qid.toNat with state := .closed } ∧
        (∀ n, n ≠ qid.toNat → queueOf t n = queueOf s n) ∧ t = { s with queues := { s.queues with qs := t.queues.qs } })

/-- R339 to R344, R348: the device fetches the slot that HEAD names. The command joins its queue with the header and
parameters that stand there. With stage 1 passed it waits, with the commands its tags name as its dependencies; otherwise it
is done, with the status of the first check it fails: with ST_BAD_OPCODE where its GEN is the queue's and its opcode is none
of R348's table. -/
def Obligations.SlotFetch : Prop :=
  ∀ (s : State) (qid : BitVec 20),
    (let q := queueOf s qid.toNat
     let a := q.cmdAddr + 1024 * (q.fetched % 2 ^ q.log2)
     let h := compNat s a 64
     let par := compNat s (a + 64) (64 * hPlen h)
     let st := stage1 q.gen q.nl false (headerPasses qid.toNat q h && hdrFieldsOk q.gen h &&
       (depsNamed q q.fetched h).all Option.isSome) h par s
     reachable s = true → q.state ≠ .closed → ringsOk q = true → q.fetched % 2 ^ 32 ≠ q.tail.toNat →
     (∀ k ∈ q.cmds, k.idx < q.fetched) →
     ∃ t k, exec (.slotFetch qid) s = .next t ∧ cmdOf t ⟨.hw qid, q.fetched⟩ = some k ∧ k.hdr = h ∧ k.par = par ∧
       (queueOf t qid.toNat).fetched = q.fetched + 1 ∧
       (st = 0 → k.ph = .waiting ∧ k.deps.map some = depsNamed q q.fetched h ∧ t.mem = s.mem ∧ t.sup = s.sup ∧ t.regs = s.regs) ∧
       (st ≠ 0 → k.ph = .done ∧ k.status = st) ∧
       (hGen h = q.gen → hOpcode h ∉ [0x0101, 0x0102, 0x0103, 0x0104, 0x0201, 0x0202, 0x0203, 0x0301, 0x0302, 0x0303, 0x0304,
           0x0401, 0x0402, 0x0403, 0x0404, 0x0501, 0x0502, 0x0601, 0x0602, 0x0701, 0x0702, 0x0703, 0x0704, 0x0801, 0x0802,
           0x0803, 0x0901, 0x0902, 0x0903, 0x0A01, 0x0A02, 0x0B01, 0x0B02, 0x0B03, 0x0C01, 0x0C02, 0x0E01, 0x0E02, 0x0F01,
           0x0F02, 0x0F03, 0x0F04, 0x0F05] → k.ph = .done ∧ k.status = stBadOpcode) ∧
       t.mem.dev = s.mem.dev ∧ t.mem.ob = s.mem.ob ∧ t.time = s.time)

/-- R345, R346, R359, R360: a completion record that waits for no record of a dependency is written to the slot of the
completion ring that CPL_COUNT names, with PHASE 1 in the first pass over the ring, and waits no longer; CPL_COUNT rises by
one. With IRQ = 0, or with messages not enabled (EN; IRQ_EN of the queue; for the control queue IRQ_EN of SUP_CQ_CFG and
EV_EN bit 7), nothing else changes. With IRQ = 1 a message within IRQ_MOD_US of the queue's last one becomes due at the end
of that interval; any other, and each of the control queue, which has no interval, stands in its vector's slot with the count
of that moment, or is logged as dropped where the slots lie outside the window. No other byte of companion memory, no device
memory and no operand buffer changes. -/
def Obligations.RecordWrite : Prop :=
  ∀ (s : State) (qid : BitVec 20) (c : CmdRef) (l m : List Rec) (r : Rec),
    (let q := queueOf s qid.toNat
     let a := compAddr s (q.cplAddr + 32 * (q.written % 2 ^ q.log2))
     let bits := leBytes 32 (recordBits r (1 - q.written / 2 ^ q.log2 % 2))
     let q1 := { q with recs := l ++ m, written := q.written + 1 }
     let now : Int := s.time.now.toNat
     let ctl : Bool := decide (qid.toNat = 0)
     let vec := if ctl = true then 6 else q.irqVec
     let slot := compAddr s (s.regs.irqAddr.toNat + 16 * vec)
     let on := r.irq = true ∧ s.regs.irqEn = true ∧
       (if ctl = true then s.regs.cqIrqEn = true ∧ s.regs.evEn.getLsbD 6 = true else q.irqEn = true)
     let soon := ctl = false ∧ ∃ t0, q.lastMsg = some t0 ∧ now < t0 + 1000 * (q.irqMod : Int)
     splitRec c q.recs = some (l, r, m) → reachable s = true → ringsOk q = true → s.mem.wf = true →
     diff32 q.written q.cplHead.toNat < 2 ^ q.log2 → (l.any fun x => r.after.contains x.c) = false →
     r.waits.all (recorded s m) = true →
     ∃ t, exec (.completionRecordWrite qid c) s = .next t ∧
       (¬ on ∨ soon → memRead 0 t.mem.comp a 32 = bits ∧
         (∀ b, b < a ∨ a + 32 ≤ b → memGet 0 t.mem.comp b = memGet 0 s.mem.comp b) ∧ t.regs = s.regs) ∧
       (¬ on → queueOf t qid.toNat = q1) ∧ (on → soon → queueOf t qid.toNat = { q1 with irqDue := true }) ∧
       (on → ¬ soon → queueOf t qid.toNat = (if ctl = true then q1 else { q1 with lastMsg := some now }) ∧
         (spanWin s.regs.irqAddr.toNat 0x10000 = true → t.regs = s.regs ∧
           memRead 0 t.mem.comp slot 16 = leBytes 8 (vec + (if ctl = true then 0 else qid.toNat) <<< 16) ++ leBytes 8 s.time.now.toNat ∧
           (slot + 16 ≤ a ∨ a + 32 ≤ slot → memRead 0 t.mem.comp a 32 = bits) ∧
           (∀ b, b < a ∨ a + 32 ≤ b → b < slot ∨ slot + 16 ≤ b → memGet 0 t.mem.comp b = memGet 0 s.mem.comp b)) ∧
         (spanWin s.regs.irqAddr.toNat 0x10000 = false → memRead 0 t.mem.comp a 32 = bits ∧
           (∀ b, b < a ∨ a + 32 ≤ b → memGet 0 t.mem.comp b = memGet 0 s.mem.comp b) ∧
           t.regs = { s.regs with errLog := .irqDropped vec :: s.regs.errLog })) ∧
       (∀ n, n ≠ qid.toNat → queueOf t n = queueOf s n) ∧ t.mem.dev = s.mem.dev ∧ t.mem.ob = s.mem.ob ∧ t.sup = s.sup ∧
       t.time = s.time)

/-- R345: a command that waits and depends on one that failed completes with ST_REFUSED_DEP and the root of the chain of
failures as its reply, whatever its opcode but SYN.SIGNAL (R349, R350) and MED.ENC (R317), in every state but FAULTED, and
writes no device memory and no operand buffer. -/
def Obligations.FailedDependency : Prop :=
  ∀ (i : Instr) (op : Nat) (f : Family) (c : CmdRef) (e : Circ) (s : State) (k : Cmd) (root : Nat),
    queueRow i = some (op, f, c, e) → op ≠ 0x0801 → cmdOf s c = some k → k.entered = true → hOpcode k.hdr = op →
    k.ph = .waiting → depsOf s c k = .fail root → s.sup.dstate ≠ .faulted → rowsIn op c e s = true →
    s.img.run.map (·.c) ≠ some c →
      ∃ t k', exec i s = .next t ∧ cmdOf t c = some k' ∧ k'.ph = .done ∧ k'.status = stRefusedDep ∧ k'.reply = root ∧
        t.mem.dev = s.mem.dev ∧ t.mem.ob = s.mem.ob ∧ t.mem.poison = s.mem.poison ∧ t.cocoons = s.cocoons ∧ t.luna = s.luna

/-- R12, R371, R399: placement gives a task of a hardware queue only a core that is enabled and not marked for retirement,
and a spare of the redundancy level only to a task that runs again. R371: a best-effort command that has no core in its
quadrant after 100 µs may go to the other quadrants. R87, R122, R373: a best-effort command yields at the end of an array
tile, of 16 positions or of its quantum when a latency-critical one is ready for its engine: it is yielded there with what it
has completed written, and no other queue, no count of time and no grant changes. It goes on behind that point when nothing
takes the engine and, a best-effort one, when no latency-critical command is ready for it (R364); the engine is zeroed first
of what another job left in it (R365). That a command of an expansion engine or a move goes on beside another best-effort one
there is the model's choice (log 56). -/
def Obligations.PlacementAndYielding : Prop :=
  (
    ∀ (f : Family) (x : Ctx) (s : State) (p : Nat) (qid : BitVec 20), x.c.q = .hw qid → place f x s = some p →
      s.cores.marked.contains p = false ∧
        ((∃ d c, p = 13 * d + c ∧ c ∈ s.cores.usable.getD d [] ∧ p ∈ placeable s d) ∨
          (∃ a, x.task.bind (·.avoid) = some a ∧ p ∈ sparesOf s (a / 13)))) ∧
  (
    (∀ (s : State) (c : CmdRef) (k : Cmd) (f : Family) (t : Task) (qid : BitVec 20), cmdOf s c = some k → c.q = .hw qid →
      k.ph = .waiting → familyOf (hOpcode k.hdr) = some f → f.core k.par = true → (mkCtx s c {} k).task = some t →
      (getQ s c.q).lc = false → t.core = none → place f (mkCtx s c {} k) s = none →
      ∃ u t', exec (.bePlacementTimeout c) s = .next u ∧ taskOf u c.q k.task = some t' ∧ t'.roam = true ∧
        SameCmds s u ∧ u = { s with queues := { s.queues with qs := u.queues.qs } }) ∧
    (∀ (s s1 : State) (c : CmdRef) (k : Cmd) (f : Family) (p tile : Nat), cmdOf s c = some k → k.ph = .running p → p ≤ tile →
      canYield (hOpcode k.hdr) = true → lcOf s c k = false → familyOf (hOpcode k.hdr) = some f →
      lcReady (modCmd c (fun j => { j with ph := .yielded tile, hasYielded := true }) s) (engineOf s c k) = true →
      f.yieldAt tile (mkCtx s c {} k) s = some s1 →
      ∃ u, exec (.beYield c tile) s = .next u ∧ (∃ ps, cmdOf u c = some { k with ph := .yielded tile, hasYielded := true, kept := ps }) ∧
        u.mem = s1.mem ∧ u.cores = s1.cores ∧ (∀ r, r ≠ c.q → getQ u r = getQ s r) ∧ u.time = s.time ∧ u.tgl = s.tgl) ∧
    (∀ (s : State) (c : CmdRef) (k : Cmd) (tile : Nat), cmdOf s c = some k → k.ph = .yielded tile →
      (∀ y ∈ allQueues s, ∀ j ∈ y.2.cmds, (⟨y.1, j.idx⟩ : CmdRef) ≠ c → (∃ n, j.ph = .running n) → canYield (hOpcode j.hdr) = true →
        engineOf s ⟨y.1, j.idx⟩ j = engineOf s c k → lcOf s ⟨y.1, j.idx⟩ j = false ∧ 2 ≤ (engineOf s c k).1) →
      lcOf s c k = true ∨ lcReady s (engineOf s c k) = false →
      ∃ u, exec (.beResume c) s = .next u ∧ cmdOf u c = some { k with ph := .running (tile + 1) } ∧
        (∀ r, r ≠ c.q → getQ u r = getQ s r) ∧ u.mem = s.mem ∧ u.regs = s.regs ∧ u.sup = s.sup ∧
        u.cores = { s.cores with arrays := u.cores.arrays, vregs := u.cores.vregs, stores := u.cores.stores } ∧
        (let x := mkCtx s c {} k
         let core := x.task.bind (·.core)
         (∀ y, y ∈ u.cores.arrays ↔ y ∈ s.cores.arrays ∧ (isMatrix (hOpcode k.hdr) = true → some y.1 = core → y.2.1 = x.job)) ∧
         (∀ y, y ∈ u.cores.vregs ↔ y ∈ s.cores.vregs ∧ (some y.1.1 = core → some y.1.2 = k.thread → y.2.1 = x.job)) ∧
         (∀ y, y ∈ u.cores.stores ↔ y ∈ s.cores.stores ∧ (some y.1 = k.die → y.2.1 = x.job)))))

/-! ### The Tollgate -/

/-- R384 to R387: the command's next quantum, of predicted energy e, is granted when G_w + e lies within its class's bound,
no HOLD stands (R388) and its compute die's share allows it (R390). It counts in G_w, in L_w for LC work, and on its die, and
the command holds a grant; a quantum that is not granted waits for the next window. A row that names no quantum which the
command has left is inert. Nothing but the window's account and what the command has left to be granted changes; in progress,
it stays where it is while it has no grant and quanta are left. That a command's work is all done with its last quantum is
the model's (log 48). R5, R387: no grant takes the window's energy over its dynamic budget, whether the quantum is offered by
its command or again in the next window. -/
def Obligations.QuantumGrants : Prop :=
  (
    (∀ (s : State) (c : CmdRef) (q : Cmd) (k : EClass) (units : Nat) (hops : Route) (first : Bool) (die : Fin 25) (l : List Charge),
      (let lc := lcOf s c q
       let e := quantumEnergy s k units hops.val first (guardNow s k)
       let r := reservation s - s.tgl.grantedLc
       let s' := modCmd c (Cmd.offered (chargesOf c q s) l k) s
       tollgateOn s = true → cmdOf s c = some q → q.entered = true → q.ph ≠ .done →
       nextQuantum c q k units hops.val first die.val s = some l →
       ((s.tgl.hold = false → (die.val < 16 → s.tgl.dieGrant.getD die.val 0 + e ≤ dieCap s die.val) →
         (if lc = true then s.tgl.granted + e ≤ budget s
          else (die.val < 16 → isHot s die.val = false) ∧ s.tgl.granted + e ≤
            (if windowLeft s ≤ s.tgl.releaseUs * 1000 then budget s else budget s - r)) →
         ∃ t, exec (.quantumGrant c k units hops first die) s = .next t ∧ t.tgl.granted = s.tgl.granted + e ∧
           t.tgl.grantedLc = s.tgl.grantedLc + (if lc = true then e else 0) ∧ granted t c = true ∧
           t.tgl.dieGrant = (if die.val < 16 then s.tgl.dieGrant.set die.val (s.tgl.dieGrant.getD die.val 0 + e) else s.tgl.dieGrant) ∧
           t.tgl.limit = s.tgl.limit ∧ t.tgl.factors = s.tgl.factors ∧ t.tgl.counts = s.tgl.counts ∧ t.tgl.waiting = s.tgl.waiting ∧
           t = { s' with tgl := t.tgl }) ∧
        (s.tgl.hold = true ∨ budget s < s.tgl.granted + e →
         exec (.quantumGrant c k units hops first die) s = .next { s' with tgl := { s.tgl with
           waiting := s.tgl.waiting ++ [⟨c, k, units, hops.val, first, die.val⟩] } })))) ∧
    (∀ (s : State) (c : CmdRef) (q : Cmd) (k : EClass) (units : Nat) (hops : Route) (first : Bool) (die : Fin 25),
      cmdOf s c = some q → nextQuantum c q k units hops.val first die.val s = none →
      exec (.quantumGrant c k units hops first die) s = .next s) ∧
    (∀ (i : Instr) (op : Nat) (f : Family) (c : CmdRef) (e : Circ) (s : State) (k : Cmd) (p : Nat),
      queueRow i = some (op, f, c, e) → op ∉ rowOps → cmdOf s c = some k → k.ph = .running p → granted s c = false →
      paidUp s c = false → e.gone = [] → s.img.run.map (·.c) ≠ some c → exec i s = .next s)) ∧
  (
    (∀ (s t : State) (c : CmdRef) (k : EClass) (units : Nat) (hops : Route) (first : Bool) (die : Fin 25),
      s.tgl.granted ≤ budget s → exec (.quantumGrant c k units hops first die) s = .next t →
      t.tgl.granted ≤ budget t ∧ budget t = budget s) ∧
    (∀ (s t : State) (dies : List (Nat × Nat)) (p : BitVec 12), s.tgl.granted ≤ budget s →
      exec (.budgetWindowEnd dies p) s = .next t → t.tgl.granted ≤ budget t))

/-- R386, R387, R389, R394, R395: at the end of a budget window a new account begins, the settings that wait come into force,
every learned factor lies between 512 and 2,048 where it did so before, TGL_WIN shows power, LC share and highest current of
the window that ended, and the quanta that wait are offered again: each is granted or waits on, and one that waits alone is
granted where it fits. P_BASE, measured in a window without grants, lies in the range of R5 (the bounds are the model's, log
48). R389: the update of a factor as the rule writes it, in the exact arithmetic of the ratio r_d = (m) / (e) and the share
s_c = c / e: the floor of f (8,192 + (r_d - 1) s_c 1,024) / 8,192, held between 512 and 2,048. -/
def Obligations.BudgetWindowEnds : Prop :=
  (
    ∀ (s : State) (dies : List (Nat × Nat)) (p : BitVec 12), s.sup.dstate ≠ .off → s.sup.dstate ≠ .instar →
      s.time.now.toNat ≤ (s.tgl.window + 1) * 1000000 → (s.tgl.window + 1) * 1000000 < 2 ^ 64 →
      (∀ x ∈ s.tgl.factors, 512 ≤ x ∧ x ≤ 2048) →
      ∃ t, exec (.budgetWindowEnd dies p) s = .next t ∧ t.time.now.toNat = (s.tgl.window + 1) * 1000000 ∧
        t.tgl.window = s.tgl.window + 1 ∧ t.tgl.hold = false ∧ t.tgl.measured = 0 ∧
        t.tgl.limit = s.tgl.limitSet ∧ t.tgl.lcPct = s.tgl.lcPctSet ∧ t.tgl.releaseUs = s.tgl.releaseSet ∧
        t.tgl.brakeA = s.tgl.brakeSet ∧ t.tgl.pBase = (if s.tgl.granted = 0 then max 560 (min p.toNat 720) else s.tgl.pBase) ∧
        regRead t 0x0F0000020010 = some (min 4095 (s.tgl.measured / 1000000) +
          (if s.tgl.granted = 0 then 0 else 100 * s.tgl.grantedLc / s.tgl.granted) <<< 12 + min 255 (s.tgl.peakNow / 10) <<< 19) ∧
        (∀ x ∈ t.tgl.factors, 512 ≤ x ∧ x ≤ 2048) ∧
        (s.tgl.waiting = [] → t.tgl.granted = 0 ∧ t.tgl.grantedLc = 0 ∧ t.tgl.dieGrant = List.replicate 16 0 ∧
          t.tgl.waiting = [] ∧ t.tgl.openE = s.tgl.openE) ∧
        (∀ o ∈ s.tgl.waiting, (∃ k, cmdOf s o.c = some k ∧ k.ph ≠ .done) → granted t o.c = true ∨ o ∈ t.tgl.waiting) ∧
        (∀ (o : Offer) (k : Cmd), s.tgl.waiting = [o] → cmdOf s o.c = some k → k.ph ≠ .done →
          (let e := quantumEnergy t o.k o.units o.hops o.first (guardNow t o.k)
           (o.die < 16 → e ≤ dieCap t o.die) →
           (if lcOf s o.c k = true then e ≤ budget t
            else (o.die < 16 → isHot t o.die = false) ∧
              e ≤ (if windowLeft t ≤ t.tgl.releaseUs * 1000 then budget t else budget t - reservation t)) →
           granted t o.c = true ∧ t.tgl.granted = e ∧ t.tgl.waiting = [])) ∧
        t = { s with time := t.time, tgl := t.tgl }) ∧
  (
    ∀ (m e c f : Nat), 0 < e → c ≤ e →
      (learn m e c f : Int) = max 512 (min 2048 (Int.floor ((f : ℚ) * (8192 + ((m : ℚ) / e - 1) * ((c : ℚ) / e) * 1024) / 8192))))

/-- R388, R391: a sample adds the energy of 1 µs, shows in TGL_VIN, and sets HOLD, counting the window once, when E_m +
P_BASE t_rem + 2 E_open reaches LIMIT_W times 1 ms. R391: after more than 100 µs above BRAKE_A the brake engages, which
TGL_STATUS shows, TGL_BRAKES counts and STATUS reports; after 100 intervals that do not hold it disengages. Grants, queues
and device memory stay. -/
def Obligations.PowerAndBrake : Prop :=
  (
    ∀ (s : State) (v i : BitVec 13), s.sup.dstate ≠ .off → s.sup.dstate ≠ .instar → s.time.now.toNat + 1000 < 2 ^ 64 →
      ∃ t, exec (.powerSample v i) s = .next t ∧ regRead t 0x0F000002001C = some (v.toNat + i.toNat <<< 13) ∧
        t.tgl.measured = s.tgl.measured + v.toNat * i.toNat ∧ s.time.now.toNat < t.time.now.toNat ∧
        t.time.now.toNat % 1000 = 0 ∧ t.tgl.granted = s.tgl.granted ∧
        (s.tgl.hold = true → t.tgl.hold = true ∧ t.tgl.holds = s.tgl.holds) ∧
        (s.tgl.hold = false →
          (t.tgl.hold = true ↔ s.tgl.limit * 1000000 ≤ t.tgl.measured + s.tgl.pBase * windowLeft t + 2 * openEnergy s) ∧
          t.tgl.holds = (if t.tgl.hold = true then BitVec.ofNat 32 (min (2 ^ 32 - 1) (s.tgl.holds.toNat + 1)) else s.tgl.holds)) ∧
        t = { s with time := t.time, tgl := t.tgl, power := t.power }) ∧
  (
    (∀ s : State, s.sup.dstate ≠ .off → s.sup.dstate ≠ .instar → s.tgl.brake = false → 100 < s.tgl.overUs →
      ∃ t, exec .brakeEngage s = .next t ∧ (tglStatus t).testBit 2 = true ∧ (statusByte t).testBit 1 = true ∧
        t.tgl = { s.tgl with brake := true, relaxUs := 0, brakes := BitVec.ofNat 32 (min (2 ^ 32 - 1) (s.tgl.brakes.toNat + 1)) } ∧
        t.mem.dev = s.mem.dev ∧ t.queues.qs = s.queues.qs ∧ t.sup = s.sup ∧ t.time = s.time) ∧
    (∀ s : State, s.tgl.brake = true → 100 ≤ s.tgl.relaxUs →
      ∃ t, exec .brakeDisengage s = .next t ∧ (tglStatus t).testBit 2 = false ∧ (statusByte t).testBit 1 = false ∧
        t.tgl = { s.tgl with brake := false, arrayHeld := false } ∧ t = { s with tgl := t.tgl, power := t.power }))

/-- R390: the thermal fraction of a compute die falls from 128 at T_LO to 16 at T_HI in steps of the formula, and never
leaves these bounds; it falls as the temperature rises. R390, R464: a read of the sensors sets T_d, the highest of a die's
sensors, and θ_d of every compute die, and counts each sensor's consecutive reads at 110 °C; 10 ms after READY the limits
rise to 95 °C and 102 °C, and θ_d with them; three reads in a row of one sensor at 110 °C trip the switch: OFF, cause 4,
latched, with THERM_TRIP_N asserted. -/
def Obligations.Temperatures : Prop :=
  (
    ∀ tLo tHi t u : Nat, tLo < tHi →
      (t ≤ 4 * tLo → theta tLo tHi t = 128) ∧ (4 * tHi ≤ t → theta tLo tHi t = 16) ∧
      (4 * tLo < t → t < 4 * tHi → theta tLo tHi t = 128 - 112 * (t - 4 * tLo) / (4 * tHi - 4 * tLo)) ∧
      16 ≤ theta tLo tHi t ∧ theta tLo tHi t ≤ 128 ∧ (t ≤ u → theta tLo tHi u ≤ theta tLo tHi t)) ∧
  (
    (∀ (s : State) (temps : List (List (BitVec 12))) (d : Nat), s.sup.dstate ≠ .off → d < 16 →
      (let m := ((temps.getD d []).map BitVec.toNat).foldl max 0
      ∃ t, exec (.thermalSensorRead temps) s = .next t ∧ t.tgl.dieTemp.getD d 0 = m ∧
        t.tgl.dieTheta.getD d 128 = theta s.tgl.tLo s.tgl.tHi m ∧
        (∀ (i : Nat) (x : BitVec 12), (temps.getD d [])[i]? = some x →
          (t.tgl.trips.getD d [])[i]? = some (if 440 ≤ x.toNat then (s.tgl.trips.getD d []).getD i 0 + 1 else 0)) ∧
        t.tgl.granted = s.tgl.granted ∧ t = { s with time := t.time, tgl := t.tgl, power := t.power })) ∧
    (∀ s : State, s.sup.dstate ≠ .off → s.sup.dstate ≠ .instar → s.tgl.therm = true →
      ∃ t, exec .thermalLimitRelax s = .next t ∧ t.tgl = { s.tgl with therm := false, tLo := 95, tHi := 102, dieTheta := t.tgl.dieTheta } ∧
        (∀ d, d < 16 → t.tgl.dieTheta.getD d 128 = theta 95 102 (s.tgl.dieTemp.getD d 0)) ∧
        regRead t 0x0F0000020020 = some (95 + 102 <<< 8 + 300 <<< 16) ∧ t = { s with time := t.time, tgl := t.tgl, power := t.power }) ∧
    (∀ (s : State) (d i : Nat), s.power.switchClosed = true ∨ s.power.precharging = true → 3 ≤ (s.tgl.trips.getD d []).getD i 0 →
      ∃ t, exec .thermalTrip s = .next t ∧ OffBy s t 4 ∧ t.power.latched = true ∧ thermTripAsserted t = true))

/-! ### Runs, crossings and images -/

/-- R30, R441: RUN_MS after its start a queue-fed run ends: the device is DRAINING, no run is in progress, the crossing
begins at that instant. No command starts or ends by it, and memories, banks and Cocoons stay. R170: a service run ends at a
beat boundary once its scrubs have ended and the stream ports are free; the device is DRAINING. -/
def Obligations.RunsEnd : Prop :=
  (
    ∀ (s : State) (r : Run), s.sup.run = some r → s.sup.dstate = .running → r.kind = .queueFed → r.ms ≠ 0 →
      s.time.now.toNat ≤ r.start + r.ms * 1000000 → r.start + r.ms * 1000000 < 2 ^ 64 →
      ∃ t, exec .runMsExpiry s = .next t ∧ t.sup.dstate = .draining ∧ t.sup.run = none ∧
        t.sup.cross = some { began := ((r.start + r.ms * 1000000 : Nat) : Int) } ∧
        t.time.now.toNat = r.start + r.ms * 1000000 ∧ SameCmds s t ∧ t.mem.dev = s.mem.dev ∧ t.mem.ob = s.mem.ob ∧
        t.cores = s.cores ∧ t.cocoons = s.cocoons) ∧
  (
    ∀ (s : State) (r : Run), s.sup.run = some r → r.kind = .service → s.sup.dstate = .running → s.mem.scrubs = [] →
      s.time.now.toNat + 1024 < 2 ^ 64 →
      ∃ t, exec .serviceRunEnd s = .next t ∧ t.sup.dstate = .draining ∧ t.sup.run = none ∧ t.sup.portHold = false ∧
        t.time.now.toNat % 1024 = 0 ∧ s.time.now.toNat ≤ t.time.now.toNat ∧
        t.sup.cross = some { began := (t.time.now.toNat : Int) } ∧ SameCmds s t ∧ t.mem.dev = s.mem.dev ∧ t.mem.ob = s.mem.ob)

/-- R29, R31, R368: the drain ends at a beat boundary when no engine has a started command. Operand buffers, the state of the
engines and of the media pipes are cleared, every bank is free, no waiting command has a place at an engine any more,
settings that waited for a crossing are in force (at this point of it, log 46); device memory, Cocoons, bindings, learned
factors and every command, but for its place, persist (no image runs here). R12, R31, R33: nine beats after the drain the
pending actions are performed. With no command kept for the crossing, no automatic save due and no scrub pending, they are
the retirement of marked cores, in DRAINING and in FENCED: these leave the enabled set, and the next run is a RECOVERY run.
R12, R31, R168, R352, R440: at the first beat boundary after the last action the crossing ends: with STOP or PARK pending the
device rests in READY or PARKED, else, with no image run waiting, a queue-fed run starts there and the device is RUNNING, in
the service state that TEST, RECOVERY, STARTUP, NORMAL give in this order, and its start clears the causes of STARTUP and
RECOVERY together (log 55); a core that is still marked is no part of it. -/
def Obligations.Crossings : Prop :=
  (
    ∀ (s : State) (x : Cross), s.sup.cross = some x → x.drained = none → engineBusy s = false →
      s.sup.dstate = .draining ∨ s.sup.dstate = .fenced → s.img.run = none → s.time.now.toNat + 1024 < 2 ^ 64 →
      ∃ t n, exec .crossingDrainEnd s = .next t ∧ t.time.now.toNat = n ∧ n % 1024 = 0 ∧ s.time.now.toNat ≤ n ∧
        n < s.time.now.toNat + 1024 ∧ t.sup.cross = some { x with drained := some (n : Int) } ∧ t.mem.ob = [] ∧
        t.cores.banks = [] ∧ t.cores.arrays = [] ∧ t.cores.vregs = [] ∧ t.cores.stores = [] ∧ t.cores.draws = [] ∧ t.cores.lcBanks = s.cores.lcSet ∧ t.regs.emcia = s.regs.emciaSet ∧ t.regs.medCfg = s.regs.medSet ∧
        t.regs.errCfg = s.regs.errSet ∧ t.regs.colTimeout = s.regs.colSet ∧ t.sup.dstate = s.sup.dstate ∧
        t.mem.dev = s.mem.dev ∧ t.mem.comp = s.mem.comp ∧ t.mem.poison = s.mem.poison ∧ t.cocoons = s.cocoons ∧
        t.luna = s.luna ∧ t.tgl = s.tgl ∧ t.media = { s.media with pipes := [] } ∧
        (∀ n, queueOf t n = { queueOf s n with cmds := (queueOf s n).cmds.map Cmd.unplaced }) ∧
        t.queues = { s.queues with qs := t.queues.qs } ∧ t.img = s.img) ∧
  (
    ∀ (s : State) (e : Circ) (x : Cross) (d : Nat), s.sup.dstate = .draining ∨ s.sup.dstate = .fenced → s.sup.cross = some x →
      x.drained = some (d : Int) → x.acted = false → s.sup.pend = [] → s.img.run = none → s.regs.ksPend = 0 → s.regs.bgPend = 0 →
      s.time.now.toNat ≤ d + 9216 → d + 9216 < 2 ^ 64 →
      ∃ t, exec (.crossingPendingActions e) s = .next t ∧ t.time.now.toNat = d + 9216 ∧
        t.sup.cross = some { x with acted := true } ∧ t.cores.marked = [] ∧
        t.cores.usable = s.cores.usable.zipIdx.map (fun y => y.1.filter fun c => !s.cores.marked.contains (13 * y.2 + c)) ∧
        t.sup.recoveryDue = (s.sup.recoveryDue || !s.cores.marked.isEmpty) ∧ t.sup.dstate = s.sup.dstate ∧ t.sup.term = s.sup.term ∧
        t.mem = s.mem ∧ t.queues = s.queues ∧ t.cocoons = s.cocoons) ∧
  (
    ∀ (s : State) (x : Cross), s.sup.dstate = .draining → s.sup.cross = some x → x.acted = true → s.sup.run = none →
      s.img.run = none → actionsDue s = false → s.time.now.toNat + 1024 < 2 ^ 64 →
      ∃ t, exec .nextRunStart s = .next t ∧ t.time.now.toNat % 1024 = 0 ∧ s.time.now.toNat ≤ t.time.now.toNat ∧
        t.time.now.toNat < s.time.now.toNat + 1024 ∧ t.sup.cross = none ∧ t.mem.dev = s.mem.dev ∧ t.mem.ob = s.mem.ob ∧
        t.cocoons = s.cocoons ∧ t.luna = s.luna ∧
        (match s.sup.stopReq with
          | some .stop => t.sup.dstate = .ready ∧ t.sup.run = none ∧ t.cores.usable = s.cores.usable
          | some .park => t.sup.dstate = .parked ∧ t.sup.run = none ∧ t.cores.usable = s.cores.usable
          | none => t.sup.dstate = .running ∧ t.sup.service = nextService (retireCores s) ∧
              t.sup.run = some { kind := .queueFed, start := t.time.now.toNat, svc := nextService (retireCores s), ms := s.sup.runMs } ∧
              t.sup.startupDue = false ∧ t.sup.recoveryDue = false ∧ t.cores.marked = [] ∧
              t.cores.usable = (retireCores s).cores.usable))

/-- R406: the map of C logical cores onto U usable cores: it takes the first C where U is at least C; it folds, with at most
two logical cores on one physical core, where U is at least half of C; it fails below that. R406, R407: in READY a run of a
loaded image whose logical cores can be mapped starts at a beat boundary at or after its planned beat. The device is RUNNING,
the section's tasks are known and none is released, the core map is that of R406 over the cores that are usable and not
marked (R12). -/
def Obligations.ImageRunStarts : Prop :=
  (
    ∀ (u : List Nat) (c : Nat), u.Nodup →
      (c ≤ u.length → coreMap u c = some (u.take c, 0)) ∧
      (2 * u.length < c → coreMap u c = none) ∧
      (u.length < c → c ≤ 2 * u.length → ∃ m, coreMap u c = some (m, c - u.length) ∧ m.length = c ∧
        (∀ p ∈ m, p ∈ u) ∧ (∀ p ∈ u, p ∈ m ∧ m.count p ≤ 2) ∧
        (∀ l, l < c - 2 * (c - u.length) → m[l]? = u[l]?))) ∧
  (
    ∀ (s : State) (r : ImgRun) (z : Slot) (m : List Nat × Nat), s.img.run = some r → s.sup.dstate = .ready →
      fencedAny s = false → actionsDue s = false → r.active = false → r.again = false → r.ended = none → s.sup.stopReq = none →
      needsService s r = false → runSlot s r = some z → coreMap (partCores (retireCores s)) z.lcores = some m →
      sectionTasks s z ≠ [] → healthy s r.e → (∀ x ∈ headSpans s z, readFault s none r.e x.1 x.2 = none) →
      s.time.now.toNat + planned s r * 1024 + 2048 < 2 ^ 64 →
      ∃ t u, exec .imageRunStart s = .next t ∧ t.sup.dstate = .running ∧ t.img.run = some u ∧ u.active = true ∧ u.map = m.1 ∧
        u.k = r.k ∧ (t.time.now.toNat : Int) = u.beat * 1024 ∧ (planned s r : Int) ≤ u.beat ∧ u.q.cmds = [] ∧
        u.q.tasks.map (fun y => (y.serial, y.id, y.lcore, y.beat, y.released)) =
          (sectionTasks s z).map (fun y => (y.serial, y.id, y.lcore, y.beat, false)) ∧
        t.sup.run = some { kind := .image, start := t.time.now.toNat, svc := nextService (retireCores s) } ∧
        t.mem.dev = s.mem.dev ∧ t.mem.ob = s.mem.ob ∧ t.cores.usable = (retireCores s).cores.usable)

/-- R407, R413: the next task of the section is released at its beat offset from the run's start, or at once when that has
passed. Its packets join the section in order behind the packets released before; device memory and operand buffers stay.
R410, R412: a collective of an image is released at the run's start beat plus its BEAT, from which its timeout runs unless
its task is released later, and nothing else changes but the count. -/
def Obligations.ImageReleases : Prop :=
  (
    ∀ (s : State) (r : ImgRun) (z : Slot) (pre post : List Task) (y : Task), s.img.run = some r → s.sup.dstate = .running →
      r.active = true → r.q.tasks = pre ++ y :: post → (∀ x ∈ pre, x.released = true) → y.released = false →
      runSlot s r = some z → healthy s r.e →
      (∀ x ∈ taskSpans s z pre.length, readFault s none r.e x.1 x.2 = none) → (r.beat + y.beat) * 1024 < 2 ^ 64 →
      (let rd := imgRd s z.addr
       let sec := sectionOf rd (ImgHdr.parse (rd 0 128)) s.dom.index
       let recs := taskRecs rd sec
       let base := ((recs.take pre.length).map (·.n)).sum
       let ps := ((recs[pre.length]?).map (taskPackets rd sec)).getD []
       ∃ t u, exec (.taskRelease y.id) s = .next t ∧ t.img.run = some u ∧
         (∃ y' ∈ u.q.tasks, y'.serial = y.serial ∧ y'.released = true ∧ y'.isOpen = false) ∧
         u.q.cmds.map (fun k => (k.idx, k.hdr, k.par)) =
           r.q.cmds.map (fun k => (k.idx, k.hdr, k.par)) ++ ps.zipIdx.map (fun x => (base + x.2, x.1.1, x.1.2.1)) ∧
         t.time.now.toNat = max s.time.now.toNat ((r.beat + y.beat) * 1024).toNat ∧ t.mem.dev = s.mem.dev ∧ t.mem.ob = s.mem.ob)) ∧
  (
    ∀ (s : State) (r : ImgRun) (i : Nat) (k : Cmd), s.img.run = some r → r.active = true → cmdOf s ⟨.img, i⟩ = some k →
      k.released = false → 0x0B01 ≤ hOpcode k.hdr → hOpcode k.hdr ≤ 0x0B03 →
      (let due : Int := (r.beat + ((if hOpcode k.hdr = 0x0B03 then fld k.par 575 512 else fld k.par 191 128 : Nat) : Int)) * 1024
       ∃ t, exec (.collectiveRelease ⟨.img, i⟩) s = .next t ∧ cmdOf t ⟨.img, i⟩ =
           some { k with released := true, dueAt := some (max due (k.dueAt.getD due)) } ∧
         t.mem = s.mem ∧ t.queues = s.queues ∧ t.regs = s.regs ∧ t.cores = s.cores ∧
         (s.sup.dstate ≠ .off → due < 2 ^ 64 → t.time.now.toNat = max s.time.now.toNat due.toNat)))

/-- R409: an ABORT from a member of a formed domain is recorded in ERR_DOM_ABORT and begins a crossing. An SCH.RUN in
progress will complete with ST_REFUSED_DEP and a root field of the sender's TAG, its index and the status; no command starts
or ends by it. R418: when the copy of an automatic save to its mirror ends, it is running no more; a domain of one holds the
mirror itself, two slots above the save, a larger one sends the bytes on to the next part's buddy slot. -/
def Obligations.ImageAbortAndMirror : Prop :=
  (
    ∀ (s : State) (part : BitVec 9) (tag : Word) (status : BitVec 8), s.dom.dstate = 2 → s.sup.dstate = .running →
      (∀ r, s.img.run = some r → r.active = true) →
      ∃ t, exec (.abortReceive part tag status) s = .next t ∧ regRead t 0x0F0000050310 = some (part.toNat + 512) ∧
        t.sup.dstate = .draining ∧ t.sup.run = none ∧ SameCmds s t ∧ t.mem.dev = s.mem.dev ∧ t.mem.ob = s.mem.ob ∧
        t.cores = s.cores ∧ t.cocoons = s.cocoons ∧
        (∀ r, s.img.run = some r → r.ended = none → ∃ u, t.img.run = some u ∧
          u.ended = some (stRefusedDep, 0, some (rootField tag.toNat part.toNat status.toNat)))) ∧
  (
    (∀ (s : State) (k : Copy), s.img.copy = some k → s.dom.size ≠ 1 → healthy s {} → k.src % 64 = 0 →
      readFault s none {} k.src k.len = none →
      ∃ t, exec .chrysalisMirrorCopyEnd s = .next t ∧ t.img = { s.img with copy := none } ∧
        t.dom.out = .mirror k.b (readBytes s none k.src k.len) :: s.dom.out ∧
        t = { s with img := t.img, dom := t.dom }) ∧
    (∀ (s : State) (k : Copy), s.img.copy = some k → s.dom.size = 1 → s.mem.wf = true → healthy s {} →
      k.src % 64 = 0 → 0 < k.len → spanMem k.src k.len = true → spanMem (k.src + 2 * k.size) k.len = true →
      ∃ t, exec .chrysalisMirrorCopyEnd s = .next t ∧ t.img = { s.img with copy := none } ∧
        memRead 0 t.mem.dev (k.src + 2 * k.size) k.len = memRead 0 s.mem.dev k.src k.len ∧
        (∀ a, a < k.src + 2 * k.size ∨ k.src + 2 * k.size + k.len ≤ a → memGet 0 t.mem.dev a = memGet 0 s.mem.dev a) ∧
        t.mem.ob = s.mem.ob ∧ t.queues = s.queues ∧ t.sup = s.sup ∧ t.time = s.time))

/-! ### Domains and collectives -/

/-- R396, R398: FORM on a part with SIZE_M1 = 0 unloads every image, releases its claims and forms a domain of one at once.
That it does so with index 0 whatever MASTER says, and that the claims of CTX.RESTORE (marked 4) stay, is the model's reading
(log 50). R398: FORM with further members unloads every image, releases its claims and starts a formation: FORMING, one
member, a hello flooded with this part's fields; a part whose index lies beyond SIZE_M1 fails with code 4 (log 51). R396:
LEAVE makes the part alone again: index 0, size 1. Without collectives nothing else changes. That it takes effect in every
state in which the companion reaches the part is the model's reading (log 50). -/
def Obligations.DomainBegins : Prop :=
  (
    ∀ (s : State) (links : List (Nat × Nat)), reachable s = true → atRest s = true → s.dom.dstate ≠ 1 → s.img.run = none →
      fld s.regs.domCfg.toNat 18 9 = 0 → s.sup.caps = 0xF → fld s.regs.domCfg.toNat 21 20 = 0 →
      ∃ t, exec (.domainForm links) s = .next t ∧ t.dom.dstate = 2 ∧ t.dom.size = 1 ∧ t.dom.index = 0 ∧ t.dom.nlDom = 3 ∧
        t.dom.ifDom = 3 ∧ t.dom.red = 0 ∧ t.dom.fail = 0 ∧ t.img.slots = [] ∧
        (∀ z, z ∈ t.img.claims ↔ z ∈ s.img.claims ∧ z.2.2 = 4) ∧ t.mem = s.mem ∧ t.queues = s.queues ∧
        t.sup = s.sup ∧ t.cores = s.cores) ∧
  (
    ∀ (s : State) (links : List (Nat × Nat)), reachable s = true → atRest s = true → s.dom.dstate ≠ 1 → s.img.run = none →
      fld s.regs.domCfg.toNat 18 9 ≠ 0 →
      (fld s.regs.domCfg.toNat 18 9 < fld s.regs.domCfg.toNat 8 0 →
        ∃ t, exec (.domainForm links) s = .next t ∧ t.dom.dstate = 3 ∧ t.dom.fail = 4 ∧ t.img.slots = [] ∧ t.sup = s.sup) ∧
      (fld s.regs.domCfg.toNat 8 0 ≤ fld s.regs.domCfg.toNat 18 9 → ∃ t h, exec (.domainForm links) s = .next t ∧ t.dom.dstate = 1 ∧ t.dom.hellos = [h] ∧ t.dom.out = .hello h :: s.dom.out ∧
        h.part = fld s.regs.domCfg.toNat 8 0 ∧ h.sizeM1 = fld s.regs.domCfg.toNat 18 9 ∧ h.domId = s.regs.domId ∧
        h.master = bit s.regs.domCfg.toNat 19 ∧ h.fw = s.sup.fwRt ∧ t.dom.formTick = (s.time.now.toNat : Int) ∧
        t.img.slots = [] ∧ (∀ z, z ∈ t.img.claims ↔ z ∈ s.img.claims ∧ z.2.2 = 4) ∧ t.mem = s.mem ∧
        t.queues = s.queues ∧ t.sup = s.sup ∧ t.time = s.time)) ∧
  (
    ∀ s : State, reachable s = true → s.dom.cols = [] →
      ∃ t, exec .domainLeave s = .next t ∧ t.dom.dstate = 0 ∧ t.dom.index = 0 ∧ t.dom.size = 1 ∧ t.dom.fail = 0 ∧
        t.dom.red = 0 ∧ t.dom.routes = [] ∧ t = { s with dom := t.dom })

/-- R398: a hello of another part in a formation: one that disagrees in DOMAIN_ID or SIZE_M1, or whose index lies beyond the
size, fails it with code 4, one with an index heard before with code 3; other than one master fails it with 5, no common
level or format with 2, a diameter of more than eight hops with 6; the last of SIZE agreeing hellos otherwise forms the
domain, at the highest common level and format and with the redundancy level of R399; an earlier one is counted. Two seconds
after FORM a formation fails with code 1. The order of the causes, and that an index beyond the size is cause 4, is the
model's reading (log 51). R399: the redundancy level of a formation is at least that of its size and every member's RED_MIN,
and one of these. -/
def Obligations.HellosFormTheDomain : Prop :=
  (
    (∀ (s : State) (h : Hello), s.dom.dstate = 1 → s.sup.dstate ≠ .off → h ∉ s.dom.hellos →
      (let size := fld s.regs.domCfg.toNat 18 9 + 1
       let hs := s.dom.hellos ++ [h]
       ∃ t, exec (.helloReceive h) s = .next t ∧ t.mem = s.mem ∧ t.queues = s.queues ∧ t.sup = s.sup ∧ t.cores = s.cores ∧
         (h.domId ≠ s.regs.domId ∨ h.sizeM1 ≠ fld s.regs.domCfg.toNat 18 9 ∨ h.sizeM1 < h.part → t.dom.dstate = 3 ∧ t.dom.fail = 4) ∧
         (h.domId = s.regs.domId → h.sizeM1 = fld s.regs.domCfg.toNat 18 9 → h.part ≤ h.sizeM1 →
           ((∃ k ∈ s.dom.hellos, k.part = h.part) → t.dom.dstate = 3 ∧ t.dom.fail = 3) ∧
           ((∀ k ∈ s.dom.hellos, k.part ≠ h.part) →
             (1 < (hs.filter (·.master)).length → t.dom.dstate = 3 ∧ t.dom.fail = 5) ∧
             ((hs.filter (·.master)).length = 0 → size ≤ hs.length → t.dom.dstate = 3 ∧ t.dom.fail = 5) ∧
             ((hs.filter (·.master)).length = 1 → size ≤ hs.length → commonNl hs = 0 ∨ commonFmts hs = [] →
               t.dom.dstate = 3 ∧ t.dom.fail = 2) ∧
             ((hs.filter (·.master)).length = 1 → size ≤ hs.length → commonNl hs ≠ 0 → commonFmts hs ≠ [] → tooWide hs = true →
               t.dom.dstate = 3 ∧ t.dom.fail = 6) ∧
             ((hs.filter (·.master)).length ≤ 1 → hs.length < size → t.dom.dstate = 1 ∧ t.dom.hellos = hs ∧ t.dom.members = hs.length) ∧
             ((hs.filter (·.master)).length = 1 → size ≤ hs.length → commonNl hs ≠ 0 → commonFmts hs ≠ [] → tooWide hs = false →
               t.dom.dstate = 2 ∧ t.dom.size = size ∧ t.dom.nlDom = commonNl hs ∧
               t.dom.ifDom ∈ commonFmts hs ∧ (∀ f ∈ commonFmts hs, f ≤ t.dom.ifDom) ∧ t.dom.red = redLevel size hs ∧
               t.dom.members = hs.length ∧ t.dom.fail = 0 ∧
               (size ≠ 1 → t.dom.index = fld s.regs.domCfg.toNat 8 0) ∧
               (bit s.regs.domCfg.toNat 19 = false → t.time.source = 1)))))) ∧
    (∀ s : State, s.dom.dstate = 1 → s.sup.dstate ≠ .off →
      ∃ t, exec .formationTimeout s = .next t ∧ t.dom.dstate = 3 ∧ t.dom.fail = 1 ∧ t.dom.size = 1 ∧ t.dom.index = 0 ∧
        t.mem = s.mem ∧ t.queues = s.queues ∧ t.sup = s.sup ∧ t.cores = s.cores)) ∧
  (
    ∀ (size : Nat) (hs : List Hello),
      (let base := if size ≤ 8 then 0 else if size ≤ 64 then 1 else if size ≤ 256 then 2 else 3
       base ≤ redLevel size hs ∧ (∀ h ∈ hs, h.redMin ≤ redLevel size hs) ∧
       (redLevel size hs = base ∨ ∃ h ∈ hs, redLevel size hs = h.redMin)))

/-- R401, R25, R386: a member that has formed takes the master's count at a beat boundary of its own count, and its budget
window is that of the new count; time messages are sent at every 64th beat; a member that hears none for 1 ms clears ALIGNED.
That the instants which the model keeps move with the count is its own reading (log 17). -/
def Obligations.DomainTime : Prop :=
  (∀ (s : State) (count : DWord), s.dom.dstate = 2 → s.dom.adopt = true → s.sup.dstate ≠ .off →
    ∃ t b, exec (.timeMasterAdopt count) s = .next t ∧ t.time.now = count ∧ t.dom.adopt = false ∧ t.time.msgOk = true ∧
      b % 1024 = 0 ∧ s.time.now.toNat ≤ b ∧ b < s.time.now.toNat + 1024 ∧
      t.sup.readyTick = s.sup.readyTick + ((count.toNat : Int) - (b % 2 ^ 64 : Nat)) ∧
      MovedCmds ((count.toNat : Int) - (b % 2 ^ 64 : Nat)) s t ∧
      t.tgl = { s.tgl with window := t.time.now.toNat / 1000000 } ∧
      t.mem = s.mem ∧ t.regs = s.regs ∧ t.cores = s.cores ∧ t.sup.run = s.sup.run ∧ t.sup.dstate = s.sup.dstate) ∧
  (∀ s : State, s.dom.dstate = 2 → s.sup.dstate ≠ .off → s.time.now.toNat + 65536 < 2 ^ 64 →
    ∃ t, exec .timeMessage s = .next t ∧ t.dom.out = .time :: s.dom.out ∧ t.time.now.toNat % 65536 = 0 ∧
      s.time.now.toNat < t.time.now.toNat ∧ t.time.now.toNat ≤ s.time.now.toNat + 65536 ∧
      t = { s with time := t.time, dom := { s.dom with out := t.dom.out } }) ∧
  (∀ s : State, s.dom.dstate = 2 → s.dom.master = false →
    ∃ t, exec .timeMessageTimeout s = .next t ∧ (tmbStatus t).testBit 2 = false ∧ t.time.now = s.time.now ∧
      t = { s with time := { s.time with msgOk := false } })

/-- R410: a line that arrives for a COL.RECV in progress, of the right length and not its last, is written at its place in
healthy memory, and acknowledged; every other byte of device memory stays. R400, R419: a trained port whose link goes down is
no route any more, which is logged; with no collective in progress nothing else changes. R412: a collective that is not
complete COL_TIMEOUT_MS after its release ends with ST_LINK and the lines transferred so far, none for a COL.REDUCE; one that
was released and has not begun ends with ST_LINK and 0, and takes its number among its pairs. Device memory and operand
buffers stay. That the collective of a queue is released at its start, and that a held one takes its number, is the model's
reading (log 43). R411, R42: the value of a reduction of FP32 vectors is the pairwise tree over rank of R57, element by
element, with every NaN written as 0x7FC00000. -/
def Obligations.CollectivesProceed : Prop :=
  (
    ∀ (s : State) (y : Coll) (k : Cmd) (peer channel off : Nat) (bs : List Byte),
      (let p := Xfer.parse k.par
       s.dom.dstate = 2 → s.sup.dstate ≠ .off → findColl s 1 peer channel y.k = some y → cmdOf s y.c = some k → k.ph ≠ .done →
       collOf s y.c = some y → peer ≠ s.dom.index → s.mem.wf = true → healthy s y.e →
       y.lines = [] → 128 ≤ p.len → off % 64 = 0 → off + 64 ≤ p.len → bs.length = 64 → p.addr % 64 = 0 →
       spanMem p.addr p.len = true →
       ∃ t, exec (.collectiveDataArrival (.data peer channel y.k p.len off bs)) s = .next t ∧
         memRead 0 t.mem.dev (p.addr + off) 64 = bs ∧
         (∀ a, a < p.addr + off ∨ p.addr + off + 64 ≤ a → memGet 0 t.mem.dev a = memGet 0 s.mem.dev a) ∧
         t.dom.out = .ack peer channel y.k p.len 1 :: s.dom.out ∧ SameCmds s t ∧ t.mem.ob = s.mem.ob ∧ t.sup = s.sup)) ∧
  (
    ∀ (s : State) (port : Nat), s.dom.ports.getLsbD port = true → s.dom.cols = [] →
      ∃ t, exec (.viaductLinkDown port) s = .next t ∧ t.dom.ports.getLsbD port = false ∧
        (∀ p, p ≠ port → t.dom.ports.getLsbD p = s.dom.ports.getLsbD p) ∧ port ∈ t.dom.down ∧ (∀ p ∈ s.dom.down, p ∈ t.dom.down) ∧
        t = { s with
          dom := { s.dom with ports := t.dom.ports, down := t.dom.down }
          regs := { s.regs with errLog := .linkRetry port :: s.regs.errLog } }) ∧
  (
    (∀ (s : State) (c : CmdRef) (y : Coll) (k : Cmd), collOf s c = some y → cmdOf s c = some k →
      ∃ t, exec (.collectiveTimeout c) s = .next t ∧ endsAs t c stLink (if y.kind = 2 then 0 else y.lines.length) ∧
        collOf t c = none ∧ t.mem.dev = s.mem.dev ∧ t.mem.ob = s.mem.ob ∧
        (s.sup.dstate ≠ .off → y.released + s.regs.colTimeout.toNat * 1000000 < 2 ^ 64 →
          t.time.now.toNat = max s.time.now.toNat (y.released + s.regs.colTimeout.toNat * 1000000).toNat)) ∧
    (∀ (s : State) (c : CmdRef) (k : Cmd) (r : Int), collOf s c = none → cmdOf s c = some k → heldSince s c = some r →
      s.sup.dstate = .running →
      ∃ t, exec (.collectiveTimeout c) s = .next t ∧ endsAs t c stLink 0 ∧ collCount t (collKey k) = collCount s (collKey k) + 1 ∧
        t.mem.dev = s.mem.dev ∧ t.mem.ob = s.mem.ob)) ∧
  (
    ∀ (p : Reduce) (ranks : List (List Word)) (i : Nat), p.conv = false → i < p.count →
      (let v := tree (if p.op = 0 then fadd else if p.op = 1 then fmax else fmin) 0 (ranks.map fun l => l.getD i 0)
       (reduceValues p [] [] ranks)[i]? = some (if isNan32 v = true then nan32 else v)))

/-! ### Supervisors, faults and power -/

/-- R436, R437: a heartbeat leaves with the sender's term, leader, next sequence number and FENCED flag. One received over
both paths with the receiver's term and leader shows both paths up; one that misses a path is counted in SUP_HB_MISS and
logged (R419). Neither fences anything, and nothing else changes. R436 to R438, R399: what fences a supervisor, here as the
first fence of a part without an image run: a heartbeat whose term or leader differs (cause 2), whose two copies differ (3),
or that says FENCED (4); silence of 50 µs (1); a cross-check mismatch, which fences both (5). In RUNNING and DRAINING the
device is FENCED and drains, elsewhere it keeps its state. A leader silent for 1 ms while a half is fenced is taken note of.
(Which cause is named when several hold, and which side fences first on a mismatch, are the model's choices, log 62.) -/
def Obligations.HeartbeatsAndFences : Prop :=
  (
    (∀ (s : State) (d : Side), beating s = true → ∃ t, exec (.heartbeatSend d) s = .next t ∧
      t = { s with sup := { s.sup with nSeq := t.sup.nSeq, sSeq := t.sup.sSeq, nBeat := t.sup.nBeat, sBeat := t.sup.sBeat } } ∧
      t.sup.nBeat = (if d = .north then some ⟨s.sup.term, s.sup.leader, s.sup.nSeq + 1, s.sup.nFenced⟩ else s.sup.nBeat) ∧
      t.sup.sBeat = (if d = .south then some ⟨s.sup.term, s.sup.leader, s.sup.sSeq + 1, s.sup.sFenced⟩ else s.sup.sBeat) ∧
      t.sup.nSeq = (if d = .north then s.sup.nSeq + 1 else s.sup.nSeq) ∧
      t.sup.sSeq = (if d = .south then s.sup.sSeq + 1 else s.sup.sSeq)) ∧
    (∀ (s : State) (d : Side) (b : Beat) (m n : Bool), beating s = true → b.term = s.sup.term → b.leader = s.sup.leader →
      b.fenced = false → (m || n) = true → ∃ t,
      exec (.heartbeatReceive d (if m then some b else none) (if n then some b else none)) s = .next t ∧
      t.sup.directUp = m ∧ (d = .south → t.sup.nPathUp = n ∧ t.sup.sPathUp = s.sup.sPathUp) ∧
      (d = .north → t.sup.sPathUp = n ∧ t.sup.nPathUp = s.sup.nPathUp) ∧
      t.sup.hbMiss.toNat = (if (m && n) = true then s.sup.hbMiss.toNat else min (2 ^ 32 - 1) (s.sup.hbMiss.toNat + 1)) ∧
      t.sup.silence = (if s.sup.leader = d then s.sup.silence else false) ∧
      t = { s with sup := { s.sup with directUp := t.sup.directUp, nPathUp := t.sup.nPathUp, sPathUp := t.sup.sPathUp,
                                       hbMiss := t.sup.hbMiss, silence := t.sup.silence },
                       regs := { s.regs with errLog :=
                         if (m && n) = true then s.regs.errLog else .heartbeatMissed (otherSide d) :: s.regs.errLog } })) ∧
  (
    (∀ (s : State) (d : Side) (direct store : Option Beat), beating s = true → fencedAny s = false → s.sup.fenceCause = 0 →
      s.img.run = none →
      (let l := direct.toList ++ store.toList
       let own := fun b : Beat => b.term = s.sup.term ∧ b.leader = s.sup.leader
       ∃ t, exec (.heartbeatReceive d direct store) s = .next t ∧
         ((∃ b ∈ l, ¬ own b) → FencedFor s t d 2) ∧
         ((∀ b ∈ l, own b) → (∃ a b, direct = some a ∧ store = some b ∧ a ≠ b) → FencedFor s t d 3) ∧
         ((∀ b ∈ l, own b) → (∀ a b, direct = some a → store = some b → a = b) → (∃ b ∈ l, b.fenced = true) → FencedFor s t d 4))) ∧
    (∀ (s : State) (d : Side), beating s = true → fencedAny s = false → s.sup.fenceCause = 0 → s.img.run = none →
      ∃ t, exec (.heartbeatTimeout d) s = .next t ∧ FencedFor s t d 1 ∧ t.sup.directUp = false) ∧
    (∀ s : State, beating s = true → 2 ≤ s.dom.red → fencedAny s = false → s.sup.fenceCause = 0 → s.img.run = none →
      s.time.now.toNat + 1024 < 2 ^ 64 →
      (∃ t, exec (.supervisorCrossCheck true) s = .next t ∧ t.time.now.toNat % 1024 = 0 ∧ t = { s with time := t.time }) ∧
      (∃ t d, exec (.supervisorCrossCheck false) s = .next t ∧ FencedFor s t d 5 ∧ t.sup.nFenced = true ∧ t.sup.sFenced = true)) ∧
    (∀ s : State, beating s = true → fencedAny s = true →
      exec .leaderSilenceTimeout s = .next { s with sup := { s.sup with silence := true } }))

/-- R352, R353: a device fault leads to FAULTED. With a control path, every command of a queue that has not started completes
with ST_REFUSED_STATE and 0x17, and without started commands no memory changes; with none, nothing completes any more, and
the part is not reached by its companion. -/
def Obligations.DeviceFaults : Prop :=
  (∀ s : State, s.sup.dstate ≠ .off → s.sup.dstate ≠ .faulted → s.img.run = none →
    ∃ t, exec (.deviceFault true) s = .next t ∧ t.sup.dstate = .faulted ∧ t.sup.run = none ∧ t.sup.cross = none ∧
      (statusByte t).testBit 2 = true ∧
      (∀ (c : CmdRef) (k : Cmd), cmdOf s c = some k → k.ph ≠ .done → isRunning k = false → isYielded k = false → refusedAs t c 0x17) ∧
      ((∀ y ∈ allQueues s, ∀ k ∈ y.2.cmds, isRunning k = false ∧ isYielded k = false) → t.mem.dev = s.mem.dev ∧ t.mem.ob = s.mem.ob) ∧
      t.sup.flash = s.sup.flash ∧ t.time = s.time) ∧
  (∀ s : State, s.sup.dstate ≠ .off → s.sup.dstate ≠ .faulted →
    ∃ t, exec (.deviceFault false) s = .next t ∧ t.sup.dstate = .faulted ∧ reachable t = false ∧ SameCmds s t ∧
      t.mem = s.mem ∧ t.queues = s.queues ∧ t.sup.flash = s.sup.flash)

/-- R443, R445, R446: input in the operating region of 40 to 50 V, MOD_EN high and no latch start the precharge, whichever of
them comes last; at least 100 ms of MOD_EN low clear the latch; precharge closes the switch, and rails in regulation assert
MOD_PGOOD. Nothing but the power circuits changes. That a sample outside that region does not end the range of the input, and
starts no precharge, is the model's reading (log 67). R443 to R447, R464: whatever opens the switch leads to OFF, with its
cause kept; every opening but one by MOD_EN is latched, and removal of the input clears latch and record; of the causes of
one sample the first in the list of R446 is recorded. An assertion of MOD_RESET_N with the switch closed leads to OFF, cause
7; the dies' counts of reads at 110 °C, compared in hardware, go on (R464). That an opening during precharge is recorded too,
and that the input counts as out of range after the low-tolerance timeout, are the model's reading (log 67). -/
def Obligations.PowerCircuits : Prop :=
  (
    (∀ s : State, ∃ t, exec .inputApplied s = .next t ∧ t.power.inputOk = true ∧ t.power.lowTol = false ∧ t.power.highTol = false ∧
      t.power.sagging = false ∧ t.power.precharging = (s.power.precharging || (s.power.modEn && !s.power.latched && !s.power.switchClosed)) ∧
      t.power.switchClosed = s.power.switchClosed ∧ t.power.latched = s.power.latched ∧ t = { s with power := t.power }) ∧
    (∀ (s : State) (ms : Nat), s.power.modEn = false → ∃ t, exec (.modEnRise ms) s = .next t ∧ t.power.modEn = true ∧
      t.power.latched = (s.power.latched && decide (ms < 100)) ∧ t.power.tripLatch = (s.power.tripLatch && decide (ms < 100)) ∧
      t.power.precharging = (s.power.precharging ||
        (s.power.inputOk && !s.power.lowTol && !s.power.highTol && !s.power.sagging && !t.power.latched && !s.power.switchClosed)) ∧
      t.power.switchClosed = s.power.switchClosed ∧ t = { s with power := t.power }) ∧
    (∀ (s : State) (v i : BitVec 13), s.sup.dstate = .off → s.power.inputOk = true → ∃ t, exec (.powerSample v i) s = .next t ∧
      t.power.lowTol = (decide (3800 ≤ v.toNat) && decide (v.toNat < 4000)) ∧ t.power.highTol = decide (5000 < v.toNat) ∧
      t.power.sagging = decide (v.toNat < 3800) ∧
      t.power.precharging = (s.power.precharging ||
        (decide (4000 ≤ v.toNat) && decide (v.toNat ≤ 5000) && s.power.modEn && !s.power.latched && !s.power.switchClosed)) ∧
      t.power.switchClosed = s.power.switchClosed ∧ t.power.latched = s.power.latched ∧ t = { s with power := t.power }) ∧
    (∀ s : State, s.power.precharging = true → exec .prechargeEnd s =
      .next { s with power := { s.power with precharging := false, switchClosed := true, ramping := true } }) ∧
    (∀ s : State, s.power.ramping = true → s.power.resetN = false → exec .railsInRegulation s =
      .next { s with power := { s.power with ramping := false, pgood := true } })) ∧
  (
    (∀ s : State, s.power.switchClosed = true ∨ s.power.precharging = true →
      (∀ (i : Instr) (n : BitVec 8), (i, n) ∈ [(Instr.inputOvervoltage, 2#8), (.inputUndervoltage, 1), (.breakerTrip, 3), (.railFault, 5)] →
        ∃ t, exec i s = .next t ∧ OffBy s t n ∧ t.power.latched = true) ∧
      (∃ t, exec .modEnFall s = .next t ∧ OffBy s t 6 ∧ t.power.latched = s.power.latched ∧ t.power.modEn = false) ∧
      (∃ t, exec .inputRemoval s = .next t ∧ OffBy s t 0 ∧ t.power.latched = false ∧ t.power.inputOk = false) ∧
      (s.power.lowTol = true → ∃ t, exec .lowToleranceTimeout s = .next t ∧ OffBy s t 1 ∧ t.power.latched = true)) ∧
    (∀ s : State, s.power.switchClosed = false → s.power.precharging = false → s.power.opened = true →
      ∀ (i : Instr) (n : BitVec 8), (i, n) ∈ [(Instr.inputOvervoltage, 2#8), (.inputUndervoltage, 1), (.breakerTrip, 3), (.railFault, 5)] →
        ∃ t, exec i s = .next t ∧ t.power.latched = true ∧ t.power.lastOff = (if n < s.power.lastOff then n else s.power.lastOff) ∧
          t = { s with power := t.power }) ∧
    (∀ s : State, s.power.precharging = true →
      ∃ t, exec .prechargeTimeout s = .next t ∧ OffBy s t 5 ∧ t.power.latched = true) ∧
    (∀ s : State, s.power.resetN = true → s.power.switchClosed = true →
      ∃ t, exec .modResetNAssert s = .next t ∧ KeptOff s t ∧ t.power.resetN = false ∧ t.power.lastOff = 7 ∧
        t.power.switchClosed = true ∧ t.tgl = { trips := s.tgl.trips } ∧ t.power.opened = s.power.opened))

/-- R421 to R424, R427 to R429, R447, R448, R464: a release of MOD_RESET_N with input, MOD_EN and MOD_PGOOD enters INSTAR
with everything at its reset value but what flash, silicon, the dies' trip counts and companion hold; one that breaks R448
lets no stage run. Instar 0 reconstructs each supervisor's seed from a read within 15 % of the enrolled one, gives identity
to those whose seed passes its check, and lets each take the boot record that it accepts by its MAC, or its partner's where
it accepts none. A copy of Instar 1 that verifies and lies at or above the FLOOR of both records is taken, the primary of
both where it is one, else Instar 0 fails with code 4, 3 or 1. Instar 1 zeroes memory and takes a runtime copy in the same
way, or fails with the code of its self-test or 2; Instar 2 elects the leader of term 1 and enters READY. (That North's
record is the one in use, the preference between copies where the choices differ, and the order of self-test codes, are the
model's, log 64; so are the bounds of P_BASE, log 48.) R430: once 1,024 indices remain in the present bottom tree, the next
one is generated and cached; after indices were skipped, that of the next index is, and SUP.ATTEST waits no longer; nothing
else changes. -/
def Obligations.InstarStages : Prop :=
  (
    (∀ (s : State) (r : Release), s.power.resetN = false → s.power.inputOk = true → s.power.modEn = true → s.power.pgood = true →
      ∃ t, exec (.modResetNRelease r) s = .next t ∧ t.sup.dstate = .instar ∧ t.time = {} ∧ t.queues = {} ∧
        t.mem = { comp := s.mem.comp, spare := s.mem.spare } ∧ t.sup = { State.reset.sup with
          flash := s.sup.flash, rom := s.sup.rom, nPuf := s.sup.nPuf, sPuf := s.sup.sPuf, nIdent := s.sup.nIdent,
          sIdent := s.sup.sIdent, testNext := s.sup.testNext } ∧
        t.regs = { State.reset.regs with resp := s.regs.resp, errLog := s.regs.errLog } ∧ t.cores = State.reset.cores ∧
        t.tgl = { State.reset.tgl with trips := s.tgl.trips } ∧ t.dom = State.reset.dom ∧ t.img = State.reset.img ∧ t.media = State.reset.media ∧
        t.link = State.reset.link ∧ t.cocoons = [] ∧ t.luna = [] ∧ t.power.sbAddr = r.straps ∧
        (inStage 0 t = true ↔ r.clockOk = true ∧ s.power.refclk = true ∧ r.holdOk = true ∧ r.pulseOk = true)) ∧
    (∀ (s : State) (b : BootCheck), inStage 0 s = true →
      (let s0 := { s with sup := { s.sup with nSeed := reconstruct s .north b.nDiff, sSeed := reconstruct s .south b.sDiff } }
       let nId := seedOk s .north s0.sup.nSeed
       let sId := seedOk s .south s0.sup.sSeed
       let n := if nId = true then acceptSlot s0 .north else none
       let m := if sId = true then acceptSlot s0 .south else none
       ∃ t, exec (.instar0Complete b) s = .next t ∧ t.time.refOk = true ∧ t.sup.flash = s.sup.flash ∧ t.sup.nId = nId ∧
         t.sup.sId = sId ∧ t.sup.nKeys = keysAtPowerUp s .north ∧ t.sup.sKeys = keysAtPowerUp s .south ∧
         (s.sup.nIdent.helper = s.sup.nPuf.helper → 100 * b.nDiff ≤ 15 * 262144 → t.sup.nSeed = s.sup.nPuf.seed) ∧
         (s.sup.sIdent.helper = s.sup.sPuf.helper → 100 * b.sDiff ≤ 15 * 262144 → t.sup.sSeed = s.sup.sPuf.seed) ∧
         (b.flashOk = false → t.sup.dstate = .faulted ∧ t.sup.fail = 4) ∧
         (b.flashOk = true → n = none → m = none → t.sup.dstate = .faulted ∧ t.sup.fail = 3) ∧
         (∀ i j, b.flashOk = true → (n <|> m) = some i → (m <|> n) = some j →
           (let r := bootRecord s i
            let z := bootRecord s j
            let ver := fun v => fwVersion (fwHeader s false v)
            let both := fun v => copyOk s false v = true ∧ bootFloor r ≤ ver v ∧ bootFloor z ≤ ver v
            ((∀ v, ¬ both v) → t.sup.dstate = .faulted ∧ t.sup.fail = 1) ∧
            (∀ w, both w → ∃ v, both v ∧ t.sup.dstate = .instar ∧ t.sup.stage = 1 ∧ t.sup.i1Copy = v ∧ t.sup.brSlot = i ∧
              t.sup.brSouth = j ∧ t.sup.fwFloor.toNat = bootFloor r ∧ t.sup.fwI1.toNat = ver v ∧
              (bootI1 r = w → bootI1 z = w → v = w)))))) ∧
    (∀ (s : State) (z : SelfTest), inStage 1 s = true →
      (let s2 := writeTestRecord z.recordOk (applySelfTest z s)
       let r := bootNow s2
       let q := bootRecord s2 s2.sup.brSouth
       let ver := fun v => fwVersion (fwHeader s2 true v)
       let both := fun v => copyOk s2 true v = true ∧ bootFloor r ≤ ver v ∧ bootFloor q ≤ ver v
       ∃ t, exec (.instar1Complete z) s = .next t ∧ t.mem.dev = [] ∧ t.mem.ob = [] ∧ t.mem.poison = [] ∧
         (selfTestFail s z ≠ 0 → t.sup.dstate = .faulted ∧ t.sup.fail = selfTestFail s z) ∧
         (selfTestFail s z = 0 →
           ((∀ v, ¬ both v) → t.sup.dstate = .faulted ∧ t.sup.fail = 2) ∧
           (∀ w, both w → ∃ v, both v ∧ t.sup.dstate = .instar ∧ t.sup.stage = 2 ∧ t.sup.rtCopy = v ∧ t.sup.fwRt.toNat = ver v ∧
             (bootRt r = w → bootRt q = w → v = w) ∧ t.cores.usable = (List.range 16).map (usableOf z))))) ∧
    (∀ (s : State) (p : BitVec 12), inStage 2 s = true →
      ∃ t, exec (.instar2Complete p) s = .next t ∧ t.sup.dstate = .ready ∧ t.sup.stage = 3 ∧ t.sup.term = 1 ∧
        t.sup.storeTerm = List.replicate 4 1 ∧ t.sup.leader = (if s.sup.nLeadOk = true then .north else .south) ∧
        t.sup.startupDue = true ∧ t.tgl.pBase = max 560 (min p.toNat 720) ∧ regRead t 0x0F0000000008 = some 1 ∧
        t.mem.dev = s.mem.dev)) ∧
  (
    ∀ (s : State) (d : Side), beating s = true → hasId s d = true → (keysOf s d).next < 2 ^ 30 →
      (let n := (keysOf s d).next / 32768
       (canSign s d = true → 31744 ≤ (keysOf s d).next % 32768 → n + 1 < 32768 →
         ∃ t, exec (.bottomTreeReady d) s = .next t ∧ canSign t d = true ∧ n + 1 ∈ (identOf t d).trees ∧
           (∀ m ∈ (identOf t d).trees, m = n + 1 ∨ m ∈ (identOf s d).trees) ∧
           t = { s with sup := { s.sup with nIdent := t.sup.nIdent, sIdent := t.sup.sIdent } } ∧
           identOf t (otherSide d) = identOf s (otherSide d)) ∧
       (canSign s d = false →
         ∃ t, exec (.bottomTreeReady d) s = .next t ∧ canSign t d = true ∧
           t = { s with sup := { s.sup with nIdent := t.sup.nIdent, sIdent := t.sup.sIdent } } ∧
           identOf t (otherSide d) = identOf s (otherSide d))))

/-! ### Memory events, links, sideband, test access -/

/-- R272, R276 to R279: a scrub read takes the line at the position of its home or stack, and the position goes on to the
next. For a line that is not poisoned: clean, it counts nothing; corrected, it counts in ERR_CORR, and the third of three
consecutive passes that correct a line of a Borug row records the row for sparing (which lines make a row, and that a row
counts once a pass, is the model's choice, log 65); uncorrectable, it poisons the line and records it. It changes no byte.
R132, R278, R280, R282, R283: a request that times out is counted and its stack retrains; the oldest row request for that
line ends, or, where none is, a collective whose request waits for the line (that the oldest one is meant is the model's
reading, log 85). Retraining that succeeds poisons the lines of unacknowledged writes, and failing takes the stack offline
and answers the row requests that wait for it (without collectives here, which go on then); a recovery scrub clears its
pending bit, and a line that it finds uncorrectable is poisoned. No byte changes. -/
def Obligations.MemoryEvents : Prop :=
  (
    ∀ (s : State) (ks : Bool) (u : Fin 32) (p : ErrPat) (ov : Bool),
      (let j := scrubIdx ks u.val
       let i := s.mem.scrubPos.getD j 0
       let line := unitLine ks u.val i
       memoryUp s = true → (ks = true → u.val < 4) → offlineAt s (line * 64) = false → poisoned s line = false →
       ∃ t, exec (.scrubRead ⟨ks, u⟩ ⟨p, ov⟩) s = .next t ∧
         t.mem.scrubPos = s.mem.scrubPos.set j (if unitLines ks ≤ i + 1 then 0 else i + 1) ∧
         (readRes p = .clean →
           t = { s with mem := { s.mem with scrubPos := t.mem.scrubPos, scrubPass := t.mem.scrubPass } }) ∧
         (readRes p = .corrected → t.mem.dev = s.mem.dev ∧ t.mem.poison = s.mem.poison ∧
           t.regs = { s.regs with corr := BitVec.ofNat 32 (min (2 ^ 32 - 1) (s.regs.corr.toNat + 1)) } ∧
           (∀ n pass, inBorug (line * 64) = true → s.mem.rowFix.find? (fun x => decide (x.1 = Config.borugRow line)) =
               some (Config.borugRow line, n, pass) → pass + 1 = s.mem.scrubPass.getD j 0 → 2 ≤ n → Config.borugRow line ∈ t.mem.spare)) ∧
         (readRes p = .uncorrectable → poisoned t line = true ∧ t.mem.dev = s.mem.dev ∧
           t.regs.uncorr.toNat = min (2 ^ 16 - 1) (s.regs.uncorr.toNat + 1) ∧
           (line * 64 < 2 ^ 48 → t.regs.lastAddr.toNat = line * 64) ∧ t.regs.lastKind = 1))) ∧
  (
    (∀ (s : State) (line : Nat) (w : Bool), memoryUp s = true → inBorug (line * 64) = true → offlineAt s (line * 64) = false →
      (s.dom.cols = [] →
      ∃ t, exec (.lowerTierTimeout line w) s = .next t ∧ stackOf (line * 64) ∈ t.mem.retrain ∧ (w = true → line ∈ t.mem.lateWrites) ∧
        (w = false → ∀ r, s.mem.passHeld.find? (fun y => y.lines.contains line) = some r →
          t.mem.passHeld = s.mem.passHeld.erase r ∧ t.mem.timedOut = s.mem.timedOut ++ [(r.c, r.row, line)] ∧
          t.mem.gathered = s.mem.gathered ++ [(r.c, r.row)]) ∧
        t.regs = { s.regs with timeouts := BitVec.ofNat 16 (min (2 ^ 16 - 1) (s.regs.timeouts.toNat + 1)),
                               lastAddr := BitVec.ofNat 48 (line * 64), lastKind := 2 } ∧
        t = { s with regs := t.regs, mem := { s.mem with retrain := t.mem.retrain, lateWrites := t.mem.lateWrites,
                                                         passHeld := t.mem.passHeld, timedOut := t.mem.timedOut,
                                                         gathered := t.mem.gathered } }) ∧
      (∀ (c : CmdRef) (k : Cmd), w = true ∨ (∀ y ∈ s.mem.passHeld, line ∉ y.lines) → collHeld s line w = some c →
        cmdOf s c = some k → k.ph ≠ .done →
        ∃ t, exec (.lowerTierTimeout line w) s = .next t ∧ endsAs t c stTimeout (((collOf s c).map collReply).getD 0) ∧
          collOf t c = none ∧ t.mem.dev = s.mem.dev ∧ t.mem.ob = s.mem.ob)) ∧
    (∀ (s : State) (k : Fin 32), k.val ∈ s.mem.retrain → s.dom.inbox = [] → s.dom.cols = [] →
      (∃ t, exec (.stackRetrainEnd k true) s = .next t ∧ k.val ∉ t.mem.retrain ∧ t.regs.offline = s.regs.offline ∧
        (∀ l ∈ s.mem.lateWrites, stackOf (l * 64) = k.val → poisoned t l = true) ∧
        (∀ l, poisoned s l = true → poisoned t l = true) ∧ t.mem.dev = s.mem.dev ∧ t.mem.ob = s.mem.ob) ∧
      (∃ t, exec (.stackRetrainEnd k false) s = .next t ∧ k.val ∉ t.mem.retrain ∧ t.regs.offline.getLsbD k.val = true ∧
        (∀ i, i ≠ k.val → t.regs.offline.getLsbD i = s.regs.offline.getLsbD i) ∧ t.mem.poison = s.mem.poison ∧
        (∀ y ∈ s.mem.passHeld ++ s.mem.passWait, (∃ l ∈ y.lines, inBorug (l * 64) = true ∧ stackOf (l * 64) = k.val) →
          y ∉ t.mem.passHeld ∧ y ∉ t.mem.passWait ∧ (y.c, y.row) ∈ t.mem.gathered) ∧
        t.mem.dev = s.mem.dev ∧ t.mem.ob = s.mem.ob)) ∧
    (∀ (s : State) (ks : Bool) (u : Fin 32), (ks, u.val) ∈ s.mem.scrubs →
      (∃ t, exec (.recoveryScrubEnd ks u []) s = .next t ∧ (ks, u.val) ∉ t.mem.scrubs ∧
        (if ks = true then t.regs.ksPend.getLsbD u.val = false else t.regs.bgPend.getLsbD u.val = false) ∧
        t.mem.poison = s.mem.poison ∧ t.mem.dev = s.mem.dev ∧ t.mem.ob = s.mem.ob) ∧
      (∀ (line : Nat) (p : ErrPat), readRes p = .uncorrectable → inUnit ks u.val line = true → poisoned s line = false →
        ∃ t, exec (.recoveryScrubEnd ks u [(line, p)]) s = .next t ∧ poisoned t line = true ∧
          (∀ l, l ≠ line → poisoned t l = poisoned s l) ∧ t.mem.dev = s.mem.dev ∧ t.mem.ob = s.mem.ob)))

/-- R14, R131: a row that arrives frees its pass-through lines and lets its thread go on, with a poisoned line of it noted as
bad; the oldest request that waits at a store die takes its lines when they are free. R359, R361, R362: the Emcia link goes
down, and comes up at the trained width and generation; each held interrupt message then stands in its slot of companion
memory, with the count of that moment, or is logged as dropped where the slots lie outside the window (vector 5, which the
return itself sends, apart). -/
def Obligations.RowsAndLink : Prop :=
  (∀ (s : State) (c : CmdRef) (row : Nat), (∃ y ∈ s.mem.passHeld, y.c = c ∧ y.row = row) →
    (∀ y ∈ s.mem.passWait, ¬ (y.c = c ∧ y.row = row)) →
    ((∀ y ∈ s.mem.passHeld, y.c = c → y.row = row → ∀ l ∈ y.lines, poisoned s l = false) →
      exec (.gatherRowArrival c row) s = .next { s with mem := { s.mem with
      passHeld := s.mem.passHeld.filter (fun y => !(decide (y.c = c) && decide (y.row = row))),
      gathered := s.mem.gathered ++ [(c, row)] } }) ∧
    (∀ (y : RowReq) (l : Nat), y ∈ s.mem.passHeld → y.c = c → y.row = row → l ∈ y.lines → poisoned s l = true →
      ∃ t, exec (.gatherRowArrival c row) s = .next t ∧ (c, row, l) ∈ t.mem.rowBad ∧ (c, row) ∈ t.mem.gathered ∧
        t.mem.passHeld = s.mem.passHeld.filter (fun z => !(decide (z.c = c) && decide (z.row = row))) ∧
        t.mem.dev = s.mem.dev ∧ t.mem.ob = s.mem.ob)) ∧
  (∀ (s : State) (d : Fin 4) (pre post : List RowReq) (y : RowReq),
    s.mem.passWait = pre ++ y :: post → (∀ z ∈ pre, z.die ≠ d.val) → y.die = d.val → y.lines.length ≤ passFree s d.val →
    exec (.passThroughGrant d) s = .next { s with mem := { s.mem with
      passHeld := s.mem.passHeld ++ [y], passWait := pre ++ post } }) ∧
  (∀ s : State, s.link.up = true → exec .emciaLinkDown s = .next { s with link :=
    { up := false, gen := 0, lanes := 0, downs := min (2 ^ 16 - 1) (s.link.downs + 1) } }) ∧
  (∀ (s : State) (gen : BitVec 2) (lanes : BitVec 32), linkTries s = true → 2 ≤ gen.toNat → trainedLanes lanes ≠ 0 →
    ∃ t, exec (.emciaLinkUp gen lanes) s = .next t ∧
      t.link = { s.link with up := true, gen := gen.toNat, lanes := trainedLanes lanes } ∧ t.queues = { s.queues with irqHeld := [] } ∧
      (s.regs.irqEn = true → s.mem.wf = true → spanWin s.regs.irqAddr.toNat 0x10000 = true → (s.queues.irqHeld.map (·.1)).Nodup →
        (∀ x ∈ s.queues.irqHeld, x.1 < 4096) → ∀ x ∈ s.queues.irqHeld, x.1 ≠ 5 ∨ s.regs.evEn.getLsbD 5 = false →
        memRead 0 t.mem.comp (compAddr s (s.regs.irqAddr.toNat + 16 * x.1)) 16 =
          leBytes 8 (x.1 + x.2 <<< 16) ++ leBytes 8 s.time.now.toNat) ∧
      (s.regs.irqEn = true → spanWin s.regs.irqAddr.toNat 0x10000 = false →
        ∀ x ∈ s.queues.irqHeld, .irqDropped x.1 ∈ t.regs.errLog) ∧
      t.mem.dev = s.mem.dev ∧ t.mem.ob = s.mem.ob ∧ t.sup = s.sup ∧ t.time = s.time)

/-- R458, R459: on the sideband the module answers reads at its own address with the value of the code, a byte count before
the eight bytes of SERIAL, and the PEC of the transaction behind it, from INSTAR to OFF; it answers nothing else, and no read
changes anything but the answer. A read of the Alert Response Address while SB_ALERT_N is asserted returns the module's
address and releases it. (The PEC, the address in the high seven bits and the open low bit are log 77's; that nothing is
answered after a release of MOD_RESET_N that broke R448 is log 66's reading.) R455: IDCODE reads 0x12532B47 in every die; an
instruction other than BYPASS and IDCODE takes effect only while MOD_RESET_N is asserted, and otherwise the die loads BYPASS
in its place. -/
def Obligations.SidebandAndTestAccess : Prop :=
  (
    (∀ (s : State) (a : BitVec 7) (i : BitVec 7 → Instr) (code : Byte) (data : List Byte),
      (i, code, data) ∈ [(Instr.modId, 0x00#8, leBytes 2 0x2532), (.stepping, 0x01, leBytes 1 0xA1),
        (.dstate, 0x02, leBytes 1 s.sup.dstate.code), (.status, 0x03, leBytes 1 (statusByte s)),
        (.vin, 0x04, leBytes 2 s.power.vin.toNat), (.iin, 0x05, leBytes 2 s.power.iin.toNat), (.power, 0x06, leBytes 2 s.tgl.powerW),
        (.tempMax, 0x07, leBytes 2 (s.tgl.dieTemp.foldl max 0)), (.lastOff, 0x08, leBytes 1 s.power.lastOff.toNat),
        (.bootFail, 0x09, leBytes 1 s.sup.fail), (.serial, 0x0A, 8 :: leBytes 8 (bootSerial (bootNow s)))] →
      (let b := BitVec.ofNat 8 (2 * a.toNat)
       let answer := if s.sup.dstate ≠ .off ∧ s.power.badRelease = false ∧ a.toNat = 0x58 + s.power.sbAddr.toNat then
         some (withPec [b, code, b + 1] data) else none
       exec (i a) s = .next { s with power := { s.power with smb := answer } })) ∧
    (∀ s : State, (∀ i ∈ [Instr.smbusReject, .smbusTimeout], exec i s = .next { s with power := { s.power with smb := none } }) ∧
      (s.sup.dstate ≠ .off → s.power.badRelease = false → s.power.alert = true →
        (let b := BitVec.ofNat 8 (2 * (0x58 + s.power.sbAddr.toNat) + ofBool Config.alertBit)
         exec .smbusAlertResponse s = .next { s with power := { s.power with alert := false, smb := some (withPec [0x19] [b]) } })))) ∧
  (
    ∀ (s : State) (d : Fin 5), s.power.pgood = true →
      exec (.idcode d) s = .next { s with power := { s.power with tap := s.power.tap.set d.val .idcode, tdo := 0x12532B47 } } ∧
      exec (.bypass d) s = .next { s with power := { s.power with tap := s.power.tap.set d.val .bypass, tdo := 0 } } ∧
      (∀ (i : Instr) (y : Tap), (i, y) ∈ [(Instr.samplePreload d, Tap.sample), (.extest d, .extest), (.clamp d, .clamp), (.highz d, .highz)] →
        (s.power.resetN = true →
          exec i s = .next { s with power := { s.power with tap := s.power.tap.set d.val .bypass, tdo := 0 } }) ∧
        (s.power.resetN = false → ∃ t, exec i s = .next t ∧ t.power.tap = s.power.tap.set d.val y ∧
          t = { s with power := { s.power with tap := t.power.tap, tdo := t.power.tdo }, freeCtr := t.freeCtr })))

/-! ### Addresses, numbers, speculation, poison -/

/-- R35: the stack of a Borug address, and the byte in the stack. -/
def Obligations.BorugAddresses : Prop :=
  ∀ a : Nat, a < 0x018000000000 →
    (let q := a / 0x006000000000
     let off := a - q * 0x006000000000
     quadOf a = q ∧ q < 4 ∧ stackOf a = 8 * q + ((off >>> 11) &&& 7) ∧ stackByte a = ((off >>> 14) <<< 11 ||| (off &&& 0x7FF)) ∧
     (∀ b, b < 0x018000000000 → stackOf b = stackOf a → stackByte b = stackByte a → b = a))

/-- R44: a block scale of 0x00 to 0xFE multiplies the element by 2^(x - 127); a block scale of 0xFF makes every element NaN.
R57: partial sums combine in a pairwise tree: one partial is the result; of more, neighbours 2i and 2i + 1 make partial i of
the next level, and an odd last one passes unchanged. A dot product is that tree over its grains with rounded addition. -/
def Obligations.BlockScalesAndTrees : Prop :=
  (
    ∀ (k : Elem) (c x : Nat), x < 256 →
      (x ≠ 255 → Fmt.value (.mx k) c x = (k.decode c).mul (.fin 1 ((x : Int) - 127)) ∧
        Fmt.value (.tb k) c x = (k.decode c).mul (.fin 1 ((x : Int) - 127))) ∧
      (x = 255 → Fmt.value (.mx k) c x = .nan ∧ Fmt.value (.tb k) c x = .nan ∧ Fmt.load (.mx k) c x = nan32 ∧
        Fmt.load (.tb k) c x = nan32)) ∧
  (
    (∀ (f : Word → Word → Word) (z x : Word), tree f z [x] = x) ∧
    (∀ (f : Word → Word → Word) (z : Word) (l : List Word), 2 ≤ l.length → tree f z l = tree f z (treeLevel f l) ∧
      (treeLevel f l).length = (l.length + 1) / 2 ∧
      (∀ i, 2 * i + 1 < l.length → (treeLevel f l)[i]? = some (f (l.getD (2 * i) z) (l.getD (2 * i + 1) z))) ∧
      (l.length % 2 = 1 → (treeLevel f l)[l.length / 2]? = l.getLast?)) ∧
    (∀ (d : DotMode) (a b : Nat → Ext) (k gk : Nat), 0 < gk → dot d a b k gk =
      tree fadd 0 ((List.range ((k + gk - 1) / gk)).map fun g => grain d a b (g * gk) (min k ((g + 1) * gk)))))

/-- R376: a read by a task of a granule that its Cocoon shadows gives the copy; a read by any other command, of another
speculative task too, gives the original. -/
def Obligations.CocoonsAreTheirTasksOwn : Prop :=
  ∀ (s : State) (a : Nat), inWin a = false →
    (∀ (q : QRef) (n : Nat) (k : Cocoon) (g : Granule), cocoonOf s (some (q, n)) = some k → k.granule (a / 4096) = some g →
      k.q = q ∧ k.task = n ∧ readByte s (some (q, n)) a = memGet 0 s.mem.dev (g.copy * 4096 + a % 4096)) ∧
    (∀ o : Owner, (∀ k ∈ s.cocoons, o = some (k.q, k.task) → k.granule (a / 4096) = none) →
      readByte s o a = memGet 0 s.mem.dev a)

/-- R375: the first write of a speculative task into a granule shadows it: the task then reads what it wrote and the rest of
the granule as before, and no byte outside the granule that the pool gives changes. R273: a read of a poisoned line fails as
uncorrectable; a write of the whole line clears the poison and takes place; a shorter write fails with ST_MEM_UNCORRECTABLE,
leaves the line poisoned and writes nothing. (For a task without a Cocoon, at an address of a stack that answers.) -/
def Obligations.SpeculationAndPoison : Prop :=
  (
    ∀ (s : State) (q : QRef) (n : Nat) (k : Cocoon) (e : Circ) (a c : Nat) (bs : List Byte),
      cocoonOf s (some (q, n)) = some k → k.granule (a / 4096) = none → k.nextFree (a / 4096) = some c → healthy s e →
      s.mem.wf = true → spanMem a 1 = true → spanMem (c * 4096) 4096 = true → a % 64 + bs.length ≤ 64 → c ≠ a / 4096 →
      (∀ j ∈ s.cocoons, j.num = k.num → j = k) →
      ∃ t, putLine (some (q, n)) e a bs s = (t, 0) ∧ readBytes t (some (q, n)) a bs.length = bs ∧
        (∀ b, b / 4096 = a / 4096 → b < a ∨ a + bs.length ≤ b → readByte t (some (q, n)) b = memGet 0 s.mem.dev b) ∧
        (∀ b, b / 4096 ≠ c → memGet 0 t.mem.dev b = memGet 0 s.mem.dev b)) ∧
  (
    ∀ (s : State) (o : Owner) (e : Circ) (a : Nat) (bs : List Byte), cocoonOf s o = none → spanMem a 1 = true →
      poisoned s (a / 64) = true → offlineAt s a = false → e.late = [] → e.gone = [] → s.mem.wf = true →
      lineFault s o e a = stUncorr ∧
      (a % 64 = 0 → bs.length = 64 → ∃ t, putLine o e a bs s = (t, 0) ∧ poisoned t (a / 64) = false ∧
        memRead 0 t.mem.dev a 64 = bs) ∧
      (bs.length < 64 → ∃ t, putLine o e a bs s = (t, stUncorr) ∧ poisoned t (a / 64) = true ∧ t.mem.dev = s.mem.dev))
end

