-- ==== Sys2Proof/Laws/Memory.lean ====
section
/-!
SUPPORT. Byte memories: reads after writes, and the canonical form, which every memory operation keeps.
-/
namespace Sys2Proof.Machine

/-! ### Canonical lists -/

/-- A canonical list: its head is no unlisted byte, every later address is above it, its tail is canonical. -/
theorem wfOf_cons {z : Byte} {k : Nat} {b : Byte} {r : Mem} :
    Memory.wfOf z ((k, b) :: r) = true ↔ b ≠ z ∧ (∀ x ∈ r, k < x.1) ∧ Memory.wfOf z r = true := by
  simp [Memory.wfOf, and_assoc]

/-- Below every listed address a memory reads as unlisted. -/
theorem memGet_below {z : Byte} {m : Mem} {a : Nat} (h : ∀ x ∈ m, a < x.1) : memGet z m a = z := by
  cases m with
  | nil => rfl
  | cons x r =>
    have h1 := h x (by simp)
    simp [memGet, Nat.ne_of_lt h1, h1]

/-- A written address is the written one or was listed. -/
theorem mem_memSet {z : Byte} {m : Mem} {a : Nat} {b : Byte} {x : Nat × Byte} (h : x ∈ memSet z m a b) :
    x = (a, b) ∨ x ∈ m := by
  induction m with
  | nil =>
    by_cases hb : b = z <;> simp [memSet, hb] at h
    exact .inl h
  | cons y r ih =>
    obtain ⟨k, c⟩ := y
    rw [memSet] at h
    split at h
    · split at h
      · exact .inr h
      · rcases List.mem_cons.1 h with h | h
        · exact .inl h
        · exact .inr h
    · split at h
      · split at h
        · exact .inr (List.mem_cons_of_mem _ h)
        · rename_i h1 h2 h3
          rcases List.mem_cons.1 h with h | h
          · subst h2; exact .inl h
          · exact .inr (List.mem_cons_of_mem _ h)
      · rcases List.mem_cons.1 h with h | h
        · exact .inr (by simp [h])
        · rcases ih h with h | h
          · exact .inl h
          · exact .inr (List.mem_cons_of_mem _ h)

/-- A write keeps the canonical form. -/
theorem memSet_wf {z : Byte} {m : Mem} (a : Nat) (b : Byte) (h : Memory.wfOf z m = true) :
    Memory.wfOf z (memSet z m a b) = true := by
  induction m with
  | nil => by_cases hb : b = z <;> simp [memSet, Memory.wfOf, hb]
  | cons y r ih =>
    obtain ⟨k, c⟩ := y
    obtain ⟨hc, hk, hr⟩ := wfOf_cons.1 h
    rw [memSet]
    split
    · rename_i hak
      split
      · exact h
      · rename_i hb
        refine wfOf_cons.2 ⟨hb, fun x hx => ?_, h⟩
        rcases List.mem_cons.1 hx with rfl | hx
        · exact hak
        · exact Nat.lt_trans hak (hk x hx)
    · split
      · split
        · exact hr
        · rename_i hb
          exact wfOf_cons.2 ⟨hb, hk, hr⟩
      · rename_i h1 h2
        refine wfOf_cons.2 ⟨hc, fun x hx => ?_, ih hr⟩
        rcases mem_memSet hx with rfl | hx
        · show k < a
          omega
        · exact hk x hx

/-- A read after a write: the written byte at its address, every other byte as before. -/
theorem memGet_memSet {z : Byte} {m : Mem} (a : Nat) (b : Byte) (x : Nat) (h : Memory.wfOf z m = true) :
    memGet z (memSet z m a b) x = if x = a then b else memGet z m x := by
  induction m with
  | nil =>
    by_cases hb : b = z <;> by_cases hx : x = a <;> simp [memSet, memGet, hb, hx]
  | cons y r ih =>
    obtain ⟨k, c⟩ := y
    obtain ⟨hc, hk, hr⟩ := wfOf_cons.1 h
    rw [memSet]
    split
    · rename_i hak
      split
      · rename_i hb
        split
        · rename_i hx
          subst hx
          rw [hb, memGet_below]
          intro y hy
          rcases List.mem_cons.1 hy with rfl | hy
          · exact hak
          · exact Nat.lt_trans hak (hk y hy)
        · rfl
      · rename_i hb
        rw [memGet]
        split
        · rfl
        · split
          · rename_i hx hlt
            rw [memGet_below]
            intro y hy
            rcases List.mem_cons.1 hy with rfl | hy
            · exact Nat.lt_trans hlt hak
            · exact Nat.lt_trans hlt (Nat.lt_trans hak (hk y hy))
          · rfl
    · split
      · rename_i h1 h2
        subst h2
        split
        · rename_i hb
          split
          · rename_i hx
            subst hx
            rw [hb, memGet_below hk]
          · rename_i hx
            rw [memGet]
            simp only [hx, if_false]
            split
            · rename_i hlt
              exact memGet_below fun y hy => Nat.lt_trans hlt (hk y hy)
            · rfl
        · by_cases hx : x = a <;> simp [memGet, hx]
      · rename_i h1 h2
        rw [memGet, ih hr, memGet]
        by_cases hx : x = k
        · subst hx
          have : ¬ x = a := fun e => h2 e.symm
          simp [this]
        · simp only [hx, if_false]
          by_cases hlt : x < k
          · have : ¬ x = a := by omega
            simp [hlt, this]
          · simp [hlt]

/-- A write of several bytes keeps the canonical form. -/
theorem memWrite_wf {z : Byte} (bs : List Byte) {m : Mem} (a : Nat) (h : Memory.wfOf z m = true) :
    Memory.wfOf z (memWrite z m a bs) = true := by
  induction bs generalizing m a with
  | nil => exact h
  | cons b r ih => exact ih (a + 1) (memSet_wf a b h)

/-- A read after a write of several bytes. -/
theorem memGet_memWrite {z : Byte} (bs : List Byte) {m : Mem} (a x : Nat) (h : Memory.wfOf z m = true) :
    memGet z (memWrite z m a bs) x = if a ≤ x ∧ x < a + bs.length then bs.getD (x - a) z else memGet z m x := by
  induction bs generalizing m a with
  | nil =>
    simp [memWrite]
  | cons b r ih =>
    rw [memWrite, ih (a + 1) (memSet_wf a b h), memGet_memSet a b x h]
    by_cases h1 : a + 1 ≤ x ∧ x < a + 1 + r.length
    · have h2 : a ≤ x ∧ x < a + (b :: r).length := by simp only [List.length_cons]; omega
      obtain ⟨n, hn⟩ : ∃ n, x - a = n + 1 := ⟨x - a - 1, by omega⟩
      have h3 : x - (a + 1) = n := by omega
      rw [if_pos h1, if_pos h2, h3, hn, List.getD_cons_succ]
    · by_cases h2 : x = a
      · subst h2
        simp
      · have h3 : ¬ (a ≤ x ∧ x < a + (b :: r).length) := by simp only [List.length_cons]; omega
        rw [if_neg h1, if_neg h2, if_neg h3]

/-- Leaving entries out keeps the canonical form. -/
theorem filter_wf {z : Byte} (f : Nat × Byte → Bool) {m : Mem} (h : Memory.wfOf z m = true) :
    Memory.wfOf z (m.filter f) = true := by
  induction m with
  | nil => rfl
  | cons y r ih =>
    obtain ⟨k, c⟩ := y
    obtain ⟨hc, hk, hr⟩ := wfOf_cons.1 h
    by_cases hf : f (k, c) = true
    · rw [List.filter_cons_of_pos hf]
      exact wfOf_cons.2 ⟨hc, fun x hx => hk x (List.mem_of_mem_filter hx), ih hr⟩
    · rw [List.filter_cons_of_neg hf]
      exact ih hr

theorem memClear_wf {z : Byte} {m : Mem} (a n : Nat) (h : Memory.wfOf z m = true) :
    Memory.wfOf z (memClear m a n) = true := filter_wf _ h

/-- Byte by byte writes keep the canonical form. -/
theorem foldl_memSet_wf {z : Byte} {α : Type} (f : α → Nat) (g : α → Byte) (l : List α) {m : Mem}
    (h : Memory.wfOf z m = true) : Memory.wfOf z (l.foldl (fun m x => memSet z m (f x) (g x)) m) = true := by
  induction l generalizing m with
  | nil => exact h
  | cons x r ih => exact ih (memSet_wf _ _ h)

/-- A mixture of two memories is canonical. -/
theorem mixMem_wf (pick : Nat → Bool) {old new : Mem} (h : Memory.wfOf 0 old = true) :
    Memory.wfOf 0 (mixMem pick old new) = true :=
  foldl_memSet_wf (fun x : Nat × Byte => x.1) (fun x => x.2) _ (filter_wf _ h)

/-! ### The three memories of a state -/

/-- The memories of a state are canonical. -/
def State.memOk (s : State) : Prop := s.mem.wf = true

theorem memOk_iff {s : State} :
    s.memOk ↔ Memory.wfOf 0 s.mem.dev = true ∧ Memory.wfOf 0 s.mem.comp = true ∧ Memory.wfOf 0 s.mem.ob = true := by
  simp [State.memOk, Memory.wf, and_assoc]

theorem memOk_of_mem {s t : State} (h : t.mem.dev = s.mem.dev ∧ t.mem.comp = s.mem.comp ∧ t.mem.ob = s.mem.ob)
    (hs : s.memOk) : t.memOk := by
  rw [memOk_iff] at *
  rw [h.1, h.2.1, h.2.2]
  exact hs

theorem memOk_of_eq {s t : State} (h : t.mem = s.mem) (hs : s.memOk) : t.memOk := memOk_of_mem (by simp [h]) hs

theorem setDev_memOk {s : State} {m : Mem} (h : s.memOk) (hm : Memory.wfOf 0 m = true) : (s.setDev m).memOk := by
  rw [memOk_iff] at *
  exact ⟨hm, h.2⟩

theorem setComp_memOk {s : State} {m : Mem} (h : s.memOk) (hm : Memory.wfOf 0 m = true) : (s.setComp m).memOk := by
  rw [memOk_iff] at *
  exact ⟨h.1, hm, h.2.2⟩

theorem setOb_memOk {s : State} {m : Mem} (h : s.memOk) (hm : Memory.wfOf 0 m = true) : (s.setOb m).memOk := by
  rw [memOk_iff] at *
  exact ⟨h.1, h.2.1, hm⟩

theorem putRaw_memOk {s : State} (a : Nat) (bs : List Byte) (h : s.memOk) : (putRaw a bs s).memOk :=
  setDev_memOk h (memWrite_wf _ _ (memOk_iff.1 h).1)

theorem putComp_memOk {s : State} (a : Nat) (bs : List Byte) (h : s.memOk) : (putComp a bs s).memOk :=
  setComp_memOk h (memWrite_wf _ _ (memOk_iff.1 h).2.1)

theorem putOb_memOk {s : State} (core off : Nat) (bs : List Byte) (h : s.memOk) : (putOb core off bs s).memOk :=
  setOb_memOk h (memWrite_wf _ _ (memOk_iff.1 h).2.2)

theorem setPoison_memOk {s : State} (l : List Nat) (h : s.memOk) : (s.setPoison l).memOk :=
  memOk_of_mem ⟨rfl, rfl, rfl⟩ h

/-- A fold of steps that each keep the memories canonical keeps them canonical. -/
theorem foldl_memOk {α : Type} {f : State → α → State} (hf : ∀ s x, s.memOk → (f s x).memOk) (l : List α) {s : State}
    (h : s.memOk) : (l.foldl f s).memOk := by
  induction l generalizing s with
  | nil => exact h
  | cons x r ih => exact ih (hf s x h)

/-! ### Interrupt messages and memory events -/

theorem writeIrq_memOk {s : State} (v q : Nat) (h : s.memOk) : (writeIrq v q s).memOk := by
  unfold writeIrq
  split
  · exact putComp_memOk _ _ h
  · exact h

theorem sendIrq_memOk {s : State} (v q : Nat) (h : s.memOk) : (sendIrq v q s).memOk := by
  unfold sendIrq
  repeat' split
  all_goals first
    | exact writeIrq_memOk _ _ h
    | exact h

theorem devIrq_memOk {s : State} (v : Nat) (h : s.memOk) : (devIrq v s).memOk := by
  unfold devIrq
  split
  · exact sendIrq_memOk _ _ h
  · exact h

theorem refreshAlert_memOk {s : State} (h : s.memOk) : (refreshAlert s).memOk := h

theorem setDState_memOk {s : State} (d : DState) (h : s.memOk) : (setDState d s).memOk := by
  unfold setDState
  split
  · exact h
  · exact refreshAlert_memOk (devIrq_memOk (s := { s with sup := { s.sup with dstate := d } }) 0 h)

theorem startScrubs_memOk {s : State} (h : s.memOk) : (startScrubs s).memOk := by
  simp only [startScrubs]
  split
  · exact h
  · apply devIrq_memOk
    exact memOk_of_mem ⟨rfl, rfl, rfl⟩ h

theorem markScrub_memOk {s : State} (l : Nat) (h : s.memOk) : (markScrub l s).memOk := by
  simp only [markScrub]
  repeat' split
  all_goals first
    | exact startScrubs_memOk (memOk_of_eq (s := s) rfl h)
    | exact h

theorem poisonLine_memOk {s : State} (l : Nat) (h : s.memOk) : (poisonLine l s).memOk := by
  unfold poisonLine
  split
  · exact h
  · apply devIrq_memOk
    exact memOk_of_eq rfl (markScrub_memOk l (setPoison_memOk _ h))

theorem noteUncorr_memOk {s : State} (l : Nat) (h : s.memOk) : (noteUncorr l s).memOk := by
  apply poisonLine_memOk
  exact memOk_of_eq rfl h

theorem noteTimeout_memOk {s : State} (l : Nat) (w : Bool) (h : s.memOk) : (noteTimeout l w s).memOk :=
  memOk_of_mem ⟨rfl, rfl, rfl⟩ h

theorem noteCorr_memOk {s : State} (n : Nat) (h : s.memOk) : (noteCorr n s).memOk := memOk_of_eq rfl h

theorem noteRead_memOk {s : State} (o : Owner) (e : Circ) (a : Nat) (h : s.memOk) : (noteRead o e s a).memOk := by
  simp only [noteRead]
  repeat' split
  · exact h
  · exact h
  · exact noteUncorr_memOk _ h
  · exact noteTimeout_memOk _ _ h
  · exact noteCorr_memOk _ h
  · exact h

theorem noteServed_memOk {s : State} (o : Owner) (e : Circ) (a : Nat) (h : s.memOk) : (noteServed o e s a).memOk := by
  unfold noteServed
  dsimp only
  repeat' split
  all_goals first
    | exact h
    | exact noteUncorr_memOk _ h

theorem noteReads_memOk {s : State} (o : Owner) (e : Circ) (l : List (Nat × Nat)) (h : s.memOk) :
    (noteReads o e l s).memOk := by
  unfold noteReads
  split
  · exact h
  · exact foldl_memOk (fun t x ht => noteRead_memOk o e _ ht) _ h

/-! ### Lines and Cocoons -/

theorem putCocoon_memOk {s : State} (k : Cocoon) (h : s.memOk) : (putCocoon k s).memOk := h

theorem copyLine_memOk {s : State} (e : Circ) (a b : Nat) (h : s.memOk) : (copyLine e a b s).memOk := by
  simp only [copyLine]
  apply setPoison_memOk
  apply putRaw_memOk
  repeat' split
  · exact h
  · exact noteUncorr_memOk _ h
  · exact noteCorr_memOk _ h
  · exact h

theorem copyGranule_memOk {s : State} (e : Circ) (a b : Nat) (h : s.memOk) : (copyGranule e a b s).memOk :=
  foldl_memOk (fun _ _ ht => copyLine_memOk e _ _ ht) _ h

theorem shadow_memOk {s t : State} (o : Owner) (e : Circ) (a : Nat) (h : s.memOk) (ht : shadow o e a s = some t) :
    t.memOk := by
  unfold shadow at ht
  repeat' split at ht
  · cases ht; exact h
  · cases ht; exact h
  · cases ht
  · exact Option.some.inj ht ▸ putCocoon_memOk _ (copyGranule_memOk e _ _ h)

theorem markLine_memOk {s : State} (o : Owner) (a : Nat) (h : s.memOk) : (markLine o a s).memOk := by
  unfold markLine
  split
  · exact h
  · exact putCocoon_memOk _ h

theorem putLine_memOk {s : State} (o : Owner) (e : Circ) (a : Nat) (bs : List Byte) (h : s.memOk) :
    (putLine o e a bs s).1.memOk := by
  unfold putLine
  split
  · split
    · exact putComp_memOk _ _ h
    · exact h
  · split
    · exact h
    · rename_i t ht
      have h1 := shadow_memOk o e a h ht
      simp only
      repeat' split
      · exact h1
      · exact noteTimeout_memOk _ _ h1
      · exact noteUncorr_memOk _ h1
      · exact markLine_memOk _ _ (setPoison_memOk _ (putRaw_memOk _ _ (noteCorr_memOk _ h1)))
      · exact markLine_memOk _ _ (setPoison_memOk _ (putRaw_memOk _ _ h1))

theorem putSpan_memOk (o : Owner) (e : Circ) (l : List (Nat × List Byte)) {s : State} (h : s.memOk) :
    (putSpan o e l s).1.memOk := by
  induction l generalizing s with
  | nil => exact h
  | cons x r ih =>
    obtain ⟨a, bs⟩ := x
    have h1 := putLine_memOk o e a bs h
    rw [putSpan]
    split
    · rename_i t he
      rw [he] at h1
      exact ih h1
    · rename_i t st _ he
      rw [he] at h1
      exact h1

/-- A write of a device span keeps the memories canonical, whether or not it fails. -/
theorem putDev_memOk {s : State} (o : Owner) (e : Circ) (a : Nat) (bs : List Byte) (h : s.memOk) :
    (putDev o e a bs s).1.memOk := putSpan_memOk o e _ h

/-! ### Work by pieces -/

theorem putWr_memOk {s : State} (o : Owner) (e : Circ) (core : Nat) (w : Wr) (h : s.memOk) :
    (putWr o e core w s).1.memOk := by
  unfold putWr
  split
  · exact putOb_memOk _ _ _ h
  · exact putDev_memOk _ _ _ _ h

theorem putWrs_memOk (o : Owner) (e : Circ) (core : Nat) (l : List Wr) {s : State} (h : s.memOk) :
    (putWrs o e core l s).1.memOk := by
  induction l generalizing s with
  | nil => exact h
  | cons w r ih =>
    have h1 := putWr_memOk o e core w h
    rw [putWrs]
    split
    · rename_i t he
      rw [he] at h1
      exact ih h1
    · rename_i t f he
      rw [he] at h1
      exact h1

theorem putPieces_memOk (o : Owner) (e : Circ) (core stop : Nat) (l : List (Piece × Nat)) {s : State} (h : s.memOk) :
    (putPieces o e core stop l s).1.memOk := by
  induction l generalizing s with
  | nil => exact h
  | cons x r ih =>
    obtain ⟨p, i⟩ := x
    rw [putPieces]
    split
    · exact h
    · have h1 := putWrs_memOk o e core (p.writes.filter fun w => !(w.next && decide (stop ≤ i + 1))) h
      split
      · rename_i t he
        rw [he] at h1
        exact ih h1
      · rename_i t f he
        rw [he] at h1
        exact h1

theorem scatterWr_memOk {s : State} (o : Owner) (e : Circ) (core n : Nat) (w : Wr) (h : s.memOk) :
    (scatterWr o e core n w s).memOk := by
  unfold scatterWr
  split
  · refine foldl_memOk (fun t x ht => ?_) _ h
    split
    · exact setOb_memOk ht (memWrite_wf _ _ (memOk_iff.1 ht).2.2)
    · exact ht
  · refine foldl_memOk (fun t x ht => ?_) _ h
    split
    · exact putLine_memOk _ _ _ _ ht
    · exact ht

theorem scatter_memOk {s : State} (o : Owner) (e : Circ) (core : Nat) (ws : List Wr) (h : s.memOk) :
    (scatter o e core ws s).memOk :=
  foldl_memOk (fun _ w ht => scatterWr_memOk o e core _ w ht) _ h

theorem notePieces_memOk {s : State} (o : Owner) (e : Circ) (ps : List Piece) (h : s.memOk) : (notePieces o e ps s).memOk :=
  foldl_memOk (fun _ _ ht => noteServed_memOk o e _ ht) _ (noteReads_memOk o e _ h)

/-- A command's work by pieces keeps the memories canonical, whether or not a piece fails. -/
theorem runPieces_memOk {s : State} (mixed : Bool) (o : Owner) (e : Circ) (core : Nat) (ps : List Piece) (h : s.memOk) :
    (runPieces mixed o e core ps s).1.memOk := by
  unfold runPieces
  have h1 := putPieces_memOk o e core (((firstFault s o e ps).map (·.1)).getD ps.length) ps.zipIdx
    (notePieces_memOk o e (if mixed then ps else ps.take (((firstFault s o e ps).map (·.1)).getD ps.length + 1)) h)
  dsimp only
  split
  · exact h1
  · dsimp only
    by_cases hm : mixed = true
    · simp only [hm, if_true] at *
      exact scatter_memOk _ _ _ _ h1
    · simp only [hm, if_false, Bool.false_eq_true] at *
      exact h1

end Sys2Proof.Machine
end

