-- ==== Sys2Proof/Laws/State.lean ====
section
/-!
SUPPORT. Fields after updates: one lemma per field and update, true by computation, so that no proof unfolds a record update.
-/
namespace Sys2Proof.Machine

/-! ### setDev -/

@[simp] theorem setDev_pending (m : Mem) (s : State) : (s.setDev m).pending = s.pending := rfl
@[simp] theorem setDev_power (m : Mem) (s : State) : (s.setDev m).power = s.power := rfl
@[simp] theorem setDev_time (m : Mem) (s : State) : (s.setDev m).time = s.time := rfl
@[simp] theorem setDev_sup (m : Mem) (s : State) : (s.setDev m).sup = s.sup := rfl
@[simp] theorem setDev_regs (m : Mem) (s : State) : (s.setDev m).regs = s.regs := rfl
@[simp] theorem setDev_queues (m : Mem) (s : State) : (s.setDev m).queues = s.queues := rfl
@[simp] theorem setDev_cores (m : Mem) (s : State) : (s.setDev m).cores = s.cores := rfl
@[simp] theorem setDev_cocoons (m : Mem) (s : State) : (s.setDev m).cocoons = s.cocoons := rfl
@[simp] theorem setDev_luna (m : Mem) (s : State) : (s.setDev m).luna = s.luna := rfl
@[simp] theorem setDev_tgl (m : Mem) (s : State) : (s.setDev m).tgl = s.tgl := rfl
@[simp] theorem setDev_dom (m : Mem) (s : State) : (s.setDev m).dom = s.dom := rfl
@[simp] theorem setDev_img (m : Mem) (s : State) : (s.setDev m).img = s.img := rfl
@[simp] theorem setDev_media (m : Mem) (s : State) : (s.setDev m).media = s.media := rfl
@[simp] theorem setDev_link (m : Mem) (s : State) : (s.setDev m).link = s.link := rfl
@[simp] theorem setDev_freeCtr (m : Mem) (s : State) : (s.setDev m).freeCtr = s.freeCtr := rfl

/-! ### setComp -/

@[simp] theorem setComp_pending (m : Mem) (s : State) : (s.setComp m).pending = s.pending := rfl
@[simp] theorem setComp_power (m : Mem) (s : State) : (s.setComp m).power = s.power := rfl
@[simp] theorem setComp_time (m : Mem) (s : State) : (s.setComp m).time = s.time := rfl
@[simp] theorem setComp_sup (m : Mem) (s : State) : (s.setComp m).sup = s.sup := rfl
@[simp] theorem setComp_regs (m : Mem) (s : State) : (s.setComp m).regs = s.regs := rfl
@[simp] theorem setComp_queues (m : Mem) (s : State) : (s.setComp m).queues = s.queues := rfl
@[simp] theorem setComp_cores (m : Mem) (s : State) : (s.setComp m).cores = s.cores := rfl
@[simp] theorem setComp_cocoons (m : Mem) (s : State) : (s.setComp m).cocoons = s.cocoons := rfl
@[simp] theorem setComp_luna (m : Mem) (s : State) : (s.setComp m).luna = s.luna := rfl
@[simp] theorem setComp_tgl (m : Mem) (s : State) : (s.setComp m).tgl = s.tgl := rfl
@[simp] theorem setComp_dom (m : Mem) (s : State) : (s.setComp m).dom = s.dom := rfl
@[simp] theorem setComp_img (m : Mem) (s : State) : (s.setComp m).img = s.img := rfl
@[simp] theorem setComp_media (m : Mem) (s : State) : (s.setComp m).media = s.media := rfl
@[simp] theorem setComp_link (m : Mem) (s : State) : (s.setComp m).link = s.link := rfl
@[simp] theorem setComp_freeCtr (m : Mem) (s : State) : (s.setComp m).freeCtr = s.freeCtr := rfl

/-! ### setOb -/

@[simp] theorem setOb_pending (m : Mem) (s : State) : (s.setOb m).pending = s.pending := rfl
@[simp] theorem setOb_power (m : Mem) (s : State) : (s.setOb m).power = s.power := rfl
@[simp] theorem setOb_time (m : Mem) (s : State) : (s.setOb m).time = s.time := rfl
@[simp] theorem setOb_sup (m : Mem) (s : State) : (s.setOb m).sup = s.sup := rfl
@[simp] theorem setOb_regs (m : Mem) (s : State) : (s.setOb m).regs = s.regs := rfl
@[simp] theorem setOb_queues (m : Mem) (s : State) : (s.setOb m).queues = s.queues := rfl
@[simp] theorem setOb_cores (m : Mem) (s : State) : (s.setOb m).cores = s.cores := rfl
@[simp] theorem setOb_cocoons (m : Mem) (s : State) : (s.setOb m).cocoons = s.cocoons := rfl
@[simp] theorem setOb_luna (m : Mem) (s : State) : (s.setOb m).luna = s.luna := rfl
@[simp] theorem setOb_tgl (m : Mem) (s : State) : (s.setOb m).tgl = s.tgl := rfl
@[simp] theorem setOb_dom (m : Mem) (s : State) : (s.setOb m).dom = s.dom := rfl
@[simp] theorem setOb_img (m : Mem) (s : State) : (s.setOb m).img = s.img := rfl
@[simp] theorem setOb_media (m : Mem) (s : State) : (s.setOb m).media = s.media := rfl
@[simp] theorem setOb_link (m : Mem) (s : State) : (s.setOb m).link = s.link := rfl
@[simp] theorem setOb_freeCtr (m : Mem) (s : State) : (s.setOb m).freeCtr = s.freeCtr := rfl

/-! ### setPoison -/

@[simp] theorem setPoison_pending (l : List Nat) (s : State) : (s.setPoison l).pending = s.pending := rfl
@[simp] theorem setPoison_power (l : List Nat) (s : State) : (s.setPoison l).power = s.power := rfl
@[simp] theorem setPoison_time (l : List Nat) (s : State) : (s.setPoison l).time = s.time := rfl
@[simp] theorem setPoison_sup (l : List Nat) (s : State) : (s.setPoison l).sup = s.sup := rfl
@[simp] theorem setPoison_regs (l : List Nat) (s : State) : (s.setPoison l).regs = s.regs := rfl
@[simp] theorem setPoison_queues (l : List Nat) (s : State) : (s.setPoison l).queues = s.queues := rfl
@[simp] theorem setPoison_cores (l : List Nat) (s : State) : (s.setPoison l).cores = s.cores := rfl
@[simp] theorem setPoison_cocoons (l : List Nat) (s : State) : (s.setPoison l).cocoons = s.cocoons := rfl
@[simp] theorem setPoison_luna (l : List Nat) (s : State) : (s.setPoison l).luna = s.luna := rfl
@[simp] theorem setPoison_tgl (l : List Nat) (s : State) : (s.setPoison l).tgl = s.tgl := rfl
@[simp] theorem setPoison_dom (l : List Nat) (s : State) : (s.setPoison l).dom = s.dom := rfl
@[simp] theorem setPoison_img (l : List Nat) (s : State) : (s.setPoison l).img = s.img := rfl
@[simp] theorem setPoison_media (l : List Nat) (s : State) : (s.setPoison l).media = s.media := rfl
@[simp] theorem setPoison_link (l : List Nat) (s : State) : (s.setPoison l).link = s.link := rfl
@[simp] theorem setPoison_freeCtr (l : List Nat) (s : State) : (s.setPoison l).freeCtr = s.freeCtr := rfl

/-! ### putOb -/

@[simp] theorem putOb_pending (c o : Nat) (bs : List Byte) (s : State) : (putOb c o bs s).pending = s.pending := rfl
@[simp] theorem putOb_power (c o : Nat) (bs : List Byte) (s : State) : (putOb c o bs s).power = s.power := rfl
@[simp] theorem putOb_time (c o : Nat) (bs : List Byte) (s : State) : (putOb c o bs s).time = s.time := rfl
@[simp] theorem putOb_sup (c o : Nat) (bs : List Byte) (s : State) : (putOb c o bs s).sup = s.sup := rfl
@[simp] theorem putOb_regs (c o : Nat) (bs : List Byte) (s : State) : (putOb c o bs s).regs = s.regs := rfl
@[simp] theorem putOb_queues (c o : Nat) (bs : List Byte) (s : State) : (putOb c o bs s).queues = s.queues := rfl
@[simp] theorem putOb_cores (c o : Nat) (bs : List Byte) (s : State) : (putOb c o bs s).cores = s.cores := rfl
@[simp] theorem putOb_cocoons (c o : Nat) (bs : List Byte) (s : State) : (putOb c o bs s).cocoons = s.cocoons := rfl
@[simp] theorem putOb_luna (c o : Nat) (bs : List Byte) (s : State) : (putOb c o bs s).luna = s.luna := rfl
@[simp] theorem putOb_tgl (c o : Nat) (bs : List Byte) (s : State) : (putOb c o bs s).tgl = s.tgl := rfl
@[simp] theorem putOb_dom (c o : Nat) (bs : List Byte) (s : State) : (putOb c o bs s).dom = s.dom := rfl
@[simp] theorem putOb_img (c o : Nat) (bs : List Byte) (s : State) : (putOb c o bs s).img = s.img := rfl
@[simp] theorem putOb_media (c o : Nat) (bs : List Byte) (s : State) : (putOb c o bs s).media = s.media := rfl
@[simp] theorem putOb_link (c o : Nat) (bs : List Byte) (s : State) : (putOb c o bs s).link = s.link := rfl
@[simp] theorem putOb_freeCtr (c o : Nat) (bs : List Byte) (s : State) : (putOb c o bs s).freeCtr = s.freeCtr := rfl

/-! ### putComp -/

@[simp] theorem putComp_pending (a : Nat) (bs : List Byte) (s : State) : (putComp a bs s).pending = s.pending := rfl
@[simp] theorem putComp_power (a : Nat) (bs : List Byte) (s : State) : (putComp a bs s).power = s.power := rfl
@[simp] theorem putComp_time (a : Nat) (bs : List Byte) (s : State) : (putComp a bs s).time = s.time := rfl
@[simp] theorem putComp_sup (a : Nat) (bs : List Byte) (s : State) : (putComp a bs s).sup = s.sup := rfl
@[simp] theorem putComp_regs (a : Nat) (bs : List Byte) (s : State) : (putComp a bs s).regs = s.regs := rfl
@[simp] theorem putComp_queues (a : Nat) (bs : List Byte) (s : State) : (putComp a bs s).queues = s.queues := rfl
@[simp] theorem putComp_cores (a : Nat) (bs : List Byte) (s : State) : (putComp a bs s).cores = s.cores := rfl
@[simp] theorem putComp_cocoons (a : Nat) (bs : List Byte) (s : State) : (putComp a bs s).cocoons = s.cocoons := rfl
@[simp] theorem putComp_luna (a : Nat) (bs : List Byte) (s : State) : (putComp a bs s).luna = s.luna := rfl
@[simp] theorem putComp_tgl (a : Nat) (bs : List Byte) (s : State) : (putComp a bs s).tgl = s.tgl := rfl
@[simp] theorem putComp_dom (a : Nat) (bs : List Byte) (s : State) : (putComp a bs s).dom = s.dom := rfl
@[simp] theorem putComp_img (a : Nat) (bs : List Byte) (s : State) : (putComp a bs s).img = s.img := rfl
@[simp] theorem putComp_media (a : Nat) (bs : List Byte) (s : State) : (putComp a bs s).media = s.media := rfl
@[simp] theorem putComp_link (a : Nat) (bs : List Byte) (s : State) : (putComp a bs s).link = s.link := rfl
@[simp] theorem putComp_freeCtr (a : Nat) (bs : List Byte) (s : State) : (putComp a bs s).freeCtr = s.freeCtr := rfl

/-! ### putRaw -/

@[simp] theorem putRaw_pending (a : Nat) (bs : List Byte) (s : State) : (putRaw a bs s).pending = s.pending := rfl
@[simp] theorem putRaw_power (a : Nat) (bs : List Byte) (s : State) : (putRaw a bs s).power = s.power := rfl
@[simp] theorem putRaw_time (a : Nat) (bs : List Byte) (s : State) : (putRaw a bs s).time = s.time := rfl
@[simp] theorem putRaw_sup (a : Nat) (bs : List Byte) (s : State) : (putRaw a bs s).sup = s.sup := rfl
@[simp] theorem putRaw_regs (a : Nat) (bs : List Byte) (s : State) : (putRaw a bs s).regs = s.regs := rfl
@[simp] theorem putRaw_queues (a : Nat) (bs : List Byte) (s : State) : (putRaw a bs s).queues = s.queues := rfl
@[simp] theorem putRaw_cores (a : Nat) (bs : List Byte) (s : State) : (putRaw a bs s).cores = s.cores := rfl
@[simp] theorem putRaw_cocoons (a : Nat) (bs : List Byte) (s : State) : (putRaw a bs s).cocoons = s.cocoons := rfl
@[simp] theorem putRaw_luna (a : Nat) (bs : List Byte) (s : State) : (putRaw a bs s).luna = s.luna := rfl
@[simp] theorem putRaw_tgl (a : Nat) (bs : List Byte) (s : State) : (putRaw a bs s).tgl = s.tgl := rfl
@[simp] theorem putRaw_dom (a : Nat) (bs : List Byte) (s : State) : (putRaw a bs s).dom = s.dom := rfl
@[simp] theorem putRaw_img (a : Nat) (bs : List Byte) (s : State) : (putRaw a bs s).img = s.img := rfl
@[simp] theorem putRaw_media (a : Nat) (bs : List Byte) (s : State) : (putRaw a bs s).media = s.media := rfl
@[simp] theorem putRaw_link (a : Nat) (bs : List Byte) (s : State) : (putRaw a bs s).link = s.link := rfl
@[simp] theorem putRaw_freeCtr (a : Nat) (bs : List Byte) (s : State) : (putRaw a bs s).freeCtr = s.freeCtr := rfl

/-! ### logErr -/

@[simp] theorem logErr_pending (x : ErrEvent) (s : State) : (logErr x s).pending = s.pending := rfl
@[simp] theorem logErr_power (x : ErrEvent) (s : State) : (logErr x s).power = s.power := rfl
@[simp] theorem logErr_time (x : ErrEvent) (s : State) : (logErr x s).time = s.time := rfl
@[simp] theorem logErr_sup (x : ErrEvent) (s : State) : (logErr x s).sup = s.sup := rfl
@[simp] theorem logErr_mem (x : ErrEvent) (s : State) : (logErr x s).mem = s.mem := rfl
@[simp] theorem logErr_queues (x : ErrEvent) (s : State) : (logErr x s).queues = s.queues := rfl
@[simp] theorem logErr_cores (x : ErrEvent) (s : State) : (logErr x s).cores = s.cores := rfl
@[simp] theorem logErr_cocoons (x : ErrEvent) (s : State) : (logErr x s).cocoons = s.cocoons := rfl
@[simp] theorem logErr_luna (x : ErrEvent) (s : State) : (logErr x s).luna = s.luna := rfl
@[simp] theorem logErr_tgl (x : ErrEvent) (s : State) : (logErr x s).tgl = s.tgl := rfl
@[simp] theorem logErr_dom (x : ErrEvent) (s : State) : (logErr x s).dom = s.dom := rfl
@[simp] theorem logErr_img (x : ErrEvent) (s : State) : (logErr x s).img = s.img := rfl
@[simp] theorem logErr_media (x : ErrEvent) (s : State) : (logErr x s).media = s.media := rfl
@[simp] theorem logErr_link (x : ErrEvent) (s : State) : (logErr x s).link = s.link := rfl
@[simp] theorem logErr_freeCtr (x : ErrEvent) (s : State) : (logErr x s).freeCtr = s.freeCtr := rfl

/-! ### setRegs -/

@[simp] theorem setRegs_pending (r : Regs) (s : State) : (setRegs s r).pending = s.pending := rfl
@[simp] theorem setRegs_power (r : Regs) (s : State) : (setRegs s r).power = s.power := rfl
@[simp] theorem setRegs_time (r : Regs) (s : State) : (setRegs s r).time = s.time := rfl
@[simp] theorem setRegs_sup (r : Regs) (s : State) : (setRegs s r).sup = s.sup := rfl
@[simp] theorem setRegs_mem (r : Regs) (s : State) : (setRegs s r).mem = s.mem := rfl
@[simp] theorem setRegs_queues (r : Regs) (s : State) : (setRegs s r).queues = s.queues := rfl
@[simp] theorem setRegs_cores (r : Regs) (s : State) : (setRegs s r).cores = s.cores := rfl
@[simp] theorem setRegs_cocoons (r : Regs) (s : State) : (setRegs s r).cocoons = s.cocoons := rfl
@[simp] theorem setRegs_luna (r : Regs) (s : State) : (setRegs s r).luna = s.luna := rfl
@[simp] theorem setRegs_tgl (r : Regs) (s : State) : (setRegs s r).tgl = s.tgl := rfl
@[simp] theorem setRegs_dom (r : Regs) (s : State) : (setRegs s r).dom = s.dom := rfl
@[simp] theorem setRegs_img (r : Regs) (s : State) : (setRegs s r).img = s.img := rfl
@[simp] theorem setRegs_media (r : Regs) (s : State) : (setRegs s r).media = s.media := rfl
@[simp] theorem setRegs_link (r : Regs) (s : State) : (setRegs s r).link = s.link := rfl
@[simp] theorem setRegs_freeCtr (r : Regs) (s : State) : (setRegs s r).freeCtr = s.freeCtr := rfl

/-! ### noteLast -/

@[simp] theorem noteLast_pending (l k : Nat) (s : State) : (noteLast l k s).pending = s.pending := rfl
@[simp] theorem noteLast_power (l k : Nat) (s : State) : (noteLast l k s).power = s.power := rfl
@[simp] theorem noteLast_time (l k : Nat) (s : State) : (noteLast l k s).time = s.time := rfl
@[simp] theorem noteLast_sup (l k : Nat) (s : State) : (noteLast l k s).sup = s.sup := rfl
@[simp] theorem noteLast_mem (l k : Nat) (s : State) : (noteLast l k s).mem = s.mem := rfl
@[simp] theorem noteLast_queues (l k : Nat) (s : State) : (noteLast l k s).queues = s.queues := rfl
@[simp] theorem noteLast_cores (l k : Nat) (s : State) : (noteLast l k s).cores = s.cores := rfl
@[simp] theorem noteLast_cocoons (l k : Nat) (s : State) : (noteLast l k s).cocoons = s.cocoons := rfl
@[simp] theorem noteLast_luna (l k : Nat) (s : State) : (noteLast l k s).luna = s.luna := rfl
@[simp] theorem noteLast_tgl (l k : Nat) (s : State) : (noteLast l k s).tgl = s.tgl := rfl
@[simp] theorem noteLast_dom (l k : Nat) (s : State) : (noteLast l k s).dom = s.dom := rfl
@[simp] theorem noteLast_img (l k : Nat) (s : State) : (noteLast l k s).img = s.img := rfl
@[simp] theorem noteLast_media (l k : Nat) (s : State) : (noteLast l k s).media = s.media := rfl
@[simp] theorem noteLast_link (l k : Nat) (s : State) : (noteLast l k s).link = s.link := rfl
@[simp] theorem noteLast_freeCtr (l k : Nat) (s : State) : (noteLast l k s).freeCtr = s.freeCtr := rfl

/-! ### noteCorr -/

@[simp] theorem noteCorr_pending (n : Nat) (s : State) : (noteCorr n s).pending = s.pending := rfl
@[simp] theorem noteCorr_power (n : Nat) (s : State) : (noteCorr n s).power = s.power := rfl
@[simp] theorem noteCorr_time (n : Nat) (s : State) : (noteCorr n s).time = s.time := rfl
@[simp] theorem noteCorr_sup (n : Nat) (s : State) : (noteCorr n s).sup = s.sup := rfl
@[simp] theorem noteCorr_mem (n : Nat) (s : State) : (noteCorr n s).mem = s.mem := rfl
@[simp] theorem noteCorr_queues (n : Nat) (s : State) : (noteCorr n s).queues = s.queues := rfl
@[simp] theorem noteCorr_cores (n : Nat) (s : State) : (noteCorr n s).cores = s.cores := rfl
@[simp] theorem noteCorr_cocoons (n : Nat) (s : State) : (noteCorr n s).cocoons = s.cocoons := rfl
@[simp] theorem noteCorr_luna (n : Nat) (s : State) : (noteCorr n s).luna = s.luna := rfl
@[simp] theorem noteCorr_tgl (n : Nat) (s : State) : (noteCorr n s).tgl = s.tgl := rfl
@[simp] theorem noteCorr_dom (n : Nat) (s : State) : (noteCorr n s).dom = s.dom := rfl
@[simp] theorem noteCorr_img (n : Nat) (s : State) : (noteCorr n s).img = s.img := rfl
@[simp] theorem noteCorr_media (n : Nat) (s : State) : (noteCorr n s).media = s.media := rfl
@[simp] theorem noteCorr_link (n : Nat) (s : State) : (noteCorr n s).link = s.link := rfl
@[simp] theorem noteCorr_freeCtr (n : Nat) (s : State) : (noteCorr n s).freeCtr = s.freeCtr := rfl

/-! ### noteTimeout -/

@[simp] theorem noteTimeout_pending (l : Nat) (w : Bool) (s : State) : (noteTimeout l w s).pending = s.pending := rfl
@[simp] theorem noteTimeout_power (l : Nat) (w : Bool) (s : State) : (noteTimeout l w s).power = s.power := rfl
@[simp] theorem noteTimeout_time (l : Nat) (w : Bool) (s : State) : (noteTimeout l w s).time = s.time := rfl
@[simp] theorem noteTimeout_sup (l : Nat) (w : Bool) (s : State) : (noteTimeout l w s).sup = s.sup := rfl
@[simp] theorem noteTimeout_queues (l : Nat) (w : Bool) (s : State) : (noteTimeout l w s).queues = s.queues := rfl
@[simp] theorem noteTimeout_cores (l : Nat) (w : Bool) (s : State) : (noteTimeout l w s).cores = s.cores := rfl
@[simp] theorem noteTimeout_cocoons (l : Nat) (w : Bool) (s : State) : (noteTimeout l w s).cocoons = s.cocoons := rfl
@[simp] theorem noteTimeout_luna (l : Nat) (w : Bool) (s : State) : (noteTimeout l w s).luna = s.luna := rfl
@[simp] theorem noteTimeout_tgl (l : Nat) (w : Bool) (s : State) : (noteTimeout l w s).tgl = s.tgl := rfl
@[simp] theorem noteTimeout_dom (l : Nat) (w : Bool) (s : State) : (noteTimeout l w s).dom = s.dom := rfl
@[simp] theorem noteTimeout_img (l : Nat) (w : Bool) (s : State) : (noteTimeout l w s).img = s.img := rfl
@[simp] theorem noteTimeout_media (l : Nat) (w : Bool) (s : State) : (noteTimeout l w s).media = s.media := rfl
@[simp] theorem noteTimeout_link (l : Nat) (w : Bool) (s : State) : (noteTimeout l w s).link = s.link := rfl
@[simp] theorem noteTimeout_freeCtr (l : Nat) (w : Bool) (s : State) : (noteTimeout l w s).freeCtr = s.freeCtr := rfl

/-! ### refreshAlert -/

@[simp] theorem refreshAlert_pending (s : State) : (refreshAlert s).pending = s.pending := rfl
@[simp] theorem refreshAlert_time (s : State) : (refreshAlert s).time = s.time := rfl
@[simp] theorem refreshAlert_sup (s : State) : (refreshAlert s).sup = s.sup := rfl
@[simp] theorem refreshAlert_regs (s : State) : (refreshAlert s).regs = s.regs := rfl
@[simp] theorem refreshAlert_mem (s : State) : (refreshAlert s).mem = s.mem := rfl
@[simp] theorem refreshAlert_queues (s : State) : (refreshAlert s).queues = s.queues := rfl
@[simp] theorem refreshAlert_cores (s : State) : (refreshAlert s).cores = s.cores := rfl
@[simp] theorem refreshAlert_cocoons (s : State) : (refreshAlert s).cocoons = s.cocoons := rfl
@[simp] theorem refreshAlert_luna (s : State) : (refreshAlert s).luna = s.luna := rfl
@[simp] theorem refreshAlert_tgl (s : State) : (refreshAlert s).tgl = s.tgl := rfl
@[simp] theorem refreshAlert_dom (s : State) : (refreshAlert s).dom = s.dom := rfl
@[simp] theorem refreshAlert_img (s : State) : (refreshAlert s).img = s.img := rfl
@[simp] theorem refreshAlert_media (s : State) : (refreshAlert s).media = s.media := rfl
@[simp] theorem refreshAlert_link (s : State) : (refreshAlert s).link = s.link := rfl
@[simp] theorem refreshAlert_freeCtr (s : State) : (refreshAlert s).freeCtr = s.freeCtr := rfl

/-! ### setPower -/

@[simp] theorem setPower_pending (p : Power) (s : State) : (setPower p s).pending = s.pending := rfl
@[simp] theorem setPower_time (p : Power) (s : State) : (setPower p s).time = s.time := rfl
@[simp] theorem setPower_sup (p : Power) (s : State) : (setPower p s).sup = s.sup := rfl
@[simp] theorem setPower_regs (p : Power) (s : State) : (setPower p s).regs = s.regs := rfl
@[simp] theorem setPower_mem (p : Power) (s : State) : (setPower p s).mem = s.mem := rfl
@[simp] theorem setPower_queues (p : Power) (s : State) : (setPower p s).queues = s.queues := rfl
@[simp] theorem setPower_cores (p : Power) (s : State) : (setPower p s).cores = s.cores := rfl
@[simp] theorem setPower_cocoons (p : Power) (s : State) : (setPower p s).cocoons = s.cocoons := rfl
@[simp] theorem setPower_luna (p : Power) (s : State) : (setPower p s).luna = s.luna := rfl
@[simp] theorem setPower_tgl (p : Power) (s : State) : (setPower p s).tgl = s.tgl := rfl
@[simp] theorem setPower_dom (p : Power) (s : State) : (setPower p s).dom = s.dom := rfl
@[simp] theorem setPower_img (p : Power) (s : State) : (setPower p s).img = s.img := rfl
@[simp] theorem setPower_media (p : Power) (s : State) : (setPower p s).media = s.media := rfl
@[simp] theorem setPower_link (p : Power) (s : State) : (setPower p s).link = s.link := rfl
@[simp] theorem setPower_freeCtr (p : Power) (s : State) : (setPower p s).freeCtr = s.freeCtr := rfl

/-! ### setSmb -/

@[simp] theorem setSmb_pending (x : Option (List Byte)) (s : State) : (setSmb x s).pending = s.pending := rfl
@[simp] theorem setSmb_time (x : Option (List Byte)) (s : State) : (setSmb x s).time = s.time := rfl
@[simp] theorem setSmb_sup (x : Option (List Byte)) (s : State) : (setSmb x s).sup = s.sup := rfl
@[simp] theorem setSmb_regs (x : Option (List Byte)) (s : State) : (setSmb x s).regs = s.regs := rfl
@[simp] theorem setSmb_mem (x : Option (List Byte)) (s : State) : (setSmb x s).mem = s.mem := rfl
@[simp] theorem setSmb_queues (x : Option (List Byte)) (s : State) : (setSmb x s).queues = s.queues := rfl
@[simp] theorem setSmb_cores (x : Option (List Byte)) (s : State) : (setSmb x s).cores = s.cores := rfl
@[simp] theorem setSmb_cocoons (x : Option (List Byte)) (s : State) : (setSmb x s).cocoons = s.cocoons := rfl
@[simp] theorem setSmb_luna (x : Option (List Byte)) (s : State) : (setSmb x s).luna = s.luna := rfl
@[simp] theorem setSmb_tgl (x : Option (List Byte)) (s : State) : (setSmb x s).tgl = s.tgl := rfl
@[simp] theorem setSmb_dom (x : Option (List Byte)) (s : State) : (setSmb x s).dom = s.dom := rfl
@[simp] theorem setSmb_img (x : Option (List Byte)) (s : State) : (setSmb x s).img = s.img := rfl
@[simp] theorem setSmb_media (x : Option (List Byte)) (s : State) : (setSmb x s).media = s.media := rfl
@[simp] theorem setSmb_link (x : Option (List Byte)) (s : State) : (setSmb x s).link = s.link := rfl
@[simp] theorem setSmb_freeCtr (x : Option (List Byte)) (s : State) : (setSmb x s).freeCtr = s.freeCtr := rfl

/-! ### sendDom -/

@[simp] theorem sendDom_pending (m : DomMsg) (s : State) : (sendDom m s).pending = s.pending := rfl
@[simp] theorem sendDom_power (m : DomMsg) (s : State) : (sendDom m s).power = s.power := rfl
@[simp] theorem sendDom_time (m : DomMsg) (s : State) : (sendDom m s).time = s.time := rfl
@[simp] theorem sendDom_sup (m : DomMsg) (s : State) : (sendDom m s).sup = s.sup := rfl
@[simp] theorem sendDom_regs (m : DomMsg) (s : State) : (sendDom m s).regs = s.regs := rfl
@[simp] theorem sendDom_mem (m : DomMsg) (s : State) : (sendDom m s).mem = s.mem := rfl
@[simp] theorem sendDom_queues (m : DomMsg) (s : State) : (sendDom m s).queues = s.queues := rfl
@[simp] theorem sendDom_cores (m : DomMsg) (s : State) : (sendDom m s).cores = s.cores := rfl
@[simp] theorem sendDom_cocoons (m : DomMsg) (s : State) : (sendDom m s).cocoons = s.cocoons := rfl
@[simp] theorem sendDom_luna (m : DomMsg) (s : State) : (sendDom m s).luna = s.luna := rfl
@[simp] theorem sendDom_tgl (m : DomMsg) (s : State) : (sendDom m s).tgl = s.tgl := rfl
@[simp] theorem sendDom_img (m : DomMsg) (s : State) : (sendDom m s).img = s.img := rfl
@[simp] theorem sendDom_media (m : DomMsg) (s : State) : (sendDom m s).media = s.media := rfl
@[simp] theorem sendDom_link (m : DomMsg) (s : State) : (sendDom m s).link = s.link := rfl
@[simp] theorem sendDom_freeCtr (m : DomMsg) (s : State) : (sendDom m s).freeCtr = s.freeCtr := rfl

/-! ### releaseBanks -/

@[simp] theorem releaseBanks_pending (r : QRef) (t : Nat) (s : State) : (releaseBanks r t s).pending = s.pending := by unfold releaseBanks; split <;> rfl
@[simp] theorem releaseBanks_power (r : QRef) (t : Nat) (s : State) : (releaseBanks r t s).power = s.power := by unfold releaseBanks; split <;> rfl
@[simp] theorem releaseBanks_time (r : QRef) (t : Nat) (s : State) : (releaseBanks r t s).time = s.time := by unfold releaseBanks; split <;> rfl
@[simp] theorem releaseBanks_sup (r : QRef) (t : Nat) (s : State) : (releaseBanks r t s).sup = s.sup := by unfold releaseBanks; split <;> rfl
@[simp] theorem releaseBanks_regs (r : QRef) (t : Nat) (s : State) : (releaseBanks r t s).regs = s.regs := by unfold releaseBanks; split <;> rfl
@[simp] theorem releaseBanks_mem (r : QRef) (t : Nat) (s : State) : (releaseBanks r t s).mem = s.mem := by unfold releaseBanks; split <;> rfl
@[simp] theorem releaseBanks_queues (r : QRef) (t : Nat) (s : State) : (releaseBanks r t s).queues = s.queues := by unfold releaseBanks; split <;> rfl
@[simp] theorem releaseBanks_cocoons (r : QRef) (t : Nat) (s : State) : (releaseBanks r t s).cocoons = s.cocoons := by unfold releaseBanks; split <;> rfl
@[simp] theorem releaseBanks_luna (r : QRef) (t : Nat) (s : State) : (releaseBanks r t s).luna = s.luna := by unfold releaseBanks; split <;> rfl
@[simp] theorem releaseBanks_tgl (r : QRef) (t : Nat) (s : State) : (releaseBanks r t s).tgl = s.tgl := by unfold releaseBanks; split <;> rfl
@[simp] theorem releaseBanks_dom (r : QRef) (t : Nat) (s : State) : (releaseBanks r t s).dom = s.dom := by unfold releaseBanks; split <;> rfl
@[simp] theorem releaseBanks_img (r : QRef) (t : Nat) (s : State) : (releaseBanks r t s).img = s.img := by unfold releaseBanks; split <;> rfl
@[simp] theorem releaseBanks_media (r : QRef) (t : Nat) (s : State) : (releaseBanks r t s).media = s.media := by unfold releaseBanks; split <;> rfl
@[simp] theorem releaseBanks_link (r : QRef) (t : Nat) (s : State) : (releaseBanks r t s).link = s.link := by unfold releaseBanks; split <;> rfl
@[simp] theorem releaseBanks_freeCtr (r : QRef) (t : Nat) (s : State) : (releaseBanks r t s).freeCtr = s.freeCtr := by unfold releaseBanks; split <;> rfl

/-! ### countClasses -/

@[simp] theorem countClasses_pending (k : Cmd) (s : State) : (countClasses k s).pending = s.pending := rfl
@[simp] theorem countClasses_power (k : Cmd) (s : State) : (countClasses k s).power = s.power := rfl
@[simp] theorem countClasses_time (k : Cmd) (s : State) : (countClasses k s).time = s.time := rfl
@[simp] theorem countClasses_sup (k : Cmd) (s : State) : (countClasses k s).sup = s.sup := rfl
@[simp] theorem countClasses_regs (k : Cmd) (s : State) : (countClasses k s).regs = s.regs := rfl
@[simp] theorem countClasses_mem (k : Cmd) (s : State) : (countClasses k s).mem = s.mem := rfl
@[simp] theorem countClasses_queues (k : Cmd) (s : State) : (countClasses k s).queues = s.queues := rfl
@[simp] theorem countClasses_cores (k : Cmd) (s : State) : (countClasses k s).cores = s.cores := rfl
@[simp] theorem countClasses_cocoons (k : Cmd) (s : State) : (countClasses k s).cocoons = s.cocoons := rfl
@[simp] theorem countClasses_luna (k : Cmd) (s : State) : (countClasses k s).luna = s.luna := rfl
@[simp] theorem countClasses_dom (k : Cmd) (s : State) : (countClasses k s).dom = s.dom := rfl
@[simp] theorem countClasses_img (k : Cmd) (s : State) : (countClasses k s).img = s.img := rfl
@[simp] theorem countClasses_media (k : Cmd) (s : State) : (countClasses k s).media = s.media := rfl
@[simp] theorem countClasses_link (k : Cmd) (s : State) : (countClasses k s).link = s.link := rfl
@[simp] theorem countClasses_freeCtr (k : Cmd) (s : State) : (countClasses k s).freeCtr = s.freeCtr := rfl

/-! ### setStop -/

@[simp] theorem setStop_pending (x : Option StopReq) (s : State) : (setStop x s).pending = s.pending := rfl
@[simp] theorem setStop_power (x : Option StopReq) (s : State) : (setStop x s).power = s.power := rfl
@[simp] theorem setStop_time (x : Option StopReq) (s : State) : (setStop x s).time = s.time := rfl
@[simp] theorem setStop_regs (x : Option StopReq) (s : State) : (setStop x s).regs = s.regs := rfl
@[simp] theorem setStop_mem (x : Option StopReq) (s : State) : (setStop x s).mem = s.mem := rfl
@[simp] theorem setStop_queues (x : Option StopReq) (s : State) : (setStop x s).queues = s.queues := rfl
@[simp] theorem setStop_cores (x : Option StopReq) (s : State) : (setStop x s).cores = s.cores := rfl
@[simp] theorem setStop_cocoons (x : Option StopReq) (s : State) : (setStop x s).cocoons = s.cocoons := rfl
@[simp] theorem setStop_luna (x : Option StopReq) (s : State) : (setStop x s).luna = s.luna := rfl
@[simp] theorem setStop_tgl (x : Option StopReq) (s : State) : (setStop x s).tgl = s.tgl := rfl
@[simp] theorem setStop_dom (x : Option StopReq) (s : State) : (setStop x s).dom = s.dom := rfl
@[simp] theorem setStop_img (x : Option StopReq) (s : State) : (setStop x s).img = s.img := rfl
@[simp] theorem setStop_media (x : Option StopReq) (s : State) : (setStop x s).media = s.media := rfl
@[simp] theorem setStop_link (x : Option StopReq) (s : State) : (setStop x s).link = s.link := rfl
@[simp] theorem setStop_freeCtr (x : Option StopReq) (s : State) : (setStop x s).freeCtr = s.freeCtr := rfl

/-! ### cancelRun -/

@[simp] theorem cancelRun_pending (s : State) : (cancelRun s).pending = s.pending := rfl
@[simp] theorem cancelRun_power (s : State) : (cancelRun s).power = s.power := rfl
@[simp] theorem cancelRun_time (s : State) : (cancelRun s).time = s.time := rfl
@[simp] theorem cancelRun_regs (s : State) : (cancelRun s).regs = s.regs := rfl
@[simp] theorem cancelRun_mem (s : State) : (cancelRun s).mem = s.mem := rfl
@[simp] theorem cancelRun_queues (s : State) : (cancelRun s).queues = s.queues := rfl
@[simp] theorem cancelRun_cores (s : State) : (cancelRun s).cores = s.cores := rfl
@[simp] theorem cancelRun_cocoons (s : State) : (cancelRun s).cocoons = s.cocoons := rfl
@[simp] theorem cancelRun_luna (s : State) : (cancelRun s).luna = s.luna := rfl
@[simp] theorem cancelRun_tgl (s : State) : (cancelRun s).tgl = s.tgl := rfl
@[simp] theorem cancelRun_dom (s : State) : (cancelRun s).dom = s.dom := rfl
@[simp] theorem cancelRun_img (s : State) : (cancelRun s).img = s.img := rfl
@[simp] theorem cancelRun_media (s : State) : (cancelRun s).media = s.media := rfl
@[simp] theorem cancelRun_link (s : State) : (cancelRun s).link = s.link := rfl
@[simp] theorem cancelRun_freeCtr (s : State) : (cancelRun s).freeCtr = s.freeCtr := rfl

/-! ### putFlash -/

@[simp] theorem putFlash_pending (a : Nat) (bs : List Byte) (s : State) : (putFlash a bs s).pending = s.pending := rfl
@[simp] theorem putFlash_power (a : Nat) (bs : List Byte) (s : State) : (putFlash a bs s).power = s.power := rfl
@[simp] theorem putFlash_time (a : Nat) (bs : List Byte) (s : State) : (putFlash a bs s).time = s.time := rfl
@[simp] theorem putFlash_regs (a : Nat) (bs : List Byte) (s : State) : (putFlash a bs s).regs = s.regs := rfl
@[simp] theorem putFlash_mem (a : Nat) (bs : List Byte) (s : State) : (putFlash a bs s).mem = s.mem := rfl
@[simp] theorem putFlash_queues (a : Nat) (bs : List Byte) (s : State) : (putFlash a bs s).queues = s.queues := rfl
@[simp] theorem putFlash_cores (a : Nat) (bs : List Byte) (s : State) : (putFlash a bs s).cores = s.cores := rfl
@[simp] theorem putFlash_cocoons (a : Nat) (bs : List Byte) (s : State) : (putFlash a bs s).cocoons = s.cocoons := rfl
@[simp] theorem putFlash_luna (a : Nat) (bs : List Byte) (s : State) : (putFlash a bs s).luna = s.luna := rfl
@[simp] theorem putFlash_tgl (a : Nat) (bs : List Byte) (s : State) : (putFlash a bs s).tgl = s.tgl := rfl
@[simp] theorem putFlash_dom (a : Nat) (bs : List Byte) (s : State) : (putFlash a bs s).dom = s.dom := rfl
@[simp] theorem putFlash_img (a : Nat) (bs : List Byte) (s : State) : (putFlash a bs s).img = s.img := rfl
@[simp] theorem putFlash_media (a : Nat) (bs : List Byte) (s : State) : (putFlash a bs s).media = s.media := rfl
@[simp] theorem putFlash_link (a : Nat) (bs : List Byte) (s : State) : (putFlash a bs s).link = s.link := rfl
@[simp] theorem putFlash_freeCtr (a : Nat) (bs : List Byte) (s : State) : (putFlash a bs s).freeCtr = s.freeCtr := rfl

/-! ### putCocoon -/

@[simp] theorem putCocoon_pending (k : Cocoon) (s : State) : (putCocoon k s).pending = s.pending := rfl
@[simp] theorem putCocoon_power (k : Cocoon) (s : State) : (putCocoon k s).power = s.power := rfl
@[simp] theorem putCocoon_time (k : Cocoon) (s : State) : (putCocoon k s).time = s.time := rfl
@[simp] theorem putCocoon_sup (k : Cocoon) (s : State) : (putCocoon k s).sup = s.sup := rfl
@[simp] theorem putCocoon_regs (k : Cocoon) (s : State) : (putCocoon k s).regs = s.regs := rfl
@[simp] theorem putCocoon_mem (k : Cocoon) (s : State) : (putCocoon k s).mem = s.mem := rfl
@[simp] theorem putCocoon_queues (k : Cocoon) (s : State) : (putCocoon k s).queues = s.queues := rfl
@[simp] theorem putCocoon_cores (k : Cocoon) (s : State) : (putCocoon k s).cores = s.cores := rfl
@[simp] theorem putCocoon_luna (k : Cocoon) (s : State) : (putCocoon k s).luna = s.luna := rfl
@[simp] theorem putCocoon_tgl (k : Cocoon) (s : State) : (putCocoon k s).tgl = s.tgl := rfl
@[simp] theorem putCocoon_dom (k : Cocoon) (s : State) : (putCocoon k s).dom = s.dom := rfl
@[simp] theorem putCocoon_img (k : Cocoon) (s : State) : (putCocoon k s).img = s.img := rfl
@[simp] theorem putCocoon_media (k : Cocoon) (s : State) : (putCocoon k s).media = s.media := rfl
@[simp] theorem putCocoon_link (k : Cocoon) (s : State) : (putCocoon k s).link = s.link := rfl
@[simp] theorem putCocoon_freeCtr (k : Cocoon) (s : State) : (putCocoon k s).freeCtr = s.freeCtr := rfl

/-! ### setLcBanks -/

@[simp] theorem setLcBanks_pending (n : Nat) (s : State) : (setLcBanks n s).pending = s.pending := rfl
@[simp] theorem setLcBanks_power (n : Nat) (s : State) : (setLcBanks n s).power = s.power := rfl
@[simp] theorem setLcBanks_time (n : Nat) (s : State) : (setLcBanks n s).time = s.time := rfl
@[simp] theorem setLcBanks_sup (n : Nat) (s : State) : (setLcBanks n s).sup = s.sup := rfl
@[simp] theorem setLcBanks_regs (n : Nat) (s : State) : (setLcBanks n s).regs = s.regs := rfl
@[simp] theorem setLcBanks_mem (n : Nat) (s : State) : (setLcBanks n s).mem = s.mem := rfl
@[simp] theorem setLcBanks_queues (n : Nat) (s : State) : (setLcBanks n s).queues = s.queues := rfl
@[simp] theorem setLcBanks_cocoons (n : Nat) (s : State) : (setLcBanks n s).cocoons = s.cocoons := rfl
@[simp] theorem setLcBanks_luna (n : Nat) (s : State) : (setLcBanks n s).luna = s.luna := rfl
@[simp] theorem setLcBanks_tgl (n : Nat) (s : State) : (setLcBanks n s).tgl = s.tgl := rfl
@[simp] theorem setLcBanks_dom (n : Nat) (s : State) : (setLcBanks n s).dom = s.dom := rfl
@[simp] theorem setLcBanks_img (n : Nat) (s : State) : (setLcBanks n s).img = s.img := rfl
@[simp] theorem setLcBanks_media (n : Nat) (s : State) : (setLcBanks n s).media = s.media := rfl
@[simp] theorem setLcBanks_link (n : Nat) (s : State) : (setLcBanks n s).link = s.link := rfl
@[simp] theorem setLcBanks_freeCtr (n : Nat) (s : State) : (setLcBanks n s).freeCtr = s.freeCtr := rfl

/-! ### goAlone -/

@[simp] theorem goAlone_pending (s : State) : (goAlone s).pending = s.pending := rfl
@[simp] theorem goAlone_power (s : State) : (goAlone s).power = s.power := rfl
@[simp] theorem goAlone_time (s : State) : (goAlone s).time = s.time := rfl
@[simp] theorem goAlone_sup (s : State) : (goAlone s).sup = s.sup := rfl
@[simp] theorem goAlone_regs (s : State) : (goAlone s).regs = s.regs := rfl
@[simp] theorem goAlone_mem (s : State) : (goAlone s).mem = s.mem := rfl
@[simp] theorem goAlone_queues (s : State) : (goAlone s).queues = s.queues := rfl
@[simp] theorem goAlone_cores (s : State) : (goAlone s).cores = s.cores := rfl
@[simp] theorem goAlone_cocoons (s : State) : (goAlone s).cocoons = s.cocoons := rfl
@[simp] theorem goAlone_luna (s : State) : (goAlone s).luna = s.luna := rfl
@[simp] theorem goAlone_tgl (s : State) : (goAlone s).tgl = s.tgl := rfl
@[simp] theorem goAlone_img (s : State) : (goAlone s).img = s.img := rfl
@[simp] theorem goAlone_media (s : State) : (goAlone s).media = s.media := rfl
@[simp] theorem goAlone_link (s : State) : (goAlone s).link = s.link := rfl
@[simp] theorem goAlone_freeCtr (s : State) : (goAlone s).freeCtr = s.freeCtr := rfl

/-! ### recordSlip -/

@[simp] theorem recordSlip_pending (n : Nat) (t : Option Nat) (s : State) : (recordSlip n t s).pending = s.pending := rfl
@[simp] theorem recordSlip_power (n : Nat) (t : Option Nat) (s : State) : (recordSlip n t s).power = s.power := rfl
@[simp] theorem recordSlip_time (n : Nat) (t : Option Nat) (s : State) : (recordSlip n t s).time = s.time := rfl
@[simp] theorem recordSlip_sup (n : Nat) (t : Option Nat) (s : State) : (recordSlip n t s).sup = s.sup := rfl
@[simp] theorem recordSlip_mem (n : Nat) (t : Option Nat) (s : State) : (recordSlip n t s).mem = s.mem := rfl
@[simp] theorem recordSlip_queues (n : Nat) (t : Option Nat) (s : State) : (recordSlip n t s).queues = s.queues := rfl
@[simp] theorem recordSlip_cores (n : Nat) (t : Option Nat) (s : State) : (recordSlip n t s).cores = s.cores := rfl
@[simp] theorem recordSlip_cocoons (n : Nat) (t : Option Nat) (s : State) : (recordSlip n t s).cocoons = s.cocoons := rfl
@[simp] theorem recordSlip_luna (n : Nat) (t : Option Nat) (s : State) : (recordSlip n t s).luna = s.luna := rfl
@[simp] theorem recordSlip_tgl (n : Nat) (t : Option Nat) (s : State) : (recordSlip n t s).tgl = s.tgl := rfl
@[simp] theorem recordSlip_dom (n : Nat) (t : Option Nat) (s : State) : (recordSlip n t s).dom = s.dom := rfl
@[simp] theorem recordSlip_img (n : Nat) (t : Option Nat) (s : State) : (recordSlip n t s).img = s.img := rfl
@[simp] theorem recordSlip_media (n : Nat) (t : Option Nat) (s : State) : (recordSlip n t s).media = s.media := rfl
@[simp] theorem recordSlip_link (n : Nat) (t : Option Nat) (s : State) : (recordSlip n t s).link = s.link := rfl
@[simp] theorem recordSlip_freeCtr (n : Nat) (t : Option Nat) (s : State) : (recordSlip n t s).freeCtr = s.freeCtr := rfl

/-! ### dropRows -/

@[simp] theorem dropRows_pending (c : CmdRef) (s : State) : (dropRows c s).pending = s.pending := rfl
@[simp] theorem dropRows_power (c : CmdRef) (s : State) : (dropRows c s).power = s.power := rfl
@[simp] theorem dropRows_time (c : CmdRef) (s : State) : (dropRows c s).time = s.time := rfl
@[simp] theorem dropRows_sup (c : CmdRef) (s : State) : (dropRows c s).sup = s.sup := rfl
@[simp] theorem dropRows_regs (c : CmdRef) (s : State) : (dropRows c s).regs = s.regs := rfl
@[simp] theorem dropRows_queues (c : CmdRef) (s : State) : (dropRows c s).queues = s.queues := rfl
@[simp] theorem dropRows_cores (c : CmdRef) (s : State) : (dropRows c s).cores = s.cores := rfl
@[simp] theorem dropRows_cocoons (c : CmdRef) (s : State) : (dropRows c s).cocoons = s.cocoons := rfl
@[simp] theorem dropRows_luna (c : CmdRef) (s : State) : (dropRows c s).luna = s.luna := rfl
@[simp] theorem dropRows_tgl (c : CmdRef) (s : State) : (dropRows c s).tgl = s.tgl := rfl
@[simp] theorem dropRows_dom (c : CmdRef) (s : State) : (dropRows c s).dom = s.dom := rfl
@[simp] theorem dropRows_img (c : CmdRef) (s : State) : (dropRows c s).img = s.img := rfl
@[simp] theorem dropRows_media (c : CmdRef) (s : State) : (dropRows c s).media = s.media := rfl
@[simp] theorem dropRows_link (c : CmdRef) (s : State) : (dropRows c s).link = s.link := rfl
@[simp] theorem dropRows_freeCtr (c : CmdRef) (s : State) : (dropRows c s).freeCtr = s.freeCtr := rfl

/-! ### runQuanta -/

@[simp] theorem runQuanta_pending (c : CmdRef) (s : State) : (runQuanta c s).pending = s.pending := rfl
@[simp] theorem runQuanta_power (c : CmdRef) (s : State) : (runQuanta c s).power = s.power := rfl
@[simp] theorem runQuanta_time (c : CmdRef) (s : State) : (runQuanta c s).time = s.time := rfl
@[simp] theorem runQuanta_sup (c : CmdRef) (s : State) : (runQuanta c s).sup = s.sup := rfl
@[simp] theorem runQuanta_regs (c : CmdRef) (s : State) : (runQuanta c s).regs = s.regs := rfl
@[simp] theorem runQuanta_mem (c : CmdRef) (s : State) : (runQuanta c s).mem = s.mem := rfl
@[simp] theorem runQuanta_queues (c : CmdRef) (s : State) : (runQuanta c s).queues = s.queues := rfl
@[simp] theorem runQuanta_cores (c : CmdRef) (s : State) : (runQuanta c s).cores = s.cores := rfl
@[simp] theorem runQuanta_cocoons (c : CmdRef) (s : State) : (runQuanta c s).cocoons = s.cocoons := rfl
@[simp] theorem runQuanta_luna (c : CmdRef) (s : State) : (runQuanta c s).luna = s.luna := rfl
@[simp] theorem runQuanta_dom (c : CmdRef) (s : State) : (runQuanta c s).dom = s.dom := rfl
@[simp] theorem runQuanta_img (c : CmdRef) (s : State) : (runQuanta c s).img = s.img := rfl
@[simp] theorem runQuanta_media (c : CmdRef) (s : State) : (runQuanta c s).media = s.media := rfl
@[simp] theorem runQuanta_link (c : CmdRef) (s : State) : (runQuanta c s).link = s.link := rfl
@[simp] theorem runQuanta_freeCtr (c : CmdRef) (s : State) : (runQuanta c s).freeCtr = s.freeCtr := rfl

/-! ### dropQuanta -/

@[simp] theorem dropQuanta_pending (c : CmdRef) (s : State) : (dropQuanta c s).pending = s.pending := rfl
@[simp] theorem dropQuanta_power (c : CmdRef) (s : State) : (dropQuanta c s).power = s.power := rfl
@[simp] theorem dropQuanta_time (c : CmdRef) (s : State) : (dropQuanta c s).time = s.time := rfl
@[simp] theorem dropQuanta_sup (c : CmdRef) (s : State) : (dropQuanta c s).sup = s.sup := rfl
@[simp] theorem dropQuanta_regs (c : CmdRef) (s : State) : (dropQuanta c s).regs = s.regs := rfl
@[simp] theorem dropQuanta_mem (c : CmdRef) (s : State) : (dropQuanta c s).mem = s.mem := rfl
@[simp] theorem dropQuanta_queues (c : CmdRef) (s : State) : (dropQuanta c s).queues = s.queues := rfl
@[simp] theorem dropQuanta_cores (c : CmdRef) (s : State) : (dropQuanta c s).cores = s.cores := rfl
@[simp] theorem dropQuanta_cocoons (c : CmdRef) (s : State) : (dropQuanta c s).cocoons = s.cocoons := rfl
@[simp] theorem dropQuanta_luna (c : CmdRef) (s : State) : (dropQuanta c s).luna = s.luna := rfl
@[simp] theorem dropQuanta_dom (c : CmdRef) (s : State) : (dropQuanta c s).dom = s.dom := rfl
@[simp] theorem dropQuanta_img (c : CmdRef) (s : State) : (dropQuanta c s).img = s.img := rfl
@[simp] theorem dropQuanta_media (c : CmdRef) (s : State) : (dropQuanta c s).media = s.media := rfl
@[simp] theorem dropQuanta_link (c : CmdRef) (s : State) : (dropQuanta c s).link = s.link := rfl
@[simp] theorem dropQuanta_freeCtr (c : CmdRef) (s : State) : (dropQuanta c s).freeCtr = s.freeCtr := rfl

/-! ### enterPipe -/

@[simp] theorem enterPipe_pending (k : Cmd) (p : Option Nat) (s : State) : (enterPipe k p s).pending = s.pending := by cases p <;> rfl
@[simp] theorem enterPipe_power (k : Cmd) (p : Option Nat) (s : State) : (enterPipe k p s).power = s.power := by cases p <;> rfl
@[simp] theorem enterPipe_time (k : Cmd) (p : Option Nat) (s : State) : (enterPipe k p s).time = s.time := by cases p <;> rfl
@[simp] theorem enterPipe_sup (k : Cmd) (p : Option Nat) (s : State) : (enterPipe k p s).sup = s.sup := by cases p <;> rfl
@[simp] theorem enterPipe_regs (k : Cmd) (p : Option Nat) (s : State) : (enterPipe k p s).regs = s.regs := by cases p <;> rfl
@[simp] theorem enterPipe_mem (k : Cmd) (p : Option Nat) (s : State) : (enterPipe k p s).mem = s.mem := by cases p <;> rfl
@[simp] theorem enterPipe_queues (k : Cmd) (p : Option Nat) (s : State) : (enterPipe k p s).queues = s.queues := by cases p <;> rfl
@[simp] theorem enterPipe_cores (k : Cmd) (p : Option Nat) (s : State) : (enterPipe k p s).cores = s.cores := by cases p <;> rfl
@[simp] theorem enterPipe_cocoons (k : Cmd) (p : Option Nat) (s : State) : (enterPipe k p s).cocoons = s.cocoons := by cases p <;> rfl
@[simp] theorem enterPipe_luna (k : Cmd) (p : Option Nat) (s : State) : (enterPipe k p s).luna = s.luna := by cases p <;> rfl
@[simp] theorem enterPipe_tgl (k : Cmd) (p : Option Nat) (s : State) : (enterPipe k p s).tgl = s.tgl := by cases p <;> rfl
@[simp] theorem enterPipe_dom (k : Cmd) (p : Option Nat) (s : State) : (enterPipe k p s).dom = s.dom := by cases p <;> rfl
@[simp] theorem enterPipe_img (k : Cmd) (p : Option Nat) (s : State) : (enterPipe k p s).img = s.img := by cases p <;> rfl
@[simp] theorem enterPipe_link (k : Cmd) (p : Option Nat) (s : State) : (enterPipe k p s).link = s.link := by cases p <;> rfl
@[simp] theorem enterPipe_freeCtr (k : Cmd) (p : Option Nat) (s : State) : (enterPipe k p s).freeCtr = s.freeCtr := by cases p <;> rfl

/-! ### zeroEngines -/

@[simp] theorem zeroEngines_pending (op job : Nat) (a b d : Option Nat) (s : State) : (zeroEngines op job a b d s).pending = s.pending := rfl
@[simp] theorem zeroEngines_power (op job : Nat) (a b d : Option Nat) (s : State) : (zeroEngines op job a b d s).power = s.power := rfl
@[simp] theorem zeroEngines_time (op job : Nat) (a b d : Option Nat) (s : State) : (zeroEngines op job a b d s).time = s.time := rfl
@[simp] theorem zeroEngines_sup (op job : Nat) (a b d : Option Nat) (s : State) : (zeroEngines op job a b d s).sup = s.sup := rfl
@[simp] theorem zeroEngines_regs (op job : Nat) (a b d : Option Nat) (s : State) : (zeroEngines op job a b d s).regs = s.regs := rfl
@[simp] theorem zeroEngines_mem (op job : Nat) (a b d : Option Nat) (s : State) : (zeroEngines op job a b d s).mem = s.mem := rfl
@[simp] theorem zeroEngines_queues (op job : Nat) (a b d : Option Nat) (s : State) : (zeroEngines op job a b d s).queues = s.queues := rfl
@[simp] theorem zeroEngines_cocoons (op job : Nat) (a b d : Option Nat) (s : State) : (zeroEngines op job a b d s).cocoons = s.cocoons := rfl
@[simp] theorem zeroEngines_luna (op job : Nat) (a b d : Option Nat) (s : State) : (zeroEngines op job a b d s).luna = s.luna := rfl
@[simp] theorem zeroEngines_tgl (op job : Nat) (a b d : Option Nat) (s : State) : (zeroEngines op job a b d s).tgl = s.tgl := rfl
@[simp] theorem zeroEngines_dom (op job : Nat) (a b d : Option Nat) (s : State) : (zeroEngines op job a b d s).dom = s.dom := rfl
@[simp] theorem zeroEngines_img (op job : Nat) (a b d : Option Nat) (s : State) : (zeroEngines op job a b d s).img = s.img := rfl
@[simp] theorem zeroEngines_media (op job : Nat) (a b d : Option Nat) (s : State) : (zeroEngines op job a b d s).media = s.media := rfl
@[simp] theorem zeroEngines_link (op job : Nat) (a b d : Option Nat) (s : State) : (zeroEngines op job a b d s).link = s.link := rfl
@[simp] theorem zeroEngines_freeCtr (op job : Nat) (a b d : Option Nat) (s : State) : (zeroEngines op job a b d s).freeCtr = s.freeCtr := rfl

/-! ### leaveEngines -/

@[simp] theorem leaveEngines_pending (x : Ctx) (s : State) : (leaveEngines x s).pending = s.pending := rfl
@[simp] theorem leaveEngines_power (x : Ctx) (s : State) : (leaveEngines x s).power = s.power := rfl
@[simp] theorem leaveEngines_time (x : Ctx) (s : State) : (leaveEngines x s).time = s.time := rfl
@[simp] theorem leaveEngines_sup (x : Ctx) (s : State) : (leaveEngines x s).sup = s.sup := rfl
@[simp] theorem leaveEngines_regs (x : Ctx) (s : State) : (leaveEngines x s).regs = s.regs := rfl
@[simp] theorem leaveEngines_mem (x : Ctx) (s : State) : (leaveEngines x s).mem = s.mem := rfl
@[simp] theorem leaveEngines_queues (x : Ctx) (s : State) : (leaveEngines x s).queues = s.queues := rfl
@[simp] theorem leaveEngines_cocoons (x : Ctx) (s : State) : (leaveEngines x s).cocoons = s.cocoons := rfl
@[simp] theorem leaveEngines_luna (x : Ctx) (s : State) : (leaveEngines x s).luna = s.luna := rfl
@[simp] theorem leaveEngines_tgl (x : Ctx) (s : State) : (leaveEngines x s).tgl = s.tgl := rfl
@[simp] theorem leaveEngines_dom (x : Ctx) (s : State) : (leaveEngines x s).dom = s.dom := rfl
@[simp] theorem leaveEngines_img (x : Ctx) (s : State) : (leaveEngines x s).img = s.img := rfl
@[simp] theorem leaveEngines_media (x : Ctx) (s : State) : (leaveEngines x s).media = s.media := rfl
@[simp] theorem leaveEngines_link (x : Ctx) (s : State) : (leaveEngines x s).link = s.link := rfl
@[simp] theorem leaveEngines_freeCtr (x : Ctx) (s : State) : (leaveEngines x s).freeCtr = s.freeCtr := rfl

/-! ### Fields of the cores and the Tollgate after these -/

@[simp] theorem runQuanta_counts (c : CmdRef) (s : State) : (runQuanta c s).tgl.counts = s.tgl.counts := rfl
@[simp] theorem runQuanta_granted (c : CmdRef) (s : State) : (runQuanta c s).tgl.granted = s.tgl.granted := rfl
@[simp] theorem runQuanta_factors (c : CmdRef) (s : State) : (runQuanta c s).tgl.factors = s.tgl.factors := rfl
@[simp] theorem runQuanta_waiting (c : CmdRef) (s : State) : (runQuanta c s).tgl.waiting = s.tgl.waiting := rfl
@[simp] theorem dropQuanta_counts (c : CmdRef) (s : State) : (dropQuanta c s).tgl.counts = s.tgl.counts := rfl
@[simp] theorem dropQuanta_granted (c : CmdRef) (s : State) : (dropQuanta c s).tgl.granted = s.tgl.granted := rfl
@[simp] theorem dropQuanta_factors (c : CmdRef) (s : State) : (dropQuanta c s).tgl.factors = s.tgl.factors := rfl
@[simp] theorem dropQuanta_ran (c : CmdRef) (s : State) : (dropQuanta c s).tgl.ran = s.tgl.ran := rfl
@[simp] theorem zeroEngines_usable (op job : Nat) (a b d : Option Nat) (s : State) :
    (zeroEngines op job a b d s).cores.usable = s.cores.usable := rfl
@[simp] theorem zeroEngines_marked (op job : Nat) (a b d : Option Nat) (s : State) :
    (zeroEngines op job a b d s).cores.marked = s.cores.marked := rfl
@[simp] theorem zeroEngines_banks (op job : Nat) (a b d : Option Nat) (s : State) :
    (zeroEngines op job a b d s).cores.banks = s.cores.banks := rfl
@[simp] theorem zeroEngines_lcBanks (op job : Nat) (a b d : Option Nat) (s : State) :
    (zeroEngines op job a b d s).cores.lcBanks = s.cores.lcBanks := rfl
@[simp] theorem leaveEngines_usable (x : Ctx) (s : State) : (leaveEngines x s).cores.usable = s.cores.usable := rfl
@[simp] theorem leaveEngines_marked (x : Ctx) (s : State) : (leaveEngines x s).cores.marked = s.cores.marked := rfl
@[simp] theorem leaveEngines_banks (x : Ctx) (s : State) : (leaveEngines x s).cores.banks = s.cores.banks := rfl
@[simp] theorem leaveEngines_prev (x : Ctx) (s : State) : (leaveEngines x s).cores.prev = s.cores.prev := rfl
@[simp] theorem leaveEngines_lcBanks (x : Ctx) (s : State) : (leaveEngines x s).cores.lcBanks = s.cores.lcBanks := rfl
@[simp] theorem dropRows_dev (c : CmdRef) (s : State) : (dropRows c s).mem.dev = s.mem.dev := rfl
@[simp] theorem dropRows_comp (c : CmdRef) (s : State) : (dropRows c s).mem.comp = s.mem.comp := rfl
@[simp] theorem dropRows_ob (c : CmdRef) (s : State) : (dropRows c s).mem.ob = s.mem.ob := rfl
@[simp] theorem dropRows_poison (c : CmdRef) (s : State) : (dropRows c s).mem.poison = s.mem.poison := rfl
@[simp] theorem dropRows_passHeld (c : CmdRef) (s : State) : (dropRows c s).mem.passHeld = s.mem.passHeld := rfl
@[simp] theorem dropRows_passWait (c : CmdRef) (s : State) : (dropRows c s).mem.passWait = s.mem.passWait := rfl

/-! ### The memories -/

@[simp] theorem setDev_dev (m : Mem) (s : State) : (s.setDev m).mem.dev = m := rfl
@[simp] theorem setDev_comp (m : Mem) (s : State) : (s.setDev m).mem.comp = s.mem.comp := rfl
@[simp] theorem setDev_ob (m : Mem) (s : State) : (s.setDev m).mem.ob = s.mem.ob := rfl
@[simp] theorem setDev_poison (m : Mem) (s : State) : (s.setDev m).mem.poison = s.mem.poison := rfl
@[simp] theorem setComp_dev (m : Mem) (s : State) : (s.setComp m).mem.dev = s.mem.dev := rfl
@[simp] theorem setComp_comp (m : Mem) (s : State) : (s.setComp m).mem.comp = m := rfl
@[simp] theorem setComp_ob (m : Mem) (s : State) : (s.setComp m).mem.ob = s.mem.ob := rfl
@[simp] theorem setComp_poison (m : Mem) (s : State) : (s.setComp m).mem.poison = s.mem.poison := rfl
@[simp] theorem setOb_dev (m : Mem) (s : State) : (s.setOb m).mem.dev = s.mem.dev := rfl
@[simp] theorem setOb_comp (m : Mem) (s : State) : (s.setOb m).mem.comp = s.mem.comp := rfl
@[simp] theorem setOb_ob (m : Mem) (s : State) : (s.setOb m).mem.ob = m := rfl
@[simp] theorem setOb_poison (m : Mem) (s : State) : (s.setOb m).mem.poison = s.mem.poison := rfl
@[simp] theorem setPoison_dev (l : List Nat) (s : State) : (s.setPoison l).mem.dev = s.mem.dev := rfl
@[simp] theorem setPoison_comp (l : List Nat) (s : State) : (s.setPoison l).mem.comp = s.mem.comp := rfl
@[simp] theorem setPoison_ob (l : List Nat) (s : State) : (s.setPoison l).mem.ob = s.mem.ob := rfl
@[simp] theorem setPoison_poison (l : List Nat) (s : State) : (s.setPoison l).mem.poison = l := rfl

/-! ### dropCocoon -/

@[simp] theorem dropCocoon_pending (n : Nat) (s : State) : (dropCocoon n s).pending = s.pending := rfl
@[simp] theorem dropCocoon_power (n : Nat) (s : State) : (dropCocoon n s).power = s.power := rfl
@[simp] theorem dropCocoon_time (n : Nat) (s : State) : (dropCocoon n s).time = s.time := rfl
@[simp] theorem dropCocoon_sup (n : Nat) (s : State) : (dropCocoon n s).sup = s.sup := rfl
@[simp] theorem dropCocoon_regs (n : Nat) (s : State) : (dropCocoon n s).regs = s.regs := rfl
@[simp] theorem dropCocoon_mem (n : Nat) (s : State) : (dropCocoon n s).mem = s.mem := rfl
@[simp] theorem dropCocoon_queues (n : Nat) (s : State) : (dropCocoon n s).queues = s.queues := rfl
@[simp] theorem dropCocoon_cores (n : Nat) (s : State) : (dropCocoon n s).cores = s.cores := rfl
@[simp] theorem dropCocoon_luna (n : Nat) (s : State) : (dropCocoon n s).luna = s.luna := rfl
@[simp] theorem dropCocoon_tgl (n : Nat) (s : State) : (dropCocoon n s).tgl = s.tgl := rfl
@[simp] theorem dropCocoon_dom (n : Nat) (s : State) : (dropCocoon n s).dom = s.dom := rfl
@[simp] theorem dropCocoon_img (n : Nat) (s : State) : (dropCocoon n s).img = s.img := rfl
@[simp] theorem dropCocoon_media (n : Nat) (s : State) : (dropCocoon n s).media = s.media := rfl
@[simp] theorem dropCocoon_link (n : Nat) (s : State) : (dropCocoon n s).link = s.link := rfl
@[simp] theorem dropCocoon_freeCtr (n : Nat) (s : State) : (dropCocoon n s).freeCtr = s.freeCtr := rfl
@[simp] theorem dropCocoon_cocoons (n : Nat) (s : State) :
    (dropCocoon n s).cocoons = s.cocoons.filter fun k => decide (k.num ≠ n) := rfl

end Sys2Proof.Machine
end

