-- ==== Sys2Proof/Laws/Commands.lean ====
section
/-!
SUPPORT. What the shared operations of queue commands do: frames of queue updates and completions, the start of a command,
the device-state changes of each, canonical memory.
-/
namespace Sys2Proof.Machine

/-! ### Queue updates -/

@[simp] theorem setQ_mem (r : QRef) (q : Queue) (s : State) : (setQ r q s).mem = s.mem := by cases r <;> rfl
@[simp] theorem setQ_sup (r : QRef) (q : Queue) (s : State) : (setQ r q s).sup = s.sup := by cases r <;> rfl
@[simp] theorem setQ_regs (r : QRef) (q : Queue) (s : State) : (setQ r q s).regs = s.regs := by cases r <;> rfl
@[simp] theorem setQ_tgl (r : QRef) (q : Queue) (s : State) : (setQ r q s).tgl = s.tgl := by cases r <;> rfl
@[simp] theorem setQ_time (r : QRef) (q : Queue) (s : State) : (setQ r q s).time = s.time := by cases r <;> rfl
@[simp] theorem setQ_power (r : QRef) (q : Queue) (s : State) : (setQ r q s).power = s.power := by cases r <;> rfl
@[simp] theorem setQ_cores (r : QRef) (q : Queue) (s : State) : (setQ r q s).cores = s.cores := by cases r <;> rfl
@[simp] theorem setQ_cocoons (r : QRef) (q : Queue) (s : State) : (setQ r q s).cocoons = s.cocoons := by cases r <;> rfl
@[simp] theorem setQ_luna (r : QRef) (q : Queue) (s : State) : (setQ r q s).luna = s.luna := by cases r <;> rfl
@[simp] theorem setQ_dom (r : QRef) (q : Queue) (s : State) : (setQ r q s).dom = s.dom := by cases r <;> rfl
@[simp] theorem setQ_media (r : QRef) (q : Queue) (s : State) : (setQ r q s).media = s.media := by cases r <;> rfl
@[simp] theorem setQ_link (r : QRef) (q : Queue) (s : State) : (setQ r q s).link = s.link := by cases r <;> rfl
@[simp] theorem setQ_freeCtr (r : QRef) (q : Queue) (s : State) : (setQ r q s).freeCtr = s.freeCtr := by cases r <;> rfl

@[simp] theorem modCmd_mem (c : CmdRef) (f : Cmd → Cmd) (s : State) : (modCmd c f s).mem = s.mem := setQ_mem ..
@[simp] theorem modCmd_sup (c : CmdRef) (f : Cmd → Cmd) (s : State) : (modCmd c f s).sup = s.sup := setQ_sup ..
@[simp] theorem modCmd_regs (c : CmdRef) (f : Cmd → Cmd) (s : State) : (modCmd c f s).regs = s.regs := setQ_regs ..
@[simp] theorem modCmd_tgl (c : CmdRef) (f : Cmd → Cmd) (s : State) : (modCmd c f s).tgl = s.tgl := setQ_tgl ..
@[simp] theorem modCmd_time (c : CmdRef) (f : Cmd → Cmd) (s : State) : (modCmd c f s).time = s.time := setQ_time ..
@[simp] theorem modCmd_power (c : CmdRef) (f : Cmd → Cmd) (s : State) : (modCmd c f s).power = s.power := setQ_power ..
@[simp] theorem modCmd_cores (c : CmdRef) (f : Cmd → Cmd) (s : State) : (modCmd c f s).cores = s.cores := setQ_cores ..
@[simp] theorem modCmd_cocoons (c : CmdRef) (f : Cmd → Cmd) (s : State) : (modCmd c f s).cocoons = s.cocoons := setQ_cocoons ..
@[simp] theorem modCmd_luna (c : CmdRef) (f : Cmd → Cmd) (s : State) : (modCmd c f s).luna = s.luna := setQ_luna ..

@[simp] theorem modTask_mem (r : QRef) (t : Nat) (f : Task → Task) (s : State) : (modTask r t f s).mem = s.mem := setQ_mem ..
@[simp] theorem modTask_sup (r : QRef) (t : Nat) (f : Task → Task) (s : State) : (modTask r t f s).sup = s.sup := setQ_sup ..
@[simp] theorem modTask_regs (r : QRef) (t : Nat) (f : Task → Task) (s : State) : (modTask r t f s).regs = s.regs := setQ_regs ..
@[simp] theorem modTask_tgl (r : QRef) (t : Nat) (f : Task → Task) (s : State) : (modTask r t f s).tgl = s.tgl := setQ_tgl ..
@[simp] theorem modTask_power (r : QRef) (t : Nat) (f : Task → Task) (s : State) : (modTask r t f s).power = s.power := setQ_power ..
@[simp] theorem modTask_cores (r : QRef) (t : Nat) (f : Task → Task) (s : State) : (modTask r t f s).cores = s.cores := setQ_cores ..

@[simp] theorem pushRec_mem (n : Nat) (x : Rec) (s : State) : (pushRec n x s).mem = s.mem := setQ_mem ..
@[simp] theorem pushRec_sup (n : Nat) (x : Rec) (s : State) : (pushRec n x s).sup = s.sup := setQ_sup ..
@[simp] theorem pushRec_power (n : Nat) (x : Rec) (s : State) : (pushRec n x s).power = s.power := setQ_power ..

theorem addFailed_mem (c : CmdRef) (o : Out) (s : State) : (addFailed c o s).mem = s.mem := by
  unfold addFailed
  split
  · rfl
  · exact setQ_mem ..

theorem addFailed_sup (c : CmdRef) (o : Out) (s : State) : (addFailed c o s).sup = s.sup := by
  unfold addFailed
  split
  · rfl
  · exact setQ_sup ..

theorem finishTask_mem (r : QRef) (k : Cmd) (o : Out) (s : State) : (finishTask r k o s).mem = s.mem := by
  unfold finishTask
  dsimp only
  repeat' split
  all_goals simp

theorem finishTask_sup (r : QRef) (k : Cmd) (o : Out) (s : State) : (finishTask r k o s).sup = s.sup := by
  unfold finishTask
  dsimp only
  repeat' split
  all_goals simp

/-- Settling an outcome gives it a reply and changes nothing else. -/
@[simp] theorem settle_status (o : Out) (c : CmdRef) (k : Cmd) (s : State) : (o.settle c k s).status = o.status := by
  unfold Out.settle
  split <;> rfl

@[simp] theorem settle_code (o : Out) (c : CmdRef) (k : Cmd) (s : State) : (o.settle c k s).code = o.code := by
  unfold Out.settle
  split <;> rfl

@[simp] theorem settle_rerun (o : Out) (c : CmdRef) (k : Cmd) (s : State) : (o.settle c k s).rerun = o.rerun := by
  unfold Out.settle
  split <;> rfl

theorem settle_reply {o : Out} {r : Nat} (c : CmdRef) (k : Cmd) (s : State) (h : o.reply = some r) :
    (o.settle c k s).reply = some r := by
  unfold Out.settle
  rw [h]
  exact h

/-! ### Device state -/

/-- No change of the device state, or a crossing begun in a run. -/
def mayDrain (s t : State) : Prop :=
  t.sup.dstate = s.sup.dstate ∨ (s.sup.dstate = .running ∧ t.sup.dstate = .draining)

theorem mayDrain_refl (s : State) : mayDrain s s := .inl rfl

theorem mayDrain_of_sup {s t : State} (h : t.sup = s.sup) : mayDrain s t := .inl (by rw [h])

theorem mayDrain_trans {s t u : State} (h : mayDrain s t) (g : mayDrain t u) : mayDrain s u := by
  rcases h with h | ⟨h1, h2⟩
  · rcases g with g | ⟨g1, g2⟩
    · exact .inl (g.trans h)
    · exact .inr ⟨h ▸ g1, g2⟩
  · rcases g with g | ⟨g1, g2⟩
    · exact .inr ⟨h1, g.trans h2⟩
    · rw [h2] at g1; cases g1

theorem writeIrq_sup (v q : Nat) (s : State) : (writeIrq v q s).sup = s.sup := by
  unfold writeIrq; split <;> rfl

theorem sendIrq_sup (v q : Nat) (s : State) : (sendIrq v q s).sup = s.sup := by
  unfold sendIrq
  repeat' split
  all_goals first
    | exact writeIrq_sup ..
    | rfl

theorem devIrq_sup (v : Nat) (s : State) : (devIrq v s).sup = s.sup := by
  unfold devIrq
  split
  · exact sendIrq_sup ..
  · rfl

theorem setDState_dstate (d : DState) (s : State) : (setDState d s).sup.dstate = d := by
  unfold setDState
  split
  · assumption
  · simp [devIrq_sup]

theorem beginDrain_dstate (d : DState) (s : State) : (beginDrain d s).sup.dstate = d := setDState_dstate ..

theorem beginCrossing_mayDrain (s : State) : mayDrain s (beginCrossing s) := by
  unfold beginCrossing
  split
  · rename_i h
    exact .inr ⟨h, beginDrain_dstate ..⟩
  · exact mayDrain_refl s

theorem stopImage_mayDrain (x : Nat × Nat × Option Nat) (s : State) : mayDrain s (stopImage x s) := by
  unfold stopImage
  split
  · exact mayDrain_refl s
  · exact mayDrain_trans (mayDrain_of_sup rfl) (beginCrossing_mayDrain _)

theorem abortImage_mayDrain (k : Cmd) (st code : Nat) (s : State) : mayDrain s (abortImage k st code s) :=
  mayDrain_trans (mayDrain_of_sup rfl) (stopImage_mayDrain _ _)

theorem afterImage_mayDrain (c : CmdRef) (k : Cmd) (o : Out) (s : State) : mayDrain s (afterImage c k o s) := by
  unfold afterImage
  repeat' split
  all_goals first
    | exact mayDrain_refl s
    | exact beginCrossing_mayDrain s
    | exact abortImage_mayDrain ..

/-- A completion changes the device state at most by the crossing that an image run ends in. -/
theorem complete_mayDrain (c : CmdRef) (o : Out) (s : State) : mayDrain s (complete c o s) := by
  unfold complete
  split
  · exact mayDrain_refl s
  · rename_i k _
    dsimp only
    refine mayDrain_trans (mayDrain_of_sup ?_) (afterImage_mayDrain ..)
    rw [finishTask_sup]
    split
    · simp [addFailed_sup]
    · simp [addFailed_sup]

/-! ### Canonical memory -/

theorem mapQueues_memOk {s : State} (f : Queue → Queue) (h : s.memOk) : (mapQueues f s).memOk := h

theorem beginDrain_memOk {s : State} (d : DState) (h : s.memOk) : (beginDrain d s).memOk :=
  setDState_memOk d (memOk_of_eq rfl (mapQueues_memOk markReplay h))

theorem beginCrossing_memOk {s : State} (h : s.memOk) : (beginCrossing s).memOk := by
  unfold beginCrossing
  split
  · exact beginDrain_memOk _ h
  · exact h

theorem stopImage_memOk {s : State} (x : Nat × Nat × Option Nat) (h : s.memOk) : (stopImage x s).memOk := by
  unfold stopImage
  split
  · exact h
  · exact beginCrossing_memOk (memOk_of_eq rfl h)

theorem afterImage_memOk {s : State} (c : CmdRef) (k : Cmd) (o : Out) (h : s.memOk) : (afterImage c k o s).memOk := by
  unfold afterImage
  repeat' split
  all_goals first
    | exact h
    | exact beginCrossing_memOk h
    | exact stopImage_memOk _ (memOk_of_eq rfl h)

/-- A completion keeps the memories canonical. -/
theorem complete_memOk {s : State} (c : CmdRef) (o : Out) (h : s.memOk) : (complete c o s).memOk := by
  unfold complete
  split
  · exact h
  · rename_i k _
    dsimp only
    apply afterImage_memOk
    refine memOk_of_eq (s := s) ?_ h
    rw [finishTask_mem]
    split
    · simp [addFailed_mem]
    · simp [addFailed_mem]

theorem claimBank_memOk {s : State} (core : Nat) (r : QRef) (t b : Nat) (h : s.memOk) : (claimBank core r t s b).memOk := by
  unfold claimBank
  split
  · exact h
  · exact memOk_of_eq rfl (setOb_memOk h (memClear_wf _ _ (memOk_iff.1 h).2.2))

/-! ### What the start of a command touches -/

@[simp] theorem startSlip_mem (r : QRef) (k : Cmd) (s : State) : (startSlip r k s).mem = s.mem := by
  unfold startSlip
  repeat' split
  all_goals simp

@[simp] theorem startSlip_sup (r : QRef) (k : Cmd) (s : State) : (startSlip r k s).sup = s.sup := by
  unfold startSlip
  repeat' split
  all_goals simp

@[simp] theorem placeCmd_mem (f : Family) (x : Ctx) (p : Nat) (s : State) : (placeCmd f x p s).mem = s.mem := by
  unfold placeCmd
  dsimp only
  split <;> simp

@[simp] theorem placeCmd_sup (f : Family) (x : Ctx) (p : Nat) (s : State) : (placeCmd f x p s).sup = s.sup := by
  unfold placeCmd
  dsimp only
  split <;> simp

/-- The Luna record is read as any span is (R223). -/
theorem readLuna_memOk {s : State} (f : Family) (x : Ctx) (h : s.memOk) : (readLuna f x s).memOk := by
  unfold readLuna
  dsimp only
  repeat' split
  all_goals first
    | exact noteReads_memOk _ _ _ (memOk_of_eq (modCmd_mem ..) h)
    | exact memOk_of_eq (modCmd_mem ..) h

/-- So is the step record (R240). -/
theorem readStep_memOk {s : State} (f : Family) (x : Ctx) (h : s.memOk) : (readStep f x s).memOk := by
  unfold readStep
  split
  · exact h
  · exact noteReads_memOk _ _ _ (memOk_of_eq (modCmd_mem ..) h)

theorem beginCmd_memOk {s : State} (f : Family) (x : Ctx) (core : Option Nat) (h : s.memOk) : (beginCmd f x core s).memOk := by
  unfold beginCmd
  dsimp only
  have h1 := readStep_memOk f x (readLuna_memOk f x h)
  split
  · exact memOk_of_eq (by simp) h1
  · exact foldl_memOk (fun t b ht => claimBank_memOk _ _ _ _ ht) _ (memOk_of_eq (by simp) h1)

theorem fillScratch_memOk {s : State} (x : Ctx) (l : List (Nat × Nat)) (h : s.memOk) : (fillScratch x l s).memOk :=
  foldl_memOk (fun _ _ ht => putOb_memOk _ _ _ ht) l h

theorem miscorrect_memOk {s : State} (e : Circ) (h : s.memOk) : (miscorrect e s).memOk := by
  refine foldl_memOk (fun t x ht => ?_) _ h
  split
  · split
    · refine foldl_memOk (fun t y ht => ?_) _ ht
      split
      · exact putRaw_memOk _ _ ht
      · exact ht
    · exact ht
  · exact ht

/-- A command that has just started has no kept plan: it works by the plan of its state (R68). -/
theorem kept_none {p : Plan} {x : Ctx} {s : State} (h : x.cmd.kept = none) : p.kept x s = p := by
  unfold Plan.kept
  rw [h]

/-- A plan kept from the first quantum differs in its pieces alone (R68). -/
theorem kept_eq (p : Plan) (x : Ctx) (s : State) : ∃ ps, p.kept x s = { p with pieces := ps } := by
  unfold Plan.kept
  split <;> exact ⟨_, rfl⟩

/-- Work by a plan keeps the memories canonical, if what the plan adds does. -/
theorem execPlan_memOk {s : State} (p : Plan) (x : Ctx) (hpost : ∀ r t, t.memOk → (p.post r t).memOk)
    (hmark : ∀ t, t.memOk → (p.mark t).memOk) (h : s.memOk) : (execPlan p x s).memOk := by
  obtain ⟨ps, hk⟩ := kept_eq p x s
  unfold execPlan
  rw [hk]
  have henter : ∀ rf, (Plan.enter { p with pieces := ps } x rf s).memOk := fun rf => by
    unfold Plan.enter
    split
    · exact h
    · exact fillScratch_memOk _ _ h
  dsimp only
  split
  · exact hpost _ _ (complete_memOk _ _ (hmark _ (memOk_of_eq (leaveEngines_mem ..) (runPieces_memOk _ _ _ _ _ (henter _)))))
  · exact hpost _ _ (complete_memOk _ _ (memOk_of_eq (leaveEngines_mem ..) (runPieces_memOk _ _ _ _ _ (henter _))))

theorem notePeeks_memOk {s : State} (f : Family) (x : Ctx) (o : Out) (h : s.memOk) : (notePeeks f x o s).memOk := by
  unfold notePeeks
  split
  · exact noteReads_memOk _ _ _ (miscorrect_memOk _ h)
  · exact h

theorem workOf_memOk {s : State} (f : Family) (x : Ctx) (hw : ∀ x t, t.memOk → (f.work x t).memOk) (h : s.memOk) :
    (workOf f x s).memOk := by
  unfold workOf
  split
  · exact complete_memOk _ _ (memOk_of_eq rfl h)
  · exact hw _ _ h

theorem pendCmd_memOk {s : State} (op : Nat) (c : CmdRef) (e : Circ) (h : s.memOk) : (pendCmd op c e s).memOk := by
  unfold pendCmd
  dsimp only
  split
  · exact beginCrossing_memOk (memOk_of_eq (by simp) h)
  · exact memOk_of_eq (by simp) h

theorem goOn_memOk {s : State} (f : Family) (x : Ctx) (pos : Nat) (hw : ∀ x t, t.memOk → (f.work x t).memOk) (h : s.memOk) :
    (goOn f x pos s).memOk := by
  unfold goOn
  split
  · exact memOk_of_eq (by simp) h
  · split
    · exact workOf_memOk f _ hw h
    · exact memOk_of_eq (by simp) h

/-- The row of a queue command keeps the memories canonical, if its family's work does. -/
theorem runCmd_memOk {s : State} (op : Nat) (f : Family) (c : CmdRef) (e : Circ)
    (hw : ∀ x t, t.memOk → (f.work x t).memOk) (hf : ∀ x r t, t.memOk → (f.onFail x r t).memOk) (h : s.memOk) :
    (runCmd op f c e s).memOk := by
  unfold runCmd
  split
  · exact h
  · split
    · split
      · split
        · exact h
        · exact complete_memOk _ _ (notePeeks_memOk f _ _ h)
        · exact hf _ _ _ h
        · exact pendCmd_memOk _ _ _ h
        · exact memOk_of_eq (placeCmd_mem ..) h
        · exact goOn_memOk f _ _ hw (beginCmd_memOk f _ _ (miscorrect_memOk _ h))
      · split
        · exact h
        · exact goOn_memOk f _ _ hw (memOk_of_eq (runQuanta_mem ..) (miscorrect_memOk _ h))
      · exact h
      · exact h
      · exact h
    · exact h

/-! ### The start of a command -/

/-- A command that may start does its family's work in the state that begins it. -/
theorem runCmd_start {op : Nat} {f : Family} {c : CmdRef} {e : Circ} {s s1 : State} {x : Ctx}
    (h : startOf op f c e s = some (x, s1)) : runCmd op f c (circOf op c e s) s = f.work x s1 := by
  unfold startOf at h
  dsimp only at h
  generalize circOf op c e s = e1 at h ⊢
  split at h
  · cases h
  · rename_i k hk
    split at h
    · rename_i hc
      simp only [Bool.and_eq_true, beq_iff_eq, Option.isNone_iff_eq_none, Bool.not_eq_true'] at hc
      obtain ⟨⟨⟨⟨⟨h1, h2⟩, h3⟩, h4⟩, h5⟩, -⟩ := hc
      split at h
      · rename_i core ha
        split at h
        · rename_i hm
          simp only [Option.some.injEq, Prod.mk.injEq] at h
          obtain ⟨hx, hs⟩ := h
          unfold runCmd
          rw [hk]
          dsimp only
          rw [h1, h2, h3]
          simp only [Bool.true_and, beq_self_eq_true, if_true]
          rw [ha]
          dsimp only
          unfold goOn
          rw [hs] at hx hm ⊢
          have he : (ctxNow c e1 k s1).e = e1 := rfl
          rw [he, h4]
          dsimp only
          rw [if_pos hm, ← hx]
          unfold workOf
          rw [he, h5]
          rfl
        · cases h
      · cases h
    · cases h

end Sys2Proof.Machine
end

