-- ==== Sys2Proof/Laws/Lines.lean ====
section
/-!
SUPPORT. What the line operations of R272 to R283 and the work of a command's pieces can change, said once: `LineWork`.
-/
namespace Sys2Proof.Machine

theorem lineWork_refl (s : State) : LineWork s s := ⟨_, _, _, _, _, _, _, rfl⟩

theorem lineWork_trans {s t u : State} (h : LineWork s t) (g : LineWork t u) : LineWork s u := by
  obtain ⟨m, r, k, n, i, a, b, rfl⟩ := h
  obtain ⟨m, r, k, n, i, a, b, rfl⟩ := g
  exact ⟨_, _, _, _, _, _, _, rfl⟩

theorem foldl_lineWork {α : Type} {f : State → α → State} (hf : ∀ s x, LineWork s (f s x)) (l : List α) (s : State) :
    LineWork s (l.foldl f s) := by
  induction l generalizing s with
  | nil => exact lineWork_refl s
  | cons x r ih => exact lineWork_trans (hf s x) (ih _)

theorem LineWork.qs {s t : State} (h : LineWork s t) : t.queues.qs = s.queues.qs := by obtain ⟨_, _, _, _, _, _, _, rfl⟩ := h; rfl
theorem LineWork.img {s t : State} (h : LineWork s t) : t.img = s.img := by obtain ⟨_, _, _, _, _, _, _, rfl⟩ := h; rfl
theorem LineWork.time {s t : State} (h : LineWork s t) : t.time = s.time := by obtain ⟨_, _, _, _, _, _, _, rfl⟩ := h; rfl
theorem LineWork.power {s t : State} (h : LineWork s t) : t.power = s.power := by obtain ⟨_, _, _, _, _, _, _, rfl⟩ := h; rfl
theorem LineWork.cores {s t : State} (h : LineWork s t) : t.cores = s.cores := by obtain ⟨_, _, _, _, _, _, _, rfl⟩ := h; rfl
theorem LineWork.dstate {s t : State} (h : LineWork s t) : t.sup.dstate = s.sup.dstate := by obtain ⟨_, _, _, _, _, _, _, rfl⟩ := h; rfl
theorem LineWork.run {s t : State} (h : LineWork s t) : t.sup.run = s.sup.run := by obtain ⟨_, _, _, _, _, _, _, rfl⟩ := h; rfl
theorem LineWork.tgl {s t : State} (h : LineWork s t) : t.tgl = s.tgl := by obtain ⟨_, _, _, _, _, _, _, rfl⟩ := h; rfl

theorem writeIrq_lineWork (v q : Nat) (s : State) : LineWork s (writeIrq v q s) := by
  unfold writeIrq; split <;> exact ⟨_, _, _, _, _, _, _, rfl⟩

theorem sendIrq_lineWork (v q : Nat) (s : State) : LineWork s (sendIrq v q s) := by
  unfold sendIrq
  repeat' split
  all_goals first
    | exact writeIrq_lineWork ..
    | exact ⟨_, _, _, _, _, _, _, rfl⟩

theorem devIrq_lineWork (v : Nat) (s : State) : LineWork s (devIrq v s) := by
  unfold devIrq; split
  · exact sendIrq_lineWork ..
  · exact lineWork_refl s

/-- All that an interrupt message changes: companion memory, held messages, the log of a dropped one. -/
theorem sendIrq_spec (v q : Nat) (s : State) : ∃ m i l, sendIrq v q s =
    { s with mem := { s.mem with comp := m }, queues := { s.queues with irqHeld := i }, regs := { s.regs with errLog := l } } := by
  unfold sendIrq
  repeat' split
  all_goals first
    | exact ⟨_, _, _, rfl⟩
    | (unfold writeIrq; split <;> exact ⟨_, _, _, rfl⟩)

theorem devIrq_spec (v : Nat) (s : State) : ∃ m i l, devIrq v s =
    { s with mem := { s.mem with comp := m }, queues := { s.queues with irqHeld := i }, regs := { s.regs with errLog := l } } := by
  unfold devIrq
  split
  · exact sendIrq_spec ..
  · exact ⟨_, _, _, rfl⟩

/-- All that an entry into a device state changes. -/
theorem setDState_spec (d : DState) (s : State) : ∃ m i l a b, setDState d s =
    { s with sup := { s.sup with dstate := d }, mem := { s.mem with comp := m }, queues := { s.queues with irqHeld := i }
             regs := { s.regs with errLog := l }, power := { s.power with alert := a, status := b } } := by
  unfold setDState
  split
  · rename_i h; subst h; exact ⟨_, _, _, _, _, rfl⟩
  · obtain ⟨m, i, l, h⟩ := devIrq_spec 0 { s with sup := { s.sup with dstate := d } }
    exact ⟨m, i, l, _, _, by rw [h]; rfl⟩

theorem startScrubs_lineWork (s : State) : LineWork s (startScrubs s) := by
  unfold startScrubs
  dsimp only
  split
  · exact lineWork_refl s
  · exact lineWork_trans ⟨_, _, _, _, _, _, _, rfl⟩ (devIrq_lineWork ..)

theorem markScrub_lineWork (l : Nat) (s : State) : LineWork s (markScrub l s) := by
  unfold markScrub
  dsimp only
  have h : ∀ u : State, LineWork s u → LineWork s (if atRest u then startScrubs u else u) := fun u hu => by
    split
    · exact lineWork_trans hu (startScrubs_lineWork u)
    · exact hu
  apply h
  repeat' split
  all_goals exact ⟨_, _, _, _, _, _, _, rfl⟩

theorem poisonLine_lineWork (l : Nat) (s : State) : LineWork s (poisonLine l s) := by
  unfold poisonLine
  split
  · exact lineWork_refl s
  · refine lineWork_trans ?_ (devIrq_lineWork ..)
    refine lineWork_trans (t := markScrub l (s.setPoison (insNat l s.mem.poison))) ?_ ⟨_, _, _, _, _, _, _, rfl⟩
    exact lineWork_trans ⟨_, _, _, _, _, _, _, rfl⟩ (markScrub_lineWork ..)

theorem noteUncorr_lineWork (l : Nat) (s : State) : LineWork s (noteUncorr l s) :=
  lineWork_trans ⟨_, _, _, _, _, _, _, rfl⟩ (poisonLine_lineWork ..)

theorem noteTimeout_lineWork (l : Nat) (w : Bool) (s : State) : LineWork s (noteTimeout l w s) :=
  ⟨_, _, _, _, _, _, _, rfl⟩

theorem noteCorr_lineWork (n : Nat) (s : State) : LineWork s (noteCorr n s) := ⟨_, _, _, _, _, _, _, rfl⟩

theorem noteRead_lineWork (o : Owner) (e : Circ) (s : State) (a : Nat) : LineWork s (noteRead o e s a) := by
  unfold noteRead
  dsimp only
  repeat' split
  all_goals first
    | exact lineWork_refl s
    | exact noteUncorr_lineWork ..
    | exact ⟨_, _, _, _, _, _, _, rfl⟩

theorem noteReads_lineWork (o : Owner) (e : Circ) (l : List (Nat × Nat)) (s : State) : LineWork s (noteReads o e l s) := by
  unfold noteReads
  split
  · exact lineWork_refl s
  · exact foldl_lineWork (fun t x => noteRead_lineWork ..) _ s

theorem noteServed_lineWork (o : Owner) (e : Circ) (s : State) (a : Nat) : LineWork s (noteServed o e s a) := by
  unfold noteServed
  dsimp only
  repeat' split
  all_goals first
    | exact lineWork_refl s
    | exact noteUncorr_lineWork ..
    | exact noteCorr_lineWork ..

theorem notePieces_lineWork (o : Owner) (e : Circ) (ps : List Piece) (s : State) : LineWork s (notePieces o e ps s) :=
  lineWork_trans (noteReads_lineWork ..) (foldl_lineWork (fun _ _ => noteServed_lineWork ..) _ _)

theorem rawPoison_lineWork (a : Nat) (bs : List Byte) (l : List Nat) (s : State) : LineWork s ((putRaw a bs s).setPoison l) :=
  ⟨_, _, _, _, _, _, _, rfl⟩

theorem copyLine_lineWork (e : Circ) (a b : Nat) (s : State) : LineWork s (copyLine e a b s) := by
  unfold copyLine
  dsimp only
  generalize h : (if poisoned s a then s else _) = s1
  have h1 : LineWork s s1 := by
    subst h
    repeat' split
    · exact lineWork_refl s
    · exact noteUncorr_lineWork ..
    · exact noteCorr_lineWork ..
    · exact lineWork_refl s
  exact lineWork_trans h1 (rawPoison_lineWork ..)

theorem copyGranule_lineWork (e : Circ) (a b : Nat) (s : State) : LineWork s (copyGranule e a b s) :=
  foldl_lineWork (f := fun t i => copyLine e (a * 64 + i) (b * 64 + i) t) (fun _ _ => copyLine_lineWork ..) _ s

theorem putCocoon_lineWork (k : Cocoon) (s : State) : LineWork s (putCocoon k s) := ⟨_, _, _, _, _, _, _, rfl⟩

theorem shadow_lineWork (o : Owner) (e : Circ) (a : Nat) {s t : State} (h : shadow o e a s = some t) : LineWork s t := by
  unfold shadow at h
  repeat' split at h
  · cases h; exact lineWork_refl s
  · cases h; exact lineWork_refl s
  · cases h
  · exact Option.some.inj h ▸ lineWork_trans (copyGranule_lineWork ..) (putCocoon_lineWork ..)

theorem markLine_lineWork (o : Owner) (a : Nat) (s : State) : LineWork s (markLine o a s) := by
  unfold markLine
  split <;> exact ⟨_, _, _, _, _, _, _, rfl⟩

theorem putLine_lineWork (o : Owner) (e : Circ) (a : Nat) (bs : List Byte) (s : State) : LineWork s (putLine o e a bs s).1 := by
  unfold putLine
  split
  · split <;> exact ⟨_, _, _, _, _, _, _, rfl⟩
  · split
    · exact lineWork_refl s
    · rename_i t ht
      have h := shadow_lineWork o e a ht
      dsimp only
      repeat' split
      all_goals refine lineWork_trans h ?_
      · exact lineWork_refl t
      · exact noteTimeout_lineWork ..
      · exact noteUncorr_lineWork ..
      · exact lineWork_trans (noteCorr_lineWork 1 t) (lineWork_trans (rawPoison_lineWork ..) (markLine_lineWork ..))
      · exact lineWork_trans (rawPoison_lineWork ..) (markLine_lineWork ..)

theorem putSpan_lineWork (o : Owner) (e : Circ) (l : List (Nat × List Byte)) (s : State) : LineWork s (putSpan o e l s).1 := by
  induction l generalizing s with
  | nil => exact lineWork_refl s
  | cons x r ih =>
    obtain ⟨a, bs⟩ := x
    have h := putLine_lineWork o e a bs s
    unfold putSpan
    split
    · rename_i s1 h1; rw [h1] at h; exact lineWork_trans h (ih s1)
    · rename_i s1 st h1; rw [h1] at h; exact h

theorem putDev_lineWork (o : Owner) (e : Circ) (a : Nat) (bs : List Byte) (s : State) : LineWork s (putDev o e a bs s).1 :=
  putSpan_lineWork ..

theorem putWr_lineWork (o : Owner) (e : Circ) (core : Nat) (w : Wr) (s : State) : LineWork s (putWr o e core w s).1 := by
  unfold putWr
  split
  · exact ⟨_, _, _, _, _, _, _, rfl⟩
  · exact putDev_lineWork ..

theorem putWrs_lineWork (o : Owner) (e : Circ) (core : Nat) (l : List Wr) (s : State) : LineWork s (putWrs o e core l s).1 := by
  induction l generalizing s with
  | nil => exact lineWork_refl s
  | cons x r ih =>
    have h := putWr_lineWork o e core x s
    unfold putWrs
    split
    · rename_i s1 h1; rw [h1] at h; exact lineWork_trans h (ih s1)
    · rename_i s1 st h1; rw [h1] at h; exact h

theorem putPieces_lineWork (o : Owner) (e : Circ) (core stop : Nat) (l : List (Piece × Nat)) (s : State) :
    LineWork s (putPieces o e core stop l s).1 := by
  induction l generalizing s with
  | nil => exact lineWork_refl s
  | cons x r ih =>
    obtain ⟨p, i⟩ := x
    unfold putPieces
    split
    · exact lineWork_refl s
    · have h := putWrs_lineWork o e core (p.writes.filter fun w => !(w.next && decide (stop ≤ i + 1))) s
      split
      · rename_i s1 h1; rw [h1] at h; exact lineWork_trans h (ih s1)
      · rename_i s1 st h1; rw [h1] at h; exact h

theorem scatterWr_lineWork (o : Owner) (e : Circ) (core n : Nat) (w : Wr) (s : State) : LineWork s (scatterWr o e core n w s) := by
  unfold scatterWr
  split
  · refine foldl_lineWork (fun t x => ?_) _ s
    split <;> exact ⟨_, _, _, _, _, _, _, rfl⟩
  · refine foldl_lineWork (fun t x => ?_) _ s
    split
    · exact putLine_lineWork ..
    · exact lineWork_refl t

theorem scatter_lineWork (o : Owner) (e : Circ) (core : Nat) (ws : List Wr) (s : State) : LineWork s (scatter o e core ws s) :=
  lineWork_trans (foldl_lineWork (fun _ _ => scatterWr_lineWork ..) _ s) ⟨_, _, _, _, _, _, _, rfl⟩

/-- The work of a command's pieces is line work. -/
theorem runPieces_lineWork (mixed : Bool) (o : Owner) (e : Circ) (core : Nat) (ps : List Piece) (s : State) :
    LineWork s (runPieces mixed o e core ps s).1 := by
  unfold runPieces
  dsimp only
  have h := fun l => lineWork_trans (notePieces_lineWork o e l s) (putPieces_lineWork o e core
    (((firstFault s o e ps).map (·.1)).getD ps.length) ps.zipIdx (notePieces o e l s))
  split
  · exact h _
  · dsimp only
    split
    · exact lineWork_trans (h _) (scatter_lineWork ..)
    · exact h _

theorem fillScratch_lineWork (x : Ctx) (l : List (Nat × Nat)) (s : State) : LineWork s (fillScratch x l s) :=
  foldl_lineWork (fun _ _ => ⟨_, _, _, _, _, _, _, rfl⟩) l s

/-- Miscorrected reads change bytes of lines and nothing else. -/
theorem miscorrect_lineWork (e : Circ) (s : State) : LineWork s (miscorrect e s) := by
  refine foldl_lineWork (fun t x => ?_) _ s
  split
  · split
    · refine foldl_lineWork (fun t y => ?_) _ t
      split
      · exact ⟨_, _, _, _, _, _, _, rfl⟩
      · exact lineWork_refl t
    · exact lineWork_refl t
  · exact lineWork_refl t

@[simp] theorem miscorrect_clean (e : Circ) (s : State) (h : e.errs = []) : miscorrect e s = s := by
  simp [miscorrect, h]

theorem planEnter_lineWork (p : Plan) (x : Ctx) (rf : Option (Nat × Nat × Nat)) (s : State) : LineWork s (p.enter x rf s) := by
  unfold Plan.enter
  split
  · exact lineWork_refl s
  · exact fillScratch_lineWork ..

end Sys2Proof.Machine
end

