-- ==== Sys2Proof/Laws/Completion.lean ====
section
/-!
SUPPORT. Commands in their queues: lookups after updates, and a completion, after which its command is done with its status.
-/
namespace Sys2Proof.Machine

/-! ### Association lists -/

theorem look_put {α : Type} (k j : Nat) (x : α) (l : List (Nat × α)) : look (put k x l) j = if j = k then some x else look l j := by
  induction l with
  | nil =>
    simp only [put, look]
    split <;> simp_all [eq_comm]
  | cons y r ih =>
    obtain ⟨i, y⟩ := y
    unfold put
    split
    · simp only [look]
      split <;> simp_all [eq_comm]
    · simp only [look, ih]
      split
      · split
        · simp_all
        · rfl
      · rfl

theorem look_mapVal {α : Type} (f : α → α) (l : List (Nat × α)) (k : Nat) :
    look (l.map fun x => (x.1, f x.2)) k = (look l k).map f := by
  induction l with
  | nil => rfl
  | cons y r ih =>
    simp only [List.map_cons, look]
    split
    · rfl
    · exact ih

/-! ### Commands by place -/

theorem sameCmds_refl (s : State) : SameCmds s s := fun _ => rfl
theorem sameCmds_trans {s t u : State} (h : SameCmds s t) (g : SameCmds t u) : SameCmds s u := fun r => (g r).trans (h r)

theorem getQ_of_eq {s t : State} (h : t.queues.qs = s.queues.qs) (g : t.img = s.img) (r : QRef) : getQ t r = getQ s r := by
  cases r with
  | hw q => simp [getQ, queueOf, h]
  | img => simp [getQ, g]

theorem sameCmds_of_eq {s t : State} (h : t.queues.qs = s.queues.qs) (g : t.img = s.img) : SameCmds s t :=
  fun r => by rw [getQ_of_eq h g]

theorem LineWork.getQ_eq {s t : State} (h : LineWork s t) (r : QRef) : getQ t r = getQ s r := getQ_of_eq h.qs h.img r

theorem SameCmds.cmdOf {s t : State} (h : SameCmds s t) (c : CmdRef) : cmdOf t c = cmdOf s c := by
  simp [Machine.cmdOf, h c.q]

theorem LineWork.cmdOf {s t : State} (h : LineWork s t) (c : CmdRef) : Machine.cmdOf t c = Machine.cmdOf s c := by
  simp [Machine.cmdOf, h.getQ_eq]

/-- The queue at a place after an update there: the new one, unless the place is an image section and no image runs. -/
theorem getQ_setQ_self (r : QRef) (q : Queue) (s : State) : getQ (setQ r q s) r = q ∨ (r = .img ∧ s.img.run = none) := by
  cases r with
  | hw n => left; simp [getQ, setQ, queueOf, look_put]
  | img =>
    cases h : s.img.run with
    | none => exact .inr ⟨rfl, rfl⟩
    | some x => left; simp [getQ, setQ, h]

theorem getQ_setQ_ne {r r' : QRef} (q : Queue) (s : State) (h : r' ≠ r) : getQ (setQ r q s) r' = getQ s r' := by
  cases r with
  | hw n => cases r' with
    | hw m =>
      have : m.toNat ≠ n.toNat := fun e => h (by rw [BitVec.eq_of_toNat_eq e])
      simp [getQ, setQ, queueOf, look_put, this]
    | img => rfl
  | img => cases r' with
    | hw m => rfl
    | img => exact absurd rfl h

/-- An update that leaves a queue's commands leaves every queue's. -/
theorem setQ_sameCmds (r : QRef) (q : Queue) (s : State) (h : q.cmds = (getQ s r).cmds) : SameCmds s (setQ r q s) := by
  intro r'
  by_cases e : r' = r
  · subst e
    rcases getQ_setQ_self r' q s with g | ⟨rfl, g⟩
    · rw [g, h]
    · simp [getQ, setQ, g]
  · rw [getQ_setQ_ne q s e]

theorem modTask_sameCmds (r : QRef) (t : Nat) (f : Task → Task) (s : State) : SameCmds s (modTask r t f s) :=
  setQ_sameCmds r _ s rfl

theorem ringOf_lt (s : State) (r : QRef) : ringOf s r < 2 ^ 20 := by
  unfold ringOf
  repeat' split
  all_goals first
    | exact BitVec.isLt _
    | decide

theorem pushRec_sameCmds {n : Nat} (hn : n < 2 ^ 20) (x : Rec) (s : State) : SameCmds s (pushRec n x s) := by
  refine setQ_sameCmds _ _ s ?_
  have : (BitVec.ofNat 20 n).toNat = n := by simp only [BitVec.toNat_ofNat]; exact Nat.mod_eq_of_lt hn
  simp only [getQ, this]

theorem addFailed_sameCmds (c : CmdRef) (o : Out) (s : State) : SameCmds s (addFailed c o s) := by
  unfold addFailed
  split
  · exact sameCmds_refl s
  · exact setQ_sameCmds _ _ s rfl

theorem releaseBanks_sameCmds (r : QRef) (t : Nat) (s : State) : SameCmds s (releaseBanks r t s) :=
  sameCmds_of_eq (by simp) (by simp)

theorem finishTask_sameCmds (r : QRef) (k : Cmd) (o : Out) (s : State) : SameCmds s (finishTask r k o s) := by
  unfold finishTask
  dsimp only
  repeat' split
  · exact modTask_sameCmds _ _ _ _
  · exact sameCmds_refl s
  · exact sameCmds_trans (modTask_sameCmds _ _ _ _) (releaseBanks_sameCmds _ _ _)
  · exact modTask_sameCmds _ _ _ _
  · exact releaseBanks_sameCmds _ _ _
  · exact sameCmds_refl s

theorem mapQueues_sameCmds (f : Queue → Queue) (hf : ∀ q, (f q).cmds = q.cmds) (s : State) : SameCmds s (mapQueues f s) := by
  intro r
  cases r with
  | hw n =>
    simp only [getQ, queueOf, mapQueues, look_mapVal]
    cases look s.queues.qs n.toNat with
    | none => rfl
    | some q => exact hf q
  | img =>
    simp only [getQ, mapQueues]
    cases s.img.run with
    | none => rfl
    | some q => exact hf q.q

theorem setDState_sameCmds (d : DState) (s : State) : SameCmds s (setDState d s) := by
  unfold setDState
  split
  · exact sameCmds_refl s
  · refine sameCmds_trans (t := { s with sup := { s.sup with dstate := d } }) (sameCmds_of_eq rfl rfl) ?_
    refine sameCmds_trans ?_ (sameCmds_of_eq (s := devIrq 0 { s with sup := { s.sup with dstate := d } }) rfl rfl)
    exact sameCmds_of_eq (devIrq_lineWork ..).qs (devIrq_lineWork ..).img

theorem beginDrain_sameCmds (d : DState) (s : State) : SameCmds s (beginDrain d s) := by
  unfold beginDrain
  dsimp only
  refine sameCmds_trans (mapQueues_sameCmds markReplay (fun _ => rfl) s) ?_
  exact sameCmds_trans (sameCmds_of_eq rfl rfl) (setDState_sameCmds _ _)

theorem beginCrossing_sameCmds (s : State) : SameCmds s (beginCrossing s) := by
  unfold beginCrossing
  split
  · exact beginDrain_sameCmds _ _
  · exact sameCmds_refl s

theorem stopImage_sameCmds (x : Nat × Nat × Option Nat) (s : State) : SameCmds s (stopImage x s) := by
  unfold stopImage
  split
  · exact sameCmds_refl s
  · rename_i r hr
    refine sameCmds_trans ?_ (beginCrossing_sameCmds _)
    intro q
    cases q with
    | hw n => rfl
    | img => simp [getQ, hr]

theorem afterImage_sameCmds (c : CmdRef) (k : Cmd) (o : Out) (s : State) : SameCmds s (afterImage c k o s) := by
  unfold afterImage
  repeat' split
  all_goals first
    | exact sameCmds_refl s
    | exact beginCrossing_sameCmds s
    | exact sameCmds_trans (sameCmds_of_eq rfl rfl) (stopImage_sameCmds _ _)

/-! ### A completion -/

/-- An update of a command that keeps its place is what its place holds. -/
theorem cmdOf_modCmd (c : CmdRef) (f : Cmd → Cmd) (hf : ∀ k, (f k).idx = k.idx) (s : State) :
    cmdOf (modCmd c f s) c = (cmdOf s c).map f := by
  have key : ∀ l : List Cmd, (l.map fun k => if k.idx = c.idx then f k else k).find? (fun k => decide (k.idx = c.idx))
      = (l.find? fun k => decide (k.idx = c.idx)).map f := by
    intro l
    induction l with
    | nil => rfl
    | cons k r ih =>
      simp only [List.map_cons, List.find?_cons]
      by_cases h : k.idx = c.idx
      · simp [h, hf]
      · simp [h, ih]
  unfold cmdOf modCmd
  dsimp only
  rcases getQ_setQ_self c.q _ s with g | ⟨hq, g⟩
  · rw [g]; exact key _
  · simp [getQ, setQ, hq, g]

/-- After its completion a command is done, with the status and reply of the outcome. -/
theorem cmdOf_complete {c : CmdRef} {o : Out} {s : State} {k : Cmd} (h : cmdOf s c = some k) :
    ∃ code, cmdOf (complete c o s) c = some (k.completed (o.settle c k s) code) := by
  unfold complete
  rw [h]
  dsimp only
  refine ⟨(recordOf c k (o.settle c k s) (dropQuanta c s)).code, ?_⟩
  rw [(afterImage_sameCmds _ _ _ _).cmdOf, (finishTask_sameCmds _ _ _ _).cmdOf]
  have hc : ∀ (b : Bool) (t : State), cmdOf (if b then countClasses k t else t) c = cmdOf t c := by
    intro b t
    split <;> rfl
  rw [hc, (pushRec_sameCmds (ringOf_lt _ _) _ _).cmdOf, (addFailed_sameCmds _ _ _).cmdOf, cmdOf_modCmd]
  · have : cmdOf (dropQuanta c s) c = cmdOf s c := rfl
    rw [this, h]
    rfl
  · intro k; rfl

theorem complete_done {c : CmdRef} {o : Out} {s : State} {k : Cmd} {r : Nat} (h : cmdOf s c = some k)
    (hr : o.reply = some r) : endsAs (complete c o s) c o.status r := by
  obtain ⟨code, hc⟩ := cmdOf_complete (o := o) h
  exact ⟨_, hc, rfl, settle_status o c k s, by simp [Cmd.completed, settle_reply c k s hr]⟩

/-! ### The start of a command -/

theorem claimBank_sameCmds (core : Nat) (r : QRef) (t : Nat) (s : State) (b : Nat) : SameCmds s (claimBank core r t s b) := by
  unfold claimBank
  split
  · exact sameCmds_refl s
  · exact sameCmds_of_eq rfl rfl

theorem foldl_sameCmds {α : Type} {f : State → α → State} (hf : ∀ s x, SameCmds s (f s x)) (l : List α) (s : State) :
    SameCmds s (l.foldl f s) := by
  induction l generalizing s with
  | nil => exact sameCmds_refl s
  | cons x r ih => exact sameCmds_trans (hf s x) (ih _)

theorem startSlip_sameCmds (r : QRef) (k : Cmd) (s : State) : SameCmds s (startSlip r k s) := by
  unfold startSlip
  repeat' split
  all_goals first
    | exact sameCmds_refl s
    | exact modTask_sameCmds _ _ _ _

/-- Commands stand as they do whatever the cores hold and the Tollgate grants. -/
@[simp] theorem cmdOf_withCores (c : CmdRef) (k : Cores) (s : State) : cmdOf { s with cores := k } c = cmdOf s c := by
  obtain ⟨q, i⟩ := c
  cases q <;> rfl

@[simp] theorem cmdOf_zeroEngines (op job : Nat) (a b d : Option Nat) (s : State) (c : CmdRef) :
    cmdOf (zeroEngines op job a b d s) c = cmdOf s c := cmdOf_withCores ..

@[simp] theorem cmdOf_enterPipe (k : Cmd) (p : Option Nat) (s : State) (c : CmdRef) : cmdOf (enterPipe k p s) c = cmdOf s c := by
  obtain ⟨q, i⟩ := c
  cases p <;> cases q <;> rfl

@[simp] theorem cmdOf_runQuanta (r c : CmdRef) (s : State) : cmdOf (runQuanta r s) c = cmdOf s c := by
  obtain ⟨q, i⟩ := c
  cases q <;> rfl

@[simp] theorem cmdOf_startSlip (r : QRef) (k : Cmd) (s : State) (c : CmdRef) : cmdOf (startSlip r k s) c = cmdOf s c :=
  SameCmds.cmdOf (startSlip_sameCmds r k s) c

@[simp] theorem cmdOf_modTask (r : QRef) (t : Nat) (f : Task → Task) (s : State) (c : CmdRef) :
    cmdOf (modTask r t f s) c = cmdOf s c := SameCmds.cmdOf (modTask_sameCmds r t f s) c

/-- A command placed keeps its header and its parameters. -/
theorem placeCmd_cmdOf {f : Family} {x : Ctx} {p : Nat} {s : State} {k : Cmd} (h : cmdOf s x.c = some k) :
    ∃ k', cmdOf (placeCmd f x p s) x.c = some k' ∧ k'.hdr = k.hdr ∧ k'.par = k.par ∧ k'.kept = k.kept := by
  have h0 : cmdOf (modCmd x.c (fun k => { k with
      placedAt := k.placedAt <|> some s.time.now.toNat, banks := banksOf (f.obAll x s) }) s) x.c =
      some { k with placedAt := k.placedAt <|> some s.time.now.toNat, banks := banksOf (f.obAll x s) } := by
    rw [cmdOf_modCmd, h]
    · rfl
    · intro k; rfl
  refine ⟨_, Eq.trans ?_ h0, rfl, rfl, rfl⟩
  unfold placeCmd
  dsimp only
  split
  · rfl
  · rw [cmdOf_withCores, cmdOf_modTask]

/-- The read of the Luna record changes what a command keeps of it alone (R223). -/
theorem readLuna_cmdOf {f : Family} {x : Ctx} {s : State} {k : Cmd} (h : cmdOf s x.c = some k) :
    ∃ k', cmdOf (readLuna f x s) x.c = some k' ∧ k'.hdr = k.hdr ∧ k'.par = k.par := by
  have h0 : ∀ g : Cmd → Cmd, (∀ k, (g k).idx = k.idx) → cmdOf (modCmd x.c g s) x.c = some (g k) := fun g hi => by
    rw [cmdOf_modCmd _ _ hi, h]
    rfl
  unfold readLuna
  extract_lets a s1
  have h1 : ∃ k1, cmdOf s1 x.c = some k1 ∧ k1.hdr = k.hdr ∧ k1.par = k.par :=
    ⟨_, h0 (fun k => { k with
      luna := a.map fun a => (a, readNat s x.o a 128)
      lunaBad := a.bind fun a => if f.draws x.par then readFault s x.o x.e a 128 else none }) (fun _ => rfl), rfl, rfl⟩
  clear_value s1 a
  split
  · split
    · rwa [(noteReads_lineWork ..).cmdOf]
    · exact h1
  · exact h1

/-- So does the read of the step record (R240). -/
theorem readStep_cmdOf {f : Family} {x : Ctx} {s : State} {k : Cmd} (h : cmdOf s x.c = some k) :
    ∃ k', cmdOf (readStep f x s) x.c = some k' ∧ k'.hdr = k.hdr ∧ k'.par = k.par := by
  unfold readStep
  split
  · exact ⟨k, h, rfl, rfl⟩
  · rw [(noteReads_lineWork ..).cmdOf, cmdOf_modCmd, h]
    · exact ⟨_, rfl, rfl, rfl⟩
    · intro k; rfl

/-- A command that begins keeps its place, its header and its parameters. -/
theorem beginCmd_cmdOf {f : Family} {x : Ctx} {core : Option Nat} {s : State} {k : Cmd} (h : cmdOf s x.c = some k) :
    ∃ k', cmdOf (beginCmd f x core s) x.c = some k' ∧ k'.hdr = k.hdr ∧ k'.par = k.par ∧ k'.kept = none := by
  obtain ⟨k9, h9, e10, e11⟩ := readLuna_cmdOf (f := f) h
  obtain ⟨k0, h0, e12, e13⟩ := readStep_cmdOf (f := f) h9
  have e1 := e12.trans e10
  have e2 := e13.trans e11
  unfold beginCmd
  extract_lets now th s1 s2 s3 s4
  have h3 : cmdOf s4 x.c = cmdOf s1 x.c := by simp [s4, s3, s2]
  have h1 : ∃ k1, cmdOf s1 x.c = some k1 ∧ k1.hdr = k.hdr ∧ k1.par = k.par ∧ k1.kept = none := by
    simp only [s1]
    rw [cmdOf_modCmd, h0]
    · exact ⟨_, rfl, e1, e2, rfl⟩
    · intro k; rfl
  obtain ⟨k1, hk1, e3, e4, e7⟩ := h1
  split
  · exact ⟨_, h3.trans hk1, e3, e4, e7⟩
  · rename_i p
    obtain ⟨k2, hk2, e5, e6, e8⟩ := placeCmd_cmdOf (f := f) (p := p) (h3.trans hk1)
    refine ⟨k2, ?_, e5.trans e3, e6.trans e4, e8.trans e7⟩
    rw [← hk2]
    exact SameCmds.cmdOf (foldl_sameCmds (fun t b => claimBank_sameCmds p x.c.q x.cmd.task t b) _ _) _

/-- The context in which a started command works: its place, its circumstances, its own parameters. -/
theorem startOf_ctx {op : Nat} {f : Family} {c : CmdRef} {e : Circ} {s s1 : State} {x : Ctx}
    (h : startOf op f c e s = some (x, s1)) :
    x.c = c ∧ x.e = circOf op c e s ∧ (∃ k, cmdOf s1 c = some k) ∧ rowsIn op c e s = true ∧ x.e.hold = none ∧
      x.cmd.kept = none := by
  unfold startOf at h
  dsimp only at h
  generalize circOf op c e s = e1 at h ⊢
  split at h
  · cases h
  · rename_i k hk
    split at h
    · rename_i hc
      simp only [Bool.and_eq_true, beq_iff_eq, Option.isNone_iff_eq_none, Bool.not_eq_true'] at hc
      split at h
      · rename_i core ha
        split at h
        · simp only [Option.some.injEq, Prod.mk.injEq] at h
          obtain ⟨hx, hs⟩ := h
          obtain ⟨k', hk', -, -, hn⟩ := beginCmd_cmdOf (f := f) (x := mkCtx (miscorrect e1 s) c e1 k) (core := core)
            (((miscorrect_lineWork e1 s).cmdOf c).trans hk)
          refine ⟨by rw [← hx]; rfl, by rw [← hx]; rfl, ⟨k', by rw [← hs]; exact hk'⟩, hc.2, by rw [← hx]; exact hc.1.1.2, ?_⟩
          rw [← hx]
          unfold ctxNow
          rw [show cmdOf (beginCmd f (mkCtx (miscorrect e1 s) c e1 k) core (miscorrect e1 s)) c = some k' from hk']
          exact hn
        · cases h
      · cases h
    · cases h

/-! ### What a completion changes -/

theorem completionWork_refl (s : State) : CompletionWork s s := ⟨_, _, _, _, _, _, _, _, _, _, _, _, _, _, rfl⟩

theorem completionWork_trans {s t u : State} (h : CompletionWork s t) (g : CompletionWork t u) : CompletionWork s u := by
  obtain ⟨_, _, _, _, _, _, _, _, _, _, _, _, _, _, rfl⟩ := h
  obtain ⟨_, _, _, _, _, _, _, _, _, _, _, _, _, _, rfl⟩ := g
  exact ⟨_, _, _, _, _, _, _, _, _, _, _, _, _, _, rfl⟩

theorem setQ_completionWork (r : QRef) (q : Queue) (s : State) : CompletionWork s (setQ r q s) := by
  cases r <;> exact ⟨_, _, _, _, _, _, _, _, _, _, _, _, _, _, rfl⟩

theorem modCmd_completionWork (c : CmdRef) (f : Cmd → Cmd) (s : State) : CompletionWork s (modCmd c f s) := setQ_completionWork ..
theorem pushRec_completionWork (n : Nat) (x : Rec) (s : State) : CompletionWork s (pushRec n x s) := by
  unfold pushRec
  exact setQ_completionWork _ _ s

theorem sendIrq_completionWork (v q : Nat) (s : State) : CompletionWork s (sendIrq v q s) := by
  unfold sendIrq
  repeat' split
  all_goals first
    | exact ⟨_, _, _, _, _, _, _, _, _, _, _, _, _, _, rfl⟩
    | (unfold writeIrq; split <;> exact ⟨_, _, _, _, _, _, _, _, _, _, _, _, _, _, rfl⟩)

theorem setDState_completionWork (d : DState) (s : State) : CompletionWork s (setDState d s) := by
  unfold setDState
  split
  · exact completionWork_refl s
  · refine completionWork_trans (t := devIrq 0 { s with sup := { s.sup with dstate := d } }) ?_
      ⟨_, _, _, _, _, _, _, _, _, _, _, _, _, _, rfl⟩
    refine completionWork_trans (t := { s with sup := { s.sup with dstate := d } })
      ⟨_, _, _, _, _, _, _, _, _, _, _, _, _, _, rfl⟩ ?_
    unfold devIrq
    split
    · exact sendIrq_completionWork ..
    · exact completionWork_refl _

theorem beginCrossing_completionWork (s : State) : CompletionWork s (beginCrossing s) := by
  unfold beginCrossing
  split
  · unfold beginDrain
    refine completionWork_trans (t := mapQueues markReplay s) ⟨_, _, _, _, _, _, _, _, _, _, _, _, _, _, rfl⟩ ?_
    exact completionWork_trans ⟨_, _, _, _, _, _, _, _, _, _, _, _, _, _, rfl⟩ (setDState_completionWork ..)
  · exact completionWork_refl s

theorem stopImage_completionWork (x : Nat × Nat × Option Nat) (s : State) : CompletionWork s (stopImage x s) := by
  unfold stopImage
  split
  · exact completionWork_refl s
  · exact completionWork_trans ⟨_, _, _, _, _, _, _, _, _, _, _, _, _, _, rfl⟩ (beginCrossing_completionWork _)

theorem afterImage_completionWork (c : CmdRef) (k : Cmd) (o : Out) (s : State) : CompletionWork s (afterImage c k o s) := by
  unfold afterImage
  repeat' split
  all_goals first
    | exact completionWork_refl s
    | exact beginCrossing_completionWork s
    | exact completionWork_trans ⟨_, _, _, _, _, _, _, _, _, _, _, _, _, _, rfl⟩ (stopImage_completionWork _ _)

theorem releaseBanks_completionWork (r : QRef) (t : Nat) (s : State) : CompletionWork s (releaseBanks r t s) := by
  unfold releaseBanks
  split
  · exact completionWork_refl s
  · exact ⟨_, _, _, _, _, _, _, _, _, _, _, _, _, _, rfl⟩

theorem finishTask_completionWork (r : QRef) (k : Cmd) (o : Out) (s : State) : CompletionWork s (finishTask r k o s) := by
  unfold finishTask
  dsimp only
  repeat' split
  · exact setQ_completionWork ..
  · exact completionWork_refl s
  · exact completionWork_trans (setQ_completionWork ..) (releaseBanks_completionWork ..)
  · exact setQ_completionWork ..
  · exact releaseBanks_completionWork ..
  · exact completionWork_refl s

theorem addFailed_completionWork (c : CmdRef) (o : Out) (s : State) : CompletionWork s (addFailed c o s) := by
  unfold addFailed
  split
  · exact completionWork_refl s
  · exact setQ_completionWork ..

/-- Everything a completion can change. -/
theorem complete_completionWork (c : CmdRef) (o : Out) (s : State) : CompletionWork s (complete c o s) := by
  unfold complete
  split
  · exact completionWork_refl s
  · rename_i k _
    dsimp only
    refine completionWork_trans ?_ (afterImage_completionWork ..)
    refine completionWork_trans ?_ (finishTask_completionWork ..)
    have h1 : CompletionWork s (dropQuanta c s) := ⟨_, _, _, _, _, _, _, _, _, _, _, _, _, _, rfl⟩
    have h2 : ∀ f x n, CompletionWork s (pushRec n x (addFailed c (o.settle c k s) (modCmd c f (dropQuanta c s)))) :=
      fun _ _ _ => completionWork_trans h1 (completionWork_trans (modCmd_completionWork ..)
        (completionWork_trans (addFailed_completionWork ..) (pushRec_completionWork ..)))
    split
    · exact completionWork_trans (h2 _ _ _) ⟨_, _, _, _, _, _, _, _, _, _, _, _, _, _, rfl⟩
    · exact h2 _ _ _

/-! ### Work by pieces -/

/-- Without a mismatch a plan runs its pieces once and completes. -/
theorem execPlan_once (p0 : Plan) (x : Ctx) (s : State) (h : x.e.mis1 = none) :
    execPlan p0 x s =
      let p := p0.kept x s
      let u := runPieces p.mixed x.o x.e x.core p.pieces (p.enter x (firstFault s x.o x.e p.pieces) s)
      p.post { fail := u.2 } (complete x.c (p.out { fail := u.2 }) (leaveEngines x u.1)) := by
  unfold execPlan
  simp [h, Plan.mismatch]

end Sys2Proof.Machine
end

