-- ==== Sys2Proof/Laws/Signature.lean ====
section
/-!
SUPPORT. Signatures that verify: for every image without a body there are a key and a signature that R427 accepts, which the
tests' modules hold. A verification is too long a computation for the kernel, so these lemmas go without one.
-/
namespace Sys2Proof.Machine
open Host

/-! ### Digests have 256 bits -/

theorem sum_lt (v z : Nat) : ((List.range 8).map fun j => ((word32 v j + word32 z j) % 2 ^ 32) <<< (32 * j)).sum < 2 ^ 256 := by
  have h : ∀ j, (word32 v j + word32 z j) % 2 ^ 32 < 2 ^ 32 := fun j => Nat.mod_lt _ (by decide)
  have h0 := h 0; have h1 := h 1; have h2 := h 2; have h3 := h 3; have h4 := h 4; have h5 := h 5; have h6 := h 6; have h7 := h 7
  simp only [List.range_succ, List.range_zero, List.nil_append, List.map_append, List.map_cons, List.map_nil, List.sum_append,
    List.sum_cons, List.sum_nil, Nat.shiftLeft_eq]
  omega
theorem shaBlock_lt (v m : Nat) : shaBlock v m < 2 ^ 256 := by
  unfold shaBlock
  exact sum_lt _ _
theorem shaStart_lt : shaStart < 2 ^ 256 := by unfold shaStart; omega
theorem shaNat_lt (n m : Nat) : shaNat n m < 2 ^ 256 := by
  unfold shaNat
  simp only
  generalize (n + 8) / 64 + 1 = k
  have : ∀ (l : List Nat) (p v : Nat), v < 2 ^ 256 →
      l.foldl (fun v i => shaBlock v (p >>> (512 * (k - 1 - i)) % 2 ^ 512)) v < 2 ^ 256 := by
    intro l
    induction l with
    | nil => intro p v h; exact h
    | cons i r ih => intro p v _; rw [List.foldl_cons]; exact ih p _ (shaBlock_lt _ _)
  exact this _ _ _ shaStart_lt

/-! ### A key made for a signature -/

/-- A signature of the types of R427 whose values are all zero. It leads from every message to some root. -/
def blank : LmsSig := ⟨0, 0, List.replicate 67 0, List.replicate 15 0⟩
theorem blank_parse : LmsSig.parse blank.bytes = some blank := by decide +kernel
theorem blank_lt : blank.bytes < 2 ^ 21344 := by decide +kernel
theorem path_lt (l : List Nat) (ident : Nat) (x : Nat × Nat) (h : x.2 < 2 ^ 256) :
    (l.foldl (fun (x : Nat × Nat) sib =>
      (x.1 / 2, if x.1 % 2 = 1 then lmsAbove ident (x.1 / 2) sib x.2 else lmsAbove ident (x.1 / 2) x.2 sib)) x).2 < 2 ^ 256 := by
  induction l generalizing x with
  | nil => exact h
  | cons y r ih =>
    refine ih _ ?_
    simp only
    split <;> exact shaNat_lt _ _
theorem root_lt (n m : Nat) : blank.root 0 n m < 2 ^ 256 := path_lt _ _ _ (shaNat_lt _ _)
/-- The two parts of a joined number. -/
theorem joined_parts (a b k : Nat) (h : b < 2 ^ k) : (a <<< k + b) >>> k = a ∧ (a <<< k + b) % 2 ^ k = b := by
  rw [Nat.shiftLeft_eq, Nat.shiftRight_eq_div_pow]
  refine ⟨?_, ?_⟩
  · rw [Nat.mul_comm, Nat.mul_add_div (Nat.two_pow_pos k), Nat.div_eq_of_lt h, Nat.add_zero]
  · rw [Nat.mul_comm, Nat.mul_add_mod, Nat.mod_eq_of_lt h]

/-- The root to which that signature leads from a message, the child key with that root, the signature of the image with both
levels blank, and the public key under which it verifies. -/
def madeRoot (n m : Nat) : Nat := blank.root 0 n m
def madeChild (n m : Nat) : Nat := lmsPublic 0 (madeRoot n m)
def madeSig (n m : Nat) : Nat := ((1 <<< 21344 + blank.bytes) <<< 448 + madeChild n m) <<< 21344 + blank.bytes
def madeKey (n m : Nat) : Nat := 2 <<< 448 + lmsPublic 0 (madeRoot 56 (madeChild n m))
theorem public_eq (r : Nat) : lmsPublic 0 r = (7 <<< 160 + 3 <<< 128) <<< 256 + r := by
  rw [lmsPublic]; congr 1
theorem public_lt {r : Nat} (h : r < 2 ^ 256) : lmsPublic 0 r < 2 ^ 448 := by
  have : (7 <<< 32 + 3 : Nat) <<< 384 + 0 <<< 256 = 7 * 2 ^ 416 + 3 * 2 ^ 384 := by decide +kernel
  rw [lmsPublic, this]
  norm_num at h ⊢
  omega
theorem lmsOk_blank {n m r : Nat} (hr : r = madeRoot n m) : lmsOk (lmsPublic 0 r) n m blank.bytes = true := by
  have hl : r < 2 ^ 256 := hr ▸ root_lt n m
  have h1 : beField 56 (lmsPublic 0 r) 0 8 = 7 <<< 32 + 3 := by
    have : (lmsPublic 0 r) >>> 384 = 7 <<< 32 + 3 := by
      rw [show (384 : Nat) = 256 + 128 from rfl, Nat.shiftRight_add, public_eq, (joined_parts _ r 256 hl).1]
      decide +kernel
    rw [beField, this]; decide +kernel
  have h2 : beField 56 (lmsPublic 0 r) 8 16 = 0 := by
    rw [beField]
    show (lmsPublic 0 r) >>> 256 % _ = _
    rw [public_eq, (joined_parts _ r 256 hl).1]; decide +kernel
  have h3 : beField 56 (lmsPublic 0 r) 24 32 = r := by
    rw [beField]
    show (lmsPublic 0 r) >>> 0 % 2 ^ 256 = _
    rw [public_eq, Nat.shiftRight_zero, (joined_parts _ r 256 hl).2]
  simp only [lmsOk, blank_parse, h1, h2, h3]
  rw [hr]
  simp [madeRoot]
theorem made_ok (n m : Nat) : hssOk (madeKey n m) n m (madeSig n m) = true := by
  have hc : madeChild n m < 2 ^ 448 := public_lt (root_lt n m)
  have hk : lmsPublic 0 (madeRoot 56 (madeChild n m)) < 2 ^ 448 := public_lt (root_lt _ _)
  have hs : (madeSig n m) >>> 21344 = (1 <<< 21344 + blank.bytes) <<< 448 + madeChild n m := (joined_parts _ _ _ blank_lt).1
  have h1 : beField 5396 (madeSig n m) 2672 56 = madeChild n m := by
    rw [beField]
    show (madeSig n m) >>> 21344 % 2 ^ 448 = _
    rw [hs, (joined_parts _ _ _ hc).2]
  have h2 : beField 5396 (madeSig n m) 0 4 = 1 := by
    rw [beField]
    show (madeSig n m) >>> (21344 + 448 + 21344) % 2 ^ 32 = _
    rw [Nat.shiftRight_add, Nat.shiftRight_add, hs, (joined_parts _ _ _ hc).1, (joined_parts _ _ _ blank_lt).1]
    decide +kernel
  have h3 : beField 5396 (madeSig n m) 4 2668 = blank.bytes := by
    rw [beField]
    show (madeSig n m) >>> (21344 + 448) % 2 ^ 21344 = _
    rw [Nat.shiftRight_add, hs, (joined_parts _ _ _ hc).1, (joined_parts _ _ _ blank_lt).2]
  have h4 : beField 5396 (madeSig n m) 2728 2668 = blank.bytes := by
    rw [beField]
    show (madeSig n m) >>> 0 % 2 ^ 21344 = _
    rw [Nat.shiftRight_zero, madeSig, (joined_parts _ _ _ blank_lt).2]
  have h5 : beField 60 (madeKey n m) 0 4 = 2 := by
    rw [beField]
    show (madeKey n m) >>> 448 % 2 ^ 32 = _
    rw [madeKey, (joined_parts _ _ _ hk).1]; decide +kernel
  have h6 : madeKey n m % 2 ^ 448 = lmsPublic 0 (madeRoot 56 (madeChild n m)) := (joined_parts _ _ _ hk).2
  simp only [hssOk, h1, h2, h3, h4, h5, h6]
  rw [lmsOk_blank rfl, madeChild, lmsOk_blank rfl]
  decide
theorem madeKey_lt (n m : Nat) : madeKey n m < 2 ^ 480 := by
  have hk : lmsPublic 0 (madeRoot 56 (madeChild n m)) < 2 ^ 448 := public_lt (root_lt _ _)
  have : (2 : Nat) <<< 448 = 2 ^ 449 := by decide +kernel
  rw [madeKey, this]
  omega
theorem madeSig_lt (n m : Nat) : madeSig n m < 256 ^ 5396 := by
  have hs : (madeSig n m) >>> 21344 = (1 <<< 21344 + blank.bytes) <<< 448 + madeChild n m := (joined_parts _ _ _ blank_lt).1
  have hc : madeChild n m < 2 ^ 448 := public_lt (root_lt n m)
  have h0 : (madeSig n m) >>> (21344 + 448 + 21344) = 1 := by
    rw [Nat.shiftRight_add, Nat.shiftRight_add, hs, (joined_parts _ _ _ hc).1, (joined_parts _ _ _ blank_lt).1]
  have key : ∀ k, madeSig n m >>> k = 1 → madeSig n m < 2 ^ (k + 1) := fun k hk => by
    rw [Nat.shiftRight_eq_div_pow] at hk
    have := Nat.lt_mul_of_div_lt (show madeSig n m / 2 ^ k < 2 by omega) (Nat.two_pow_pos _)
    rwa [Nat.pow_succ, Nat.mul_comm]
  have h1 : ∀ k, 256 ^ k = 2 ^ (8 * k) := fun k => by rw [Nat.pow_mul]
  rw [h1]
  exact (key _ h0).trans_le (Nat.pow_le_pow_right (by norm_num) (by norm_num))
/-! ### Big-endian bytes -/

theorem beNat_append (l : List Byte) (b : Byte) : beNat (l ++ [b]) = beNat l * 256 + b.toNat := by simp [beNat]
theorem beBytes_succ (n v : Nat) : beBytes (n + 1) v = beBytes n (v / 256) ++ [BitVec.ofNat 8 v] := by
  rw [beBytes, beBytes, List.range_succ, List.map_append]
  congr 1
  · refine List.map_congr_left fun i hi => ?_
    have := List.mem_range.1 hi
    rw [show (256 : Nat) = 2 ^ 8 from rfl, ← Nat.shiftRight_eq_div_pow, ← Nat.shiftRight_add]
    congr 2; omega
  · simp
theorem beNat_beBytes (n : Nat) : ∀ v, beNat (beBytes n v) = v % 256 ^ n := by
  induction n with
  | zero => intro v; simp [beBytes, beNat, Nat.mod_one]
  | succ n ih =>
    intro v
    have h : v % 256 ^ (n + 1) = v % 256 + 256 * (v / 256 % 256 ^ n) := by rw [Nat.pow_succ, Nat.mul_comm, Nat.mod_mul]
    rw [beBytes_succ, beNat_append, ih, BitVec.toNat_ofNat, h]
    omega
theorem beBytes_length (n v : Nat) : (beBytes n v).length = n := by simp [beBytes]
/-- A read beside what was written, and one of it. -/
theorem memRead_out {z : Byte} {m : Mem} {bs : List Byte} {a b n : Nat} (h : Memory.wfOf z m = true)
    (ho : b + n ≤ a ∨ a + bs.length ≤ b) : memRead z (memWrite z m a bs) b n = memRead z m b n := by
  refine List.map_congr_left fun i hi => ?_
  have := List.mem_range.1 hi
  rw [memGet_memWrite bs a (b + i) h, if_neg (by omega)]
theorem memRead_in {z : Byte} {m : Mem} {bs : List Byte} {a : Nat} (h : Memory.wfOf z m = true) :
    memRead z (memWrite z m a bs) a bs.length = bs := by
  refine List.ext_getElem (by simp [memRead]) fun i h1 h2 => ?_
  simp only [memRead, List.getElem_map, List.getElem_range]
  rw [memGet_memWrite bs a (a + i) h, if_pos (by omega), Nat.add_sub_cancel_left, List.getD_eq_getElem?_getD,
    List.getElem?_eq_getElem h2,
    Option.getD_some]

/-! ### A module with such a signature -/

/-- Flash with a signature made for the image without body at `a`. -/
def signedAt (a : Nat) (m : Mem) : Mem := memWrite 0xFF m (a + 128) (beBytes 5396 (madeSig 128 (beNat (memRead 0xFF m a 128))))
/-- Another flash and another key. -/
def withFlash (f : Mem) (key : BitVec 480) (s : State) : State := { s with sup := { s.sup with flash := f, rom := key } }
@[simp] theorem withFlash_flash (f : Mem) (key : BitVec 480) (s : State) : (withFlash f key s).sup.flash = f := rfl
@[simp] theorem withFlash_rom (f : Mem) (key : BitVec 480) (s : State) : (withFlash f key s).sup.rom = key := rfl
@[simp] theorem withFlash_slot (f : Mem) (key : BitVec 480) (s : State) : (withFlash f key s).sup.brSlot = s.sup.brSlot := rfl
/-- The module has that flash and the key under which the signature verifies. -/
def signedFlash (rt copy : Bool) (m : Mem) (s : State) : State :=
  withFlash (signedAt (copyBase rt copy) m) (BitVec.ofNat 480 (madeKey 128 (beNat (memRead 0xFF m (copyBase rt copy) 128)))) s
theorem signed_flash (rt copy : Bool) (m : Mem) (s : State) :
    (signedFlash rt copy m s).sup.flash = signedAt (copyBase rt copy) m := withFlash_flash _ _ _
theorem signed_slot (rt copy : Bool) (m : Mem) (s : State) : (signedFlash rt copy m s).sup.brSlot = s.sup.brSlot :=
  withFlash_slot _ _ _
theorem signed_read {rt copy : Bool} {m : Mem} {s : State} {b n : Nat} (h : Memory.wfOf 0xFF m = true)
    (ho : b + n ≤ copyBase rt copy + 128 ∨ copyBase rt copy + 5524 ≤ b) :
    flashRead (signedFlash rt copy m s) b n = leNat (memRead 0xFF m b n) := by
  rw [flashRead, signed_flash, signedAt, memRead_out h (by rw [beBytes_length]; omega)]
/-- The image in a module's flash verifies under its key (R427). -/
theorem signed_ok {rt copy : Bool} {m : Mem} {s : State} (h : Memory.wfOf 0xFF m = true)
    (hs : fwShape rt (leNat (memRead 0xFF m (copyBase rt copy) 128)) = true)
    (hl : fld (leNat (memRead 0xFF m (copyBase rt copy) 128)) 191 160 = 0) : copyOk (signedFlash rt copy m s) rt copy = true := by
  have hh : fwHeader (signedFlash rt copy m s) rt copy = leNat (memRead 0xFF m (copyBase rt copy) 128) := signed_read h (by omega)
  have h1 : flashSpan (signedFlash rt copy m s) (copyBase rt copy) 128 = beNat (memRead 0xFF m (copyBase rt copy) 128) := by
    rw [flashSpan, signed_flash, signedAt, memRead_out h (by omega)]
  have h2 : flashSpan (signedFlash rt copy m s) (copyBase rt copy + 128) 5396 =
      madeSig 128 (beNat (memRead 0xFF m (copyBase rt copy) 128)) := by
    have := memRead_in (a := copyBase rt copy + 128)
      (bs := beBytes 5396 (madeSig 128 (beNat (memRead 0xFF m (copyBase rt copy) 128)))) h
    rw [beBytes_length] at this
    rw [flashSpan, signed_flash, signedAt, this, beNat_beBytes, Nat.mod_eq_of_lt (madeSig_lt _ _)]
  have h3 : (signedFlash rt copy m s).sup.rom.toNat = madeKey 128 (beNat (memRead 0xFF m (copyBase rt copy) 128)) := by
    rw [signedFlash, withFlash_rom, BitVec.toNat_ofNat, Nat.mod_eq_of_lt (madeKey_lt _ _)]
  rw [copyOk, hh, hl]
  simp only [Nat.add_zero, h1, h2, h3, made_ok, hs, Bool.and_self]
/-- What a verification reads of a state: flash and key. -/
theorem copyOk_congr {s t : State} {rt copy : Bool} (hf : t.sup.flash = s.sup.flash) (hr : t.sup.rom = s.sup.rom) :
    copyOk t rt copy = copyOk s rt copy := by
  simp only [copyOk, fwHeader, flashRead, flashSpan, hf, hr]
theorem signed_wf {rt copy : Bool} {m : Mem} {s : State} (h : Memory.wfOf 0xFF m = true) :
    Memory.wfOf 0xFF (signedFlash rt copy m s).sup.flash = true := by
  rw [signed_flash, signedAt]
  exact memWrite_wf _ _ h

end Sys2Proof.Machine
end

