-- ==== Sys2Proof/Tests/Slice0.lean ====
section
/-!
SUPPORT. Tests: ill-formed commands that WellFormed refuses, the worked examples of the spec, and for every statement of
Certificates/Slice0 states and operands that meet its hypotheses.
-/
namespace Sys2Proof.Tests
open Sys2Proof Sys2Proof.Machine Host
set_option Elab.async false

/-! ### WellFormed refuses an ill-formed term for each of its checks -/

def at0 : CmdRef := ⟨.hw 1, 0⟩
def hello0 : Hello := ⟨0, 1, true, 7, 1, true, true, [2, 3], 0, []⟩
def selfTest0 : SelfTest where
  badCores := []
  badDies := []
  storeBad := false
  badStacks := []
  badEnc := []
  badDec := []
  badScl := []
  badPorts := []
  fabricBad := false
  halfBad := false
  nLeadFn := true
  sLeadFn := true
  linkGen := 3
  linkLanes := 0xFFFFFFFF
  training := []
  recordOk := true

theorem test_wf_circumstances : (Instr.movFill at0 { parity := [0x600000] }).wf = false ∧
    (Instr.mtxRun at0 { errs := [(2 ^ 42, [])] }).wf = false ∧ (Instr.vecRun at0 { errs := [(0, [(72, 1)])] }).wf = false ∧
    (Instr.attFwd at0 { late := [2 ^ 48] }).wf = false ∧
    (Instr.movFill at0 { parity := [0x5FFFFF], late := [2 ^ 48 - 1] }).wf = true := by decide +kernel
theorem test_wf_hello : (Instr.helloReceive { hello0 with part := 512 }).wf = false ∧
    (Instr.helloReceive { hello0 with sizeM1 := 512 }).wf = false ∧ (Instr.helloReceive { hello0 with redMin := 4 }).wf = false ∧
    (Instr.helloReceive { hello0 with links := [(36, 0)] }).wf = false ∧
    (Instr.helloReceive { hello0 with links := [(0, 512)] }).wf = false ∧ (Instr.helloReceive hello0).wf = true := by
  decide +kernel
theorem test_wf_collectiveMessages : (Instr.collectiveDataArrival (.data 512 0 0 64 0 [])).wf = false ∧
    (Instr.collectiveDataArrival (.data 0 65536 0 64 0 [])).wf = false ∧
    (Instr.collectiveDataArrival (.data 0 0 0 64 1 [])).wf = false ∧
    (Instr.collectiveDataArrival (.data 0 0 0 64 0 [1])).wf = false ∧
    (Instr.collectiveDataArrival (.ack 512 0 0 64 1)).wf = false ∧ (Instr.collectiveDataArrival (.ack 0 65536 0 64 1)).wf = false ∧
    (Instr.collectiveDataArrival (.vec 512 0 0 0 [])).wf = false ∧ (Instr.collectiveDataArrival (.vec 0 65536 0 0 [])).wf = false ∧
    (Instr.collectiveDataArrival (.vec 0 0 0 0 [1])).wf = false := by decide +kernel
theorem test_wf_selfTest : (Instr.instar1Complete { selfTest0 with badCores := [(16, 0)] }).wf = false ∧
    (Instr.instar1Complete { selfTest0 with badCores := [(0, 13)] }).wf = false ∧
    (Instr.instar1Complete { selfTest0 with badDies := [16] }).wf = false ∧
    (Instr.instar1Complete { selfTest0 with badStacks := [32] }).wf = false ∧
    (Instr.instar1Complete { selfTest0 with badPorts := [36] }).wf = false ∧
    (Instr.instar1Complete selfTest0).wf = true := by decide +kernel
theorem test_wf_registers : (Instr.registerWrite 0x0F0000000002 0).wf = false ∧ (Instr.registerWrite 0x020000000000 0).wf = false ∧
    (Instr.counterClearWrite 0x0F0000000002 0).wf = false ∧ (Instr.tmbLoad 2).wf = false ∧ (Instr.tmbPpsEnable 1).wf = false ∧
    (Instr.controlQueueOpen 0x1F).wf = false ∧ (Instr.controlRingConfigWrite 0x0C 0).wf = false ∧
    (Instr.controlRingConfigWrite 0x24 0).wf = false ∧ (Instr.controlRingConfigWrite 0x12 0).wf = false ∧
    (Instr.companionReservedAccess false 0 0 0).wf = false ∧ (Instr.companionReservedAccess false 0 65 0).wf = false := by
  decide +kernel
theorem test_wf_doorbells : (Instr.commandDoorbell [] 0x100000).wf = false ∧ (Instr.commandDoorbell [(2 ^ 64, 1)] 0).wf = false ∧
    (Instr.completionDoorbell 0).wf = false := by decide +kernel
theorem test_wf_events : (Instr.taskRelease (2 ^ 32)).wf = false ∧
    (Instr.domainForm [(36, 0)]).wf = false ∧ (Instr.domainForm [(0, 512)]).wf = false ∧ (Instr.viaductLinkDown 36).wf = false ∧
    (Instr.budgetWindowEnd [] 0).wf = false ∧ (Instr.thermalSensorRead []).wf = false ∧
    (Instr.scrubRead ⟨true, 4⟩ {}).wf = false ∧ (Instr.scrubRead ⟨false, 0⟩ { err := [(72, 1)] }).wf = false ∧ (Instr.lowerTierTimeout (2 ^ 42) true).wf = false ∧
    (Instr.recoveryScrubEnd true 4 []).wf = false ∧ (Instr.recoveryScrubEnd false 4 [(2 ^ 42, [])]).wf = false ∧
    (Instr.recoveryScrubEnd false 4 [(0, [(72, 1)])]).wf = false ∧
    (Instr.recoveryScrubEnd false 4 []).wf = true ∧ (Instr.lockGroupPictureStart (2 ^ 48)).wf = false ∧
    (Instr.crossingPendingActions { parity := [0x600000] }).wf = false := by decide +kernel

/-! ### The spec's own examples -/

/-- The examples of spec/01 (R35, R34). -/
theorem test_decoding_addresses : stackOf 0x00C000012345 = 20 ∧ stackByte 0x00C000012345 = 0x2345 ∧ homeOf 0x0200C0001000 = 3 := by
  decide +kernel
/-- The example of spec/00: bytes in order, fields of a word (R6). -/
theorem test_byte_order : leBytes 4 0x1234ABCD = [0xCD, 0xAB, 0x34, 0x12] ∧ fld 0x1234ABCD 15 8 = 0xAB ∧
    fld 0x1234ABCD 31 28 = 1 ∧ bit 0x1234ABCD 0 = true := by decide +kernel
/-- The example of spec/10: row 37, k = 700 of 300 rows by 1,024 in MX E4M3 (R258 to R260). -/
theorem test_tile_position : (Fmt.mx .e4m3).tilePos 300 1024 37 700 = (43708 * 8, 46381) ∧
    (Fmt.mx .e4m3).tensorBytes 300 1024 = 316800 := by decide +kernel
/-- The same element in packed row-major form (R261): 0xA5 at its byte, 0x81 at its scale byte. -/
theorem test_row_position : (Fmt.mx .e4m3).rowCode (fun i => if i = 39772 then 0xA5 else if i = 40117 then 0x81 else 0)
    1024 1056 37 700 = (0xA5, 0x81) := by decide +kernel

def blockA : List Nat := [0x38, 0x4C, 0xB3]
def blockB : List Nat := [0x3A, 0x44, 0x40]
/-- The example of spec/02: the exact sum 16,777,251.75 rounds to a multiple of 2 (R49, R51). -/
theorem test_block_sum :
    blockStep (fun i => (Fmt.mx .e4m3).value (blockA.getD i 0) 0x7F) (fun i => (Fmt.mx .e4m3).value (blockB.getD i 0) 0x80) 32
      0x4B800000 0 = 0x4B800012 := by decide +kernel
/-- The example of spec/02: a BF16 group in which large products cancel gives 1.375 × 2^-30 (R50). -/
theorem test_bf16_group : rne32 (bfGroup ((List.zip [0x4380, 0x3040, 0xC380, 0] [0x4380, 0x3FF0, 0x4380, 0x3F80]).map fun x =>
    (wideBf.decode x.1).mul (wideBf.decode x.2))) = 0x30B00000 := by decide +kernel
/-- The example of spec/02: the parts of 0x3FAA_AAAB (R53). -/
theorem test_split_value : rne32 (hiPart (val32 0x3FAAAAAB)) = 0x3FAA0000 ∧ rne32 (loPart (val32 0x3FAAAAAB)) = 0x3BAB0000 := by
  decide +kernel
/-- The example of spec/02: two MX E4M3 output blocks (R61). -/
theorem test_output_blocks :
    (Fmt.mx .e4m3).storeLine ([0x43960000, 0x43EB0000, 0x3DCCCCCD] ++ List.replicate 29 0) =
      ([0x7F], [0x79, 0x7E, 0x1D] ++ List.replicate 29 0) ∧
    (Fmt.mx .e4m3).storeLine (0x7F800000 :: List.replicate 31 0x3F800000) = ([0xFF], List.replicate 32 0) := by decide +kernel
/-- Five grains combine as ((P0 + P1) + (P2 + P3)) + P4 (R57). -/
theorem test_tree_of_five : tree (fun a b => "(" ++ a ++ "+" ++ b ++ ")") "" ["P0", "P1", "P2", "P3", "P4"] =
    "(((P0+P1)+(P2+P3))+P4)" := by decide +kernel
/-- The example of spec/03: grains [0, 4) of five are a node, [1, 3) are none (R79). -/
theorem test_nodes : isNode 0 4 5 = true ∧ isNode 4 5 5 = true ∧ isNode 1 3 5 = false := by decide +kernel
/-- The example of spec/05: 40 equal values, EPS = 2^-20 (R143 to R146). -/
theorem test_row_statistics : rowStats 3 (List.replicate 40 0x7F400000) 0x35800000 = (0x7F400000, 0, 0x44800000) := by
  decide +kernel
/-- The example of spec/08: fields of a draw at G = 16 (R228). -/
theorem test_draw_fields : drawField 0x9C41E7D05A1377B20F68C3A91D448E25 16 8 0 = 0x25 ∧
    drawField 0x9C41E7D05A1377B20F68C3A91D448E25 16 8 7 = 0x0F ∧ drawField 0x9C41E7D05A1377B20F68C3A91D448E25 16 8 13 = 0xE7 := by
  decide +kernel

def cosine : Sched where
  next := true
  kind := 2
  restart := true
  bcEn := false
  normEn := false
  mult := 2
  warm := 100
  t0 := 1000
  stepEvery := 0
  lrMax := 0x3A800000
  lrMin := 0x38800000
  gamma := 0
  wd := 0
  b1 := 0
  b2 := 0
  maxNorm := 0
  tSet := 0
  recA := 0
  norm := 0
/-- The example of spec/09: a cosine schedule with warm restarts (R252). -/
theorem test_cosine_schedule : cosine.lrOf 3 99 = 0x3A800000 ∧ cosine.lrOf 3 100 = 0x3A800000 ∧ cosine.lrOf 3 1100 = 0x3A800000 ∧
    cosine.lrOf 3 2100 = 0x3A080000 := by decide +kernel
/-- The example of spec/11: bicubic coefficients at phase 0 after the correction, from 3,840 to 1,280 columns (R312). -/
theorem test_bicubic : (Scaler.parse 2).line 3840 1280 1 = [(0, -3), (0, -6), (1, 0), (2, 28), (3, 66), (4, 86), (5, 66), (6, 28),
    (7, 0), (8, -6), (9, -3), (10, 0)] := by decide +kernel
/-- The example of spec/12: the root field of tag 101 (R346). -/
theorem test_root_field : rootField 100 0x4120 0x41 = 0x0410412000000064 := by decide +kernel
/-- The example of spec/13: a grant of a tile of 4,194,304 MAC (R384, R389, R392). -/
theorem test_grant_prediction : rawEnergy .a8 4194304 0 = 9228 ∧ guardOf 1000 40000000 = 32 ∧ predict 9228 1024 32 = 10382 := by
  decide +kernel
/-- The example of spec/14: 144 logical cores on 143 usable ones fold once (R406). -/
theorem test_fold : (coreMap (List.range 143) 144).map (fun m => (m.2, m.1.drop 141)) = some (1, [141, 142, 142]) := by decide +kernel
/-- The example of spec/07: a ring of 1,024 slots after 1,536 appends (R198). -/
theorem test_ring_slots : (Seq.first { Seq.parse 0 with app := 1536, cap := 1024, ring := true },
    Seq.slot { Seq.parse 0 with app := 1536, cap := 1024, ring := true } 1024) = (512, 0) := by decide +kernel

/-! ### States in which the statements' hypotheses hold -/

/-- A number with values at bit positions. -/
def fields (l : List (Nat × Nat)) : Nat := (l.map fun x => x.2 <<< x.1).sum

/-- A healthy part in a queue-fed run: link up, 12 cores on each die, term 1. -/
def running : State := { State.reset with
  link := { gen := 3, lanes := 32, up := true }
  time := { refOk := true, now := 5000 }
  sup := { State.reset.sup with dstate := .running, stage := 3, term := 1, storeTerm := List.replicate 4 1, nLeadOk := true
                                sLeadOk := true, nId := true, sId := true, run := some { kind := .queueFed, start := 0, svc := 0 } }
  cores := { usable := List.replicate 16 (List.range 12) } }
def inState (d : DState) (s : State) : State := { s with sup := { s.sup with dstate := d, run := none } }
def ready : State := inState .ready running

/-- An open latency-critical queue with one waiting command, the whole of its task. -/
def oneCmd (op par : Nat) : Queue :=
  { state := .opened, lc := true, job := 1, fetched := 1, tail := 1
    cmds := [{ idx := 0, hdr := op + 0x330000, par := par, task := 1, charges := some [] }], tasks := [{ serial := 1, id := 0, lc := true }] }
def setQueue (qid : Nat) (q : Queue) (s : State) : State := { s with queues := { s.queues with qs := put qid q s.queues.qs } }
/-- The grant of the command's last quantum lies in the open window (R385). -/
def granting (c : CmdRef) (s : State) : State := { s with tgl := { s.tgl with openE := ⟨c, 13, 0, 0, 0⟩ :: s.tgl.openE } }
def withCmd (qid op par : Nat) (s : State) : State := granting ⟨.hw (BitVec.ofNat 20 qid), 0⟩ (setQueue qid (oneCmd op par) s)
def c1 : CmdRef := ⟨.hw 1, 0⟩
def c0 : CmdRef := ⟨.hw 0, 0⟩
/-- Bytes in device memory. -/
def devBytes (a n v : Nat) (s : State) : State := { s with mem := { s.mem with dev := memWrite 0 s.mem.dev a (leBytes n v) } }
def ks : Nat := 0x020000000000
def bg : Nat := 0x000000100000

/-- A command starts in a state, and its context and the state of its work have a property. -/
def Starts (op : Nat) (f : Family) (c : CmdRef) (s : State) (P : Ctx → State → Prop) : Prop :=
  ∃ x s1, startOf op f c {} s = some (x, s1) ∧ P x s1
theorem starts {op : Nat} {f : Family} {c : CmdRef} {s : State} (P : Ctx → State → Prop) [∀ x s, Decidable (P x s)]
    (h : ((startOf op f c {} s).any fun y => decide (P y.1 y.2)) = true) : Starts op f c s P := by
  unfold Starts
  match startOf op f c {} s, h with
  | some (x, s1), h => exact ⟨x, s1, rfl, of_decide_eq_true h⟩

/-! ### Steps and the whole machine -/

theorem meets_StepRunsFrontCommand : ({ running with pending := [.ppsLoss, .timeMessage] } : State).pending =
    .ppsLoss :: [.timeMessage] := rfl
theorem meets_EmptyQueueTicks : State.reset.pending = [] ∧ State.reset.sup.dstate ≠ .off ∧ State.reset.time.slew = 0 ∧
    (inState .off running).pending = [] ∧ (inState .off running).sup.dstate = .off := by decide +kernel
theorem meets_invariants : State.reset.mem.wf = true ∧ PowerOk State.reset ∧ StatusOk State.reset ∧ ∃ t, step State.reset = .next t := by
  refine ⟨by decide +kernel, by unfold PowerOk; decide +kernel, by unfold StatusOk; decide +kernel, _, rfl⟩
theorem meets_AlertFollowsStatus : ({ running with power := { running.power with alert := true } } : State).sup.dstate ≠ .off ∧
    running.power.badRelease = false := by decide +kernel

/-! ### Commands that work by pieces -/

/-- The hypotheses of `QueueCommandsStartTheirWork`, `DataCommandsComplete` and `DataCommandsWriteTheirSpans`. -/
def completes (i : Instr) (s : State) : Bool :=
  match queueRow i, planOf i with
  | some (op, f, c, e), some plan => (startOf op f c e s).any fun y =>
      let (x, s1) := y
      x.e.mis1.isNone && (firstFault s1 x.o x.e (plan x s1).pieces).isNone &&
        (runPieces (plan x s1).mixed x.o x.e x.core (plan x s1).pieces ((plan x s1).enter x none s1)).2.isNone &&
        s1.mem.wf && (cocoonOf s1 x.o).isNone && decide (s1.img.run.map (·.c) ≠ some c)
  | _, _ => false

def Completes (i : Instr) (s : State) : Prop :=
  ∃ op f c e s1 x plan, queueRow i = some (op, f, c, e) ∧ planOf i = some plan ∧ startOf op f c e s = some (x, s1) ∧
    x.e.mis1 = none ∧ firstFault s1 x.o x.e (plan x s1).pieces = none ∧
    (runPieces (plan x s1).mixed x.o x.e x.core (plan x s1).pieces ((plan x s1).enter x none s1)).2 = none ∧
    s1.mem.wf = true ∧ cocoonOf s1 x.o = none ∧ s1.img.run.map (·.c) ≠ some c

theorem completes_of {i : Instr} {s : State} (h : completes i s = true) : Completes i s := by
  unfold completes at h
  split at h
  · rename_i op f c e plan hq hp
    match hs : startOf op f c e s with
    | none => simp [hs] at h
    | some (x, s1) =>
      simp only [hs, Option.any_some, Bool.and_eq_true, Option.isNone_iff_eq_none, decide_eq_true_eq] at h
      obtain ⟨⟨⟨⟨⟨h1, h2⟩, h3⟩, h4⟩, h5⟩, h6⟩ := h
      exact ⟨op, f, c, e, s1, x, plan, hq, hp, hs, h1, h2, h3, h4, h5, h6⟩
  · simp at h

/-- The numerics block for BF16 operands and FP32 results in one pass. -/
def bf : Nat := 0x1011
/-- A sequence of one BF16 page of 16 positions, of which one is appended (R195). -/
def sequence : State := devBytes (ks + 64) 16 (ks + 4096 + 4 <<< 48)
  (devBytes ks 64 (fields [(0, 1), (64, 16), (96, 1), (104, 1), (108, 1), (128, 1), (144, 1)]) running)

theorem meets_movTile : Completes (.movTile c1 {})
    (withCmd 1 0x0101 (fields [(32, ks), (96, ks + 64), (160, 64)]) running) := completes_of (by decide +kernel)
theorem meets_movExpand : Completes (.movExpand c1 {})
    (withCmd 1 0x0102 (fields [(0, 1), (4, 1), (48, 1), (64, 32), (80, 16), (96, 1), (112, 1), (128, 1), (192, 1), (208, 1),
      (256, 1), (272, 1), (320, 0x400), (352, 0x4000)]) running) := completes_of (by decide +kernel)
theorem meets_movGather : Completes (.movGather c1 {})
    (withCmd 1 0x0103 (fields [(0, 1), (32, 32), (64, ks), (128, 128), (160, 1), (224, 0x400)]) running) :=
  completes_of (by decide +kernel)
theorem meets_movFill : Completes (.movFill c1 {})
    (withCmd 1 0x0104 (fields [(32, ks), (96, 64), (224, 0xDEADBEEF)]) running) := completes_of (by decide +kernel)
theorem meets_mtxRun : Completes (.mtxRun c1 {})
    (withCmd 1 0x0201 (bf + fields [(128, 1), (160, 16), (176, 1), (192, 1), (320, 0x400), (352, 0x10000), (384, 0x8000)]) running) :=
  completes_of (by decide +kernel)
theorem meets_mtxChain2 : Completes (.mtxChain2 c1 {})
    (withCmd 1 0x0202 (bf + bf <<< 128 + fields [(256, 1), (278, 1), (281, 1), (284, 2), (288, 32), (304, 32), (320, 1), (328, 1),
      (384, 0x400), (416, 0xC00), (448, 0x10000), (480, 0x20000), (1028, 1), (1044, 1), (3584, 1)]) running) :=
  completes_of (by decide +kernel)
theorem meets_mtxMv : Completes (.mtxMv c1 {})
    (withCmd 1 0x0203 (bf + fields [(128, 1), (160, 16), (176, 1), (192, 1), (320, 0x400), (352, 0x10000), (384, 0x8000)]) running) :=
  completes_of (by decide +kernel)
theorem meets_vecRun : Completes (.vecRun c1 {})
    (withCmd 1 0x0301 (fields [(0, 1), (32, 32), (52, 3), (68, 1), (832, 0x400), (1216, 0xC1)]) running) :=
  completes_of (by decide +kernel)
theorem meets_vecStats : Completes (.vecStats c1 {})
    (withCmd 1 0x0302 (fields [(0, 1), (32, 32), (56, 1), (96, 0x400)]) running) := completes_of (by decide +kernel)
theorem meets_vecUpdate : Completes (.vecUpdate c1 {})
    (withCmd 1 0x0303 (fields [(32, 1), (160, 0x400), (192, 0x800), (288, ks), (352, 0x3F800000), (384, 0x3F000000)])
      (devBytes (ks + 20) 1 2 running)) := completes_of (by decide +kernel)
theorem meets_vecSched : Completes (.vecSched c1 {})
    (withCmd 1 0x0304 (fields [(8, 1), (128, 0x3F800000), (384, ks)]) running) := completes_of (by decide +kernel)
theorem meets_attFwd : Completes (.attFwd c1 {})
    (withCmd 1 0x0401 (bf + bf <<< 128 + fields [(256, 1), (320, ks), (544, 0x400), (608, 0x10000), (640, 0x80000)]) sequence) :=
  completes_of (by decide +kernel)
theorem meets_attBwd : Completes (.attBwd c1 {})
    (withCmd 1 0x0402 (bf + bf <<< 128 + fields [(256, 32), (320, ks), (480, 32), (576, 1), (640, 0x1000), (672, 0x2000),
      (704, 0x2400), (736, 0x4000), (768, 0x6000), (800, 0x6400), (832, 0x10000), (864, 0x80000)]) sequence) :=
  completes_of (by decide +kernel)
theorem meets_kvAppend : Completes (.kvAppend c1 {})
    (withCmd 1 0x0403 (fields [(2, 1), (16, 1), (32, ks), (128, 0x400)]) sequence) := completes_of (by decide +kernel)
theorem meets_kvMap : Completes (.kvMap c1 {})
    (withCmd 1 0x0404 (fields [(4, 1), (8, 1), (32, 1), (64, ks)]) running) := completes_of (by decide +kernel)
theorem meets_cnvFuse : Completes (.cnvFuse c1 {})
    (withCmd 1 0x0501 (bf <<< 512 + fields [(0, 1), (6, 1), (96, 1), (104, 1), (160, 0x10000), (192, 0x20000), (224, 0x800),
      (640, 1), (644, 1), (688, 1), (704, 32), (720, 16), (736, 1), (752, 1), (776, 1), (800, 0x1000)]) running) :=
  completes_of (by decide +kernel)
theorem meets_abtRun : Completes (.abtRun c1 {})
    (withCmd 1 0x0502 (bf + fields [(128, 1), (132, 1), (176, 1), (192, 16), (208, 16), (224, 1), (240, 1), (256, ks),
      (320, ks + 0x1000), (384, ks + 0x2000), (592, 1), (624, 1)]) running) := completes_of (by decide +kernel)
theorem meets_rngSet : Completes (.rngSet c1 {})
    (withCmd 1 0x0601 (fields [(16, 2), (32, ks), (128, 0x1234), (256, 7)]) running) := completes_of (by decide +kernel)
theorem meets_smpGumbel : Completes (.smpGumbel c1 {})
    (withCmd 1 0x0602 (fields [(0, 1), (32, 32), (56, 1), (96, 0x400), (288, 32)]) running) := completes_of (by decide +kernel)
theorem meets_medDec : Completes (.medDec c1 {})
    (withCmd 1 0x0701 (fields [(0, 3), (64, ks)]) (devBytes ks 1 1 running)) := completes_of (by decide +kernel)
theorem meets_medScale : Completes (.medScale c1 {})
    (withCmd 1 0x0703 (fields [(16, 16), (32, 16), (64, ks), (128, 64), (160, ks + 0x1000), (224, 64), (336, 16), (352, 16)])
      running) := completes_of (by decide +kernel)
theorem meets_medLock : Completes (.medLock c1 {})
    (withCmd 1 0x0704 (fields [(3, 1), (64, ks), (128, ks + 0x10000)]) (devBytes ks 1 2 (devBytes (ks + 0x10000) 1 2 running))) :=
  completes_of (by decide +kernel)
theorem meets_synSignal : Completes (.synSignal c1 {}) (withCmd 1 0x0801 (fields [(0, ks), (64, 7)]) running) :=
  completes_of (by decide +kernel)
theorem meets_synWait : Completes (.synWait c1 {}) (withCmd 1 0x0802 (fields [(0, ks), (64, 7)]) (devBytes ks 8 7 running)) :=
  completes_of (by decide +kernel)

/-! ### Queue commands with statements of their own -/

theorem meets_MovesAndFills :
    Starts 0x0101 movTileFamily c1 (withCmd 1 0x0101 (fields [(32, ks), (96, ks + 64), (160, 64)]) running) (fun x s1 =>
      let p := MovTile.parse x.par
      p.layout = 0 ∧ p.src = .dev ks ∧ p.dst = .dev (ks + 64) ∧ p.repl = 0 ∧ 0 < p.len ∧ spanMem ks p.len = true ∧
        spanMem (ks + 64) p.len = true ∧ overlap ks p.len (ks + 64) p.len = false ∧ healthy s1 {} ∧ s1.mem.wf = true ∧
        cocoonOf s1 x.o = none) ∧
    Starts 0x0104 movFillFamily c1 (withCmd 1 0x0104 (fields [(32, ks), (96, 64), (224, 0xDEADBEEF)]) running) (fun x s1 =>
      let p := Fill.parse x.par
      p.ob = false ∧ p.dst % 4 = 0 ∧ p.len % 4 = 0 ∧ 0 < p.len ∧ spanMem p.dst p.len = true ∧ healthy s1 {} ∧ s1.mem.wf = true ∧
        cocoonOf s1 x.o = none) := ⟨starts _ (by decide +kernel), starts _ (by decide +kernel)⟩

theorem meets_RandomStreams :
    Starts 0x0601 rngFamily c1 (withCmd 1 0x0601 (fields [(16, 2), (32, ks), (128, 0x1234), (256, 7)]) running) (fun x s1 =>
      let p := RngSet.parse x.par
      p.op = 0 ∧ spanKs p.rec1 128 = true ∧ p.rec1 % 128 = 0 ∧ healthy s1 {} ∧ s1.mem.wf = true ∧ cocoonOf s1 x.o = none) ∧
    (∀ op, op ∈ [1, 2, 3] → Starts 0x0601 rngFamily c1 (withCmd 1 0x0601 (fields ((0, op) :: (32, ks) ::
        if op = 3 then [] else [(16, 2), (256, 7)])) running) (fun x s1 =>
      let p := RngSet.parse x.par
      p.op = op ∧ spanKs p.rec1 128 = true ∧ p.rec1 % 128 = 0 ∧ healthy s1 {} ∧ s1.mem.wf = true ∧ cocoonOf s1 x.o = none)) := by
  refine ⟨starts _ (by decide +kernel), fun op h => ?_⟩
  obtain rfl | rfl | rfl : op = 1 ∨ op = 2 ∨ op = 3 := by simpa using h
  all_goals exact starts _ (by decide +kernel)

/-- The parameters of MED.ENC OPEN: 64 × 64, 8 bits, constant QP. -/
def encPar : Nat := fields [(2, 1), (32, 64), (48, 64), (64, 1), (80, 26), (104, 1), (112, 1), (120, 1), (136, 51), (240, 1),
  (256, ks), (320, ks + 0x10000), (448, 64), (464, 64), (480, 64)]
/-- An open encode context. -/
def encoding : State := devBytes (ks + 256) 96 encPar (devBytes ks 1 2 running)
def encodeOne (ctx : Nat) : Nat := fields [(0, 1), (256, ctx), (384, ks + 0x20000), (512, ks + 0x30000), (576, 0x10000)]

theorem meets_Encoding_open : Starts 0x0702 encFamily c1 (withCmd 1 0x0702 encPar running) (fun x s1 =>
    let p := Enc.parse x.par
    healthy s1 {} ∧ spanKs p.ctx ctxLen = true ∧ p.ctx % 4096 = 0 ∧ s1.mem.wf = true ∧ cocoonOf s1 x.o = none ∧ p.op ≠ 1) :=
  starts _ (by decide +kernel)
theorem meets_Encoding_picture : Starts 0x0702 encFamily c1 (withCmd 1 0x0702 (encodeOne ks) encoding) (fun x s1 =>
    let p := Enc.parse x.par
    let z := shotOf p x s1
    healthy s1 {} ∧ spanKs p.ctx ctxLen = true ∧ p.ctx % 4096 = 0 ∧ s1.mem.wf = true ∧ cocoonOf s1 x.o = none ∧ p.op = 1 ∧
      groupOf encoding p.ctx = none ∧ partDone encoding c1 = false ∧
      (∀ y ∈ (z.q.srcMem z.src).reads z.q.sw z.q.sh, spanKs y.1 y.2 = true) ∧ spanKs p.out p.outLen = true ∧ 0 < p.outLen ∧
      spanKs z.base (3 * slotLen z.q.w z.q.h z.q.depth) = true) := starts _ (by decide +kernel)

/-- Two encode contexts in a lock group, each with a waiting command for its picture. -/
def locked : State :=
  let s := devBytes (ks + 0x40100) 96 encPar (devBytes (ks + 0x40000) 1 2 encoding)
  withCmd 2 0x0702 (encodeOne (ks + 0x40000)) (withCmd 1 0x0702 (encodeOne ks)
    { s with media := { s.media with groups := [⟨[ks, ks + 0x40000], [0, 1], false, none, [], []⟩] } })
def admitted (ctx : Nat) (s : State) : Bool :=
  (encCmdOf s ctx).any fun y => decide (cmdOf s y.1 = some y.2) &&
    match admission 0x0702 (encFamilyOf true) y.1 {} y.2 s with
    | .go _ => true
    | _ => false
theorem admitted_meets {ctx : Nat} {s : State} (h : admitted ctx s = true) :
    ∃ c k core, encCmdOf s ctx = some (c, k) ∧ cmdOf s c = some k ∧ admission 0x0702 (encFamilyOf true) c {} k s = .go core := by
  unfold admitted at h
  match hs : encCmdOf s ctx with
  | none => simp [hs] at h
  | some (c, k) =>
    simp only [hs, Option.any_some, Bool.and_eq_true, decide_eq_true_eq] at h
    match ha : admission 0x0702 (encFamilyOf true) c {} k s with
    | .go core => exact ⟨c, k, core, rfl, h.1, ha⟩
    | .wait => simp [ha] at h
    | .stop o => simp [ha] at h
    | .dep r => simp [ha] at h
    | .pend => simp [ha] at h
    | .queue p => simp [ha] at h
theorem meets_LockGroupsStartTogether : ∃ g, groupOf locked ks = some g ∧ g.started = none ∧
    (∀ i ∈ g.pipes, i ∉ heldPipes locked 0x0702) ∧ locked.sup.dstate ≠ .off ∧
    locked.time.now.toNat + 1024 < 2 ^ 64 ∧ ∀ m ∈ g.members, ∃ c k core, encCmdOf locked m = some (c, k) ∧
      cmdOf locked c = some k ∧ admission 0x0702 (encFamilyOf true) c {} k locked = .go core := by
  refine ⟨⟨[ks, ks + 0x40000], [0, 1], false, none, [], []⟩, by decide +kernel, rfl, by decide +kernel, by decide +kernel, by decide +kernel, ?_⟩
  intro m hm
  have h : m = ks ∨ m = ks + 0x40000 := by simpa using hm
  exact h.elim (fun h => h ▸ admitted_meets (by decide +kernel)) (fun h => h ▸ admitted_meets (by decide +kernel))

theorem meets_Synchronisation :
    Starts 0x0801 signalFamily c1 (withCmd 1 0x0801 (fields [(0, ks), (64, 7)]) running) (fun x s1 =>
      healthy s1 {} ∧ s1.mem.wf = true ∧ cocoonOf s1 x.o = none ∧ spanKs (synObj x.par) 32 = true ∧ synObj x.par % 32 = 0) ∧
    Starts 0x0802 waitFamily c1 (withCmd 1 0x0802 (fields [(0, ks), (64, 7)]) (devBytes ks 8 7 running)) (fun x s1 =>
      readFault s1 x.o {} (synObj x.par) 32 = none ∧ (synRead x s1).2.1 = false) ∧
    Starts 0x0802 waitFamily c1 (withCmd 1 0x0802 (fields [(0, ks), (64, 7)]) (devBytes (ks + 8) 1 1 running)) (fun x s1 =>
      readFault s1 x.o {} (synObj x.par) 32 = none ∧ (synRead x s1).2.1 = true) ∧
    Starts 0x0803 fenceFamily c1 (withCmd 1 0x0803 0 running) (fun _ _ => True) :=
  ⟨starts _ (by decide +kernel), starts _ (by decide +kernel), starts _ (by decide +kernel), starts _ (by decide +kernel)⟩

theorem meets_SpeculativeTasks_begin :
    Starts 0x0901 beginFamily c1 (withCmd 1 0x0901 (fields [(0, ks), (64, 2)]) running) (fun x _ =>
      cocoonOf running x.o = none ∧ x.cmd.second = false) := starts _ (by decide +kernel)
/-- Task 5 of queue 1 is speculative and finished; the command names it. -/
def speculative (op : Nat) : State :=
  let q := oneCmd op (fields [(0, 1), (32, 5)])
  granting c1 (setQueue 1 { q with cmds := q.cmds.map fun k => { k with task := 2 }
                                   tasks := [{ serial := 1, id := 5, state := .speculative, finished := true },
                                     { serial := 2, id := 0 }] }
    { running with cocoons := [{ num := 0, q := .hw 1, task := 1, ks := ks, ksN := 2, bg := 0, bgN := 0
                                 granules := [⟨0x30000, ks / 4096, 3⟩] }] })
theorem meets_SpeculativeTasks_commit : Starts 0x0902 commitFamily c1 (speculative 0x0902) (fun x s1 =>
    (targetTask x s1).isSome ∧ (targetCocoon x s1).isSome ∧ healthy s1 {} ∧ s1.mem.wf = true ∧
      (∀ k ∈ s1.cocoons, (k.granules.map (·.orig)).Nodup ∧ ∀ g ∈ k.granules, spanMem (g.orig * 4096) 4096 = true ∧
        spanMem (g.copy * 4096) 4096 = true)) := starts _ (by decide +kernel)
theorem meets_SpeculativeTasks_discard : Starts 0x0903 discardFamily c1 (speculative 0x0903) (fun x s1 =>
    (targetTask x s1).isSome ∧ (targetCocoon x s1).isSome) := starts _ (by decide +kernel)

/-- A region entry in memory (R402): one 4 KiB unit. -/
def oneRegion : State := devBytes ks 16 (ks + 0x10000 + 1 <<< 64) ready
theorem meets_ContextSave : Starts 0x0A01 saveFamily c1
    (withCmd 1 0x0A01 (fields [(0, 1), (64, ks), (128, ks + 0x20000), (192, 2)]) oneRegion) (fun x s1 =>
      let p := Save.parse x.par
      (p.regions x s1).isSome ∧ readFault s1 x.o {} p.rgn (16 * p.n) = none ∧ s1.mem.wf = true ∧ cocoonOf s1 x.o = none ∧
        (∀ l ∈ (p.regions x s1).toList, chryLen l ≤ 4096 * p.len4k ∧
          (∀ r ∈ l, overlap p.dst (4096 * p.len4k) r.1 (4096 * r.2) = false) ∧
          touchesTable s1 (regionSpans l) = false ∧ touchesPool s1 (regionSpans l) = false ∧
          (saveTo x.o {} p.dst (chryNow s1 x.job x.nl l) (noteReads x.o x.e [(p.rgn, 16 * p.n)] s1)).2 = 0)) :=
  starts _ (by decide +kernel)
/-- A Chrysalis without regions of job 1 at NL3. Its SEQ brings the CRC register to 0 where the zero bytes begin. -/
def chrysalis : Nat := fields [(0, 0x4B5A4348), (32, 3), (64, 1), (256, 4096), (320, 0x4A17D750), (352, 0xFFFFFFFF)]
theorem crc_zeros (n : Nat) : (List.replicate n (0 : Byte)).foldl crcByte 0 = 0 := by
  induction n with
  | zero => rfl
  | succ n ih => exact ih
theorem memGet_above {m : Mem} {a : Nat} (h : ∀ y ∈ m, y.1 < a) : memGet 0 m a = 0 := by
  induction m with
  | nil => rfl
  | cons y r ih =>
    have hy := h y (by simp)
    rw [memGet, if_neg (by omega), if_neg (by omega)]
    exact ih fun z hz => h z (by simp [hz])
theorem crc_of_zeros {f : Nat → Byte} (h : ((List.range 44).map f).foldl crcByte 0xFFFFFFFF = 0)
    (hz : ∀ i, 48 ≤ i → i < 4096 → f i = 0) :
    crc32 (((List.range 4096).map f).take 44 ++ List.replicate 4 0 ++ ((List.range 4096).map f).drop 48) = 0xFFFFFFFF := by
  have hd : ((List.range 4096).map f).drop 48 = List.replicate 4048 0 := by
    refine List.eq_replicate_iff.2 ⟨by simp, fun b hb => ?_⟩
    obtain ⟨i, hi, rfl⟩ := List.mem_iff_getElem.1 hb
    have hi : i < 4048 := by simpa using hi
    simpa using hz (48 + i) (by omega) (by omega)
  have ht : ((List.range 4096).map f).take 44 = (List.range 44).map f := by
    rw [← List.map_take, List.take_range]
    rfl
  rw [hd, ht, crc32, List.foldl_append, List.foldl_append, h, crc_zeros, crc_zeros]
  rfl
theorem meets_ContextRestore : Starts 0x0A02 restoreFamily c1
    (withCmd 1 0x0A02 (fields [(64, ks), (128, 1)]) (devBytes ks 128 chrysalis ready)) (fun x s1 =>
      let p := Restore.parse x.par
      let h := leNat (p.bytes x s1 0 128)
      let data := p.bytes x s1 0 (chryLen [])
      p.remote = false ∧ p.fault x s1 0 128 = 0 ∧ fld h 90 80 = 0 ∧ chryHead (fld h 90 80) ≤ 4096 * p.len4k ∧
        p.fault x s1 0 (chryHead (fld h 90 80)) = 0 ∧ regionsOf (p.bytes x s1 128 0) (fld h 90 80) = some [] ∧
        Restore.check h (some []) p x s1 = none ∧ p.fault x s1 0 (chryLen []) = 0 ∧
        crc32 (data.take 44 ++ List.replicate 4 0 ++ data.drop 48) = fld h 383 352 ∧
        healthy s1 {} ∧ s1.mem.wf = true ∧ cocoonOf s1 x.o = none ∧ ((chryLines []).map (·.1)).Nodup) := by
  obtain ⟨x, s1, hs, h1, h2, h3, h4, h5, h6, h7, h8, h9, ha, hb, h11⟩ : Starts 0x0A02 restoreFamily c1
      (withCmd 1 0x0A02 (fields [(64, ks), (128, 1)]) (devBytes ks 128 chrysalis ready)) (fun x s1 =>
      let p := Restore.parse x.par
      let h := leNat (p.bytes x s1 0 128)
      p.remote = false ∧ p.fault x s1 0 128 = 0 ∧ fld h 90 80 = 0 ∧ chryHead (fld h 90 80) ≤ 4096 * p.len4k ∧
        p.fault x s1 0 (chryHead (fld h 90 80)) = 0 ∧ regionsOf (p.bytes x s1 128 0) (fld h 90 80) = some [] ∧
        Restore.check h (some []) p x s1 = none ∧ p.fault x s1 0 (chryLen []) = 0 ∧
        ((List.range 44).map fun i => readByte s1 x.o (p.src + 0 + i)).foldl crcByte 0xFFFFFFFF = 0 ∧
        (p.src = ks ∧ ∀ y ∈ s1.mem.dev, y.1 < ks + 48) ∧
        fld h 383 352 = 0xFFFFFFFF ∧
        healthy s1 {} ∧ s1.mem.wf = true ∧ cocoonOf s1 x.o = none ∧ ((chryLines []).map (·.1)).Nodup) :=
    starts _ (by decide +kernel)
  have hf : (Restore.parse x.par).far s1 = false := by simp [Restore.far, h1]
  refine ⟨x, s1, hs, h1, h2, h3, h4, h5, h6, h7, h8, ?_, h11⟩
  rw [hb]
  have hd : (Restore.parse x.par).bytes x s1 0 (chryLen []) =
      (List.range 4096).map fun i => readByte s1 x.o ((Restore.parse x.par).src + 0 + i) := by
    rw [Restore.bytes, hf]
    rfl
  rw [hd]
  refine crc_of_zeros h9 fun i hi hj => ?_
  have hw : inWin (ks + 0 + i) = false := by simp only [inWin, ks, winBase]; simp; omega
  rw [ha.1, readByte, hw, viewAddr, h11.2.2.1]
  show memGet 0 s1.mem.dev (ks + 0 + i) = 0
  exact memGet_above fun y hy => by have := ha.2 y hy; omega

/-- Part 0 of a formed domain of two, the other reached through port 3. -/
def inDomain : State := { running with dom := { running.dom with dstate := 2, size := 2, members := 2, nlDom := 3, ifDom := 3
                                                                 ports := 8, routes := [(1, some 3, none)] } }
theorem meets_CollectivesBegin_send : Starts 0x0B01 sendFamily c1
    (withCmd 1 0x0B01 (fields [(0, 1), (16, 9), (32, ks), (96, 128)]) inDomain) (fun x s1 =>
      let p := Xfer.parse x.par
      collOf s1 c1 = none ∧ p.peer ≠ s1.dom.index ∧ hasRoute s1 p.peer = true ∧ healthy s1 {} ∧ spanMem p.addr p.len = true ∧
        p.addr % 64 = 0 ∧ p.len % 64 = 0) := starts _ (by decide +kernel)
theorem meets_CollectivesBegin_recv : Starts 0x0B02 recvFamily c1
    (withCmd 1 0x0B02 (fields [(0, 1), (16, 9), (32, ks), (96, 128)]) inDomain) (fun x s1 =>
      collOf s1 c1 = none ∧ hasRoute s1 (Xfer.parse x.par).peer = true ∧ s1.dom.inbox = []) := starts _ (by decide +kernel)
theorem meets_CollectivesBegin_reduce : Starts 0x0B03 reduceFamily c1
    (withCmd 1 0x0B03 (fields [(9, 2), (32, 9), (64, 16), (128, ks), (192, ks + 0x1000)]) inDomain) (fun x s1 =>
      let p := Reduce.parse x.par
      collOf s1 c1 = none ∧ 2 ≤ p.n ∧ (∀ i, i < p.n → hasRoute s1 (p.lo + i) = true) ∧ healthy s1 {} ∧
        spanMem p.src (4 * p.count) = true ∧ s1.dom.inbox = []) := starts _ (by decide +kernel)
/-- A collective of kind `kind` in progress with peer 1 on channel 9. -/
def inFlight (op kind : Nat) : State :=
  let q := oneCmd op (fields [(0, 1), (16, 9), (32, ks), (96, 128)])
  setQueue 1 { q with cmds := q.cmds.map fun k => { k with ph := .running 0, begun := true } }
    { inDomain with dom := { inDomain.dom with cols := [{ c := c1, kind := kind, peer := 1, channel := 9, k := 0, released := 0 }] } }
theorem meets_CollectivesBegin_ack : (inFlight 0x0B01 0).dom.dstate = 2 ∧ (inFlight 0x0B01 0).sup.dstate ≠ .off ∧
    findColl (inFlight 0x0B01 0) 0 1 9 0 = (inFlight 0x0B01 0).dom.cols.head? ∧
    (cmdOf (inFlight 0x0B01 0) c1).any (fun k => k.ph != .done) = true ∧
    (Xfer.parse (parOf (inFlight 0x0B01 0) c1)).len / 64 ≤ 2 := by decide +kernel

/-- An image of one part, one logical core and one section without tasks, with its CRC (R402, R403). -/
def imageHdr : Nat := fields [(0, 0x4B5A494D), (32, 3), (36, 3), (96, 1000), (160, 77), (192, 192), (256, 128), (352, 0x856B3A5A)]
def withImage : State := devBytes (ks + 128) 16 144 (devBytes ks 128 imageHdr ready)
theorem meets_ScheduleImages_load : Starts 0x0C01 loadFamily c1 (withCmd 1 0x0C01 (fields [(2, 1), (64, ks)]) withImage) (fun x s1 =>
    let p := Load.parse x.par
    let g := ImgHdr.parse (imgRd s1 p.addr 0 128)
    p.op = 0 ∧ readFault s1 x.o {} p.addr 128 = none ∧ fmtAccepted s1 g.fmt = true ∧ g.magic = 0x4B5A494D ∧ 128 ≤ g.len ∧
      spanMem p.addr g.len = true ∧ readFault s1 x.o {} p.addr g.len = none ∧ imageBad (imgRd s1 p.addr) p.addr = false ∧
      g.nl = x.nl ∧ formed s1 = false ∧ loadState x p g s1 = none ∧
      touchesTable s1 ((p.addr, g.len) :: regionSpans ((imgRegions (imgRd s1 p.addr) g).getD [])) = false ∧ touchesPool s1 [(p.addr, g.len)] = false ∧ (coreMap (partCores s1) g.lcores).isSome) :=
  starts _ (by decide +kernel)
/-- The image of `withImage` in slot 1. -/
def slot1 : Slot := { addr := ks, imgId := 77, job := 1, nl := 3, lcores := 1, period := 1000, ksFirst := 0, ksCount := 0
                      streams := 0, regions := [] }
def loaded : State := { withImage with img := { withImage.img with slots := [(1, slot1)] } }
theorem meets_ScheduleImages_unload : Starts 0x0C01 loadFamily c1 (withCmd 1 0x0C01 (fields [(0, 1), (2, 1)]) loaded) (fun x s1 =>
    (Load.parse x.par).op = 1 ∧ (look loaded.img.slots (Load.parse x.par).slot).isSome ∧ loaded.img.run.isNone ∧
      ∀ y ∈ runsPending s1, y.2 ≠ (Load.parse x.par).slot) :=
  starts _ (by decide +kernel)
theorem meets_ScheduleImages_run : Starts 0x0C02 schRunFamily c1 (withCmd 1 0x0C02 (fields [(0, 1), (64, 2)]) loaded)
    (fun _ _ => True) := starts _ (by decide +kernel)

/-! ### Control commands -/

theorem meets_TollgateSettings :
    Starts 0x0E01 limitFamily c0 (withCmd 0 0x0E01 (fields [(0, 3600), (12, 98)]) running) (fun _ _ => True) ∧
    Starts 0x0E02 reserveFamily c0 (withCmd 0 0x0E02 (fields [(0, 80), (7, 145), (16, 64)]) running) (fun _ _ => True) ∧
    Starts 0x0E02 reserveFamily c0 (withCmd 0 0x0E02 (fields [(0, 80), (7, 145), (16, 64)]) ready) (fun _ _ => True) :=
  ⟨starts _ (by decide +kernel), starts _ (by decide +kernel), starts _ (by decide +kernel)⟩

def State.does (op : Nat) (s : State) : Prop :=
  Starts 0x0F01 stateFamily c0 (withCmd 0 0x0F01 op s) (fun x _ => fld x.par 2 0 = op % 8)
theorem meets_StateCommands_atRest : State.does 0 ready ∧ State.does 1 ready ∧ State.does 1 running ∧ State.does 2 ready ∧
    State.does 3 ready ∧ State.does 4 (inState .parked running) :=
  ⟨starts _ (by decide +kernel), starts _ (by decide +kernel), starts _ (by decide +kernel), starts _ (by decide +kernel),
    starts _ (by decide +kernel), starts _ (by decide +kernel)⟩
theorem meets_StateCommands_running : running.img.run.isNone ∧ State.does 2 running ∧ State.does 3 running ∧ State.does 5 running ∧
    State.does 2 (inState .draining running) ∧ State.does 3 (inState .draining running) :=
  ⟨rfl, starts _ (by decide +kernel), starts _ (by decide +kernel), starts _ (by decide +kernel), starts _ (by decide +kernel),
    starts _ (by decide +kernel)⟩
/-- An image run in progress. -/
def imageRun : ImgRun where
  c := c1
  slot := 1
  count := 2
  startBeat := 4
  ckEn := false
  ckAddr := 0
  ckSlot := 0
  job := 1
  active := true
  beat := 4
  begun := true
  map := [0]
def imaging : State :=
  let q := oneCmd 0x0C02 (fields [(0, 1), (64, 2)])
  setQueue 1 { q with cmds := q.cmds.map fun k => { k with ph := .running 0, begun := true } }
    { loaded with sup := running.sup, img := { loaded.img with run := some imageRun } }
theorem meets_StateCommands_image : imaging.img.run = some imageRun ∧ imageRun.begun = true ∧ imageRun.active = true ∧
    imageRun.ended.isNone ∧ imaging.sup.dstate = .running ∧ State.does 2 imaging ∧ State.does (2 + 16) imaging ∧
    State.does 3 imaging ∧ State.does (3 + 16) imaging ∧ State.does 5 imaging :=
  ⟨rfl, rfl, rfl, rfl, rfl, starts _ (by decide +kernel), starts _ (by decide +kernel), starts _ (by decide +kernel),
    starts _ (by decide +kernel), starts _ (by decide +kernel)⟩

def queueOp (op : Nat) (st : QState) : Prop :=
  Starts 0x0F05 queueFamily c0 (withCmd 0 0x0F05 (fields ([(0, op), (16, 2)] ++ if op = 0 then [(4, 3), (6, 3), (10, 4), (64, 1),
    (96, 0x040000000000), (160, 0x040000010000)] else [])) (setQueue 2 { state := st, lc := true } running))
    (fun x _ => (QueueOp.parse x.par).op = op ∧ (QueueOp.parse x.par).qid ≠ 0)
theorem meets_QueueCommands : queueOp 0 .closed ∧ queueOp 1 .opened ∧ queueOp 2 .paused ∧ queueOp 3 .opened ∧ queueOp 3 .paused ∧
    queueOp 4 .opened ∧ queueOp 4 .paused ∧ queueOp 5 .closed :=
  ⟨starts _ (by decide +kernel), starts _ (by decide +kernel), starts _ (by decide +kernel), starts _ (by decide +kernel),
    starts _ (by decide +kernel), starts _ (by decide +kernel), starts _ (by decide +kernel), starts _ (by decide +kernel)⟩

def StartsWith (op : Nat) (f : Family) (e : Circ) (s : State) (P : Ctx → State → Prop) : Prop :=
  ∃ x s1, startOf op f c0 e s = some (x, s1) ∧ P x s1
theorem starts_with {op : Nat} {f : Family} {e : Circ} {s : State} (P : Ctx → State → Prop) [∀ x s, Decidable (P x s)]
    (h : ((startOf op f c0 e s).any fun y => decide (P y.1 y.2)) = true) : StartsWith op f e s P := by
  unfold StartsWith
  match startOf op f c0 e s, h with
  | some (x, s1), h => exact ⟨x, s1, rfl, of_decide_eq_true h⟩

theorem meets_Elections :
    StartsWith 0x0F02 electFamily {} (withCmd 0 0x0F02 1 ready) (fun x _ => fld x.par 31 0 ≤ ready.sup.term.toNat) ∧
    StartsWith 0x0F02 electFamily {} (withCmd 0 0x0F02 (2 + 2 <<< 32) { ready with sup := { ready.sup with sLeadOk := false } })
      (fun x s1 => s1.sup.term.toNat < fld x.par 31 0 ∧ leadOk s1 .south = false) ∧
    StartsWith 0x0F02 electFamily { ack := false } (withCmd 0 0x0F02 2 ready)
      (fun x s1 => s1.sup.term.toNat < fld x.par 31 0 ∧ leadOk s1 .north = true) ∧
    StartsWith 0x0F02 electFamily {} (withCmd 0 0x0F02 2 ready)
      (fun x s1 => s1.sup.term.toNat < fld x.par 31 0 ∧ leadOk s1 .north = true) :=
  ⟨starts_with _ (by decide +kernel), starts_with _ (by decide +kernel), starts_with _ (by decide +kernel),
    starts_with _ (by decide +kernel)⟩

def stageCmd (par : Nat) (s : State) : State := withCmd 0 0x0F03 par s
/-- A module at READY with erased flash. -/
def erased : State := { ready with sup := { ready.sup with flash := [] } }
/-- A boot record, the key of an all-zero seed in its MACs, that names copies B as primary and the floor 2^32 - 2; a header of an
image without body of that version; and the flash with the record in slot 0 and such an image in each copy (R426, R428). All
other bits of either are ones. -/
def macTest : Nat := 54939988496796326398854170865766102646525973415417075612072790115671129984335
def recordNat : Nat := 0x4B5A4252 + 0xFFFFFFFFFFFFFFFF <<< 32 + 0xFFFFFFFE <<< 96 + 0xFFFFFFFFFFFFFFFF <<< 128 + macTest <<< 192 +
  macTest <<< 448 + (2 ^ 320 - 1) <<< 704
def headerNat (stage : Nat) : Nat := 0x4B5A4657 + (0xFFFFFFF0 + stage) <<< 32 + 0xFFFFFFFE <<< 64 + 0xFFFFFFFFFFFFFFFF <<< 96 +
  (2 ^ 832 - 1) <<< 192
def record : Mem := flashBytes 0 128 recordNat
def images : Mem := record ++ flashBytes 0x00100000 128 (headerNat 1) ++ flashBytes 0x00900000 128 (headerNat 1) ++
  flashBytes 0x02000000 128 (headerNat 2) ++ flashBytes 0x06000000 128 (headerNat 2)
theorem images_wf : Memory.wfOf 0xFF images = true := by decide +kernel
theorem images_slot : leNat (memRead 0xFF images (0x10000 * ofBool false) 128) = recordNat := by decide +kernel
theorem images_header (rt copy : Bool) :
    leNat (memRead 0xFF images (copyBase rt copy) 128) = headerNat (if rt then 2 else 1) := by
  cases rt <;> cases copy <;> decide +kernel
theorem images_verify (rt copy : Bool) (s : State) : copyOk (signedFlash rt copy images s) rt copy = true := by
  refine signed_ok images_wf ?_ ?_ <;> rw [images_header] <;> cases rt <;> decide +kernel
theorem images_record (rt copy : Bool) (s : State) : bootRecord (signedFlash rt copy images s) false = recordNat :=
  (signed_read images_wf (by cases rt <;> cases copy <;> decide)).trans images_slot
theorem images_other (rt copy : Bool) (s : State) : bootRecord (signedFlash rt copy images s) true =
    leNat (memRead 0xFF images (0x10000 * ofBool true) 128) :=
  signed_read images_wf (by cases rt <;> cases copy <;> decide)
theorem images_version (rt copy : Bool) (s : State) :
    fwVersion (fwHeader (signedFlash rt copy images s) rt copy) = 0xFFFFFFFE := by
  rw [fwHeader, signed_read images_wf (by omega), images_header]
  cases rt <;> decide +kernel
theorem images_inactive (rt copy r : Bool) {s : State} (h : s.sup.brSlot = false) :
    inactive (signedFlash rt copy images s) r = false := by
  rw [inactive, bootNow, signed_slot, h, images_record]
  cases r <;> decide +kernel
theorem images_floor (rt copy : Bool) {s : State} (h : s.sup.brSlot = false) :
    bootFloor (bootNow (signedFlash rt copy images s)) = 0xFFFFFFFE := by
  rw [bootNow, signed_slot, h, images_record]
  decide +kernel
/-- A module whose inactive copy of a stage verifies, with a waiting SUP.FWSTAGE. -/
def staged (rt : Bool) (par : Nat) (s : State) : State := signedFlash rt false images (stageCmd par s)
theorem staged_verifies (rt : Bool) (par : Nat) {s : State} (h : s.sup.brSlot = false) :
    copyOk (staged rt par s) rt (inactive (staged rt par s) rt) = true ∧
      fwVersion (fwHeader (staged rt par s) rt (inactive (staged rt par s) rt)) = 0xFFFFFFFE := by
  rw [staged, images_inactive (s := stageCmd par s) rt false rt h]
  exact ⟨images_verify _ _ _, images_version _ _ _⟩

theorem meets_FirmwareStages_write :
    StartsWith 0x0F03 stageFamily {} (stageCmd 4 erased) (fun x _ => (FwStage.parse x.par).op = 4) ∧
    StartsWith 0x0F03 stageFamily {} (stageCmd (fields [(64, ks), (128, 0x1000)]) { erased with sup := { erased.sup with i1Pend := true } }) (fun x s1 =>
      (FwStage.parse x.par).op = 0 ∧ activation s1 (FwStage.parse x.par).rt = true) ∧
    StartsWith 0x0F03 stageFamily {} (stageCmd (fields [(64, ks), (128, 0x1000)]) erased) (fun x s1 =>
      let p := FwStage.parse x.par
      p.op = 0 ∧ activation s1 p.rt = false ∧ readFault s1 x.o {} p.src p.len = none ∧ Memory.wfOf 0xFF s1.sup.flash = true) :=
  ⟨starts_with _ (by decide +kernel), starts_with _ (by decide +kernel), starts_with _ (by decide +kernel)⟩
/-- A verification of an image that passes at or above the floor, of one below it, and of one that does not pass. -/
theorem meets_FirmwareStages_verify :
    (let s := staged false 1 ready
     StartsWith 0x0F03 stageFamily {} s (fun x _ => FwStage.parse x.par = ⟨1, false, 0, 0, 0⟩ ∧ activation s false = false ∧
       s.sup.fwFloor.toNat ≤ 0xFFFFFFFE) ∧ copyOk s false (inactive s false) = true ∧
       fwVersion (fwHeader s false (inactive s false)) = 0xFFFFFFFE) ∧
    (let s := staged false 1 { ready with sup := { ready.sup with fwFloor := 0xFFFFFFFF } }
     StartsWith 0x0F03 stageFamily {} s (fun x _ => FwStage.parse x.par = ⟨1, false, 0, 0, 0⟩ ∧ activation s false = false ∧
       0xFFFFFFFE < s.sup.fwFloor.toNat) ∧ copyOk s false (inactive s false) = true ∧
       fwVersion (fwHeader s false (inactive s false)) = 0xFFFFFFFE) ∧
    StartsWith 0x0F03 stageFamily {} (stageCmd 1 erased) (fun x _ =>
      let p := FwStage.parse x.par
      p.op = 1 ∧ activation erased p.rt = false ∧ copyOk erased p.rt (inactive erased p.rt) = false) :=
  ⟨⟨starts_with _ (by decide +kernel), staged_verifies false 1 (s := ready) rfl⟩, ⟨starts_with _ (by decide +kernel), staged_verifies false 1 (s := { ready with sup := { ready.sup with fwFloor := 0xFFFFFFFF } }) rfl⟩,
    starts_with _ (by decide +kernel)⟩
theorem meets_FirmwareStages_activate :
    StartsWith 0x0F03 stageFamily {} (stageCmd 2 erased) (fun x s1 =>
      (FwStage.parse x.par).op = 2 ∧ activation s1 (FwStage.parse x.par).rt = false ∧ verified s1 (FwStage.parse x.par).rt = false) ∧
    StartsWith 0x0F03 stageFamily {} (stageCmd 2 { erased with sup := { erased.sup with i1Ver := true } }) (fun x s1 =>
      (FwStage.parse x.par).op = 2 ∧ (FwStage.parse x.par).rt = false ∧ activation s1 false = false ∧ verified s1 false = true) ∧
    StartsWith 0x0F03 stageFamily {} (stageCmd 3 erased) (fun x _ => (FwStage.parse x.par).op = 3) :=
  ⟨starts_with _ (by decide +kernel), starts_with _ (by decide +kernel), starts_with _ (by decide +kernel)⟩
/-- A verified runtime copy in a run, at rest with an image that passes, at rest with one that does not, and in a domain whose
level it does not implement. -/
theorem meets_FirmwareStages_runtime :
    (let s := stageCmd 10 { running with sup := { running.sup with rtVer := true, flash := [] } }
     StartsWith 0x0F03 stageFamily {} s (fun x _ => FwStage.parse x.par = ⟨2, true, 0, 0, 0⟩ ∧ activation s true = false ∧
       verified s true = true ∧ atRest s = false ∧ Memory.wfOf 0xFF s.sup.flash = true)) ∧
    (let s := staged true 10 { ready with sup := { ready.sup with rtVer := true } }
     StartsWith 0x0F03 stageFamily {} s (fun x _ => FwStage.parse x.par = ⟨2, true, 0, 0, 0⟩ ∧ activation s true = false ∧
       verified s true = true ∧ atRest s = true ∧ formed s = false) ∧ Memory.wfOf 0xFF s.sup.flash = true ∧
       copyOk s true (inactive s true) = true ∧ bootFloor (bootNow s) ≤ fwVersion (fwHeader s true (inactive s true))) ∧
    (let s := stageCmd 10 { erased with sup := { erased.sup with rtVer := true, rtCopy := true } }
     StartsWith 0x0F03 stageFamily {} s (fun x _ => FwStage.parse x.par = ⟨2, true, 0, 0, 0⟩ ∧ activation s true = false ∧
       verified s true = true ∧ atRest s = true ∧ formed s = false ∧ Memory.wfOf 0xFF s.sup.flash = true ∧
       copyOk s true (inactive s true) = false ∧ s.sup.rtCopy = bootRt (bootNow s))) ∧
    (let s := stageCmd 10 { erased with
       sup := { erased.sup with rtVer := true, flash := [(0x02000010, 0)] }, dom := { inDomain.dom with nlDom := 3 } }
     StartsWith 0x0F03 stageFamily {} s (fun x _ => FwStage.parse x.par = ⟨2, true, 0, 0, 0⟩ ∧ activation s true = false ∧
       verified s true = true ∧ atRest s = true ∧ formed s = true ∧ Memory.wfOf 0xFF s.sup.flash = true ∧
       bit (fwHeader s true (inactive s true)) (126 + s.dom.nlDom) = false)) := by
  refine ⟨starts_with _ (by decide +kernel), ⟨starts_with _ (by decide +kernel), signed_wf images_wf, ?_, ?_⟩,
    starts_with _ (by decide +kernel), starts_with _ (by decide +kernel)⟩
  · exact (staged_verifies true 10 rfl).1
  · rw [(staged_verifies true 10 rfl).2, staged, images_floor true false rfl]
/-- A supervisor whose journal is empty signs with index 0. -/
theorem meets_Attestation :
    (let s := withCmd 0 0x0F04 ks erased
     StartsWith 0x0F04 attestFamily {} s (fun x s1 =>
      healthy s1 {} ∧ s1.mem.wf = true ∧ cocoonOf s1 x.o = none ∧ spanKs (fld x.par 47 0) 5652 = true ∧
        (let k := keysOf s (signer x.par s)
         k.next ≤ k.reservedEnd ∧ k.entry < 8192 ∧ k.reservedEnd = 0) ∧ Memory.wfOf 0xFF s.sup.flash = true)) ∧
    ∀ d, 0 ≤ (keysAtPowerUp (withCmd 0 0x0F04 ks erased) d).next :=
  ⟨starts_with _ (by decide +kernel), fun _ => Nat.zero_le _⟩

/-! ### Time base and registers -/

def withTime (t : TimeBase) (s : State) : State := { s with time := t }
def aligned7 (s : State) : State := withTime { s.time with loadReq := true } s
theorem meets_TimeControl : reachable running = true ∧ 2 ≤ fld (8#32).toNat 3 2 ∧ fld (1#32).toNat 3 2 < 2 ∧ fld (7#32).toNat 3 2 = 1 ∧
    (aligned7 ready).time.loadReq = true ∧ mayLoad (aligned7 ready) = true ∧ (aligned7 ready).sup.dstate ≠ .off := by decide +kernel
def pps (base : Option Nat) : State := withTime { running.time with ppsEn := true, ppsBase := base } running
theorem meets_TimeReferences : running.sup.dstate ≠ .off ∧ running.time.refOk = true ∧
    (withTime { running.time with refOk := false } running).time.refOk = false ∧ running.power.badRelease = false ∧
    running.power.resetN = true ∧ (pps none).time.ppsEn = true ∧ (formed (pps none) && !domMaster (pps none)) = false ∧
    (pps none).time.ppsBase = none ∧ (pps (some 10)).time.ppsBase = some 10 ∧ (pps none).time.now.toNat + 1000001000 < 2 ^ 64 := by
  decide +kernel
/-- Differences of a later edge at the ends of the range in which it is followed: -10^6, 10^6, and one tick beyond. -/
theorem meets_TimeReferences_edges : [1000995010, 998995010, 1000995011, 998995009].map (fun dt =>
    (10 : Int) + 1000000000 * (secondsNear (5000 + dt - 10) : Int) - ((5000 + dt : Nat) : Int)) =
    [-1000000, 1000000, -1000001, 1000001] := by decide +kernel
theorem meets_RegisterWrites : reachable running = true ∧ reachable ready = true ∧ atRest ready = true ∧ ready.dom.dstate ≠ 1 ∧
    regRead running 0x0F0000000030 = none := by decide +kernel
theorem meets_SpecialAccesses : reachable running = true ∧ (0x0F0000000030#48).toNat / 2 ^ 40 = 0xF ∧
    regRead running 0x0F0000000030 = none ∧ (0x0E0000000000#48).toNat / 2 ^ 40 ≠ 0xF ∧ inBorug 0x0E0000000000 = false ∧
    inKs 0x0E0000000000 = false ∧ inWin 0x0E0000000000 = false ∧ regRead running 0x0E0000000000 = none ∧
    (0x0F0000000002#48).toNat / 2 ^ 40 = 0xF ∧ (0x0F0000000002#48).toNat % 4 ≠ 0 ∧ (0x0F0000010008#48 ≠ 0x0F0000010000) ∧
    (0x0F0000010008#48).toNat / 2 ^ 40 = 0xF := by decide +kernel
theorem meets_ControlQueue : reachable ready = true ∧ ready.sup.dstate = .ready ∧ cqOpen ready = false ∧
    spanBorug ready.regs.qtbBase.toNat 0x4000000 = true ∧ fld (0x24#32).toNat 4 0 = 4 ∧ fld (0x30#32).toNat 4 0 = 16 ∧
    bit (0x24#32).toNat 5 = true ∧ allClosed ready = true ∧ running.sup.dstate ≠ .ready ∧
    allClosed (setQueue 1 { state := .opened } ready) = false ∧ cqOpen (setQueue 0 { state := .opened } ready) = true := by
  decide +kernel

/-! ### Queues -/

/-- Queue 1 is open with rings in the companion window: 16 slots, one announced. -/
def ring : Queue := { oneCmd 0 0 with fetched := 0, cmds := [], tasks := [], cmdAddr := 0x040000000000, cplAddr := 0x040000010000 }
def ringed (q : Queue) : State := setQueue 1 q running
def db (kind n : Nat) : DWord := BitVec.ofNat 64 (1 + kind <<< 20 + n <<< 32)
theorem meets_Doorbells : reachable (ringed ring) = true ∧
    (let q := queueOf (ringed ring) (fld (db 0 16).toNat 19 0)
     bit (db 0 16).toNat 20 = false ∧ q.state = .opened ∧ diff32 16 q.fetched ≤ 2 ^ q.log2 ∧ diff32 16 q.tail.toNat ≤ 2 ^ q.log2 ∧
     2 ^ q.log2 < diff32 17 q.fetched ∧ fld (db 0 17).toNat 63 32 = 17) ∧
    (let q := queueOf (ringed { ring with written := 2 }) 1
     bit (db 1 2).toNat 20 = true ∧ q.state ≠ .closed ∧ diff32 2 q.cplHead.toNat ≤ diff32 q.written q.cplHead.toNat ∧
     diff32 q.written q.cplHead.toNat < diff32 3 q.cplHead.toNat) ∧
    (queueOf running 1).state = .closed ∧ (queueOf (ringed { ring with state := .draining }) 1).state = .draining := by decide +kernel
def moderated : State :=
  let s := ringed { ring with irqEn := true, irqVec := 64, irqMod := 5, irqDue := true, lastMsg := some 1000 }
  { s with regs := { s.regs with irqEn := true, irqAddr := 0x040000100000 } }
theorem meets_QueueEvents : (let q := queueOf moderated 1
    q.irqDue = true ∧ q.lastMsg = some 1000 ∧ moderated.time.now.toNat ≤ ((1000 : Int) + 1000 * (q.irqMod : Int)).toNat) ∧
    moderated.regs.irqEn = true ∧ moderated.link.up = true ∧ moderated.sup.dstate ≠ .off ∧ moderated.mem.wf = true ∧
    spanWin moderated.regs.irqAddr.toNat 0x10000 = true ∧
    (let q := queueOf (ringed { ring with state := .draining, fetched := 1 }) 1
     q.state = .draining ∧ q.idle = true) := by decide +kernel

/-- The header of a task of its own whose opcode the table does not list. -/
def unlistedHdr : Nat := fields [(0, 0x0105), (16, 3), (20, 3), (32, 1), (64, 1), (96, 9)]
/-- The header of a SYN.FENCE that is a task of its own, tag 9. -/
def fenceHdr : Nat := fields [(0, 0x0803), (16, 3), (20, 3), (32, 1), (64, 1), (96, 9)]
def posted (h : Nat) : State :=
  let s := ringed ring
  { s with mem := { s.mem with comp := memWrite 0 [] 0 (leBytes 64 h) } }
def fetchesTo (h : Nat) (s : State) : Nat :=
  let q := queueOf s 1
  stage1 q.gen q.nl false (headerPasses 1 q h && hdrFieldsOk q.gen h && (depsNamed q q.fetched h).all Option.isSome) h
    (compNat s (q.cmdAddr + 64) (64 * hPlen h)) s
theorem meets_SlotFetch :
    (let s := posted fenceHdr
     let q := queueOf s 1
     reachable s = true ∧ q.state ≠ .closed ∧ ringsOk q = true ∧ q.fetched % 2 ^ 32 ≠ q.tail.toNat ∧ q.cmds.isEmpty ∧
       compNat s q.cmdAddr 64 = fenceHdr ∧ fetchesTo fenceHdr s = 0 ∧ ∀ k ∈ q.cmds, k.idx < q.fetched) ∧
    (let s := posted unlistedHdr
     compNat s (queueOf s 1).cmdAddr 64 = unlistedHdr ∧ hGen unlistedHdr = (queueOf s 1).gen ∧ hOpcode unlistedHdr = 0x0105) ∧
    compNat (posted 0) (queueOf (posted 0) 1).cmdAddr 64 = 0 ∧ fetchesTo 0 (posted 0) ≠ 0 := by decide +kernel
def aRec : Rec where
  c := c1
  after := []
  tag := 9
  status := 0
  code := 0
  last := true
  second := false
  cmd := 7
  tstart := 1
  tend := 2
  irq := false
/-- With IRQ = 1 and messages enabled: the first message of the queue, one that follows too soon, one without a place. -/
theorem meets_RecordWrite_irq : (let s := ringed { ring with recs := [{ aRec with irq := true }], irqEn := true, irqVec := 64 }
    let near := setQueue 1 { queueOf s 1 with lastMsg := some (s.time.now.toNat : Int), irqMod := 5 } s
    let away := { s with regs := { s.regs with irqAddr := 0 } }
    (queueOf s 1).irqEn = true ∧ (queueOf s 1).lastMsg.isNone ∧
      (queueOf near 1).lastMsg.any (fun t0 => decide ((near.time.now.toNat : Int) < t0 + 1000 * ((queueOf near 1).irqMod : Int))) = true ∧
      spanWin away.regs.irqAddr.toNat 0x10000 = false ∧ (splitRec c1 (queueOf s 1).recs).isSome) ∧
    moderated.regs.irqEn = true ∧ spanWin moderated.regs.irqAddr.toNat 0x10000 = true := by decide +kernel
theorem meets_RecordWrite : (let s := ringed { ring with recs := [aRec], written := 15 }
    let q := queueOf s 1
    splitRec c1 q.recs = some ([], aRec, []) ∧ reachable s = true ∧ ringsOk q = true ∧ s.mem.wf = true ∧
      diff32 q.written q.cplHead.toNat < 2 ^ q.log2 ∧ aRec.waits.all (recorded s []) = true) := by decide +kernel

/-- Command 1 of the queue waits for command 0, which has timed out. -/
def failing : State := setQueue 1 { oneCmd 0 0 with
  cmds := [{ idx := 0, hdr := 0x0101 + 100 <<< 96, par := 0, ph := .done, status := 0x41, settled := some 0x41, task := 1 },
    { idx := 1, hdr := 0x0104, par := 0, deps := [0], task := 1 }] } running
theorem meets_FailedDependency : (cmdOf failing ⟨.hw 1, 1⟩).any (fun k => k.entered && hOpcode k.hdr == 0x0104 && k.ph == .waiting &&
      depsOf failing ⟨.hw 1, 1⟩ k == .fail (rootField 100 1 0x41)) = true ∧ failing.sup.dstate ≠ .faulted ∧
    rowsIn 0x0104 ⟨.hw 1, 1⟩ {} failing = true ∧ failing.img.run.isNone := by decide +kernel

/-! ### Placement -/

def mtxPar : Nat := bf + fields [(128, 1), (160, 16), (176, 1), (192, 1), (320, 0x400), (352, 0x10000), (384, 0x8000)]
def bestEffort (ph : Phase) (core : Option Nat) : Queue :=
  let q := oneCmd 0x0201 mtxPar
  { q with lc := false, cmds := q.cmds.map fun k => { k with ph := ph }
           tasks := q.tasks.map fun t => { t with lc := false, core := core } }
theorem meets_place : (let s := withCmd 1 0x0201 mtxPar running
    (cmdOf s c1).any fun k => (place (mtxFamily false) (mkCtx s c1 {} k) s).isSome) = true := by decide +kernel
theorem meets_bePlacement : (let s := { setQueue 1 (bestEffort .waiting none) running with cores := {} }
    (cmdOf s c1).any fun k => k.ph == .waiting && (familyOf (hOpcode k.hdr)).any (fun f => f.core k.par &&
      (mkCtx s c1 {} k).task.any (fun t => t.core.isNone) && !(getQ s c1.q).lc && (place f (mkCtx s c1 {} k) s).isNone)) = true := by
  decide +kernel
/-- A best-effort matrix command of two tiles runs on core 0; a latency-critical one of a task placed there waits. -/
def contended : State :=
  let wide := fields [(160, 48)] + mtxPar
  let q := oneCmd 0x0201 (bf + fields [(128, 1), (160, 16), (176, 1), (192, 1), (288, 0x20000), (320, 0x20400), (352, 0x30000),
    (384, 0x8000)])
  granting ⟨.hw 2, 0⟩ (setQueue 2 { q with tasks := q.tasks.map fun t => { t with core := some 0 } }
    (setQueue 1 { bestEffort (.running 0) (some 0) with
      cmds := (bestEffort (.running 0) (some 0)).cmds.map fun k => { k with par := wide, begun := true } } running))
theorem meets_beYield : (cmdOf contended c1).any (fun k => k.ph == .running 0 && canYield (hOpcode k.hdr) && !lcOf contended c1 k &&
    lcReady (modCmd c1 (fun j => { j with ph := .yielded 0, hasYielded := true }) contended) (engineOf contended c1 k) &&
    (familyOf (hOpcode k.hdr)).any fun f => (f.yieldAt 0 (mkCtx contended c1 {} k) contended).isSome) = true := by decide +kernel
theorem meets_beResume : (let s := setQueue 1 (bestEffort (.yielded 3) (some 0)) running
    (cmdOf s c1).map (·.ph) = some (.yielded 3) ∧ (allQueues s).all (fun y => y.2.cmds.all fun j => j.ph == .yielded 3) ∧
    (cmdOf s c1).all (fun k => !lcReady s (engineOf s c1 k)) = true) := by
  decide +kernel

/-! ### The Tollgate -/

/-- A matrix command in progress on core 0 whose work is still to be granted, latency-critical or not, in a part with a base
power. -/
def working (lc : Bool) : State :=
  let q := bestEffort (.running 0) (some 0)
  { setQueue 1 { q with lc := lc, cmds := q.cmds.map fun k => { k with charges := none } } running with
    tgl := { running.tgl with pBase := 640 } }
def grantHyps (lc : Bool) (s : State) : Bool :=
  (cmdOf s c1).any fun q =>
    let e := quantumEnergy s .a16 65536 0 true (guardNow s .a16)
    tollgateOn s && q.entered && q.ph != .done && (nextQuantum c1 q .a16 65536 0 true 0 s).isSome && !s.tgl.hold &&
      decide (s.tgl.dieGrant.getD 0 0 + e ≤ dieCap s 0) && lcOf s c1 q == lc && !isHot s 0 &&
      decide (s.tgl.granted + e ≤ budget s - (reservation s - s.tgl.grantedLc))
theorem meets_QuantumGrants : grantHyps true (working true) = true ∧ grantHyps false (working false) = true ∧
    windowLeft (working false) > (working false).tgl.releaseUs * 1000 ∧
    grantHyps false (withTime { running.time with now := 950000 } (working false)) = true ∧
    (working true).tgl.granted ≤ budget (working true) := by decide +kernel
/-- A row of another quantum; and the command without a grant, with quanta left. -/
theorem meets_QuantumGrants_inert : (cmdOf (working true) c1).any (fun q => (nextQuantum c1 q .a16 65535 0 true 0 (working true)).isNone &&
      q.ph == .running 0) = true ∧ granted (working true) c1 = false ∧ paidUp (working true) c1 = false ∧ 0x0201 ∉ rowOps := by
  decide +kernel
/-- An exhausted budget, which grants nothing. -/
theorem meets_QuantumGrants_none : (let s := { working true with tgl := { (working true).tgl with granted := budget (working true) } }
    s.tgl.granted ≤ budget s ∧ budget s < s.tgl.granted + quantumEnergy s .a16 65536 0 true (guardNow s .a16)) := by
  decide +kernel
theorem meets_BudgetWindowEnds : running.sup.dstate ≠ .off ∧ running.sup.dstate ≠ .instar ∧
    running.time.now.toNat ≤ (running.tgl.window + 1) * 1000000 ∧ (running.tgl.window + 1) * 1000000 < 2 ^ 64 ∧
    (∀ x ∈ running.tgl.factors, 512 ≤ x ∧ x ≤ 2048) ∧
    (let s := { working false with tgl := { (working false).tgl with waiting := [⟨c1, .a16, 65536, 0, true, 0⟩] } }
     (cmdOf s c1).any fun k => k.ph != .done && lcOf s c1 k == false &&
       match exec (.budgetWindowEnd [] 0) s with
       | .next t =>
         let e := quantumEnergy t .a16 65536 0 true (guardNow t .a16)
         decide (e ≤ dieCap t 0) && !isHot t 0 && decide (t.tgl.releaseUs * 1000 < windowLeft t) &&
           decide (e ≤ budget t - reservation t)
       | _ => false) = true := by decide +kernel
theorem meets_PowerAndBrake : running.sup.dstate ≠ .off ∧ running.sup.dstate ≠ .instar ∧ running.time.now.toNat + 1000 < 2 ^ 64 ∧
    running.tgl.hold = false ∧ running.tgl.brake = false ∧ 100 < ({ running.tgl with overUs := 101 } : Tollgate).overUs ∧
    100 ≤ ({ running.tgl with brake := true, relaxUs := 100 } : Tollgate).relaxUs := by decide +kernel
theorem meets_Temperatures : ready.sup.dstate ≠ .off ∧ ready.sup.dstate ≠ .instar ∧ ready.tgl.therm = true ∧
    ready.power.switchClosed = true ∧
    3 ≤ (({ ready.tgl with trips := [0, 3] :: List.replicate 24 [] } : Tollgate).trips.getD 0 []).getD 1 0 ∧
    ([[440#12, 439]].getD 0 [])[1]? = some 439 := by
  decide +kernel

/-! ### Runs, crossings, images -/

def runFor (ms : Nat) (k : RunKind) : State := { running with sup := { running.sup with run := some { kind := k, start := 0, svc := 0, ms := ms } } }
theorem meets_RunsEnd : (runFor 1 .queueFed).sup.run = some { kind := .queueFed, start := 0, svc := 0, ms := 1 } ∧
    (runFor 1 .queueFed).sup.dstate = .running ∧ (runFor 1 .queueFed).time.now.toNat ≤ 0 + 1 * 1000000 ∧
    (runFor 0 .service).sup.run = some { kind := .service, start := 0, svc := 0 } ∧ (runFor 0 .service).mem.scrubs = [] ∧
    (runFor 0 .service).time.now.toNat + 1024 < 2 ^ 64 := by decide +kernel
def crossing (x : Cross) (stop : Option StopReq) : State :=
  let s := inState .draining running
  { s with sup := { s.sup with cross := some x, stopReq := stop }, cores := { s.cores with marked := [3] } }
theorem meets_Crossings : (∀ st, st ∈ [none, some StopReq.stop, some StopReq.park] →
      (let s := crossing { began := 4000, drained := some 4096, acted := true } st
       s.sup.dstate = .draining ∧ s.sup.run.isNone ∧ s.img.run.isNone ∧ s.sup.stopReq = st ∧ actionsDue s = false ∧ s.time.now.toNat + 1024 < 2 ^ 64)) ∧
    (let s := crossing { began := 4000 } none
     s.sup.cross = some { began := 4000 } ∧ engineBusy s = false ∧ s.sup.dstate = .draining ∧ s.img.run.isNone) ∧
    (let s := crossing { began := 4000, drained := some (4096 : Nat) } none
     s.sup.cross = some { began := 4000, drained := some ((4096 : Nat) : Int) } ∧ s.sup.pend = [] ∧ s.regs.ksPend = 0 ∧ s.regs.bgPend = 0 ∧
       s.time.now.toNat ≤ 4096 + 9216) ∧
    (let s := { inState .fenced running with sup := { (inState .fenced running).sup with
       cross := some { began := 4000, drained := some (4096 : Nat) } } }
     s.sup.dstate = .fenced ∧ s.sup.cross = some { began := 4000, drained := some ((4096 : Nat) : Int) } ∧ engineBusy s = false) := by
  decide +kernel

/-- An image with one task of one SYN.FENCE packet, whose BEAT_OFF is 10, loaded in slot 1 (R403). -/
def withTask : State :=
  let s := devBytes (ks + 192) 64 (fields [(0, 0x0803), (16, 3), (20, 3), (96, 9), (128, 6)])
    (devBytes (ks + 144) 32 (fields [(32, 6), (64, 10), (96, 64), (128, 1)]) (devBytes (ks + 128) 16 (fields [(0, 144), (64, 112), (96, 1)])
      (devBytes ks 128 (imageHdr + fields [(192, 64)]) ready)))
  { s with img := { s.img with slots := [(1, slot1)], run := some { imageRun with active := false, begun := false } } }
theorem meets_ImageRunStarts : withTask.sup.dstate = .ready ∧ fencedAny withTask = false ∧ actionsDue withTask = false ∧
    withTask.sup.stopReq = none ∧ (withTask.img.run.any fun r => !r.active && !r.again && r.ended.isNone && !needsService withTask r &&
      decide (runSlot withTask r = some slot1) && decide (withTask.time.now.toNat + planned withTask r * 1024 + 2048 < 2 ^ 64)) = true ∧
    (coreMap (partCores (retireCores withTask)) slot1.lcores).isSome ∧ sectionTasks withTask slot1 ≠ [] ∧
    (withTask.img.run.any fun r => decide (healthy withTask r.e)) = true ∧
    (∀ x ∈ headSpans withTask slot1, readFault withTask none {} x.1 x.2 = none) := by decide +kernel
/-- The maps of R406 at the ends of its cases, for two usable cores: 2, 3, 4 and 5 logical ones. -/
theorem meets_coreMap : [4, 7].Nodup ∧ [2, 3, 4, 5].map (coreMap [4, 7]) =
    [some ([4, 7], 0), some ([4, 7, 7], 1), some ([4, 4, 7, 7], 2), none] := by decide +kernel
def inRun : State :=
  let r := { imageRun with q := { oneCmd 0 0 with cmds := [], tasks := sectionTasks withTask slot1 } }
  { withTask with sup := running.sup, img := { withTask.img with run := some r } }
theorem meets_ImageReleases_task : inRun.sup.dstate = .running ∧ (inRun.img.run.any fun r => r.active &&
      r.q.tasks.map (fun t => (t.id, t.beat, t.released)) == [(6, 10, false)] && decide (runSlot inRun r = some slot1) &&
      decide (healthy inRun r.e)) = true ∧ (∀ x ∈ taskSpans inRun slot1 0, readFault inRun none {} x.1 x.2 = none) := by
  decide +kernel
def waitingCollective (op : Nat) : State :=
  { inRun with img := { inRun.img with run := some { imageRun with q := { oneCmd op 0 with
      cmds := [{ idx := 0, hdr := op, par := 0, task := 1, released := false }] } } } }
theorem meets_ImageReleases_collective : ∀ op, op ∈ [0x0B01, 0x0B02, 0x0B03] →
    (cmdOf (waitingCollective op) ⟨.img, 0⟩).any (fun k => !k.released && decide (0x0B01 ≤ hOpcode k.hdr) &&
      decide (hOpcode k.hdr ≤ 0x0B03)) = true := by decide +kernel
theorem meets_ImageAbort : (let s := { imaging with dom := inDomain.dom }
    s.dom.dstate = 2 ∧ s.sup.dstate = .running ∧ s.img.run = some imageRun ∧ imageRun.active = true ∧ imageRun.ended.isNone) ∧
    (let s := { imaging with img := { imaging.img with copy := some ⟨0, 4096, 8192, true⟩ }, dom := inDomain.dom }
     s.img.copy = some ⟨0, 4096, 8192, true⟩ ∧ s.dom.size ≠ 1 ∧ healthy s {} ∧ readFault s none {} 0 4096 = none) ∧
    (let s := { imaging with img := { imaging.img with copy := some ⟨0, 4096, 8192, true⟩ } }
     s.dom.size = 1 ∧ s.mem.wf = true ∧ healthy s {} ∧ spanMem 0 4096 = true ∧
       spanMem (0 + 2 * 8192) 4096 = true) := by decide +kernel

/-! ### Domains -/

def withCfg (v : BitVec 22) (s : State) : State := { s with regs := { s.regs with domCfg := v } }
theorem meets_DomainBegins : reachable ready = true ∧ atRest ready = true ∧ ready.dom.dstate ≠ 1 ∧ ready.img.run.isNone ∧
    fld ready.regs.domCfg.toNat 18 9 = 0 ∧ ready.sup.caps = 0xF ∧ fld ready.regs.domCfg.toNat 21 20 = 0 ∧
    fld (withCfg 0x80200 ready).regs.domCfg.toNat 18 9 = 1 ∧ ready.dom.cols = [] ∧
    fld (withCfg 0x80201 ready).regs.domCfg.toNat 8 0 = 1 ∧
    fld (withCfg 0x80202 ready).regs.domCfg.toNat 18 9 < fld (withCfg 0x80202 ready).regs.domCfg.toNat 8 0 := by decide +kernel
/-- A formation of two parts in which this part, 0 and master, has spoken. -/
def forming : State :=
  let s := withCfg 0x80200 ready
  { s with dom := { s.dom with dstate := 1, members := 1, hellos := [{ hello0 with domId := 0, links := [(3, 1)] }] } }
def reply (part : Nat) (master : Bool) : Hello := { hello0 with part := part, master := master, domId := 0, links := [(5, 0)] }
theorem meets_HellosFormTheDomain : forming.dom.dstate = 1 ∧ forming.sup.dstate ≠ .off ∧
    (let hs := forming.dom.hellos ++ [reply 1 false]
     reply 1 false ∉ forming.dom.hellos ∧ (reply 1 false).domId = forming.regs.domId ∧
       (reply 1 false).sizeM1 = fld forming.regs.domCfg.toNat 18 9 ∧ (reply 1 false).part ≤ (reply 1 false).sizeM1 ∧
       (∀ k ∈ forming.dom.hellos, k.part ≠ (reply 1 false).part) ∧ (hs.filter (·.master)).length = 1 ∧
       fld forming.regs.domCfg.toNat 18 9 + 1 ≤ hs.length ∧ commonNl hs ≠ 0 ∧ commonFmts hs ≠ [] ∧ tooWide hs = false) ∧
    (reply 0 true ∉ forming.dom.hellos ∧ ∃ k ∈ forming.dom.hellos, k.part = (reply 0 true).part) ∧
    { reply 1 false with domId := 5 } ∉ forming.dom.hellos ∧ (5 : Word) ≠ forming.regs.domId ∧
    reply 2 false ∉ forming.dom.hellos ∧ (reply 2 false).sizeM1 < (reply 2 false).part := by decide +kernel
/-- The causes of failure of two hellos: two masters, none, no common level, no common format, no path. -/
theorem meets_HellosFormTheDomain_fail : (let hs := fun h => forming.dom.hellos ++ [h]
    1 < ((hs (reply 1 true)).filter (·.master)).length ∧
      (([reply 0 false] ++ [reply 1 false]).filter (·.master)).length = 0 ∧
      commonNl (hs { reply 1 false with nl2 := false, nl3 := false }) = 0 ∧ commonFmts (hs { reply 1 false with fmts := [] }) = [] ∧
      commonNl (hs { reply 1 false with links := [] }) ≠ 0 ∧ commonFmts (hs { reply 1 false with links := [] }) ≠ [] ∧
      tooWide (hs { reply 1 false with links := [] }) = true) := by decide +kernel
/-- The second of three hellos is counted. -/
theorem meets_HellosFormTheDomain_early : (let s := withCfg 0x80400 forming
    let hs := s.dom.hellos ++ [{ reply 1 false with sizeM1 := 2 }]
    { reply 1 false with sizeM1 := 2 } ∉ s.dom.hellos ∧ 2 = fld s.regs.domCfg.toNat 18 9 ∧
      (hs.filter (·.master)).length ≤ 1 ∧ hs.length < fld s.regs.domCfg.toNat 18 9 + 1) := by decide +kernel
theorem meets_DomainTime : (let s := { inDomain with dom := { inDomain.dom with adopt := true, master := false } }
    s.dom.dstate = 2 ∧ s.dom.adopt = true ∧ s.dom.master = false ∧ s.sup.dstate ≠ .off) ∧
    inDomain.time.now.toNat + 65536 < 2 ^ 64 := by decide +kernel
theorem meets_CollectivesProceed_line : (let s := inFlight 0x0B02 1
    let y := s.dom.cols.head?
    s.dom.dstate = 2 ∧ s.sup.dstate ≠ .off ∧ findColl s 1 1 9 0 = y ∧ collOf s c1 = y ∧ y.any (fun y => y.lines.isEmpty) = true ∧
      (cmdOf s c1).any (fun k => k.ph != .done && decide (128 ≤ (Xfer.parse k.par).len) && decide (64 + 64 ≤ (Xfer.parse k.par).len) &&
        divides 64 (Xfer.parse k.par).addr && spanMem (Xfer.parse k.par).addr (Xfer.parse k.par).len) = true ∧ 1 ≠ s.dom.index ∧
      s.mem.wf = true ∧ y.all (fun y => decide (healthy s y.e)) = true) := by decide +kernel
/-- A collective that was released at tick 4000 and has not started. -/
def heldColl : State :=
  let q := oneCmd 0x0B01 (fields [(0, 1), (16, 9), (32, ks), (96, 128)])
  setQueue 1 { q with cmds := q.cmds.map fun k => { k with dueAt := some 4000 } } inDomain
theorem meets_CollectivesProceed : inDomain.dom.ports.getLsbD 3 = true ∧ inDomain.dom.cols = [] ∧
    (∀ kind, kind ∈ [0, 1] → (collOf (inFlight 0x0B01 kind) c1).map (·.kind) = some kind ∧ (cmdOf (inFlight 0x0B01 kind) c1).isSome) ∧
    heldSince heldColl c1 = some 4000 ∧ collOf heldColl c1 = none ∧
    (Reduce.parse (fields [(9, 2), (64, 16)])).conv = false ∧ 15 < (Reduce.parse (fields [(9, 2), (64, 16)])).count := by decide +kernel

/-! ### Supervisors, faults, power -/

def beat1 : Beat := ⟨1, .north, 3, false⟩
theorem meets_HeartbeatsAndFences : beating running = true ∧ beat1.term = running.sup.term ∧ beat1.leader = running.sup.leader ∧
    beat1.fenced = false ∧ fencedAny running = false ∧ running.sup.fenceCause = 0 ∧ running.img.run.isNone ∧
    (true || false) = true ∧ (false || true) = true ∧ ({ beat1 with term := 2 } : Beat).term ≠ running.sup.term ∧ beat1 ≠ { beat1 with seq := 4 } ∧
    2 ≤ ({ running.dom with red := 2 } : Dom).red ∧ running.time.now.toNat + 1024 < 2 ^ 64 ∧
    fencedAny { running with sup := { running.sup with nFenced := true } } = true := by decide +kernel
theorem meets_DeviceFaults : running.sup.dstate ≠ .off ∧ running.sup.dstate ≠ .faulted ∧ failing.img.run.isNone ∧
    (cmdOf failing ⟨.hw 1, 1⟩).any (fun k => k.ph != .done && !isRunning k && !isYielded k) = true ∧
    (∀ y ∈ allQueues failing, ∀ k ∈ y.2.cmds, isRunning k = false ∧ isYielded k = false) := by decide +kernel
def powered (p : Power) : State := { State.reset with power := p }
theorem meets_PowerCircuits : (powered { modEn := false }).power.modEn = false ∧
    (powered { precharging := true, switchClosed := false }).power.precharging = true ∧
    (powered { ramping := true, pgood := false, resetN := false }).power.ramping = true ∧
    (powered { ramping := true, pgood := false, resetN := false }).power.resetN = false ∧ running.power.switchClosed = true ∧
    (powered { lowTol := true }).power.lowTol = true ∧ running.power.resetN = true ∧
    (powered { opened := true, switchClosed := false }).power.opened = true ∧
    (powered { opened := true, switchClosed := false }).power.precharging = false ∧
    (inState .off (powered { switchClosed := false })).power.inputOk = true ∧
    (inState .off (powered { switchClosed := false })).sup.dstate = .off := by decide +kernel
/-- A release with a good clock, hold and pulse, and one without a stable clock (R448). -/
theorem meets_InstarStages_release : (let s := inState .off (powered { resetN := false })
    s.power.resetN = false ∧ s.power.inputOk = true ∧ s.power.modEn = true ∧ s.power.pgood = true ∧ s.power.refclk = true) := by
  decide +kernel
def boot0 : BootCheck := ⟨true, 0, 0⟩
/-- A delivered module: both seeds are reconstructed and pass, at the bound of 15 % as well, and not beyond it. -/
theorem meets_InstarStages_0 : inStage 0 State.reset = true ∧ boot0.flashOk = true ∧
    seedOk State.reset .north (reconstruct State.reset .north boot0.nDiff) = true ∧
    seedOk State.reset .south (reconstruct State.reset .south boot0.sDiff) = true ∧
    State.reset.sup.nIdent.helper = State.reset.sup.nPuf.helper ∧ 100 * 39321 ≤ 15 * 262144 ∧ ¬ 100 * 39322 ≤ 15 * 262144 := by
  decide +kernel
/-- A module whose Instar 1 copy, or runtime copy, B verifies; and one without images. -/
def booting (n : Nat) : State :=
  { State.reset with time := { refOk := true }, sup := { State.reset.sup with
    stage := n, nId := true, sId := true, nIdent := { identReset with serial := BitVec.allOnes 64 } } }
def bootable (rt : Bool) (n : Nat) : State := signedFlash rt true images (booting n)
def unsigned (n : Nat) : State := { booting n with sup := { (booting n).sup with flash := record } }
theorem meets_InstarStages_record : acceptSlot (unsigned 0) .north = some false ∧
    acceptSlot { unsigned 0 with sup := { (unsigned 0).sup with flash := [] } } .north = none ∧
    copyOk (unsigned 0) false false = false ∧ copyOk (unsigned 0) false true = false := by
  decide +kernel
/-- The seeds that Instar 0 reconstructs, in a state. -/
def withSeeds (n m : BitVec 256) (s : State) : State := { s with sup := { s.sup with nSeed := n, sSeed := m } }
theorem bootRecord_seeds (s : State) (n m : BitVec 256) (slot : Bool) : bootRecord (withSeeds n m s) slot = bootRecord s slot := rfl
theorem acceptSlot_first {s : State} {r r' : Nat} (h : bootRecord s false = r) (h' : bootRecord s true = r')
    (hm : (fld r' 31 0 == 0x4B5A4252) = false) (h0 : (fld r 31 0 == 0x4B5A4252 && bootMac s .north r == fld r 447 192 &&
      bootSerial r == (identOf s .north).serial.toNat) = true) : acceptSlot s .north = some false := by
  have h1 : recordOk s .north false = true := by
    rw [recordOk, h]
    exact h0
  have h2 : recordOk s .north true = false := by
    unfold recordOk
    simp only [h', hm, Bool.false_and]
  unfold acceptSlot
  simp only [h1, h2]
/-- A supervisor without a record in the second slot takes the first or its partner's. -/
theorem acceptSlot_only {s : State} {d : Side} {r' : Nat} (h : bootRecord s true = r')
    (hm : (fld r' 31 0 == 0x4B5A4252) = false) : acceptSlot s d = some false ∨ acceptSlot s d = none := by
  have h2 : recordOk s d true = false := by
    unfold recordOk
    simp only [h, hm, Bool.false_and]
  unfold acceptSlot
  rw [h2]
  cases recordOk s d false <;> simp
theorem meets_InstarStages_first :
    (let s := bootable false 0
     let s0 := withSeeds (reconstruct s .north 0) (reconstruct s .south 0) s
     let r := bootRecord s false
     inStage 0 s = true ∧ seedOk s .north s0.sup.nSeed = true ∧ acceptSlot s0 .north = some false ∧
       (acceptSlot s0 .south = some false ∨ acceptSlot s0 .south = none) ∧ bootI1 r = true ∧
       copyOk s false true = true ∧ bootFloor r ≤ fwVersion (fwHeader s false true)) := by
  refine ⟨by decide +kernel, by decide +kernel, ?_, ?_, ?_⟩
  · exact acceptSlot_first ((bootRecord_seeds _ _ _ _).trans (images_record false true _))
      ((bootRecord_seeds _ _ _ _).trans (images_other false true _)) (by decide +kernel) (by decide +kernel)
  · exact acceptSlot_only ((bootRecord_seeds _ _ _ _).trans (images_other false true _)) (by decide +kernel)
  · rw [bootable, images_record, show bootI1 recordNat = true by decide +kernel,
      show bootFloor recordNat = 0xFFFFFFFE by decide +kernel]
    exact ⟨rfl, images_verify false true _, (images_version false true _).ge⟩
def selfTest1 : SelfTest := { selfTest0 with recordOk := false }
theorem meets_InstarStages_1 : inStage 1 (booting 1) = true ∧ selfTestFail (booting 1) selfTest0 = 0 ∧
    selfTestFail (booting 1) { selfTest0 with halfBad := true } ≠ 0 ∧
    inStage 2 (booting 2) = true := by decide +kernel
theorem selfTest1_flash (s : State) : (writeTestRecord selfTest1.recordOk (applySelfTest selfTest1 s)).sup.flash = s.sup.flash ∧
    (writeTestRecord selfTest1.recordOk (applySelfTest selfTest1 s)).sup.rom = s.sup.rom ∧
    (writeTestRecord selfTest1.recordOk (applySelfTest selfTest1 s)).sup.brSlot = s.sup.brSlot ∧
    (writeTestRecord selfTest1.recordOk (applySelfTest selfTest1 s)).sup.brSouth = s.sup.brSouth := ⟨rfl, rfl, rfl, rfl⟩
/-- A runtime copy is taken, or none. -/
theorem meets_InstarStages_copy :
    (let s := bootable true 1
     let s2 := writeTestRecord selfTest1.recordOk (applySelfTest selfTest1 s)
     inStage 1 s = true ∧ selfTestFail s selfTest1 = 0 ∧ bootRecord s2 s2.sup.brSouth = bootNow s2 ∧ bootRt (bootNow s2) = true ∧
       copyOk s2 true true = true ∧ bootFloor (bootNow s2) ≤ fwVersion (fwHeader s2 true true)) ∧
    (let s2 := writeTestRecord selfTest1.recordOk (applySelfTest selfTest1 (unsigned 1))
     selfTestFail (unsigned 1) selfTest1 = 0 ∧ copyOk s2 true false = false ∧ copyOk s2 true true = false) := by
  refine ⟨⟨by decide +kernel, by decide +kernel, ?_⟩, by decide +kernel⟩
  obtain ⟨hf, hr, hb, hz⟩ := selfTest1_flash (bootable true 1)
  generalize writeTestRecord selfTest1.recordOk (applySelfTest selfTest1 (bootable true 1)) = s2 at hf hr hb hz ⊢
  have hn : bootNow s2 = recordNat := by
    rw [bootNow, bootRecord, flashRead, hf, hb, bootable, signed_slot]
    exact images_record true true (booting 1)
  have hsame : bootRecord s2 s2.sup.brSouth = bootNow s2 := by rw [bootNow, hb, hz]; rfl
  rw [hsame, hn, show bootRt recordNat = true by decide +kernel, show bootFloor recordNat = 0xFFFFFFFE by decide +kernel]
  have hc : copyOk s2 true true = true := (copyOk_congr hf hr).trans (images_verify true true _)
  have hv : fwVersion (fwHeader s2 true true) = 0xFFFFFFFE := by
    rw [fwHeader, flashRead, hf]
    exact images_version true true (booting 1)
  exact ⟨rfl, rfl, hc, hv.ge⟩
def signing (n : Nat) (trees : List Nat) : State := { running with sup := { running.sup with
  nKeys := { next := n }, nIdent := { running.sup.nIdent with trees := trees } } }
theorem meets_InstarStages_tree : beating running = true ∧ hasId (signing 31744 [0]) .north = true ∧
    canSign (signing 31744 [0]) .north = true ∧ 31744 ≤ (keysOf (signing 31744 [0]) .north).next % 32768 ∧
    canSign (signing 32768 [0]) .north = false ∧ (keysOf (signing 32768 [0]) .north).next < 2 ^ 30 := by decide +kernel

/-! ### Memory events, links, sideband -/

/-- Error patterns of one byte, which is corrected, and of nine, which may be beyond the code (R272). -/
theorem meets_MemoryEvents_reads : readRes [] = .clean ∧ readRes [(3, 0x40)] = .corrected ∧
    readRes [(0, 1), (9, 2), (18, 3), (27, 4), (36, 5), (45, 6)] = .uncorrectable := by decide +kernel
theorem meets_MemoryEvents : memoryUp running = true ∧ (∀ x, x ∈ [(true, 3), (false, 31)] →
      (let line := unitLine x.1 x.2 (running.mem.scrubPos.getD (scrubIdx x.1 x.2) 0)
       offlineAt running (line * 64) = false ∧ poisoned running line = false ∧ inUnit x.1 x.2 line = true)) ∧
    inBorug (unitLine false 31 0 * 64) = true ∧
    31 ∈ ({ running.mem with retrain := [31] } : Memory).retrain ∧ (true, 3) ∈ ({ running.mem with scrubs := [(true, 3)] } : Memory).scrubs ∧
    ([(⟨0, c1, 3, [5]⟩ : RowReq)].find? fun y => y.lines.contains 5) = some ⟨0, c1, 3, [5]⟩ ∧ running.dom.inbox = [] ∧
    running.dom.cols = [] ∧ inBorug (5 * 64) = true ∧ stackOf (5 * 64) = 0 := by decide +kernel
/-- A COL.RECV whose second line has arrived, and waits for its stack. -/
theorem meets_MemoryEvents_coll : (let q := oneCmd 0x0B02 (fields [(0, 1), (16, 9), (96, 128)])
    let s := setQueue 1 { q with cmds := q.cmds.map fun k => { k with ph := .running 0, begun := true } }
      { inDomain with dom := { inDomain.dom with
        cols := [{ c := c1, kind := 1, peer := 1, channel := 9, k := 0, released := 0 }]
        inbox := [.data 1 9 0 128 64 (List.replicate 64 0)] } }
    memoryUp s = true ∧ inBorug (1 * 64) = true ∧ offlineAt s (1 * 64) = false ∧ collHeld s 1 true = some c1 ∧
      (cmdOf s c1).any (fun k => k.ph != .done) = true) := by decide +kernel
/-- A row corrected in two consecutive passes, whatever its number. -/
theorem meets_MemoryEvents_row : ({ running.mem with rowFix := [(Config.borugRow 0, 2, 4)] } : Memory).rowFix.find?
    (fun x => decide (x.1 = Config.borugRow 0)) = some (Config.borugRow 0, 2, 4) ∧
    4 + 1 = ({ running.mem with scrubPass := List.replicate 36 5 } : Memory).scrubPass.getD 4 0 :=
  ⟨by simp, by decide⟩
def gathering : State :=
  let q := oneCmd 0x0103 0
  let s := setQueue 1 { q with cmds := q.cmds.map fun k => { k with ph := .running 2 } } running
  { s with mem := { s.mem with passHeld := [⟨0, c1, 3, [5]⟩] } }
theorem meets_RowsAndLink : (∃ y ∈ gathering.mem.passHeld, y.c = c1 ∧ y.row = 3 ∧ 5 ∈ y.lines) ∧ gathering.mem.passWait = [] ∧
    poisoned gathering 5 = false ∧ poisoned { gathering with mem := { gathering.mem with poison := [5] } } 5 = true ∧
    (let s := { running with mem := { running.mem with passWait := [⟨1, c1, 4, [9]⟩, ⟨0, c1, 3, [5, 6, 7]⟩] } }
     s.mem.passWait = [⟨1, c1, 4, [9]⟩] ++ ⟨0, c1, 3, [5, 6, 7]⟩ :: [] ∧ (∀ z ∈ [(⟨1, c1, 4, [9]⟩ : RowReq)], z.die ≠ (0 : Fin 4).val) ∧
       3 ≤ passFree s (0 : Fin 4).val) ∧
    running.link.up = true ∧ linkTries { running with link := {} } = true ∧ trainedLanes (BitVec.allOnes 32) = 32 ∧
    trainedLanes 0xFFFF = 16 ∧
    (let s := { moderated with queues := { moderated.queues with irqHeld := [(0, 9), (64, 1)] } }
     s.regs.irqEn = true ∧ s.mem.wf = true ∧ spanWin s.regs.irqAddr.toNat 0x10000 = true ∧ (s.queues.irqHeld.map (·.1)).Nodup ∧
       (∀ x ∈ s.queues.irqHeld, x.1 < 4096)) ∧
    spanWin ({ moderated.regs with irqAddr := 0 } : Regs).irqAddr.toNat 0x10000 = false := by decide +kernel
theorem meets_SidebandAndTestAccess : running.sup.dstate ≠ .off ∧ running.power.badRelease = false ∧
    (0x58#7).toNat = 0x58 + running.power.sbAddr.toNat ∧ running.power.pgood = true ∧ running.power.resetN = true ∧
    (powered { resetN := false }).power.resetN = false ∧ (powered { resetN := false }).power.pgood = true ∧
    ({ running.power with alert := true } : Power).alert = true := by decide +kernel

/-! ### Addresses, numbers, speculation, poison -/

theorem meets_BorugAddresses : (0x017FFFFFFFFF < 0x018000000000) ∧ stackOf 0x017FFFFFFFFF = 31 ∧ stackOf 0x0800 = 1 := by decide +kernel
theorem meets_BlockScalesAndTrees : (254 : Nat) < 256 ∧ 254 ≠ 255 ∧ 255 < 256 ∧ 2 ≤ [(1 : Word), 2, 3].length ∧ 0 < 32 ∧
    Fmt.value (.mx .e4m3) 0x38 0xFE = .fin (2 ^ 3) (127 - 3) ∧ Fmt.value (.tb .e4m3) 0x38 0xFF = .nan := by decide +kernel
theorem meets_CocoonsAreTheirTasksOwn : (let s := speculative 0x0902
    (cocoonOf s (some (.hw 1, 1))).any (fun k => (k.granule 0x30000).isSome && (k.granule 0x30001).isNone && k.num == 0) = true ∧
      inWin (0x30000 * 4096) = false) := by decide +kernel
theorem meets_SpeculationAndPoison : (let s := speculative 0x0902
    (cocoonOf s (some (.hw 1, 1))).any (fun k => (k.granule 0x30001).isNone && (k.nextFree 0x30001).isNone &&
      (k.granule (ks / 4096 + 16)).isNone && (k.nextFree (ks / 4096 + 16)).isSome) = true ∧ healthy s {} ∧ s.mem.wf = true ∧
      spanMem (ks + 0x10000) 1 = true ∧ s.cocoons.length = 1) ∧
    (let s := { running with mem := { running.mem with poison := [ks / 64] } }
     cocoonOf s none = none ∧ spanMem ks 1 = true ∧ poisoned s (ks / 64) = true ∧ offlineAt s ks = false ∧ s.mem.wf = true) := by
  decide +kernel

end Sys2Proof.Tests
end

section
/-!
PROOFS. The Tollgate's grants (R384 to R390): what a quantum must meet to be granted, what its offer leaves, and the budget
that no grant exceeds.
-/
namespace Sys2Proof.Machine
open Host

/-! ### The condition of a grant -/

/-- The bound of a class on the energy granted in the window: D_w, or, for best-effort work before the release of the
reservation, what the latency-critical reservation leaves of it (R387). -/
def grantBound (s : State) (lc : Bool) : Nat :=
  if lc = true then budget s
  else if windowLeft s ≤ s.tgl.releaseUs * 1000 then budget s else budget s - (reservation s - s.tgl.grantedLc)

theorem grantBound_lc (s : State) : grantBound s true = budget s := if_pos rfl

theorem grantBound_be (s : State) : grantBound s false =
    if windowLeft s ≤ s.tgl.releaseUs * 1000 then budget s else budget s - (reservation s - s.tgl.grantedLc) :=
  if_neg Bool.false_ne_true

theorem grantBound_le_budget (s : State) (lc : Bool) : grantBound s lc ≤ budget s := by
  unfold grantBound
  split
  · exact Nat.le_refl _
  · split
    · exact Nat.le_refl _
    · exact Nat.sub_le _ _

/-- A quantum is granted within the bound of its class, without HOLD (R388), and as its compute die allows (R390). -/
theorem grantable_iff {s : State} {lc : Bool} {e die : Nat} :
    grantable s lc e die = true ↔ s.tgl.hold = false ∧ s.tgl.granted + e ≤ grantBound s lc ∧
      (die < 16 → s.tgl.dieGrant.getD die 0 + e ≤ dieCap s die ∧ (lc = true ∨ isHot s die = false)) := by
  have hdie : ∀ P : Prop, (16 ≤ die ∨ P) ↔ (die < 16 → P) := fun P => by
    rw [← Nat.not_lt, Decidable.imp_iff_not_or]
  cases lc <;> simp [grantable, grantBound, and_assoc, hdie]

/-- The condition of a grant as R387 and R390 give it class by class. -/
theorem grantable_of_fits {s : State} {lc : Bool} {e die : Nat} (hhold : s.tgl.hold = false)
    (hdie : die < 16 → s.tgl.dieGrant.getD die 0 + e ≤ dieCap s die)
    (hclass : if lc = true then s.tgl.granted + e ≤ budget s
      else (die < 16 → isHot s die = false) ∧ s.tgl.granted + e ≤
        (if windowLeft s ≤ s.tgl.releaseUs * 1000 then budget s else budget s - (reservation s - s.tgl.grantedLc))) :
    grantable s lc e die = true := by
  cases lc with
  | true =>
    rw [if_pos rfl] at hclass
    exact grantable_iff.2 ⟨hhold, by rwa [grantBound_lc], fun h16 => ⟨hdie h16, .inl rfl⟩⟩
  | false =>
    rw [if_neg Bool.false_ne_true] at hclass
    obtain ⟨hhot, hbound⟩ := hclass
    exact grantable_iff.2 ⟨hhold, by rwa [grantBound_be], fun h16 => ⟨hdie h16, .inr (hhot h16)⟩⟩

theorem grantable_le_budget {s : State} {lc : Bool} {e die : Nat} (h : grantable s lc e die = true) :
    s.tgl.granted + e ≤ budget s :=
  Nat.le_trans (grantable_iff.1 h).2.1 (grantBound_le_budget s lc)

/-! ### The offered quantum is taken from what its command has left -/

@[simp] theorem budget_modCmd (c : CmdRef) (f : Cmd → Cmd) (s : State) : budget (modCmd c f s) = budget s := by
  simp [budget]

@[simp] theorem grantable_modCmd (c : CmdRef) (f : Cmd → Cmd) (s : State) (lc : Bool) (e die : Nat) :
    grantable (modCmd c f s) lc e die = grantable s lc e die := by
  simp [grantable, reservation, windowLeft, dieCap, isHot]

/-- The prediction of R384 is that of the Tollgate and the time, which a change of a command leaves. -/
@[simp] theorem quantumOf_modCmd (c : CmdRef) (f : Cmd → Cmd) (s : State) (o : Offer) :
    quantumOf (modCmd c f s) o = quantumOf s o := by
  simp [quantumOf, quantumEnergy, factorOf, guardNow, sinceReady]

/-- A change of a command leaves the class and the tasks of its queue. -/
theorem getQ_modCmd_self (c : CmdRef) (f : Cmd → Cmd) (s : State) :
    (getQ (modCmd c f s) c.q).lc = (getQ s c.q).lc ∧ (getQ (modCmd c f s) c.q).tasks = (getQ s c.q).tasks := by
  unfold modCmd
  rcases getQ_setQ_self c.q { getQ s c.q with cmds := (getQ s c.q).cmds.map fun k => if k.idx = c.idx then f k else k } s
    with hq | ⟨himg, hrun⟩
  · simp [hq]
  · simp [himg, hrun, getQ, setQ]

theorem lcOf_modCmd (c : CmdRef) (f : Cmd → Cmd) (s : State) {k k' : Cmd} (hk : k'.task = k.task) :
    lcOf (modCmd c f s) c k' = lcOf s c k := by
  obtain ⟨hlc, htasks⟩ := getQ_modCmd_self c f s
  simp only [lcOf, mkCtx, taskOf, hlc, htasks, hk]

/-! ### An offer -/

theorem offer_eq_grant {o : Offer} {s : State} {k : Cmd} (hk : cmdOf s o.c = some k) (hd : k.ph ≠ .done)
    (hg : grantable s (lcOf s o.c k) (quantumOf s o).e o.die = true) :
    offer o s = grant (quantumOf s o) (lcOf s o.c k) s := by
  simp [offer, hk, hd, hg]

theorem offer_eq_wait {o : Offer} {s : State} {k : Cmd} (hk : cmdOf s o.c = some k) (hd : k.ph ≠ .done)
    (hg : ¬ grantable s (lcOf s o.c k) (quantumOf s o).e o.die = true) :
    offer o s = { s with tgl := { s.tgl with waiting := s.tgl.waiting ++ [o] } } := by
  simp [offer, hk, hd, hg]

/-- What an offer can do: nothing, where its command is gone or done; a grant that the bounds allow; or a wait (R387). -/
theorem offer_cases (o : Offer) (s : State) :
    offer o s = s ∨
    (∃ lc, grantable s lc (quantumOf s o).e o.die = true ∧ offer o s = grant (quantumOf s o) lc s) ∨
    offer o s = { s with tgl := { s.tgl with waiting := s.tgl.waiting ++ [o] } } := by
  cases hk : cmdOf s o.c with
  | none => exact .inl (by simp [offer, hk])
  | some k =>
    by_cases hd : k.ph = .done
    · exact .inl (by simp [offer, hk, hd])
    · by_cases hg : grantable s (lcOf s o.c k) (quantumOf s o).e o.die = true
      · exact .inr (.inl ⟨_, hg, offer_eq_grant hk hd hg⟩)
      · exact .inr (.inr (offer_eq_wait hk hd hg))

/-- After a grant the command holds one (R385). -/
theorem granted_grant (q : Quantum) (lc : Bool) (s : State) : granted (grant q lc s) q.c = true := by
  simp [granted, grant]

/-! ### The budget holds -/

/-- The energy granted in the window is within its dynamic budget (R5, R387). -/
def WithinBudget (s : State) : Prop := s.tgl.granted ≤ budget s

@[simp] theorem budget_grant (q : Quantum) (lc : Bool) (s : State) : budget (grant q lc s) = budget s := by
  simp only [budget, grant]

@[simp] theorem budget_withWaiting (w : List Offer) (s : State) :
    budget { s with tgl := { s.tgl with waiting := w } } = budget s := by
  simp only [budget]

theorem budget_offer (o : Offer) (s : State) : budget (offer o s) = budget s := by
  rcases offer_cases o s with ho | ⟨lc, -, ho⟩ | ho <;> simp [ho]

theorem offer_withinBudget {s : State} (o : Offer) (h : WithinBudget s) : WithinBudget (offer o s) := by
  rcases offer_cases o s with ho | ⟨lc, hg, ho⟩ | ho <;> rw [ho]
  · exact h
  · rw [WithinBudget, budget_grant]
    exact grantable_le_budget hg
  · rwa [WithinBudget, budget_withWaiting]

theorem foldl_offer_withinBudget (l : List Offer) {s : State} (h : WithinBudget s) :
    WithinBudget (l.foldl (fun t o => offer o t) s) := by
  induction l generalizing s with
  | nil => exact h
  | cons o r ih => exact ih (offer_withinBudget o h)

theorem offerAgain_withinBudget {s : State} (h : WithinBudget s) : WithinBudget (offerAgain s) := by
  have h0 : WithinBudget { s with tgl := { s.tgl with waiting := [] } } := by
    rwa [WithinBudget, budget_withWaiting]
  exact foldl_offer_withinBudget _ h0

/-- A new window begins with nothing granted (R386). -/
theorem endWindow_withinBudget (dies : List (Nat × Nat)) (p : BitVec 12) (s : State) : WithinBudget (endWindow dies p s) := by
  simp only [WithinBudget, endWindow, Nat.zero_le]

theorem execBudgetWindowEnd_withinBudget {s t : State} {dies : List (Nat × Nat)} {p : BitVec 12} (h : WithinBudget s)
    (ht : exec (.budgetWindowEnd dies p) s = .next t) : WithinBudget t := by
  change Outcome.next (if tollgateOn s then offerAgain (endWindow dies p s) else s) = .next t at ht
  obtain rfl := Outcome.next.inj ht
  split
  · exact offerAgain_withinBudget (endWindow_withinBudget dies p s)
  · exact h

/-! ### The row of a grant -/

section
variable {s : State} {c : CmdRef} {q : Cmd} {k : EClass} {units : Nat} {hops : Route} {first : Bool} {die : Fin 25}
  {l : List Charge}

/-- A row that names a quantum which its command has left offers it. -/
theorem exec_quantumGrant_offer (ht : tollgateOn s = true) (hq : cmdOf s c = some q) (he : q.entered = true) (hd : q.ph ≠ .done)
    (hn : nextQuantum c q k units hops.val first die.val s = some l) :
    exec (.quantumGrant c k units hops first die) s =
      .next (offer ⟨c, k, units, hops.val, first, die.val⟩ (modCmd c (Cmd.offered (chargesOf c q s) l k) s)) := by
  simp [exec, execQuantumGrant, ht, hq, he, hd, hn]

/-- A row that names no quantum which its command has left is inert (log 48). -/
theorem exec_quantumGrant_inert (hq : cmdOf s c = some q)
    (hn : nextQuantum c q k units hops.val first die.val s = none) :
    exec (.quantumGrant c k units hops first die) s = .next s := by
  simp [exec, execQuantumGrant, hq, hn]

/-- What the row of a grant can do: nothing, or the offer of a quantum that its command has left. -/
theorem exec_quantumGrant_cases {t : State} (h : exec (.quantumGrant c k units hops first die) s = .next t) :
    t = s ∨ ∃ f, t = offer ⟨c, k, units, hops.val, first, die.val⟩ (modCmd c f s) := by
  simp only [exec, execQuantumGrant, Outcome.next.injEq] at h
  split at h
  · exact .inl h.symm
  · split at h
    · split at h
      · exact .inl h.symm
      · exact .inr ⟨_, h.symm⟩
    · exact .inl h.symm

/-- The command as its offer finds it, with the quantum taken. -/
theorem cmdOf_offered (w : List Charge) (hq : cmdOf s c = some q) :
    cmdOf (modCmd c (Cmd.offered w l k) s) c = some (Cmd.offered w l k q) := by
  rw [cmdOf_modCmd c (Cmd.offered w l k) (fun _ => rfl), hq, Option.map_some]

theorem offer_offered_grant (w : List Charge) (o : Offer) (ho : o.c = c) (hq : cmdOf s c = some q) (hd : q.ph ≠ .done)
    (hg : grantable s (lcOf s c q) (quantumOf s o).e o.die = true) :
    offer o (modCmd c (Cmd.offered w l k) s) = grant (quantumOf s o) (lcOf s c q) (modCmd c (Cmd.offered w l k) s) := by
  subst ho
  have hlc := lcOf_modCmd o.c (Cmd.offered w l k) s (k := q) (k' := Cmd.offered w l k q) rfl
  rw [offer_eq_grant (cmdOf_offered w hq) hd (by simpa [hlc] using hg), hlc, quantumOf_modCmd]

theorem offer_offered_wait (w : List Charge) (o : Offer) (ho : o.c = c) (hq : cmdOf s c = some q) (hd : q.ph ≠ .done)
    (hg : ¬ grantable s (lcOf s c q) (quantumOf s o).e o.die = true) :
    offer o (modCmd c (Cmd.offered w l k) s) =
      { modCmd c (Cmd.offered w l k) s with tgl := { s.tgl with waiting := s.tgl.waiting ++ [o] } } := by
  subst ho
  have hlc := lcOf_modCmd o.c (Cmd.offered w l k) s (k := q) (k' := Cmd.offered w l k q) rfl
  rw [offer_eq_wait (cmdOf_offered w hq) hd (by simpa [hlc] using hg), modCmd_tgl]

theorem exec_quantumGrant_withinBudget {t : State} (h : WithinBudget s)
    (ht : exec (.quantumGrant c k units hops first die) s = .next t) : WithinBudget t ∧ budget t = budget s := by
  rcases exec_quantumGrant_cases ht with rfl | ⟨f, rfl⟩
  · exact ⟨h, rfl⟩
  · have hf : WithinBudget (modCmd c f s) := by simpa [WithinBudget] using h
    exact ⟨offer_withinBudget _ hf, by rw [budget_offer, budget_modCmd]⟩

end

/-! ### A command in progress waits for its grants -/

/-- A command in progress with quanta left and no grant stays where it is (R385). -/
theorem runCmd_ungranted {op : Nat} {f : Family} {c : CmdRef} {e : Circ} {s : State} {k : Cmd} {p : Nat}
    (hk : cmdOf s c = some k) (hp : k.ph = .running p) (hg : granted s c = false) (hu : paidUp s c = false)
    (he : e.gone = []) : runCmd op f c e s = s := by
  simp [runCmd, hk, hp, hg, hu, he]

/-- The row of a queue command without row requests of its own takes the common way, but for an SCH.RUN whose image run is on. -/
theorem exec_queueRow {i : Instr} {op : Nat} {f : Family} {c : CmdRef} {e : Circ} {s : State}
    (hi : queueRow i = some (op, f, c, e)) (ho : op ∉ rowOps) (hr : s.img.run.map (·.c) ≠ some c) :
    exec i s = .next (runCmd op f c e s) := by
  cases i with
  | schRun c' e' =>
    cases hi
    simp [exec, execSchRun, hr]
  | movGather | vecRun | attFwd | attBwd | kvAppend | kvMap =>
    cases hi
    exact absurd (by decide) ho
  | _ =>
    cases hi <;> rfl

/-! ### The obligation -/

/-- Settles O37: a quantum of a command is granted or waits by `grantable_iff`, and each grant is within the budget. -/
theorem quantumGrants : Obligations.QuantumGrants := by
  unfold Obligations.QuantumGrants
  refine ⟨⟨?granted, fun s c q k units hops first die hq hn => exec_quantumGrant_inert hq hn, ?ungranted⟩,
    fun s t c k units hops first die => exec_quantumGrant_withinBudget, fun s t dies p => execBudgetWindowEnd_withinBudget⟩
  case ungranted =>
    intro i op f c e s k p hi ho hk hp hg hu he hr
    rw [exec_queueRow hi ho hr, runCmd_ungranted hk hp hg hu he]
  case granted =>
    intro s c q k units hops first die l lc e r s' hon hq hent hd hn
    rw [exec_quantumGrant_offer hon hq hent hd hn]
    constructor
    · intro hhold hdie hclass
      have hg : grantable s lc e die.val = true := grantable_of_fits hhold hdie hclass
      rw [offer_offered_grant _ ⟨c, k, units, hops.val, first, die.val⟩ rfl hq hd hg]
      refine ⟨_, rfl, ?_, ?_, granted_grant _ _ _, ?_, ?_, ?_, ?_, ?_, rfl⟩ <;>
        simp [grant, quantumOf, lc, e]
    · intro hno
      have hg : ¬ grantable s lc e die.val = true := fun h => by
        rcases hno with hhold | hover
        · exact absurd (grantable_iff.1 h).1 (by simp [hhold])
        · exact absurd (grantable_le_budget h) (Nat.not_le.2 hover)
      rw [offer_offered_wait _ ⟨c, k, units, hops.val, first, die.val⟩ rfl hq hd hg]

end Sys2Proof.Machine
end

section
/-!
PROOFS. The time base (R23 to R27, R401, R457): an idle tick, the move of the count to an instant, loads, TB_REFCLK and TB_PPS,
and the shared time of a domain.
-/
namespace Sys2Proof.Machine
open Host

/-! ### Beat boundaries (R24) -/

theorem beatUp_mod (n : Nat) : beatUp n % 1024 = 0 := by simp [beatUp]

theorem le_beatUp (n : Nat) : n ≤ beatUp n := by simp only [beatUp, beatUp.cdivBeat]; omega

theorem beatUp_lt (n : Nat) : beatUp n < n + 1024 := by simp only [beatUp, beatUp.cdivBeat]; omega

/-! ### The count moves to an instant -/

/-- A move of the count changes the time base alone. -/
theorem advanceTo_eq (n : Nat) (s : State) : advanceTo n s = { s with time := (advanceTo n s).time } := by
  unfold advanceTo
  dsimp only
  split <;> rfl

@[simp] theorem advanceTo_pending (n : Nat) (s : State) : (advanceTo n s).pending = s.pending := by rw [advanceTo_eq]
@[simp] theorem advanceTo_power (n : Nat) (s : State) : (advanceTo n s).power = s.power := by rw [advanceTo_eq]
@[simp] theorem advanceTo_sup (n : Nat) (s : State) : (advanceTo n s).sup = s.sup := by rw [advanceTo_eq]
@[simp] theorem advanceTo_regs (n : Nat) (s : State) : (advanceTo n s).regs = s.regs := by rw [advanceTo_eq]
@[simp] theorem advanceTo_mem (n : Nat) (s : State) : (advanceTo n s).mem = s.mem := by rw [advanceTo_eq]
@[simp] theorem advanceTo_queues (n : Nat) (s : State) : (advanceTo n s).queues = s.queues := by rw [advanceTo_eq]
@[simp] theorem advanceTo_cores (n : Nat) (s : State) : (advanceTo n s).cores = s.cores := by rw [advanceTo_eq]
@[simp] theorem advanceTo_cocoons (n : Nat) (s : State) : (advanceTo n s).cocoons = s.cocoons := by rw [advanceTo_eq]
@[simp] theorem advanceTo_luna (n : Nat) (s : State) : (advanceTo n s).luna = s.luna := by rw [advanceTo_eq]
@[simp] theorem advanceTo_tgl (n : Nat) (s : State) : (advanceTo n s).tgl = s.tgl := by rw [advanceTo_eq]
@[simp] theorem advanceTo_dom (n : Nat) (s : State) : (advanceTo n s).dom = s.dom := by rw [advanceTo_eq]
@[simp] theorem advanceTo_img (n : Nat) (s : State) : (advanceTo n s).img = s.img := by rw [advanceTo_eq]
@[simp] theorem advanceTo_media (n : Nat) (s : State) : (advanceTo n s).media = s.media := by rw [advanceTo_eq]
@[simp] theorem advanceTo_link (n : Nat) (s : State) : (advanceTo n s).link = s.link := by rw [advanceTo_eq]
@[simp] theorem advanceTo_freeCtr (n : Nat) (s : State) : (advanceTo n s).freeCtr = s.freeCtr := by rw [advanceTo_eq]

/-- The count at an instant that does not lie behind (log 2). -/
theorem advanceTo_now {n : Nat} {s : State} (hon : s.sup.dstate ≠ .off) (hn : s.time.now.toNat ≤ n) :
    (advanceTo n s).time.now.toNat = n % 2 ^ 64 := by
  have hlt := s.time.now.isLt
  by_cases h : n ≤ s.time.now.toNat
  · simp only [advanceTo, h]
    simp only [decide_true, Bool.or_true, if_true]
    omega
  · simp [advanceTo, h, hon]

theorem advanceTo_now_of_lt {n : Nat} {s : State} (hon : s.sup.dstate ≠ .off) (hn : s.time.now.toNat ≤ n) (hlt : n < 2 ^ 64) :
    (advanceTo n s).time.now.toNat = n := by
  rw [advanceTo_now hon hn, Nat.mod_eq_of_lt hlt]

/-- The count at the next beat boundary: it is one, and less than a beat has passed. -/
theorem advanceTo_beatUp_now {s : State} (hon : s.sup.dstate ≠ .off) (hlt : s.time.now.toNat + 1024 < 2 ^ 64) :
    (advanceTo (beatUp s.time.now.toNat) s).time.now.toNat = beatUp s.time.now.toNat :=
  advanceTo_now_of_lt hon (le_beatUp _) (Nat.lt_trans (beatUp_lt _) hlt)

theorem spendSlew_zero (v : Int) : spendSlew 0 v = v := by
  unfold spendSlew
  split <;> omega

/-- A slew is spent at the multiples of 20,000 that the count passes (R457). -/
theorem advanceTo_slew {n : Nat} {s : State} (hon : s.sup.dstate ≠ .off) (hn : s.time.now.toNat ≤ n) :
    (advanceTo n s).time.slew = spendSlew (n / 20000 - s.time.now.toNat / 20000) s.time.slew := by
  by_cases h : n ≤ s.time.now.toNat
  · have heq : n = s.time.now.toNat := Nat.le_antisymm h hn
    simp [advanceTo, heq, spendSlew_zero]
  · simp [advanceTo, h, hon, slewStep]

@[simp] theorem advanceTo_ppsEn (n : Nat) (s : State) : (advanceTo n s).time.ppsEn = s.time.ppsEn := by
  unfold advanceTo; dsimp only; split <;> rfl

@[simp] theorem advanceTo_ppsBase (n : Nat) (s : State) : (advanceTo n s).time.ppsBase = s.time.ppsBase := by
  unfold advanceTo; dsimp only; split <;> rfl

/-! ### An idle tick -/

theorem idle_off {s : State} (h : s.sup.dstate = .off) : idle s = s := if_pos h

/-- Where nothing is to be slewed, an idle tick counts one. -/
theorem idle_tick {s : State} (hon : s.sup.dstate ≠ .off) (h : s.time.slew = 0 ∨ s.time.now.toNat % 20000 ≠ 0) :
    idle s = { s with time := { s.time with now := s.time.now + 1, slewHeld := false } } := by
  rcases h with h | h <;> simp [idle, hon, h, slewStep]

theorem step_empty {s : State} (h : s.pending = []) : step s = .next (idle s) := by
  simp [step, h]

/-- Settles O3: a step on an empty queue is `idle`. -/
theorem emptyQueueTicks : Obligations.EmptyQueueTicks := by
  unfold Obligations.EmptyQueueTicks
  intro s hs
  rw [step_empty hs]
  exact ⟨fun hoff => by rw [idle_off hoff], fun hon hslew => by rw [idle_tick hon hslew]⟩

/-! ### TMB_CTRL (R26) -/

theorem onTmbCtrl_reachable {s : State} (v : Word) (h : reachable s = true) : onTmbCtrl v s = .next (writeTmbCtrl v s) := by
  simp [onTmbCtrl, h]

theorem writeTmbCtrl_reserved {v : Word} (s : State) (h : 2 ≤ fld v.toNat 3 2) :
    writeTmbCtrl v s = logErr (.ignoredWrite 0x0F0000030010) s := if_pos h

theorem writeTmbCtrl_fields {v : Word} (s : State) (h : fld v.toNat 3 2 < 2) :
    (writeTmbCtrl v s).time.source.toNat = fld v.toNat 3 2 ∧ (writeTmbCtrl v s).time.ppsEn = bit v.toNat 1 ∧
    (writeTmbCtrl v s).time.loadReq = (fld v.toNat 3 2 == 0 && (s.time.loadReq || bit v.toNat 0)) := by
  rw [writeTmbCtrl, if_neg (Nat.not_le.2 h)]
  refine ⟨?_, rfl, Bool.and_comm ..⟩
  rw [BitVec.toNat_ofNat]
  omega

/-- A write of TMB_CTRL leaves the count and all but the time base's settings and the log. -/
theorem writeTmbCtrl_frame (v : Word) (s : State) : (writeTmbCtrl v s).time.now = s.time.now ∧
    (writeTmbCtrl v s).mem = s.mem ∧ (writeTmbCtrl v s).queues = s.queues ∧ (writeTmbCtrl v s).sup = s.sup := by
  unfold writeTmbCtrl
  split <;> exact ⟨rfl, rfl, rfl, rfl⟩

theorem writeTmbCtrl_regs {v : Word} (s : State) (h : fld v.toNat 3 2 < 2) : (writeTmbCtrl v s).regs = s.regs := by
  rw [writeTmbCtrl, if_neg (Nat.not_le.2 h)]

/-! ### The count is set (R27, R401) -/

@[simp] theorem setCount_regs (v : Nat) (s : State) : (setCount v s).regs = s.regs := rfl
@[simp] theorem setCount_mem (v : Nat) (s : State) : (setCount v s).mem = s.mem := rfl
@[simp] theorem setCount_cores (v : Nat) (s : State) : (setCount v s).cores = s.cores := rfl
@[simp] theorem setCount_run (v : Nat) (s : State) : (setCount v s).sup.run = s.sup.run := rfl
@[simp] theorem setCount_dstate (v : Nat) (s : State) : (setCount v s).sup.dstate = s.sup.dstate := rfl

theorem setCount_now {v : Nat} (s : State) (hv : v < 2 ^ 64) : (setCount v s).time.now.toNat = v := by
  simpa [setCount] using hv

/-- The budget window is that of the new count (R386). -/
theorem setCount_tgl (v : Nat) (s : State) : (setCount v s).tgl = { s.tgl with window := v / 1000000 } := rfl

theorem setCount_readyTick (v : Nat) (s : State) :
    (setCount v s).sup.readyTick = s.sup.readyTick + ((v : Int) - (s.time.now.toNat : Int)) := rfl

/-- The instants of the commands move with the count. -/
theorem setCount_movedCmds (v : Nat) (s : State) : MovedCmds ((v : Int) - (s.time.now.toNat : Int)) s (setCount v s) := by
  intro r
  cases r with
  | hw q =>
    have hlook : ∀ l : List (Nat × Queue), ∀ f : Queue → Queue, look (l.map fun x => (x.1, f x.2)) q.toNat = (look l q.toNat).map f :=
      fun l f => look_mapVal f l q.toNat
    simp only [getQ, queueOf, setCount, nowNat]
    rw [hlook _ fun x => { shiftQueue ((v : Int) - (s.time.now.toNat : Int)) x with
      lastMsg := x.lastMsg.map (· + ((v : Int) - (s.time.now.toNat : Int))) }]
    cases look s.queues.qs q.toNat <;> rfl
  | img =>
    simp only [getQ, setCount]
    cases s.img.run <;> rfl

theorem movedCmds_congr {d : Int} {s s' t t' : State} (h : MovedCmds d s t) (hs : SameCmds s' s) (ht : SameCmds t t') :
    MovedCmds d s' t' := fun r => by rw [ht r, h r, hs r]

theorem advanceTo_sameCmds (n : Nat) (s : State) : SameCmds s (advanceTo n s) :=
  sameCmds_of_eq (by simp) (by simp)

/-- The state in which a count is set at the next beat boundary (R27, R401). -/
def atBeat (s : State) : State := advanceTo (beatUp (nowNat s)) s

theorem atBeat_now {s : State} (hon : s.sup.dstate ≠ .off) : (atBeat s).time.now.toNat = beatUp (nowNat s) % 2 ^ 64 :=
  advanceTo_now hon (le_beatUp _)

/-- What a count set at the next beat boundary leaves, and what moves with it. -/
theorem setCount_atBeat {v : Nat} {s u : State} (hon : s.sup.dstate ≠ .off) (hv : v < 2 ^ 64) (hu : setCount v (atBeat s) = u) :
    u.time.now.toNat = v ∧ u.sup.run = s.sup.run ∧ u.sup.dstate = s.sup.dstate ∧ u.mem = s.mem ∧ u.regs = s.regs ∧
    u.tgl = { s.tgl with window := v / 1000000 } ∧ u.cores = s.cores ∧
    u.sup.readyTick = s.sup.readyTick + ((v : Int) - (beatUp (nowNat s) % 2 ^ 64 : Nat)) ∧
    MovedCmds ((v : Int) - (beatUp (nowNat s) % 2 ^ 64 : Nat)) s u := by
  subst hu
  have hmoved := setCount_movedCmds v (atBeat s)
  have hready := setCount_readyTick v (atBeat s)
  rw [atBeat_now hon] at hmoved hready
  refine ⟨setCount_now _ hv, ?_, ?_, ?_, ?_, ?_, ?_, ?_, movedCmds_congr hmoved (advanceTo_sameCmds _ s) (sameCmds_refl _)⟩
  case _ => simp [atBeat]
  case _ => simp [atBeat]
  case _ => simp [atBeat]
  case _ => simp [atBeat]
  case _ => simp [setCount_tgl, atBeat]
  case _ => simp [atBeat]
  case _ => rw [hready]; simp [atBeat]

/-! ### Rows of the time base -/

theorem exec_timeLoadApply {s u : State} (hl : s.time.loadReq = true) (hm : mayLoad s = true)
    (hu : setCount (s.time.loadHi.toNat * 2 ^ 32 + s.time.loadLo.toNat) (atBeat s) = u) :
    exec .timeLoadApply s = .next { u with time := { u.time with loadReq := false } } := by
  subst hu
  exact congrArg Outcome.next (if_pos (by simp [hl, hm]))

theorem exec_tmbNowLoRead {s : State} (h : reachable s = true) :
    exec .tmbNowLoRead s = .next { s with time := { s.time with nowHi := BitVec.ofNat 32 (nowNat s / 2 ^ 32) }
                                          regs := { s.regs with resp := some (nowNat s % 2 ^ 32, false) } } := by
  simp [exec, execTmbNowLoRead, h]

theorem join_lt {hi lo : Nat} (hhi : hi < 2 ^ 32) (hlo : lo < 2 ^ 32) : hi * 2 ^ 32 + lo < 2 ^ 64 := by omega

/-- Two words of 32 bits spell a count of 64. -/
theorem words_lt (hi lo : Word) : hi.toNat * 2 ^ 32 + lo.toNat < 2 ^ 64 := join_lt hi.isLt lo.isLt

theorem split_words {n : Nat} (h : n < 2 ^ 64) : n / 2 ^ 32 % 2 ^ 32 * 2 ^ 32 + n % 2 ^ 32 = n := by omega

/-- Settles O27: a write of TMB_CTRL, the load at a beat boundary, and the latching read. -/
theorem timeControl : Obligations.TimeControl := by
  unfold Obligations.TimeControl
  refine ⟨fun s v hr => ?control, fun s hl hm hon => ?load, fun s hr => ?read⟩
  case control =>
    obtain ⟨hnow, hmem, hqueues, hsup⟩ := writeTmbCtrl_frame v s
    refine ⟨writeTmbCtrl v s, onTmbCtrl_reachable v hr, onTmbCtrl_reachable v hr, onTmbCtrl_reachable v hr,
      hnow, hmem, hqueues, hsup, fun hres => ?_, fun hfld => ⟨writeTmbCtrl_regs s hfld, writeTmbCtrl_fields s hfld⟩⟩
    rw [writeTmbCtrl_reserved s hres]
    exact ⟨rfl, rfl⟩
  case load =>
    obtain ⟨u, hu⟩ : ∃ u, setCount (s.time.loadHi.toNat * 2 ^ 32 + s.time.loadLo.toNat) (atBeat s) = u := ⟨_, rfl⟩
    obtain ⟨hnow, hrun, hdstate, hmem, hregs, htgl, hcores, -, hmoved⟩ :=
      setCount_atBeat hon (words_lt s.time.loadHi s.time.loadLo) hu
    refine ⟨_, beatUp (nowNat s), beatUp_mod _, le_beatUp _, beatUp_lt _, exec_timeLoadApply hl hm hu, hnow, rfl, hrun, hdstate,
      hmem, hregs, ?_, hcores, ?_⟩
    · rw [hnow]; exact htgl
    · rw [hnow]; exact hmoved
  case read =>
    refine ⟨_, _, exec_tmbNowLoRead hr, rfl, rfl, ?_, rfl⟩
    simp only [nowNat, BitVec.toNat_ofNat]
    exact split_words s.time.now.isLt

/-! ### The shared time of a domain (R401) -/

theorem exec_timeMasterAdopt {s : State} {count : DWord} (hf : s.dom.dstate = 2) (ha : s.dom.adopt = true) (hon : s.sup.dstate ≠ .off) :
    exec (.timeMasterAdopt count) s =
      .next (let s1 := setCount count.toNat (atBeat s)
        { s1 with dom := { s1.dom with adopt := false }, time := { s1.time with msgOk := true } }) := by
  simp [exec, execTimeMasterAdopt, formed, hf, ha, hon, atBeat]

theorem exec_timeMessage {s : State} (hf : s.dom.dstate = 2) (hon : s.sup.dstate ≠ .off) :
    exec .timeMessage s = .next (sendDom .time (advanceTo ((nowNat s / 65536 + 1) * 65536) s)) := by
  simp [exec, execTimeMessage, formed, hf, hon]

theorem exec_timeMessageTimeout {s : State} (hf : s.dom.dstate = 2) (hm : s.dom.master = false) :
    exec .timeMessageTimeout s = .next { s with time := { s.time with msgOk := false } } := by
  simp [exec, execTimeMessageTimeout, formed, domMaster, hf, hm]

/-- A formed member that hears no time message is not aligned (R26, R401). -/
theorem tmbStatus_unaligned {s : State} (hf : s.dom.dstate = 2) (hm : s.dom.master = false) (hmsg : s.time.msgOk = false) :
    (tmbStatus s).testBit 2 = false := by
  have haligned : aligned s = false := by simp [aligned, formed, domMaster, hf, hm, hmsg]
  rw [tmbStatus, haligned]
  cases s.time.refOk <;> cases s.time.ppsSeen <;> rfl

/-- Settles O48: a member adopts the master's count at a beat boundary, messages go every 64 beats, and ALIGNED clears. -/
theorem domainTime : Obligations.DomainTime := by
  unfold Obligations.DomainTime
  refine ⟨fun s count hf ha hon => ?adopt, fun s hf hon hlt => ?message, fun s hf hm => ?timeout⟩
  case adopt =>
    rw [exec_timeMasterAdopt hf ha hon]
    generalize hu : setCount count.toNat (atBeat s) = u
    obtain ⟨hnow, hrun, hdstate, hmem, hregs, htgl, hcores, hready, hmoved⟩ := setCount_atBeat hon count.isLt hu
    refine ⟨_, beatUp (nowNat s), rfl, BitVec.eq_of_toNat_eq hnow, rfl, rfl, beatUp_mod _, le_beatUp _, beatUp_lt _, hready, hmoved,
      ?_, hmem, hregs, hcores, hrun, hdstate⟩
    rw [hnow]; exact htgl
  case message =>
    have hnext : s.time.now.toNat < (nowNat s / 65536 + 1) * 65536 ∧ (nowNat s / 65536 + 1) * 65536 ≤ s.time.now.toNat + 65536 := by
      simp only [nowNat]; omega
    have hnow := advanceTo_now_of_lt hon (Nat.le_of_lt hnext.1) (Nat.lt_of_le_of_lt hnext.2 hlt)
    rw [exec_timeMessage hf hon, advanceTo_eq]
    generalize hu : (advanceTo ((nowNat s / 65536 + 1) * 65536) s).time = u at hnow
    refine ⟨_, rfl, rfl, ?_, ?_, ?_, rfl⟩
    all_goals simp [sendDom, hnow, hnext]
  case timeout =>
    exact ⟨_, exec_timeMessageTimeout hf hm, tmbStatus_unaligned hf hm rfl, rfl, rfl⟩

/-! ### TB_REFCLK (R26) -/

/-- The log after a device event: a message that has no place in the companion window is logged as dropped (R359). -/
theorem devIrq_errLog (v : Nat) (s : State) : (devIrq v s).regs.errLog =
    (if s.regs.evEn.getLsbD v = true ∧ s.regs.irqEn = true ∧ s.link.up = true ∧ spanWin s.regs.irqAddr.toNat 0x10000 = false
      then [ErrEvent.irqDropped v] else []) ++ s.regs.errLog := by
  cases hev : s.regs.evEn.getLsbD v with
  | false => simp [devIrq, hev]
  | true =>
    cases hen : s.regs.irqEn with
    | false => simp [devIrq, sendIrq, hev, hen]
    | true =>
      cases hup : s.link.up with
      | false =>
        simp only [devIrq, sendIrq, hev, hen, hup, if_true, Bool.false_eq_true, if_false]
        split <;> simp
      | true =>
        cases hwin : spanWin s.regs.irqAddr.toNat 0x10000 with
        | false => simp [devIrq, sendIrq, writeIrq, hev, hen, hup, hwin, logErr]
        | true => simp [devIrq, sendIrq, writeIrq, hev, hen, hup, hwin, putComp, State.setComp]

/-- The state with the reference clock present and locked, or lost. -/
def withRefclk (on : Bool) (s : State) : State :=
  { s with power := { s.power with refclk := on }, time := { s.time with refOk := on } }

theorem exec_refclkLoss {s : State} (hon : s.sup.dstate ≠ .off) (hok : s.time.refOk = true) :
    exec .refclkLoss s = .next (refreshAlert (devIrq 2 (logErr .refclkLost (withRefclk false s)))) := by
  simp [exec, execRefclkLoss, withRefclk, hon, hok]

theorem exec_refclkRestore {s : State} (hon : s.sup.dstate ≠ .off) (hok : s.time.refOk = false) (hbad : s.power.badRelease = false)
    (hreset : s.power.resetN = true) : exec .refclkRestore s = .next (refreshAlert (devIrq 2 (withRefclk true s))) := by
  simp [exec, execRefclkRestore, withRefclk, hon, hok, hbad, hreset]

/-- What SB_ALERT_N follows and an event's message leave of a state. -/
theorem refreshAlert_devIrq (v : Nat) (s : State) : ∃ m i l a b, refreshAlert (devIrq v s) =
    { s with mem := { s.mem with comp := m }, queues := { s.queues with irqHeld := i }, regs := { s.regs with errLog := l }
             power := { s.power with alert := a, status := b } } := by
  obtain ⟨m, i, l, h⟩ := devIrq_spec v s
  exact ⟨m, i, l, _, _, by rw [h]; rfl⟩

theorem tmbStatus_refOk (s : State) : (tmbStatus s).testBit 0 = s.time.refOk := by
  unfold tmbStatus
  cases s.time.refOk <;> cases s.time.ppsSeen <;> cases aligned s <;> rfl

/-! ### TB_PPS (R457) -/

/-- A part that follows TB_PPS, at an edge (R457): PPS_EN is set, and no other part of a domain leads its time. -/
def followsPps (s : State) : Prop := s.time.ppsEn = true ∧ (formed s && !domMaster s) = false

/-- What an edge that is not the first differs from a whole number of seconds after the base (R457). -/
def ppsOff (c0 n : Nat) : Int := (c0 : Int) + 1000000000 * (secondsNear (n - c0) : Int) - (n : Int)

theorem alignPps_first {s : State} (hf : followsPps s) (hb : s.time.ppsBase = none) :
    alignPps s = { s with time := { s.time with ppsBase := some (nowNat s) } } := by
  simp [alignPps, hf.1, hf.2, hb]

theorem alignPps_near {s : State} {c0 : Nat} (hf : followsPps s) (hb : s.time.ppsBase = some c0)
    (hlo : -1000000 ≤ ppsOff c0 (nowNat s)) (hhi : ppsOff c0 (nowNat s) ≤ 1000000) :
    alignPps s = { s with time := { s.time with slew := ppsOff c0 (nowNat s) } } := by
  have hno : ¬ (1000000 < ppsOff c0 (nowNat s) ∨ ppsOff c0 (nowNat s) < -1000000) := by omega
  simp only [alignPps, hf.1, hf.2, hb]
  exact if_neg hno

theorem alignPps_far {s : State} {c0 : Nat} (hf : followsPps s) (hb : s.time.ppsBase = some c0)
    (hfar : ppsOff c0 (nowNat s) < -1000000 ∨ 1000000 < ppsOff c0 (nowNat s)) : alignPps s = logErr .ppsIgnored s := by
  simp only [alignPps, hf.1, hf.2, hb]
  exact if_pos hfar.symm

/-- The base of R457 stays once it is recorded. -/
theorem alignPps_base {s : State} {c0 : Nat} (hb : s.time.ppsBase = some c0) : (alignPps s).time.ppsBase = s.time.ppsBase := by
  simp only [alignPps, hb]
  split
  · exact hb
  · split
    · exact hb
    · rfl

/-- The state in which an edge `dt` ticks on is seen. -/
def atEdge (dt : Nat) (s : State) : State :=
  { advanceTo (nowNat s + dt) s with time := { (advanceTo (nowNat s + dt) s).time with ppsSeen := true } }

theorem exec_ppsEdge {s : State} (dt : Nat) (hon : s.sup.dstate ≠ .off) :
    exec (.ppsEdge dt) s = .next (alignPps (atEdge dt s)) := congrArg Outcome.next (if_neg hon)

/-- What an edge can do besides being seen: the base is recorded, the slew is set, or the edge is logged. -/
theorem alignPps_frame (s : State) : (alignPps s).time.now = s.time.now ∧ (alignPps s).time.ppsSeen = s.time.ppsSeen ∧
    (alignPps s).mem = s.mem ∧ (alignPps s).sup = s.sup ∧ (alignPps s).queues = s.queues := by
  unfold alignPps
  dsimp only
  repeat' split
  all_goals exact ⟨rfl, rfl, rfl, rfl, rfl⟩

theorem atEdge_followsPps {s : State} (dt : Nat) (hen : s.time.ppsEn = true) (hfree : (formed s && !domMaster s) = false) :
    followsPps (atEdge dt s) :=
  ⟨by simpa [atEdge] using hen, by simpa [atEdge, formed, domMaster] using hfree⟩

/-- Settles O28: TB_REFCLK is lost and returns, and TB_PPS is followed by `alignPps`. -/
theorem timeReferences : Obligations.TimeReferences := by
  unfold Obligations.TimeReferences
  refine ⟨⟨fun s hon hok => ?loss, fun s hon hok hbad hreset => ?restore⟩,
    fun s dt hon hen hfree hlt => ?edge, fun s => rfl⟩
  case loss =>
    have hlog := devIrq_errLog 2 (logErr .refclkLost (withRefclk false s))
    obtain ⟨m, i, l, a, b, h⟩ := refreshAlert_devIrq 2 (logErr .refclkLost (withRefclk false s))
    refine ⟨_, exec_refclkLoss hon hok, by rw [h]; rfl, by rw [h]; rfl, hlog, by rw [h]; exact tmbStatus_refOk _, ?_⟩
    rw [h]
    exact ⟨rfl, rfl, rfl, rfl, rfl, rfl⟩
  case restore =>
    obtain ⟨m, i, l, a, b, h⟩ := refreshAlert_devIrq 2 (withRefclk true s)
    refine ⟨_, exec_refclkRestore hon hok hbad hreset, ?_⟩
    rw [h]
    exact ⟨rfl, rfl, tmbStatus_refOk _, rfl, rfl, rfl, rfl, rfl, rfl⟩
  case edge =>
    have hf := atEdge_followsPps dt hen hfree
    have hnow : nowNat (atEdge dt s) = s.time.now.toNat + dt := advanceTo_now_of_lt hon (Nat.le_add_right _ _) hlt
    have hregs : (atEdge dt s).regs = s.regs := by simp [atEdge]
    have hbase : (atEdge dt s).time.ppsBase = s.time.ppsBase := by simp [atEdge]
    obtain ⟨hcount, hseen, hmem, hsup, hqueues⟩ := alignPps_frame (atEdge dt s)
    refine ⟨_, exec_ppsEdge dt hon, by rw [hcount]; exact hnow, by rw [hseen]; rfl, by rw [hmem]; simp [atEdge],
      by rw [hsup]; simp [atEdge], by rw [hqueues]; simp [atEdge], fun hnone => ?_, fun c0 hsome => ?_⟩
    · rw [alignPps_first hf (hbase.trans hnone), hnow]
      exact ⟨rfl, hregs⟩
    · have hb := hbase.trans hsome
      refine ⟨?_, fun hlo hhi => ?_, fun hfar => ?_⟩
      · rw [alignPps_base hb, hb]
      · rw [alignPps_near hf hb (by rwa [hnow]) (by rwa [hnow]), hnow]
        exact ⟨rfl, hregs⟩
      · rw [alignPps_far hf hb (by rwa [hnow])]
        refine ⟨by rw [← hregs]; rfl, ?_⟩
        exact advanceTo_slew hon (Nat.le_add_right _ _)

end Sys2Proof.Machine
end

section
/-!
PROOFS. The address map of the Borug memory (R35), the registers after reset, and the companion's accesses to the register window
(R39, R283, R357).
-/
namespace Sys2Proof.Machine
open Host

/-! ### Stack and byte of a Borug address (R35) -/

/-- A Borug address by its quadrant, the 16 KiB group there, the stack in the group and the byte of its block. -/
theorem borug_parts (a : Nat) :
    a = quadOf a * 0x006000000000 + ((a - quadOf a * 0x006000000000) / 16384 * 16384 +
      (a - quadOf a * 0x006000000000) / 2048 % 8 * 2048 + (a - quadOf a * 0x006000000000) % 2048) := by
  simp only [quadOf]
  omega

theorem stackOf_eq (a : Nat) : stackOf a = 8 * quadOf a + (a - quadOf a * 0x006000000000) / 2048 % 8 := by
  simp [stackOf, Nat.shiftRight_eq_div_pow]

theorem stackByte_eq (a : Nat) :
    stackByte a = (a - quadOf a * 0x006000000000) / 16384 * 2048 + (a - quadOf a * 0x006000000000) % 2048 := by
  simp [stackByte, Nat.shiftRight_eq_div_pow, Nat.shiftLeft_eq]

/-- A field above a field of `n` bits is joined to it by an or as by a sum. -/
theorem shiftLeft_or_and_mask (v x n : Nat) : (v <<< n ||| (x &&& (2 ^ n - 1))) = v <<< n + x % 2 ^ n := by
  rw [Nat.and_two_pow_sub_one_eq_mod, Nat.shiftLeft_add_eq_or_of_lt (Nat.mod_lt _ (Nat.two_pow_pos n))]

theorem stackOf_and (a : Nat) : stackOf a = 8 * quadOf a + (((a - quadOf a * 0x006000000000) >>> 11) &&& 7) := by
  rw [show (7 : Nat) = 2 ^ 3 - 1 from rfl, Nat.and_two_pow_sub_one_eq_mod]
  rfl

theorem stackByte_or (a : Nat) : stackByte a =
    (((a - quadOf a * 0x006000000000) >>> 14) <<< 11 ||| ((a - quadOf a * 0x006000000000) &&& 0x7FF)) :=
  (shiftLeft_or_and_mask _ _ 11).symm

/-- Stack and byte name the address. -/
theorem borug_inj {a b : Nat} (hs : stackOf b = stackOf a) (hb : stackByte b = stackByte a) : b = a := by
  rw [stackOf_eq, stackOf_eq] at hs
  rw [stackByte_eq, stackByte_eq] at hb
  have hquad : quadOf b = quadOf a := by omega
  have hpa := borug_parts a
  have hpb := borug_parts b
  rw [hquad] at hs hb hpb
  omega

/-- Settles O57: the fields of `stackOf` and `stackByte`, which give the address back. -/
theorem borugAddresses : Obligations.BorugAddresses := by
  unfold Obligations.BorugAddresses
  intro a ha
  have hquad : quadOf a < 4 := by simp only [quadOf]; omega
  exact ⟨rfl, hquad, stackOf_and a, stackByte_or a, fun b _ => borug_inj⟩

/-! ### Reset -/

theorem powerOk_reset : PowerOk State.reset := by
  simp [PowerOk, State.reset]

/-- Settles O4: the registers of `State.reset` word by word, and its legality. -/
theorem resetState : Obligations.ResetState := by
  unfold Obligations.ResetState
  refine ⟨⟨?words, ?dies⟩, rfl, powerOk_reset, rfl, rfl⟩
  case words =>
    refine (Prod.forall (p := fun x => x ∈ _ → regRead State.reset x.1 = some x.2)).1 ?_
    decide +kernel
  case dies => decide +kernel

/-! ### Register writes (R39, R357) -/

/-- What a write of a word at an address leaves, where the companion reaches the part. -/
def afterWrite (v : Word) (s : State) (a : Nat) : State :=
  if (regRead s a).isNone || a == 0x0F0000010000 then logAccess true a s else writeReg a v s

theorem exec_registerWrite {s : State} {a : Nat} (v : Word) (hr : reachable s = true) (ha : a < 2 ^ 48) :
    exec (.registerWrite (BitVec.ofNat 48 a) v) s = .next (afterWrite v s a) := by
  have hto : (BitVec.ofNat 48 a).toNat = a := by rw [BitVec.toNat_ofNat, Nat.mod_eq_of_lt ha]
  simp only [exec, execRegisterWrite, hto, hr]
  rfl

theorem afterWrite_reserved {s : State} {a : Nat} (v : Word) (h : regRead s a = none) : afterWrite v s a = logAccess true a s := by
  simp [afterWrite, h]

/-- A write to a register goes to that register alone. -/
theorem afterWrite_register {s : State} {a x : Nat} (v : Word) (h : regRead s a = some x) (ha : a ≠ 0x0F0000010000) :
    afterWrite v s a = writeReg a v s := if_neg (by simp [h, ha])

theorem writeDom_spec (a : Nat) (v : Word) (s : State) : ∃ r, writeDom a v s = { s with regs := r } := by
  unfold writeDom
  repeat' split
  all_goals exact ⟨_, rfl⟩

/-- What a register write can change: registers, and the words of a load. -/
theorem writeReg_spec (a : Nat) (v : Word) (s : State) : ∃ r lo hi,
    writeReg a v s = { s with regs := r, time := { s.time with loadLo := lo, loadHi := hi } } := by
  unfold writeReg
  split
  case h_6 | h_7 =>
    obtain ⟨r, h⟩ := writeDom_spec _ v s
    exact ⟨r, _, _, h⟩
  all_goals exact ⟨_, _, _, rfl⟩

theorem afterWrite_spec (v : Word) (s : State) (a : Nat) : ∃ r lo hi,
    afterWrite v s a = { s with regs := r, time := { s.time with loadLo := lo, loadHi := hi } } := by
  unfold afterWrite
  split
  · exact ⟨_, _, _, rfl⟩
  · exact writeReg_spec a v s

/-! Halves and fields as they read back. -/

theorem halfWrite_low (a : BitVec 48) (v : Word) {n : Nat} :
    (halfWrite a false v n).toNat % 2 ^ 32 = v.toNat / 2 ^ n * 2 ^ n := by
  have ha := a.isLt
  have hv : v.toNat / 2 ^ n * 2 ^ n < 2 ^ 32 := Nat.lt_of_le_of_lt (Nat.div_mul_le_self _ _) v.isLt
  simp only [halfWrite, Bool.false_eq_true, if_false, BitVec.toNat_ofNat]
  omega

theorem halfWrite_high (a : BitVec 48) (v : Word) (n : Nat) : (halfWrite a true v n).toNat / 2 ^ 32 = v.toNat % 2 ^ 16 := by
  simp only [halfWrite, if_true, BitVec.toNat_ofNat]
  omega

theorem bit_zero (n : Nat) : ofBool (bit n 0) = n % 2 := by
  rcases Nat.mod_two_eq_zero_or_one n with h | h <;> simp [bit, ofBool, Nat.testBit_zero, h]

theorem irqCfg_stored (v : Word) : ofBool (bit v.toNat 0) + 2 * (BitVec.ofNat 7 (v.toNat / 2)).toNat = v.toNat % 2 ^ 8 := by
  rw [bit_zero, BitVec.toNat_ofNat]
  omega

theorem emcia_low (old : Nat) (v : Word) :
    (BitVec.ofNat 64 (old / 2 ^ 32 * 2 ^ 32 + v.toNat / 4096 * 4096)).toNat % 2 ^ 32 = v.toNat / 2 ^ 12 * 2 ^ 12 := by
  have hv := v.isLt
  rw [BitVec.toNat_ofNat]
  omega

theorem emcia_high (old : Nat) (v : Word) :
    (BitVec.ofNat 64 (old % 2 ^ 32 + v.toNat * 2 ^ 32)).toNat / 2 ^ 32 = v.toNat := by
  have hv := v.isLt
  rw [BitVec.toNat_ofNat]
  omega

theorem medCfg_stored (v : Word) : (v &&& 0x3FF).toNat = v.toNat % 2 ^ 10 := by
  rw [BitVec.toNat_and]
  exact Nat.and_two_pow_sub_one_eq_mod _ 10

theorem clampTo_le {n lo hi : Nat} (h : lo ≤ hi) : clampTo n lo hi ≤ hi :=
  Nat.max_le.2 ⟨h, Nat.min_le_right _ _⟩

theorem memCfgStored_toNat (v : Word) : (memCfgStored v).toNat = max 20 (min (v.toNat % 2 ^ 11) 2000) +
    max 15 (min (v.toNat / 2 ^ 16 % 2 ^ 8) 240) * 2 ^ 16 + max 1 (min (v.toNat / 2 ^ 24) 100) * 2 ^ 24 := by
  have hv := v.isLt
  have htop : v.toNat / 2 ^ 24 % 2 ^ 8 = v.toNat / 2 ^ 24 := Nat.mod_eq_of_lt (by omega)
  have hlow := clampTo_le (n := v.toNat % 2 ^ 11) (lo := 20) (hi := 2000) (by decide)
  have hmid := clampTo_le (n := v.toNat / 2 ^ 16 % 2 ^ 8) (lo := 15) (hi := 240) (by decide)
  have hhigh := clampTo_le (n := v.toNat / 2 ^ 24) (lo := 1) (hi := 100) (by decide)
  simp only [memCfgStored, fld, BitVec.toNat_ofNat, Nat.shiftRight_eq_div_pow, Nat.shiftLeft_eq]
  rw [show 31 + 1 - 24 = 8 from rfl, htop, Nat.pow_zero, Nat.div_one]
  refine Nat.mod_eq_of_lt ?_
  show clampTo (v.toNat % 2 ^ 11) 20 2000 + clampTo (v.toNat / 2 ^ 16 % 2 ^ 8) 15 240 * 2 ^ 16 +
    clampTo (v.toNat / 2 ^ 24) 1 100 * 2 ^ 24 < 2 ^ 32
  generalize clampTo (v.toNat % 2 ^ 11) 20 2000 = low at *
  generalize clampTo (v.toNat / 2 ^ 16 % 2 ^ 8) 15 240 = mid at *
  generalize clampTo (v.toNat / 2 ^ 24) 1 100 = high at *
  omega

theorem colCfg_stored (v : Word) :
    (BitVec.ofNat 16 (clampTo (v.toNat % 65536) 1 60000)).toNat = max 1 (min (v.toNat % 2 ^ 16) 60000) := by
  rw [BitVec.toNat_ofNat, clampTo]
  omega

/-! Each writable register: what a read answers, and the write that reaches it. -/

theorem regRead_irqLo (s : State) : regRead s 0x0F0000000050 = some (s.regs.irqAddr.toNat % 2 ^ 32) := rfl
theorem regRead_irqHi (s : State) : regRead s 0x0F0000000054 = some (s.regs.irqAddr.toNat / 2 ^ 32) := rfl
theorem regRead_irqCfg (s : State) : regRead s 0x0F0000000058 = some (ofBool s.regs.irqEn + 2 * s.regs.evEn.toNat) := rfl
theorem regRead_emciaLo (s : State) : regRead s 0x0F0000000040 = some (s.regs.emciaSet.toNat % 2 ^ 32) := rfl
theorem regRead_emciaHi (s : State) : regRead s 0x0F0000000044 = some (s.regs.emciaSet.toNat / 2 ^ 32) := rfl
theorem regRead_domCfg (s : State) : regRead s 0x0F0000000100 = some (s.regs.domCfg.toNat) := rfl
theorem regRead_domId (s : State) : regRead s 0x0F0000000104 = some (s.regs.domId.toNat) := rfl
theorem regRead_loadLo (s : State) : regRead s 0x0F0000030008 = some (s.time.loadLo.toNat) := rfl
theorem regRead_loadHi (s : State) : regRead s 0x0F000003000C = some (s.time.loadHi.toNat) := rfl
theorem regRead_medCfg (s : State) : regRead s 0x0F0000040000 = some (s.regs.medSet.toNat) := rfl
theorem regRead_errCfg (s : State) : regRead s 0x0F0000050200 = some (s.regs.errSet.toNat) := rfl
theorem regRead_colCfg (s : State) : regRead s 0x0F0000050300 = some (s.regs.colSet.toNat) := rfl

theorem afterWrite_irqLo (v : Word) (s : State) : afterWrite v s 0x0F0000000050 = setRegs s { s.regs with irqAddr := halfWrite s.regs.irqAddr false v 16 } :=
  afterWrite_register v (regRead_irqLo s) (by decide)
theorem afterWrite_irqHi (v : Word) (s : State) : afterWrite v s 0x0F0000000054 = setRegs s { s.regs with irqAddr := halfWrite s.regs.irqAddr true v 0 } :=
  afterWrite_register v (regRead_irqHi s) (by decide)
theorem afterWrite_irqCfg (v : Word) (s : State) : afterWrite v s 0x0F0000000058 = setRegs s { s.regs with irqEn := bit v.toNat 0, evEn := BitVec.ofNat 7 (v.toNat / 2) } :=
  afterWrite_register v (regRead_irqCfg s) (by decide)
theorem afterWrite_emciaLo (v : Word) (s : State) : afterWrite v s 0x0F0000000040 = writeEmcia false v s :=
  afterWrite_register v (regRead_emciaLo s) (by decide)
theorem afterWrite_emciaHi (v : Word) (s : State) : afterWrite v s 0x0F0000000044 = writeEmcia true v s :=
  afterWrite_register v (regRead_emciaHi s) (by decide)
theorem afterWrite_domCfg (v : Word) (s : State) : afterWrite v s 0x0F0000000100 = writeDom 0x0F0000000100 v s :=
  afterWrite_register v (regRead_domCfg s) (by decide)
theorem afterWrite_domId (v : Word) (s : State) : afterWrite v s 0x0F0000000104 = writeDom 0x0F0000000104 v s :=
  afterWrite_register v (regRead_domId s) (by decide)
theorem afterWrite_loadLo (v : Word) (s : State) : afterWrite v s 0x0F0000030008 = { s with time := { s.time with loadLo := BitVec.ofNat 32 (v.toNat / 1024 * 1024) } } :=
  afterWrite_register v (regRead_loadLo s) (by decide)
theorem afterWrite_loadHi (v : Word) (s : State) : afterWrite v s 0x0F000003000C = { s with time := { s.time with loadHi := v } } :=
  afterWrite_register v (regRead_loadHi s) (by decide)
theorem afterWrite_medCfg (v : Word) (s : State) : afterWrite v s 0x0F0000040000 = writeMedCfg v s :=
  afterWrite_register v (regRead_medCfg s) (by decide)
theorem afterWrite_errCfg (v : Word) (s : State) : afterWrite v s 0x0F0000050200 = writeErrCfg v s :=
  afterWrite_register v (regRead_errCfg s) (by decide)
theorem afterWrite_colCfg (v : Word) (s : State) : afterWrite v s 0x0F0000050300 = writeColCfg v s :=
  afterWrite_register v (regRead_colCfg s) (by decide)

/-- A write of the domain's configuration at rest, while no formation is in progress (R397). -/
theorem writeDom_cfg {s : State} (v : Word) (hrest : atRest s = true) (hform : s.dom.dstate ≠ 1) :
    writeDom 0x0F0000000100 v s = setRegs s { s.regs with domCfg := BitVec.ofNat 22 v.toNat } := by
  simp [writeDom, hrest, hform]

theorem writeDom_id {s : State} (v : Word) (hrest : atRest s = true) (hform : s.dom.dstate ≠ 1) :
    writeDom 0x0F0000000104 v s = setRegs s { s.regs with domId := v } := by
  simp [writeDom, hrest, hform]

theorem writeEmcia_low (v : Word) (s : State) : (writeEmcia false v s).regs.emciaSet.toNat % 2 ^ 32 = v.toNat / 2 ^ 12 * 2 ^ 12 :=
  emcia_low s.regs.emciaSet.toNat v

theorem writeEmcia_high (v : Word) (s : State) : (writeEmcia true v s).regs.emciaSet.toNat / 2 ^ 32 = v.toNat :=
  emcia_high s.regs.emciaSet.toNat v

theorem loadLo_stored (v : Word) : (BitVec.ofNat 32 (v.toNat / 1024 * 1024)).toNat = v.toNat / 2 ^ 10 * 2 ^ 10 := by
  have hv := v.isLt
  rw [BitVec.toNat_ofNat]
  omega

/-- Settles O29: register by register, what `afterWrite` stores and a read answers; its frame; a reserved address. -/
theorem registerWrites : Obligations.RegisterWrites := by
  unfold Obligations.RegisterWrites
  intro s v hr
  refine ⟨afterWrite v s, fun a ha => exec_registerWrite v hr ha, ?_, ?_, ?_, ?_, ?_, fun hrest hform => ⟨?_, ?_⟩, ?_, ?_, ?_, ?_,
    ?_, fun a _ => ?_, fun a _ hnone => ?_⟩
  · rw [afterWrite_irqLo, regRead_irqLo]
    exact congrArg some (halfWrite_low _ v)
  · rw [afterWrite_irqHi, regRead_irqHi]
    exact congrArg some (halfWrite_high _ v 0)
  · rw [afterWrite_irqCfg, regRead_irqCfg]
    exact congrArg some (irqCfg_stored v)
  · rw [afterWrite_emciaLo, regRead_emciaLo, writeEmcia_low]
  · rw [afterWrite_emciaHi, regRead_emciaHi, writeEmcia_high]
  · rw [afterWrite_domCfg, writeDom_cfg v hrest hform, regRead_domCfg]
    exact congrArg some (BitVec.toNat_ofNat _ _)
  · rw [afterWrite_domId, writeDom_id v hrest hform, regRead_domId]
    rfl
  · rw [afterWrite_loadLo, regRead_loadLo]
    exact congrArg some (loadLo_stored v)
  · rw [afterWrite_loadHi, regRead_loadHi]
  · rw [afterWrite_medCfg, regRead_medCfg]
    exact congrArg some (medCfg_stored v)
  · rw [afterWrite_errCfg, regRead_errCfg]
    exact congrArg some (memCfgStored_toNat v)
  · rw [afterWrite_colCfg, regRead_colCfg]
    exact congrArg some (colCfg_stored v)
  · obtain ⟨r, lo, hi, h⟩ := afterWrite_spec v s a
    rw [h]
    exact ⟨rfl, rfl, rfl, rfl, rfl, rfl, rfl, rfl⟩
  · rw [afterWrite_reserved v hnone]
    exact ⟨rfl, rfl⟩

/-! ### Counters cleared by ones (R283, R357, R395, R413, R424) -/

theorem exec_counterClearWrite {s : State} {a : Nat} (v : Word) (hr : reachable s = true) (ha : a < 2 ^ 48) :
    exec (.counterClearWrite (BitVec.ofNat 48 a) v) s = .next (clearCounter a v s) := by
  have hto : (BitVec.ofNat 48 a).toNat = a := by rw [BitVec.toNat_ofNat, Nat.mod_eq_of_lt ha]
  simp only [exec, execCounterClearWrite, hto, hr]
  rfl

/-- The addresses of the counters that are cleared by ones. -/
def counterAddrs : List Nat :=
  [0x0F0000000218, 0x0F0000010020, 0x0F0000020014, 0x0F0000020018, 0x0F0000050210, 0x0F0000050214, 0x0F0000050304, 0x0F0000050308]

theorem counterAddrs_lt : ∀ a ∈ counterAddrs, a < 2 ^ 48 := by decide

/-- A word counter answers what it holds without the ones written. -/
theorem clearOnes_read (x v : Word) : (clearOnes x v).toNat = (BitVec.ofNat 32 x.toNat &&& ~~~v).toNat := by
  rw [BitVec.ofNat_toNat, BitVec.setWidth_eq]
  rfl

/-- The number of two joined halves. -/
theorem toNat_halves (hi lo : BitVec 16) : (hi ++ lo).toNat = lo.toNat + hi.toNat <<< 16 := by
  rw [BitVec.toNat_append, ← Nat.shiftLeft_add_eq_or_of_lt lo.isLt, Nat.add_comm]

theorem word_of_halves (hi lo : BitVec 16) : BitVec.ofNat 32 (lo.toNat + hi.toNat <<< 16) = hi ++ lo := by
  rw [← toNat_halves]
  exact BitVec.ofNat_toNat 32 (hi ++ lo)

theorem word_halves (v : Word) : v = BitVec.ofNat 16 (v.toNat / 65536) ++ BitVec.ofNat 16 v.toNat := by
  have hv := v.isLt
  apply BitVec.eq_of_toNat_eq
  rw [toNat_halves, BitVec.toNat_ofNat, BitVec.toNat_ofNat, Nat.shiftLeft_eq]
  omega

/-- Two counters of 16 bits in one word, as ERR_MEM_UNCORR has them, are cleared half by half (R283). -/
theorem clearOnes_halves (lo hi : BitVec 16) (v : Word) :
    (clearOnes lo (BitVec.ofNat 16 v.toNat)).toNat + (clearOnes hi (BitVec.ofNat 16 (v.toNat / 65536))).toNat <<< 16 =
      (BitVec.ofNat 32 (lo.toNat + hi.toNat <<< 16) &&& ~~~v).toNat := by
  have hjoin : (hi ++ lo) &&& ~~~v =
      clearOnes hi (BitVec.ofNat 16 (v.toNat / 65536)) ++ clearOnes lo (BitVec.ofNat 16 v.toNat) := by
    conv_lhs => rw [word_halves v, BitVec.not_append, BitVec.and_append]
    rfl
  rw [word_of_halves, ← toNat_halves, ← hjoin]

/-! Each counter: what a read answers, and what a clear of it leaves. -/

theorem regRead_hbMiss (s : State) : regRead s 0x0F0000000218 = some (s.sup.hbMiss.toNat) := rfl
theorem regRead_badDb (s : State) : regRead s 0x0F0000010020 = some (s.regs.badDb.toNat) := rfl
theorem regRead_brakes (s : State) : regRead s 0x0F0000020014 = some (s.tgl.brakes.toNat) := rfl
theorem regRead_holds (s : State) : regRead s 0x0F0000020018 = some (s.tgl.holds.toNat) := rfl
theorem regRead_corr (s : State) : regRead s 0x0F0000050210 = some (s.regs.corr.toNat) := rfl
theorem regRead_uncorr (s : State) : regRead s 0x0F0000050214 = some (s.regs.uncorr.toNat + s.regs.timeouts.toNat <<< 16) := rfl
theorem regRead_slips (s : State) : regRead s 0x0F0000050304 = some (s.regs.slips.toNat) := rfl
theorem regRead_slipMax (s : State) : regRead s 0x0F0000050308 = some (s.regs.slipMax.toNat) := rfl

theorem clearCounter_hbMiss (v : Word) (s : State) :
    clearCounter 0x0F0000000218 v s = { s with sup := { s.sup with hbMiss := clearOnes s.sup.hbMiss v } } := rfl
theorem clearCounter_badDb (v : Word) (s : State) :
    clearCounter 0x0F0000010020 v s = setRegs s { s.regs with badDb := clearOnes s.regs.badDb v } := rfl
theorem clearCounter_brakes (v : Word) (s : State) :
    clearCounter 0x0F0000020014 v s = { s with tgl := { s.tgl with brakes := clearOnes s.tgl.brakes v } } := rfl
theorem clearCounter_holds (v : Word) (s : State) :
    clearCounter 0x0F0000020018 v s = { s with tgl := { s.tgl with holds := clearOnes s.tgl.holds v } } := rfl
theorem clearCounter_corr (v : Word) (s : State) :
    clearCounter 0x0F0000050210 v s = setRegs s { s.regs with corr := clearOnes s.regs.corr v } := rfl
theorem clearCounter_uncorr (v : Word) (s : State) :
    clearCounter 0x0F0000050214 v s = setRegs s { s.regs with
      uncorr := clearOnes s.regs.uncorr (BitVec.ofNat 16 v.toNat)
      timeouts := clearOnes s.regs.timeouts (BitVec.ofNat 16 (v.toNat / 65536)) } := rfl
theorem clearCounter_slips (v : Word) (s : State) :
    clearCounter 0x0F0000050304 v s = setRegs s { s.regs with slips := clearOnes s.regs.slips v } := rfl
theorem clearCounter_slipMax (v : Word) (s : State) :
    clearCounter 0x0F0000050308 v s = setRegs s { s.regs with slipMax := clearOnes s.regs.slipMax v } := rfl

/-- Clearing leaves every other counter. -/
theorem clearCounter_other {a b : Nat} (v : Word) (s : State) (ha : a ∈ counterAddrs) (hb : b ∈ counterAddrs) :
    b ≠ a → regRead (clearCounter a v s) b = regRead s b := by
  simp only [counterAddrs, List.mem_cons, List.not_mem_nil, or_false] at ha hb
  rcases ha with rfl | rfl | rfl | rfl | rfl | rfl | rfl | rfl
  all_goals
    rcases hb with rfl | rfl | rfl | rfl | rfl | rfl | rfl | rfl
    all_goals
      simp only [ne_eq, not_true_eq_false, false_implies, implies_true, setRegs, clearCounter_hbMiss, clearCounter_badDb, clearCounter_brakes, clearCounter_holds, clearCounter_corr, clearCounter_uncorr, clearCounter_slips, clearCounter_slipMax,
        regRead_hbMiss, regRead_badDb, regRead_brakes, regRead_holds, regRead_corr, regRead_uncorr, regRead_slips, regRead_slipMax]

/-- All that a clear can change. -/
theorem clearCounter_frame (a : Nat) (v : Word) (s : State) : ∃ m b h d c u o p x, clearCounter a v s =
    { s with sup := { s.sup with hbMiss := m }, tgl := { s.tgl with brakes := b, holds := h }
             regs := { s.regs with badDb := d, corr := c, uncorr := u, timeouts := o, slips := p, slipMax := x } } := by
  unfold clearCounter
  split
  all_goals exact ⟨_, _, _, _, _, _, _, _, _, rfl⟩

/-- A counter that is cleared by ones reads back without them. -/
theorem clearCounter_read {a : Nat} (v : Word) (s : State) (ha : a ∈ counterAddrs) :
    ∃ x, regRead s a = some x ∧ regRead (clearCounter a v s) a = some ((BitVec.ofNat 32 x &&& ~~~v).toNat) := by
  simp only [counterAddrs, List.mem_cons, List.not_mem_nil, or_false] at ha
  rcases ha with rfl | rfl | rfl | rfl | rfl | rfl | rfl | rfl
  case _ => exact ⟨_, rfl, congrArg some (clearOnes_read s.sup.hbMiss v)⟩
  case _ => exact ⟨_, rfl, congrArg some (clearOnes_read s.regs.badDb v)⟩
  case _ => exact ⟨_, rfl, congrArg some (clearOnes_read s.tgl.brakes v)⟩
  case _ => exact ⟨_, rfl, congrArg some (clearOnes_read s.tgl.holds v)⟩
  case _ => exact ⟨_, rfl, congrArg some (clearOnes_read s.regs.corr v)⟩
  case _ => exact ⟨_, rfl, congrArg some (clearOnes_halves s.regs.uncorr s.regs.timeouts v)⟩
  case _ => exact ⟨_, rfl, congrArg some (clearOnes_read s.regs.slips v)⟩
  case _ => exact ⟨_, rfl, congrArg some (clearOnes_read s.regs.slipMax v)⟩

/-! ### Reserved accesses (R39, R357) -/

/-- The register window permits an access at an address by its size alone: a word, or the doorbell's 64 bits. -/
theorem not_permitted_size {s : State} {w : Bool} {a n : Nat} (h4 : n ≠ 4) (h8 : n ≠ 8 ∨ a ≠ 0x0F0000010000) :
    permitted s w a n = false := by
  by_cases ha : a = 0x0F0000010000
  · have hn : n ≠ 8 := h8.resolve_right (not_not.2 ha)
    simp [permitted, ha, h4, hn]
  · simp [permitted, ha, h4]

/-- A word at an offset without a register, or at an unaligned address. -/
theorem not_permitted_word {s : State} {w : Bool} {a : Nat} (h : regRead s a = none ∨ a % 4 ≠ 0) : permitted s w a 4 = false := by
  have ha : a ≠ 0x0F0000010000 := by
    rintro rfl
    rcases h with h | h
    · cases h
    · exact h rfl
  rcases h with h | h <;> simp [permitted, ha, h]

theorem companionAccess_refused {s : State} {w : Bool} {a n : Nat} (hwin : a / 2 ^ 40 = 0xF) (hp : permitted s w a n = false) :
    companionAccess w a n s = logAccess w a (if w then s else setResp (2 ^ (8 * n) - 1) true s) := by
  rw [companionAccess, if_pos hwin, hp]
  rfl

/-- An access whose first byte lies outside every mapped range. -/
theorem companionAccess_unmapped {s : State} {w : Bool} {a n : Nat} (hwin : a / 2 ^ 40 ≠ 0xF) (hn : 0 < n)
    (ha : reservedAt s a = true) :
    companionAccess w a n s = logAccess w a (if w then s else setResp (2 ^ (8 * n) - 1) true s) := by
  have hany : ((List.range n).any fun i => reservedAt s (a + i)) = true :=
    List.any_eq_true.2 ⟨0, List.mem_range.2 hn, ha⟩
  rw [companionAccess, if_neg hwin, if_pos hany]

theorem reservedAt_of {s : State} {a : Nat} (hb : inBorug a = false) (hk : inKs a = false) (hw : inWin a = false)
    (hr : regRead s a = none) : reservedAt s a = true := by
  simp [reservedAt, hb, hk, hw, hr]

theorem exec_companionReservedAccess {s : State} (w : Bool) (a : BitVec 48) (n : Nat) (v : DWord) (hr : reachable s = true) :
    exec (.companionReservedAccess w a n v) s = .next (companionAccess w a.toNat n s) := by
  simp only [exec, execCompanionReservedAccess, hr]
  rfl

/-! ### ERR_MEM_LAST (R283) -/

theorem exec_errMemLastLoRead {s : State} (hr : reachable s = true) : exec .errMemLastLoRead s =
    .next (setRegs s { s.regs with
      lastHi := BitVec.ofNat 32 (s.regs.lastAddr.toNat / 2 ^ 32 + s.regs.lastKind.toNat <<< 16)
      resp := some (s.regs.lastAddr.toNat % 2 ^ 32, false) }) := by
  simp only [exec, execErrMemLastLoRead, hr]
  rfl

/-- The latched word: the upper bits of the address, and the kind above them. -/
theorem lastHi_fields (a : BitVec 48) (k : BitVec 2) :
    (BitVec.ofNat 32 (a.toNat / 2 ^ 32 + k.toNat <<< 16)).toNat = a.toNat / 2 ^ 32 + k.toNat * 2 ^ 16 := by
  have ha := a.isLt
  have hk := k.isLt
  rw [BitVec.toNat_ofNat, Nat.shiftLeft_eq]
  omega

theorem lastHi_address {a h k : Nat} (ha : a < 2 ^ 48) (hh : h = a / 2 ^ 32 + k * 2 ^ 16) :
    a % 2 ^ 32 + h % 2 ^ 16 * 2 ^ 32 = a := by omega

theorem lastHi_kind {a h k : Nat} (ha : a < 2 ^ 48) (hh : h = a / 2 ^ 32 + k * 2 ^ 16) : h / 2 ^ 16 = k := by omega

/-- Settles O30: counters by `clearCounter`, reserved accesses by `companionAccess`, the latched error address. -/
theorem specialAccesses : Obligations.SpecialAccesses := by
  unfold Obligations.SpecialAccesses
  refine ⟨fun s a v hr ha => ?counters, fun s a n v hr hcase => ?reserved, fun s hr => ?last⟩
  case counters =>
    obtain ⟨x, hread, hcleared⟩ := clearCounter_read v s ha
    refine ⟨_, x, exec_counterClearWrite v hr (counterAddrs_lt a ha), hread, hcleared,
      fun b hb => clearCounter_other v s ha hb, ?_⟩
    obtain ⟨m, b, h, d, c, u, o, p, x, heq⟩ := clearCounter_frame a v s
    rw [heq]
  case reserved =>
    have hacc : ∀ w, companionAccess w a.toNat n s = logAccess w a.toNat (if w then s else setResp (2 ^ (8 * n) - 1) true s) := by
      intro w
      rcases hcase with ⟨hwin, h4, h8⟩ | ⟨hwin, rfl, hne⟩ | ⟨hwin, rfl, hreg⟩ | ⟨hwin, hn, hb, hk, hw, hreg⟩
      · exact companionAccess_refused hwin (not_permitted_size h4 (.inl h8))
      · exact companionAccess_refused hwin (not_permitted_size (by decide) (.inr fun h => hne (BitVec.eq_of_toNat_eq h)))
      · exact companionAccess_refused hwin (not_permitted_word hreg)
      · exact companionAccess_unmapped hwin hn (reservedAt_of hb hk hw hreg)
    refine ⟨?_, ?_, ?_⟩
    · rw [exec_companionReservedAccess _ _ _ _ hr, hacc]
      rfl
    · rw [exec_companionReservedAccess _ _ _ _ hr, hacc]
      rfl
    · rw [exec_companionReservedAccess _ _ _ _ hr]
      rfl
  case last =>
    have hlast := lastHi_fields s.regs.lastAddr s.regs.lastKind
    exact ⟨_, _, exec_errMemLastLoRead hr, rfl, rfl, lastHi_address s.regs.lastAddr.isLt hlast,
      lastHi_kind s.regs.lastAddr.isLt hlast, rfl⟩

end Sys2Proof.Machine
end

section
/-!
PROOFS. Rows of the Borug memory that arrive (R14, R131, R132), and the Emcia link with the interrupt messages it held (R359 to
R362).
-/
namespace Sys2Proof.Machine
open Host

/-! ### Gathered rows -/

/-- An uncorrectable read of a line that is poisoned already counts, and poisons nothing more. -/
theorem noteUncorr_mem_of_poisoned {l : Nat} {s : State} (h : poisoned s l = true) : (noteUncorr l s).mem = s.mem := by
  have hp : ∀ r : Regs, poisoned { s with regs := r } l = true := fun _ => h
  simp only [noteUncorr, poisonLine, noteLast, hp]
  rfl

theorem takeBad_mem {c : CmdRef} {row l : Nat} {s : State} (h : poisoned s l = true) :
    (takeBad c row l s).mem = { s.mem with rowBad := s.mem.rowBad ++ [(c, row, l)] } :=
  noteUncorr_mem_of_poisoned (s := { s with mem := { s.mem with rowBad := s.mem.rowBad ++ [(c, row, l)] } }) h

/-- The poisoned lines of a row are noted as bad, and memory keeps the rest (R132). -/
theorem foldl_takeBad_mem (c : CmdRef) (row : Nat) (bad : List Nat) {s : State} (h : ∀ l ∈ bad, poisoned s l = true) :
    (bad.foldl (fun t l => takeBad c row l t) s).mem = { s.mem with rowBad := s.mem.rowBad ++ bad.map fun l => (c, row, l) } := by
  induction bad generalizing s with
  | nil => simp
  | cons l r ih =>
    have hmem := takeBad_mem (c := c) (row := row) (h l List.mem_cons_self)
    have hrest : ∀ x ∈ r, poisoned (takeBad c row l s) x = true := fun x hx => by
      rw [poisoned, hmem]
      exact h x (List.mem_cons_of_mem _ hx)
    rw [List.foldl_cons, ih hrest, hmem]
    simp

/-- A held row request of command `c` and row `row`. -/
def isRow (c : CmdRef) (row : Nat) (y : RowReq) : Bool := decide (y.c = c) && decide (y.row = row)

theorem isRow_iff {c : CmdRef} {row : Nat} {y : RowReq} : isRow c row y = true ↔ y.c = c ∧ y.row = row := by
  simp [isRow]

/-- The poisoned lines that a row brings. -/
def badLines (c : CmdRef) (row : Nat) (s : State) : List Nat :=
  ((s.mem.passHeld.filter (isRow c row)).flatMap (·.lines)).filter (poisoned s)

theorem mem_badLines {c : CmdRef} {row l : Nat} {s : State} :
    l ∈ badLines c row s ↔ (∃ y ∈ s.mem.passHeld, (y.c = c ∧ y.row = row) ∧ l ∈ y.lines) ∧ poisoned s l = true := by
  simp only [badLines, List.mem_filter, List.mem_flatMap, isRow_iff, and_assoc]

/-- The state in which a row has arrived, before its lines are looked at. -/
def rowArrived (c : CmdRef) (row : Nat) (s : State) : State :=
  { s with mem := { s.mem with passHeld := s.mem.passHeld.filter (fun y => !isRow c row y), gathered := s.mem.gathered ++ [(c, row)] } }

theorem exec_gatherRowArrival {s : State} {c : CmdRef} {row : Nat} (hheld : ∃ y ∈ s.mem.passHeld, y.c = c ∧ y.row = row)
    (hwait : ∀ y ∈ s.mem.passWait, ¬ (y.c = c ∧ y.row = row)) :
    exec (.gatherRowArrival c row) s =
      .next ((badLines c row s).foldl (fun t l => takeBad c row l t) (rowArrived c row s)) := by
  obtain ⟨y, hy, hrow⟩ := hheld
  have hany : s.mem.passHeld.any (isRow c row) = true := List.any_eq_true.2 ⟨y, hy, isRow_iff.2 hrow⟩
  have hnone : s.mem.passWait.any (isRow c row) = false :=
    List.any_eq_false.2 fun y hy h => hwait y hy (isRow_iff.1 h)
  exact congrArg Outcome.next (if_pos (show (s.mem.passHeld.any (isRow c row) && !s.mem.passWait.any (isRow c row)) = true by
    rw [hany, hnone]; rfl))

/-- The oldest request that waits at a store die is the first of the list for it. -/
theorem find_waiting {pre post : List RowReq} {y : RowReq} {d : Nat} (hpre : ∀ z ∈ pre, z.die ≠ d) (hy : y.die = d) :
    (pre ++ y :: post).find? (fun r => decide (r.die = d)) = some y := by
  rw [List.find?_append, List.find?_eq_none.2 fun z hz => by simpa using hpre z hz]
  simp [hy]

theorem erase_waiting {pre post : List RowReq} {y : RowReq} {d : Nat} (hpre : ∀ z ∈ pre, z.die ≠ d) (hy : y.die = d) :
    (pre ++ y :: post).erase y = pre ++ post := by
  have hno : y ∉ pre := fun h => hpre y h hy
  rw [List.erase_append_right _ hno, List.erase_cons_head]

theorem exec_passThroughGrant {s : State} {d : Fin 4} {pre post : List RowReq} {y : RowReq} (hw : s.mem.passWait = pre ++ y :: post)
    (hpre : ∀ z ∈ pre, z.die ≠ d.val) (hy : y.die = d.val) (hfree : y.lines.length ≤ passFree s d.val) :
    exec (.passThroughGrant d) s =
      .next { s with mem := { s.mem with passHeld := s.mem.passHeld ++ [y], passWait := pre ++ post } } := by
  simp only [exec, execPassThroughGrant, hw, find_waiting hpre hy, hfree, if_true, erase_waiting hpre hy]

/-! ### The slots of interrupt messages (R359) -/

/-- Where the message of a vector stands in companion memory, and its bytes. -/
def irqSlot (s : State) (v : Nat) : Nat := compAddr s (s.regs.irqAddr.toNat + 16 * v)
def irqBytes (s : State) (v q : Nat) : List Byte := leBytes 8 (v + q <<< 16) ++ leBytes 8 s.time.now.toNat

theorem leBytes_length (n v : Nat) : (leBytes n v).length = n := by
  induction n generalizing v with
  | zero => rfl
  | succ n ih => rw [leBytes, List.length_cons, ih]

theorem irqBytes_length (s : State) (v q : Nat) : (irqBytes s v q).length = 16 := by
  rw [irqBytes, List.length_append, leBytes_length, leBytes_length]

theorem spanWin_bounds {a n : Nat} (h : spanWin a n = true) : winBase ≤ a ∧ a + n - 1 < 0x080000000000 := by
  simp only [spanWin, inWin, Bool.and_eq_true, decide_eq_true_eq] at h
  exact ⟨h.1.1, h.2.2⟩

/-- Slots of 16 bytes, 4,096 of them, lie apart, also where companion addresses wrap. -/
theorem slots_apart {b v w : Nat} (hv : v < 4096) (hw : w < 4096) (hne : v ≠ w) :
    (b + 16 * v) % 2 ^ 64 + 16 ≤ (b + 16 * w) % 2 ^ 64 ∨ (b + 16 * w) % 2 ^ 64 + 16 ≤ (b + 16 * v) % 2 ^ 64 := by
  omega

theorem irqSlot_apart {s : State} {v w : Nat} (hwin : spanWin s.regs.irqAddr.toNat 0x10000 = true) (hv : v < 4096) (hw : w < 4096)
    (hne : v ≠ w) : irqSlot s v + 16 ≤ irqSlot s w ∨ irqSlot s w + 16 ≤ irqSlot s v := by
  have hlo := (spanWin_bounds hwin).1
  have hslot : ∀ n, irqSlot s n = (s.regs.irqAddr.toNat - winBase + s.regs.emcia.toNat + 16 * n) % 2 ^ 64 := fun n => by
    rw [irqSlot, compAddr, Nat.sub_add_comm hlo, Nat.add_right_comm]
  rw [hslot, hslot]
  exact slots_apart hv hw hne

/-! ### Messages over a link that is up -/

theorem sendIrq_disabled {s : State} (v q : Nat) (h : s.regs.irqEn = false) : sendIrq v q s = s := by
  simp [sendIrq, h]

/-- A message goes to its slot (R359). -/
theorem sendIrq_slot {s : State} (v q : Nat) (hen : s.regs.irqEn = true) (hup : s.link.up = true)
    (hwin : spanWin s.regs.irqAddr.toNat 0x10000 = true) : sendIrq v q s = putComp (irqSlot s v) (irqBytes s v q) s := by
  simp only [sendIrq, hen, hup, if_true, writeIrq, hwin]
  rfl

/-- A message without a place in the companion window is logged as dropped. -/
theorem sendIrq_dropped {s : State} (v q : Nat) (hen : s.regs.irqEn = true) (hup : s.link.up = true)
    (hwin : spanWin s.regs.irqAddr.toNat 0x10000 = false) : sendIrq v q s = logErr (.irqDropped v) s := by
  simp [sendIrq, hen, hup, writeIrq, hwin]

/-- Messages sent one after the other. -/
def sendAll (l : List (Nat × Nat)) (s : State) : State := l.foldl (fun t x => sendIrq x.1 x.2 t) s

theorem sendAll_cons (x : Nat × Nat) (l : List (Nat × Nat)) (s : State) : sendAll (x :: l) s = sendAll l (sendIrq x.1 x.2 s) := rfl

theorem sendAll_append (l k : List (Nat × Nat)) (s : State) : sendAll (l ++ k) s = sendAll k (sendAll l s) := List.foldl_append ..

/-- All that messages change while the link is up. -/
theorem sendAll_spec (l : List (Nat × Nat)) {s : State} (hup : s.link.up = true) : ∃ m e, sendAll l s =
    { s with mem := { s.mem with comp := m }, regs := { s.regs with errLog := e } } := by
  induction l generalizing s with
  | nil => exact ⟨_, _, rfl⟩
  | cons x r ih =>
    have hone : ∃ m e, sendIrq x.1 x.2 s = { s with mem := { s.mem with comp := m }, regs := { s.regs with errLog := e } } := by
      cases hen : s.regs.irqEn with
      | false => exact ⟨_, _, sendIrq_disabled _ _ hen⟩
      | true =>
        cases hwin : spanWin s.regs.irqAddr.toNat 0x10000 with
        | false => exact ⟨_, _, sendIrq_dropped _ _ hen hup hwin⟩
        | true => exact ⟨_, _, sendIrq_slot _ _ hen hup hwin⟩
    obtain ⟨m, e, h⟩ := hone
    obtain ⟨m', e', h'⟩ := ih (s := sendIrq x.1 x.2 s) (by rw [h]; exact hup)
    exact ⟨m', e', by rw [sendAll_cons, h', h]⟩

theorem sendAll_memOk (l : List (Nat × Nat)) {s : State} (h : s.memOk) : (sendAll l s).memOk :=
  foldl_memOk (fun _ _ ht => sendIrq_memOk _ _ ht) l h

/-- Messages reach their slots: they are enabled, the link is up, the slots lie in the companion window. -/
structure SlotsOpen (s : State) : Prop where
  en : s.regs.irqEn = true
  up : s.link.up = true
  win : spanWin s.regs.irqAddr.toNat 0x10000 = true
  ok : s.memOk

theorem SlotsOpen.sendAll {s : State} (h : SlotsOpen s) (l : List (Nat × Nat)) : SlotsOpen (sendAll l s) := by
  have hok := sendAll_memOk l h.ok
  obtain ⟨m, e, heq⟩ := sendAll_spec l h.up
  rw [heq] at hok ⊢
  exact ⟨h.en, h.up, h.win, hok⟩

/-- Slots and messages depend on registers and the count alone, which sending leaves. -/
theorem irqSlot_sendAll {s : State} (l : List (Nat × Nat)) (hup : s.link.up = true) (v : Nat) :
    irqSlot (sendAll l s) v = irqSlot s v := by
  obtain ⟨m, e, heq⟩ := sendAll_spec l hup
  rw [heq]
  rfl

theorem irqBytes_sendAll {s : State} (l : List (Nat × Nat)) (hup : s.link.up = true) (v q : Nat) :
    irqBytes (sendAll l s) v q = irqBytes s v q := by
  obtain ⟨m, e, heq⟩ := sendAll_spec l hup
  rw [heq]
  rfl

/-- The bytes at a slot. -/
def slotRead (s : State) (v : Nat) : List Byte := memRead 0 s.mem.comp (irqSlot s v) 16

/-- One message, as a list of one. -/
theorem sendAll_one (v q : Nat) (s : State) : sendAll [(v, q)] s = sendIrq v q s := rfl

theorem slotRead_sendIrq {s : State} (h : SlotsOpen s) (v w q : Nat) :
    slotRead (sendIrq w q s) v = memRead 0 (memWrite 0 s.mem.comp (irqSlot s w) (irqBytes s w q)) (irqSlot s v) 16 := by
  rw [slotRead, ← sendAll_one, irqSlot_sendAll _ h.up, sendAll_one, sendIrq_slot w q h.en h.up h.win]
  rfl

theorem slotRead_sendIrq_self {s : State} (h : SlotsOpen s) (v q : Nat) : slotRead (sendIrq v q s) v = irqBytes s v q := by
  have hread := memRead_in (a := irqSlot s v) (bs := irqBytes s v q) (memOk_iff.1 h.ok).2.1
  rw [irqBytes_length] at hread
  rw [slotRead_sendIrq h, hread]

theorem slotRead_sendIrq_other {s : State} (h : SlotsOpen s) {v w : Nat} (q : Nat) (hv : v < 4096) (hw : w < 4096) (hne : v ≠ w) :
    slotRead (sendIrq w q s) v = slotRead s v := by
  have hout := irqSlot_apart h.win hv hw hne
  rw [slotRead_sendIrq h, memRead_out (memOk_iff.1 h.ok).2.1 (by rwa [irqBytes_length])]
  rfl

/-- Messages of other vectors leave a slot. -/
theorem slotRead_sendAll_other {v : Nat} (l : List (Nat × Nat)) {s : State} (h : SlotsOpen s) (hv : v < 4096)
    (hl : ∀ x ∈ l, x.1 < 4096 ∧ v ≠ x.1) : slotRead (sendAll l s) v = slotRead s v := by
  induction l generalizing s with
  | nil => rfl
  | cons x r ih =>
    obtain ⟨hx, hne⟩ := hl x List.mem_cons_self
    have hone : SlotsOpen (sendIrq x.1 x.2 s) := h.sendAll [x]
    rw [sendAll_cons, ih hone fun y hy => hl y (List.mem_cons_of_mem _ hy)]
    exact slotRead_sendIrq_other h x.2 hv hx hne

/-- Each of several messages of different vectors stands in its slot. -/
theorem slotRead_sendAll_mem {l : List (Nat × Nat)} {s : State} {x : Nat × Nat} (h : SlotsOpen s) (hx : x ∈ l)
    (hnd : (l.map (·.1)).Nodup) (hlt : ∀ y ∈ l, y.1 < 4096) : slotRead (sendAll l s) x.1 = irqBytes s x.1 x.2 := by
  induction l generalizing s with
  | nil => cases hx
  | cons y r ih =>
    rw [List.map_cons, List.nodup_cons] at hnd
    obtain ⟨hnot, hnd⟩ := hnd
    have hone : SlotsOpen (sendIrq y.1 y.2 s) := h.sendAll [y]
    have hr : ∀ z ∈ r, z.1 < 4096 := fun z hz => hlt z (List.mem_cons_of_mem _ hz)
    rcases List.mem_cons.1 hx with rfl | hx
    · have hne : ∀ z ∈ r, z.1 < 4096 ∧ x.1 ≠ z.1 := fun z hz => ⟨hr z hz, fun e => hnot (e ▸ List.mem_map_of_mem hz)⟩
      rw [sendAll_cons, slotRead_sendAll_other r hone (hlt x List.mem_cons_self) hne]
      exact slotRead_sendIrq_self h x.1 x.2
    · rw [sendAll_cons, ih hone hx hnd hr]
      exact irqBytes_sendAll [y] h.up x.1 x.2

/-- Messages without a place in the companion window are logged as dropped, each of them. -/
theorem mem_errLog_sendAll {l : List (Nat × Nat)} {s : State} {x : Nat × Nat} (hen : s.regs.irqEn = true) (hup : s.link.up = true)
    (hwin : spanWin s.regs.irqAddr.toNat 0x10000 = false) (hx : x ∈ l ∨ .irqDropped x.1 ∈ s.regs.errLog) :
    .irqDropped x.1 ∈ (sendAll l s).regs.errLog := by
  induction l generalizing s with
  | nil => exact hx.resolve_left (by simp)
  | cons y r ih =>
    rw [sendAll_cons, sendIrq_dropped y.1 y.2 hen hup hwin]
    refine ih hen hup hwin ?_
    rcases hx with hx | hx
    · rcases List.mem_cons.1 hx with rfl | hx
      · exact .inr List.mem_cons_self
      · exact .inl hx
    · exact .inr (List.mem_cons_of_mem _ hx)

/-! ### The link -/

/-- The message that the return itself sends (R362). -/
def ownMsg (s : State) : List (Nat × Nat) := if s.regs.evEn.getLsbD 5 then [(5, 0)] else []

/-- The state in which the link has trained and the held messages are taken. -/
def linkUp (gen : BitVec 2) (lanes : BitVec 32) (s : State) : State :=
  { s with link := { s.link with up := true, gen := gen.toNat, lanes := trainedLanes lanes }
           queues := { s.queues with irqHeld := [] } }

theorem devIrq_five (s : State) : devIrq 5 s = sendAll (ownMsg s) s := by
  unfold devIrq ownMsg
  split <;> rfl

/-- The link comes up: the held messages go out, then that of vector 5 (R362). -/
theorem exec_emciaLinkUp {s : State} {gen : BitVec 2} {lanes : BitVec 32} (ht : linkTries s = true) (hg : 2 ≤ gen.toNat)
    (hl : trainedLanes lanes ≠ 0) :
    exec (.emciaLinkUp gen lanes) s = .next (sendAll (s.queues.irqHeld ++ ownMsg s) (linkUp gen lanes s)) := by
  have htrain : trainLink gen lanes s =
      { s with link := { s.link with gen := gen.toNat, lanes := trainedLanes lanes, up := true } } := by
    have hno : ¬ (trainedLanes lanes = 0 ∨ gen.toNat < 2) := by omega
    exact if_neg hno
  have hown : ownMsg (sendAll s.queues.irqHeld (linkUp gen lanes s)) = ownMsg s := by
    obtain ⟨m, e, heq⟩ := sendAll_spec s.queues.irqHeld (s := linkUp gen lanes s) rfl
    rw [heq]
    rfl
  rw [sendAll_append, ← hown, ← devIrq_five]
  simp only [exec, execEmciaLinkUp, ht, htrain, if_true]
  rfl

/-- Settles O55: rows by the fold over their bad lines, messages by the slots they go to. -/
theorem rowsAndLink : Obligations.RowsAndLink := by
  unfold Obligations.RowsAndLink
  refine ⟨fun s c row hheld hwait => ⟨fun hclean => ?clean, fun y l hy hc hrow hl hbad => ?poisoned⟩,
    fun s d pre post y hw hpre hy hfree => exec_passThroughGrant hw hpre hy hfree, fun s hup => congrArg Outcome.next (if_pos hup),
    fun s gen lanes ht hg hl => ?up⟩
  case clean =>
    have hnil : badLines c row s = [] := List.eq_nil_iff_forall_not_mem.2 fun l hl => by
      obtain ⟨⟨y, hy, ⟨hc, hrow⟩, hly⟩, hp⟩ := mem_badLines.1 hl
      rw [hclean y hy hc hrow l hly] at hp
      cases hp
    rw [exec_gatherRowArrival hheld hwait, hnil]
    rfl
  case poisoned =>
    have hmem := foldl_takeBad_mem c row (badLines c row s) (s := rowArrived c row s) fun l hl => (mem_badLines.1 hl).2
    have hin : l ∈ badLines c row s := mem_badLines.2 ⟨⟨y, hy, ⟨hc, hrow⟩, hl⟩, hbad⟩
    refine ⟨_, exec_gatherRowArrival hheld hwait, ?_⟩
    rw [hmem]
    exact ⟨List.mem_append_right _ (List.mem_map_of_mem hin), List.mem_append_right _ (List.mem_singleton.2 rfl), rfl, rfl, rfl⟩
  case up =>
    have hup : (linkUp gen lanes s).link.up = true := rfl
    obtain ⟨m, e, heq⟩ := sendAll_spec (s.queues.irqHeld ++ ownMsg s) hup
    refine ⟨_, exec_emciaLinkUp ht hg hl, by rw [heq]; rfl, by rw [heq]; rfl, fun hen hwf hwin hnd hlt x hx h5 => ?_,
      fun hen hwin x hx => mem_errLog_sendAll (s := linkUp gen lanes s) hen hup hwin (.inl (List.mem_append_left _ hx)),
      by rw [heq]; rfl, by rw [heq]; rfl, by rw [heq]; rfl, by rw [heq]; rfl⟩
    have hopen : SlotsOpen (linkUp gen lanes s) := ⟨hen, hup, hwin, hwf⟩
    have hown : ∀ y ∈ ownMsg s, y.1 < 4096 ∧ x.1 ≠ y.1 := fun y hy => by
      unfold ownMsg at hy
      split at hy
      · rename_i hev
        rw [List.mem_singleton.1 hy]
        exact ⟨by decide, h5.resolve_right (by simp [hev])⟩
      · cases hy
    have hread := slotRead_sendAll_other (ownMsg s) (hopen.sendAll s.queues.irqHeld) (hlt x hx) hown
    rw [slotRead_sendAll_mem hopen hx hnd hlt, ← sendAll_append, slotRead, irqSlot_sendAll _ hup] at hread
    exact hread

end Sys2Proof.Machine
end

section
/-!
PROOFS. The ends of runs and the crossings between them (R12, R29 to R33, R168, R170, R352, R368, R440, R441).
-/
namespace Sys2Proof.Machine
open Host

/-! ### A crossing begins -/

/-- All that the beginning of a crossing changes: the run has ended, DRAINING is entered with its message, tasks are marked for
their replay (R30, R352, R372). -/
theorem beginCrossing_spec {s : State} (h : s.sup.dstate = .running) : ∃ m i l a b, beginCrossing s =
    { mapQueues markReplay s with
      sup := { s.sup with run := none, cross := some { began := s.time.now.toNat }, dstate := .draining }
      mem := { s.mem with comp := m }, queues := { (mapQueues markReplay s).queues with irqHeld := i }
      regs := { s.regs with errLog := l }, power := { s.power with alert := a, status := b } } := by
  obtain ⟨m, i, l, a, b, heq⟩ := setDState_spec .draining { mapQueues markReplay s with
    sup := { s.sup with run := none, cross := some { began := s.time.now.toNat } } }
  exact ⟨m, i, l, a, b, by rw [beginCrossing, if_pos h]; exact heq⟩

/-- A crossing that begins leaves every command, device memory, buffers, cores and Cocoons. -/
theorem beginCrossing_run {s : State} (h : s.sup.dstate = .running) :
    (beginCrossing s).sup = { s.sup with run := none, cross := some { began := s.time.now.toNat }, dstate := .draining } ∧
    (beginCrossing s).time = s.time ∧ (beginCrossing s).mem.dev = s.mem.dev ∧ (beginCrossing s).mem.ob = s.mem.ob ∧
    (beginCrossing s).cores = s.cores ∧ (beginCrossing s).cocoons = s.cocoons := by
  obtain ⟨m, i, l, a, b, heq⟩ := beginCrossing_spec h
  rw [heq]
  exact ⟨rfl, rfl, rfl, rfl, rfl, rfl⟩

theorem exec_runMsExpiry {s : State} {r : Run} (hr : s.sup.run = some r) (hk : r.kind = .queueFed) (hms : r.ms ≠ 0) :
    exec .runMsExpiry s = .next (beginCrossing (advanceTo (r.start + r.ms * 1000000) s)) := by
  simp [exec, execRunMsExpiry, hr, hk, hms]

/-- The state in which a service run ends: a beat boundary, with the stream ports free (R170). -/
def serviceEnd (s : State) : State := { atBeat s with sup := { (atBeat s).sup with portHold := false } }

theorem exec_serviceRunEnd {s : State} {r : Run} (hr : s.sup.run = some r) (hk : r.kind = .service) (hs : s.mem.scrubs = []) :
    exec .serviceRunEnd s = .next (beginCrossing (serviceEnd s)) := by
  have hcond : (s.sup.run.map (·.kind)) = some .service ∧ s.mem.scrubs.isEmpty = true := by simp [hr, hk, hs]
  exact congrArg Outcome.next (if_pos hcond)

/-- Settles O41: RUN_MS and the end of a service run begin a crossing. -/
theorem runsEnd : Obligations.RunsEnd := by
  unfold Obligations.RunsEnd
  refine ⟨fun s r hr hst hk hms hle hlt => ?expiry, fun s r hr hk hst hs hlt => ?service⟩
  case expiry =>
    have hon : s.sup.dstate ≠ .off := by simp [hst]
    have hnow := advanceTo_now_of_lt hon hle hlt
    have hcmds := sameCmds_trans (advanceTo_sameCmds (r.start + r.ms * 1000000) s) (beginCrossing_sameCmds _)
    obtain ⟨hsup, htime, hdev, hob, hcores, hcoc⟩ := beginCrossing_run (s := advanceTo (r.start + r.ms * 1000000) s) (by simpa using hst)
    rw [hnow] at hsup
    refine ⟨_, exec_runMsExpiry hr hk hms, by rw [hsup], by rw [hsup], by rw [hsup], by rw [htime]; exact hnow, hcmds,
      by rw [hdev]; simp, by rw [hob]; simp, by rw [hcores]; simp, by rw [hcoc]; simp⟩
  case service =>
    have hon : s.sup.dstate ≠ .off := by simp [hst]
    have hnow : (serviceEnd s).time.now.toNat = beatUp s.time.now.toNat := advanceTo_beatUp_now hon hlt
    have hcmds : SameCmds s (serviceEnd s) := advanceTo_sameCmds (beatUp (nowNat s)) s
    obtain ⟨hsup, htime, hdev, hob, -, -⟩ := beginCrossing_run (s := serviceEnd s) (by simpa [serviceEnd, atBeat] using hst)
    refine ⟨_, exec_serviceRunEnd hr hk hs, by rw [hsup], by rw [hsup], by rw [hsup]; rfl, ?_, ?_, by rw [hsup, htime],
      sameCmds_trans hcmds (beginCrossing_sameCmds _), by rw [hdev]; simp [serviceEnd, atBeat], by rw [hob]; simp [serviceEnd, atBeat]⟩
    · rw [htime, hnow]; exact beatUp_mod _
    · rw [htime, hnow]; exact le_beatUp _

/-! ### The drain ends (R29, R31, R368) -/

/-- What the end of a drain leaves of a state without an image run: engines and buffers are clear, settings in force, no waiting
command has a place. -/
def drainedState (s : State) : State := applySettings (clearEngines s)

theorem endImageRun_none {s : State} (h : s.img.run = none) : endImageRun s = s := by
  simp [endImageRun, h]

theorem drainedState_img {s : State} (h : s.img.run = none) : (drainedState s).img = s.img := by
  simp only [drainedState, applySettings, clearEngines, mapQueues, State.setOb, h, Option.map_none]
  rw [← h]

/-- Every queue keeps its commands, but for their places. -/
theorem drainedState_queueOf (s : State) (n : Nat) :
    queueOf (drainedState s) n = { queueOf s n with cmds := (queueOf s n).cmds.map Cmd.unplaced } := by
  have hlook := look_mapVal (fun q : Queue => { q with cmds := q.cmds.map Cmd.unplaced }) s.queues.qs n
  simp only [queueOf, drainedState, applySettings, clearEngines, mapQueues, State.setOb]
  rw [hlook]
  cases look s.queues.qs n <;> rfl

/-- The state that the end of a drain at its beat boundary leaves. -/
def drainEnd (x : Cross) (s : State) : State :=
  { drainedState (atBeat s) with
    sup := { (drainedState (atBeat s)).sup with cross := some { x with drained := some ((atBeat s).time.now.toNat : Int) } } }

theorem exec_crossingDrainEnd {s : State} {x : Cross} (hx : s.sup.cross = some x) (hd : x.drained = none) (hb : engineBusy s = false)
    (hst : s.sup.dstate = .draining ∨ s.sup.dstate = .fenced) (hi : s.img.run = none) :
    exec .crossingDrainEnd s = .next (drainEnd x s) := by
  have hstate : (s.sup.dstate == .draining || s.sup.dstate == .fenced) = true := by rcases hst with h | h <;> simp [h]
  have hend : endImageRun (drainedState (atBeat s)) = drainedState (atBeat s) :=
    endImageRun_none (by rw [drainedState_img] <;> simpa [atBeat] using hi)
  have hcond : ¬ (x.drained.isSome || engineBusy s || !(s.sup.dstate == .draining || s.sup.dstate == .fenced)) = true := by
    simp only [hd, hb, hstate]
    decide
  simp only [exec, execCrossingDrainEnd, hx]
  rw [if_neg hcond, drainEnd, ← hend]
  rfl

/-! ### The pending actions (R31, R33) -/

/-- With no command kept for the crossing there is none to perform. -/
theorem performAll_none (op : Nat) (f : Family) (work : Ctx → State → State) {s : State} (h : s.sup.pend = []) :
    performAll op f work s = s := by
  simp only [performAll, h, List.filter_nil, List.foldl_nil]
  rw [← h]

theorem autoSave_none (e : Circ) {s : State} (h : s.img.run = none) : autoSave e s = s := by
  simp [autoSave, h]

@[simp] theorem retireCores_pend (s : State) : (retireCores s).sup.pend = s.sup.pend := by
  unfold retireCores
  dsimp only
  split <;> rfl

/-- The retirement of marked cores, field by field (R12). -/
theorem retireCores_spec (s : State) : ∃ bad, retireCores s =
    { s with
      sup := { s.sup with recoveryDue := s.sup.recoveryDue || !s.cores.marked.isEmpty }
      cores := { s.cores with
        usable := s.cores.usable.zipIdx.map fun y => y.1.filter fun c => !s.cores.marked.contains (13 * y.2 + c)
        marked := [], abtBad := bad, abtMarked := [] } } := by
  refine ⟨s.cores.abtMarked.foldl (fun l d => insNat d l) s.cores.abtBad, ?_⟩
  unfold retireCores
  cases s.cores.marked.isEmpty <;> simp

/-- In a crossing for which nothing is kept, the actions are the retirement of cores. -/
theorem performActions_none (e : Circ) {s : State} (hp : s.sup.pend = []) (hi : s.img.run = none) :
    performActions e s = retireCores s := by
  have hpr : (retireCores s).sup.pend = [] := by rw [retireCores_pend, hp]
  have helect : electPending (retireCores s) = retireCores s := performAll_none _ _ _ hpr
  simp only [performActions, performAll_none _ _ _ hp, autoSave_none e hi, helect, performAll_none _ _ _ hpr]

theorem pendHeld_none (ops : List Nat) {s : State} (h : s.sup.pend = []) : pendHeld ops s = false := by
  simp [pendHeld, h]

theorem actionHeld_none (e : Circ) {s : State} (hp : s.sup.pend = []) (hi : s.img.run = none) : actionHeld e s = false := by
  simp [actionHeld, pendHeld_none _ hp, autoHeld, hi]

theorem startScrubs_none {s : State} (hk : s.regs.ksPend = 0) (hb : s.regs.bgPend = 0) : startScrubs s = s := by
  simp [startScrubs, hk, hb]

/-- Nine beats after the drain, the crossing's only action is the retirement of marked cores. -/
theorem exec_crossingPendingActions {s : State} (e : Circ) {x : Cross} {d : Nat}
    (hst : s.sup.dstate = .draining ∨ s.sup.dstate = .fenced) (hx : s.sup.cross = some x) (hd : x.drained = some (d : Int))
    (ha : x.acted = false) (hp : s.sup.pend = []) (hi : s.img.run = none) (hk : s.regs.ksPend = 0) (hb : s.regs.bgPend = 0) :
    exec (.crossingPendingActions e) s = .next (setActed (retireCores (advanceTo (d + 9216) s))) := by
  have hpa : (advanceTo (d + 9216) s).sup.pend = [] := by simpa using hp
  have hia : (advanceTo (d + 9216) s).img.run = none := by simpa using hi
  have hinst : ((d : Int) + 9216).toNat = d + 9216 := by omega
  have hscrub : startScrubs (retireCores (advanceTo (d + 9216) s)) = retireCores (advanceTo (d + 9216) s) := by
    obtain ⟨bad, h⟩ := retireCores_spec (advanceTo (d + 9216) s)
    refine startScrubs_none ?_ ?_ <;> rw [h] <;> simpa
  have helect : electPending (retireCores (advanceTo (d + 9216) s)) = retireCores (advanceTo (d + 9216) s) :=
    performAll_none _ _ _ (by rw [retireCores_pend, hpa])
  rcases hst with hst | hst
  · simp only [exec, execCrossingPendingActions, hx, hst, Option.bind_some, hd, Option.map_some, ha, hinst,
      actionHeld_none e hp hi, performActions_none e hpa hia, hscrub]
    rfl
  · simp only [exec, execCrossingPendingActions, hx, hst, Option.bind_some, hd, Option.map_some, ha, hinst,
      pendHeld_none _ hp, helect, hscrub]
    rfl

/-! ### The next run (R31, R168, R440) -/

theorem foldl_withGroups (g : State → Group → List Group) (l : List Group) (s : State) : ∃ m,
    l.foldl (fun t x => { t with media := { t.media with groups := g t x } }) s = { s with media := m } := by
  induction l generalizing s with
  | nil => exact ⟨_, rfl⟩
  | cons x r ih =>
    obtain ⟨m, h⟩ := ih { s with media := { s.media with groups := g s x } }
    exact ⟨m, h⟩

/-- Binding the pipes of lock groups again changes the bindings alone (R315). -/
theorem rebind_spec (s : State) : ∃ m, rebind s = { s with media := m } := by
  obtain ⟨m, h⟩ := foldl_withGroups (fun t g => t.media.groups ++ [{ g with pipes := freePipes t g.members.length }]) s.media.groups
    { s with media := { s.media with groups := [] } }
  exact ⟨m, h⟩

theorem foldl_completionWork {α : Type} {f : State → α → State} (hf : ∀ s x, CompletionWork s (f s x)) (l : List α) (s : State) :
    CompletionWork s (l.foldl f s) := by
  induction l generalizing s with
  | nil => exact completionWork_refl s
  | cons x r ih => exact completionWork_trans (hf s x) (ih _)

/-- The second records of failed commands are completions. -/
theorem repeatFailed_completionWork (s0 s : State) : CompletionWork s (repeatFailed s0 s) :=
  foldl_completionWork (fun t _ => foldl_completionWork
    (fun _ _ => completionWork_trans (modCmd_completionWork ..) (complete_completionWork ..)) _ t) _ s

/-- A state made ready for a run: no marked core, pipes bound again, tasks to be replayed waiting. -/
def readied (s : State) : State := repeatFailed (rebind (retireCores s)) (mapQueues restartQueue (rebind (retireCores s)))

theorem startRun_eq (kind : RunKind) (ms : Nat) (s : State) : startRun kind ms s =
    setDState .running { readied s with sup := { (readied s).sup with
      run := some { kind := kind, start := (readied s).time.now.toNat, svc := nextService (rebind (retireCores s)), ms := ms }
      service := nextService (rebind (retireCores s)), cross := none, runReq := false, startupDue := false, recoveryDue := false
      portHold := nextService (rebind (retireCores s)) != 0 } } := rfl

/-- What the start of a run leaves: the run and its service state, the causes of STARTUP and RECOVERY cleared, no marked core;
time, device memory, buffers, Cocoons and bindings stay. -/
theorem startRun_spec {kind : RunKind} {ms : Nat} {s t : State} (ht : startRun kind ms s = t) :
    t.sup = { s.sup with
      dstate := .running, run := some { kind := kind, start := s.time.now.toNat, svc := nextService (retireCores s), ms := ms }
      service := nextService (retireCores s), cross := none, runReq := false, startupDue := false, recoveryDue := false
      portHold := nextService (retireCores s) != 0 } ∧
    t.time = s.time ∧ t.cores.usable = (retireCores s).cores.usable ∧ t.cores.marked = [] ∧ t.mem.dev = s.mem.dev ∧
    t.mem.ob = s.mem.ob ∧ t.cocoons = s.cocoons ∧ t.luna = s.luna := by
  obtain ⟨bad, hret⟩ := retireCores_spec s
  obtain ⟨md, hre⟩ := rebind_spec (retireCores s)
  have hsvc : nextService (rebind (retireCores s)) = nextService (retireCores s) := by rw [hre]; rfl
  obtain ⟨q, im, d, r, x, o, n, g, w, b, m, a, st, l, hrep⟩ :=
    repeatFailed_completionWork (rebind (retireCores s)) (mapQueues restartQueue (rebind (retireCores s)))
  obtain ⟨m', i', l', a', b', hst⟩ := setDState_spec .running { readied s with sup := { (readied s).sup with
      run := some { kind := kind, start := (readied s).time.now.toNat, svc := nextService (rebind (retireCores s)), ms := ms }
      service := nextService (rebind (retireCores s)), cross := none, runReq := false, startupDue := false, recoveryDue := false
      portHold := nextService (rebind (retireCores s)) != 0 } }
  rw [← ht, startRun_eq, hst, readied, hrep, hsvc, hre, hret]
  exact ⟨rfl, rfl, rfl, rfl, rfl, rfl, rfl, rfl⟩

/-- The state in which the device rests after STOP or PARK (R352). -/
def restState : StopReq → DState
  | .stop => .ready
  | .park => .parked

/-- STOP or PARK takes effect: the crossing is over, and the device rests with its cores and memories as they were. -/
theorem restNow_spec {x : StopReq} {s t : State} (ht : restNow x s = t) :
    t.sup.dstate = restState x ∧ t.sup.run = s.sup.run ∧ t.sup.cross = none ∧ t.time = s.time ∧
    t.cores = s.cores ∧ t.mem.dev = s.mem.dev ∧ t.mem.ob = s.mem.ob ∧ t.cocoons = s.cocoons ∧ t.luna = s.luna := by
  obtain ⟨m, i, l, a, b, h⟩ := setDState_spec (restState x) (cancelRun { s with sup := { s.sup with cross := none, stopReq := none } })
  have heq : restNow x s = setDState (restState x) (cancelRun { s with sup := { s.sup with cross := none, stopReq := none } }) := by
    cases x <;> rfl
  rw [← ht, heq, h]
  exact ⟨rfl, rfl, rfl, rfl, rfl, rfl, rfl, rfl, rfl⟩

section
variable {s : State} {x : Cross} (hst : s.sup.dstate = .draining) (hx : s.sup.cross = some x) (ha : x.acted = true)
  (hi : s.img.run = none) (hdue : actionsDue s = false)
include hst hx ha hi hdue

/-- With STOP or PARK pending the device comes to rest when its crossing ends. -/
theorem exec_nextRunStart_rest {r : StopReq} (hr : s.sup.stopReq = some r) : exec .nextRunStart s = .next (restNow r (atBeat s)) := by
  simp only [exec, execNextRunStart, nextRun, hst, hx, ha, hdue, hr, hi, Option.map_some, ne_eq, not_true_eq_false, false_or,
    if_true, Bool.false_eq_true, if_false]
  rfl

/-- Else, with no image run waiting, a queue-fed run starts. -/
theorem exec_nextRunStart_run (hr : s.sup.stopReq = none) :
    exec .nextRunStart s = .next (startRun .queueFed s.sup.runMs (atBeat s)) := by
  simp only [exec, execNextRunStart, nextRun, hst, hx, ha, hdue, hr, hi, Option.map_some, ne_eq, not_true_eq_false, false_or,
    if_true, Bool.false_eq_true, if_false]
  rfl

end

/-- The time passes to the next beat boundary and the rest stays: what a run sees of its start. -/
theorem retireCores_atBeat (s : State) : (retireCores (atBeat s)).cores = (retireCores s).cores ∧
    nextService (retireCores (atBeat s)) = nextService (retireCores s) := by
  rw [atBeat, advanceTo_eq]
  unfold retireCores
  constructor
  · dsimp only
    split <;> rfl
  · dsimp only [nextService]
    split <;> rfl

/-- Settles O42: the drain's end by `drainEnd`, the actions by `retireCores`, the crossing's end by `restNow` and `startRun`. -/
theorem crossings : Obligations.Crossings := by
  unfold Obligations.Crossings
  refine ⟨fun s x hx hd hb hst hi hlt => ?drain, fun s e x d hst hx hd ha hp hi hk hb hle hlt => ?actions,
    fun s x hst hx ha hrun hi hdue hlt => ?next⟩
  case drain =>
    have hon : s.sup.dstate ≠ .off := by rcases hst with h | h <;> simp [h]
    have hnow : (atBeat s).time.now.toNat = beatUp s.time.now.toNat := advanceTo_beatUp_now hon hlt
    have hqueue := drainedState_queueOf (atBeat s)
    have himg := drainedState_img (s := atBeat s) (by simpa [atBeat] using hi)
    refine ⟨_, beatUp s.time.now.toNat, exec_crossingDrainEnd hx hd hb hst hi, ?_⟩
    obtain ⟨ti, hti⟩ : ∃ ti, atBeat s = { s with time := ti } := ⟨_, advanceTo_eq _ s⟩
    rw [hti] at hnow hqueue himg
    rw [drainEnd, hti, hnow]
    exact ⟨hnow, beatUp_mod _, le_beatUp _, beatUp_lt _, rfl, rfl, rfl, rfl, rfl, rfl, rfl, rfl, rfl, rfl, rfl, rfl, rfl, rfl, rfl,
      rfl, rfl, rfl, rfl, rfl, hqueue, rfl, himg⟩
  case actions =>
    have hon : s.sup.dstate ≠ .off := by rcases hst with h | h <;> simp [h]
    have hnow := advanceTo_now_of_lt hon hle hlt
    refine ⟨_, exec_crossingPendingActions e hst hx hd ha hp hi hk hb, ?_⟩
    obtain ⟨bad, h⟩ := retireCores_spec (advanceTo (d + 9216) s)
    rw [h]
    simp [setActed, hnow, hx]
  case next =>
    have hon : s.sup.dstate ≠ .off := by simp [hst]
    have hnow : (atBeat s).time.now.toNat = beatUp s.time.now.toNat := advanceTo_beatUp_now hon hlt
    cases hr : s.sup.stopReq with
    | some r =>
      obtain ⟨hdstate, hrun', hcross, htime, hcores, hdev, hob, hcoc, hluna⟩ := restNow_spec (x := r) (s := atBeat s) rfl
      refine ⟨_, exec_nextRunStart_rest hst hx ha hi hdue hr, ?_⟩
      generalize restNow r (atBeat s) = t at *
      rw [htime, hnow, hdev, hob, hcoc, hluna, hdstate, hrun', hcores]
      have hstay : (atBeat s).mem = s.mem ∧ (atBeat s).cocoons = s.cocoons ∧ (atBeat s).luna = s.luna ∧
          (atBeat s).sup.run = none ∧ (atBeat s).cores = s.cores := by simp [atBeat, hrun]
      obtain ⟨hmem, hcoc', hluna', hrun'', hcores'⟩ := hstay
      rw [hmem, hcoc', hluna', hrun'', hcores']
      refine ⟨beatUp_mod _, le_beatUp _, beatUp_lt _, hcross, rfl, rfl, rfl, rfl, ?_⟩
      cases r <;> exact ⟨rfl, rfl, rfl⟩
    | none =>
      obtain ⟨hsup, htime, husable, hmarked, hdev, hob, hcoc, hluna⟩ :=
        startRun_spec (kind := .queueFed) (ms := s.sup.runMs) (s := atBeat s) rfl
      refine ⟨_, exec_nextRunStart_run hst hx ha hi hdue hr, ?_⟩
      generalize startRun .queueFed s.sup.runMs (atBeat s) = t at *
      obtain ⟨hcores, hsvc⟩ := retireCores_atBeat s
      have hstay : (atBeat s).mem = s.mem ∧ (atBeat s).cocoons = s.cocoons ∧ (atBeat s).luna = s.luna := by simp [atBeat]
      obtain ⟨hmem, hcoc', hluna'⟩ := hstay
      rw [hsup, htime, hnow, hdev, hob, hcoc, hluna, husable, hmarked, hcores, hsvc, hmem, hcoc', hluna']
      exact ⟨beatUp_mod _, le_beatUp _, beatUp_lt _, rfl, rfl, rfl, rfl, rfl, rfl, rfl, rfl, rfl, rfl, rfl, rfl⟩

end Sys2Proof.Machine
end

section
/-!
PROOFS. Placement (R12, R371, R399), and best-effort work that roams, yields and resumes (R87, R122, R364, R365, R371, R373).
-/
namespace Sys2Proof.Machine
open Host

/-! ### The cores that placement gives -/

/-- A core that placement may give to a task: enabled and not marked, or a spare for a task that runs again. -/
def Placeable (x : Ctx) (s : State) (p : Nat) : Prop :=
  s.cores.marked.contains p = false ∧
    ((∃ d c, p = 13 * d + c ∧ c ∈ s.cores.usable.getD d [] ∧ p ∈ placeable s d) ∨
      (∃ a, x.task.bind (·.avoid) = some a ∧ p ∈ sparesOf s (a / 13)))

theorem placeable_of_mem {x : Ctx} {s : State} {d p : Nat} (h : p ∈ placeable s d) : Placeable x s p := by
  have hmem := h
  simp only [placeable, List.mem_filter, List.mem_map] at h
  obtain ⟨⟨c, hc, rfl⟩, hmark⟩ := h
  exact ⟨by simpa using hmark, .inl ⟨d, c, rfl, List.mem_of_mem_take hc, hmem⟩⟩

theorem placeable_of_rerunSpares {x : Ctx} {s : State} {p : Nat} (h : p ∈ rerunSpares x s) : Placeable x s p := by
  unfold rerunSpares at h
  split at h
  · rename_i a ha
    obtain ⟨hspare, hmark⟩ := List.mem_filter.1 h
    exact ⟨by simpa using hmark, .inr ⟨a, ha, hspare⟩⟩
  · cases h

theorem mem_rotate {l : List Nat} {i p : Nat} (h : p ∈ rotate l i) : p ∈ l := by
  rcases List.mem_append.1 h with h | h
  · exact List.mem_of_mem_drop h
  · exact List.mem_of_mem_take h

theorem placeable_of_quadOrder {x y : Ctx} {s : State} {q p : Nat} {prev : Bool} (h : p ∈ quadOrder s x q prev) :
    Placeable y s p := by
  have hquad : p ∈ quadCores s q := mem_rotate h
  obtain ⟨i, -, hp⟩ := List.mem_flatMap.1 hquad
  exact placeable_of_mem hp

/-- The quadrant at which the search of a task begins: that of the die that owns its work, its own, or its affinity (R237, R370). -/
def startQuad (f : Family) (x : Ctx) (s : State) : Nat :=
  match ownerDie f x s with
  | some d => d / 4
  | none => (x.task.bind (·.quad)).getD (affinity f x s)

/-- The cores of that quadrant, kept to the owner's die while it has any. -/
def nearCores (f : Family) (x : Ctx) (s : State) : List Nat :=
  (quadOrder s x (startQuad f x s) true).filter fun p => match ownerDie f x s with
    | some d => (placeable s d).isEmpty || decide (p / 13 = d)
    | none => true

/-- The cores of the other quadrants, for latency-critical work and for a task that roams (R371). -/
def farCores (f : Family) (x : Ctx) (s : State) : List Nat :=
  if (ownerDie f x s).isNone && (x.lc || (x.task.map (·.roam)).getD false) then
    (List.range 3).flatMap fun i => quadOrder s x ((startQuad f x s + i + 1) % 4) false
  else []

/-- The cores in the order in which placement searches them for a task of a hardware queue (R90, R371). -/
def searchOrder (f : Family) (x : Ctx) (s : State) : List Nat := rerunSpares x s ++ nearCores f x s ++ farCores f x s

/-- Placement takes the first core of the search that fits, or, where every die is hot, for latency-critical work the first that
would (R371, R390). -/
theorem place_hw {f : Family} {x : Ctx} {qid : BitVec 20} (s : State) (hq : x.c.q = .hw qid) : place f x s =
    ((searchOrder f x s).find? (coreFits f x s false)).or
      (if x.lc && (List.range 16).all (isHot s) then (searchOrder f x s).find? (coreFits f x s true) else none) := by
  have hor : ∀ o e : Option Nat, (match o with
      | some p => some p
      | none => e) = o.or e := fun o e => by cases o <;> rfl
  simp only [place, hq, searchOrder, nearCores, farCores, startQuad]
  cases ownerDie f x s <;> exact hor _ _

theorem mem_searchOrder_of_place {f : Family} {x : Ctx} {s : State} {p : Nat} {qid : BitVec 20} (hq : x.c.q = .hw qid)
    (h : place f x s = some p) : p ∈ searchOrder f x s := by
  rw [place_hw s hq, Option.or_eq_some_iff] at h
  rcases h with h | ⟨-, h⟩
  · exact List.mem_of_find?_eq_some h
  · split at h
    · exact List.mem_of_find?_eq_some h
    · cases h

/-- Every core of the search is a placeable one. -/
theorem searchOrder_placeable {f : Family} {x : Ctx} {s : State} {p : Nat} (h : p ∈ searchOrder f x s) : Placeable x s p := by
  rcases List.mem_append.1 h with h | hfar
  · rcases List.mem_append.1 h with hspare | hnear
    · exact placeable_of_rerunSpares hspare
    · exact placeable_of_quadOrder (List.mem_of_mem_filter hnear)
  · unfold farCores at hfar
    split at hfar
    · obtain ⟨i, -, hp⟩ := List.mem_flatMap.1 hfar
      exact placeable_of_quadOrder hp
    · cases hfar

/-! ### A best-effort task roams (R371) -/

/-- An update of a task that keeps its serial number is what a hardware queue holds. -/
theorem taskOf_modTask {r : QRef} {qid : BitVec 20} (hr : r = .hw qid) (n : Nat) (f : Task → Task) (hf : ∀ t, (f t).serial = t.serial)
    (s : State) : taskOf (modTask r n f s) r n = (taskOf s r n).map f := by
  have key : ∀ l : List Task, (l.map fun t => if t.serial = n then f t else t).find? (fun t => decide (t.serial = n)) =
      (l.find? fun t => decide (t.serial = n)).map f := by
    intro l
    induction l with
    | nil => rfl
    | cons t r ih => by_cases h : t.serial = n <;> simp [h, hf, ih]
  rcases getQ_setQ_self r { getQ s r with tasks := (getQ s r).tasks.map fun t => if t.serial = n then f t else t } s with hq | ⟨himg, -⟩
  · simp only [taskOf, modTask, hq, key]
  · rw [hr] at himg
    cases himg

/-- A task that may go to the other quadrants, with the quadrant that it has waited in. -/
def Task.roaming (quad : Nat) (t : Task) : Task := { t with roam := true, quad := t.quad <|> some quad }

theorem exec_bePlacementTimeout {s : State} {c : CmdRef} {k : Cmd} {f : Family} {t : Task} {qid : BitVec 20} (hk : cmdOf s c = some k)
    (hq : c.q = .hw qid) (hw : k.ph = .waiting) (hf : familyOf (hOpcode k.hdr) = some f) (hcore : f.core k.par = true)
    (ht : (mkCtx s c {} k).task = some t) (hlc : (getQ s c.q).lc = false) (hno : t.core = none)
    (hp : place f (mkCtx s c {} k) s = none) :
    exec (.bePlacementTimeout c) s = .next (modTask c.q k.task (Task.roaming (affinity f (mkCtx s c {} k) s)) s) := by
  have hbe : (mkCtx s c {} k).lc = false := by simpa [mkCtx, hq] using hlc
  have himg : (c.q != .img) = true := by rw [hq]; rfl
  simp only [exec, execBePlacementTimeout, hk, hf, ht, hw, hbe, hcore, hno, hp, himg]
  rfl

/-! ### A best-effort command yields (R87, R122, R373) -/

/-- A command yields by its plan, or not at all. -/
theorem familyOf_yieldAt {op : Nat} {f : Family} (h : familyOf op = some f) :
    (∃ mk, f.yieldAt = yieldPlan mk) ∨ f.yieldAt = fun _ _ _ => none := by
  unfold familyOf at h
  split at h
  all_goals cases h
  case h_1 | h_2 | h_4 | h_5 | h_6 | h_7 | h_12 | h_13 | h_16 | h_17 => exact .inl ⟨_, rfl⟩
  all_goals exact .inr rfl

/-- A command with the plan that it keeps from its first quantum (R68). -/
def Cmd.keeping (ps : List Piece) (k : Cmd) : Cmd := { k with kept := some ps }

/-- What a command that yields has left: its completed pieces' line work, what its engines hold, and the plan that it keeps. -/
theorem yieldPlan_spec {mk : Ctx → State → Plan} {n : Nat} {x : Ctx} {s t : State} (h : yieldPlan mk n x s = some t) :
    ∃ ps u, LineWork s u ∧ t = modCmd x.c (Cmd.keeping ps) (leaveEngines x u) := by
  simp only [yieldPlan, Option.bind_eq_some_iff] at h
  obtain ⟨m, -, h⟩ := h
  split at h
  · cases h
  · exact ⟨_, _, lineWork_trans (planEnter_lineWork ..) (runPieces_lineWork ..), (Option.some.inj h).symm⟩

theorem yieldAt_spec {op n : Nat} {f : Family} {x : Ctx} {s t : State} (hf : familyOf op = some f) (h : f.yieldAt n x s = some t) :
    ∃ ps u, LineWork s u ∧ t = modCmd x.c (Cmd.keeping ps) (leaveEngines x u) := by
  rcases familyOf_yieldAt hf with ⟨mk, hy⟩ | hy
  · rw [hy] at h
    exact yieldPlan_spec h
  · rw [hy] at h
    cases h

/-- A command left at the end of a quantum. -/
def Cmd.yieldedAt (tile : Nat) (k : Cmd) : Cmd := { k with ph := .yielded tile, hasYielded := true }

theorem exec_beYield {s s1 : State} {c : CmdRef} {k : Cmd} {f : Family} {p tile : Nat} (hk : cmdOf s c = some k)
    (hrun : k.ph = .running p) (hle : p ≤ tile) (hcan : canYield (hOpcode k.hdr) = true) (hbe : lcOf s c k = false)
    (hf : familyOf (hOpcode k.hdr) = some f) (hlc : lcReady (modCmd c (Cmd.yieldedAt tile) s) (engineOf s c k) = true)
    (hy : f.yieldAt tile (mkCtx s c {} k) s = some s1) :
    exec (.beYield c tile) s = .next (modCmd c (Cmd.yieldedAt tile) s1) := by
  change lcReady (modCmd c (fun k => { k with ph := .yielded tile, hasYielded := true }) s) (engineOf s c k) = true at hlc
  simp only [exec, execBeYield, hk, hrun, hle, hcan, hbe, hlc, hf, Option.bind_some, hy]
  rfl

@[simp] theorem getQ_leaveEngines (x : Ctx) (s : State) (r : QRef) : getQ (leaveEngines x s) r = getQ s r :=
  getQ_of_eq rfl rfl r

@[simp] theorem cmdOf_leaveEngines (x : Ctx) (s : State) (c : CmdRef) : cmdOf (leaveEngines x s) c = cmdOf s c := cmdOf_withCores ..

theorem getQ_modCmd_ne {c : CmdRef} {r : QRef} (f : Cmd → Cmd) (s : State) (h : r ≠ c.q) : getQ (modCmd c f s) r = getQ s r :=
  getQ_setQ_ne _ s h

/-! ### A yielded command goes on (R364, R365) -/

theorem isRunning_iff {k : Cmd} : isRunning k = true ↔ ∃ n, k.ph = .running n := by
  unfold isRunning
  cases k.ph <;> simp

/-- Another command in progress keeps the engine of a yielded one. -/
def engineTaken (s : State) (c : CmdRef) (k : Cmd) : Bool :=
  (allQueues s).any fun x => x.2.cmds.any fun j =>
    decide ((⟨x.1, j.idx⟩ : CmdRef) ≠ c) && isRunning j && canYield (hOpcode j.hdr) &&
      decide (engineOf s ⟨x.1, j.idx⟩ j = engineOf s c k) && (lcOf s ⟨x.1, j.idx⟩ j || decide ((engineOf s c k).1 < 2))

theorem engineTaken_eq_false {s : State} {c : CmdRef} {k : Cmd}
    (hfree : ∀ y ∈ allQueues s, ∀ j ∈ y.2.cmds, (⟨y.1, j.idx⟩ : CmdRef) ≠ c → (∃ n, j.ph = .running n) →
      canYield (hOpcode j.hdr) = true → engineOf s ⟨y.1, j.idx⟩ j = engineOf s c k →
      lcOf s ⟨y.1, j.idx⟩ j = false ∧ 2 ≤ (engineOf s c k).1) : engineTaken s c k = false := by
  refine List.any_eq_false.2 fun y hy => Bool.not_eq_true _ ▸ List.any_eq_false.2 fun j hj htaken => ?_
  simp only [Bool.and_eq_true, Bool.or_eq_true, decide_eq_true_eq, isRunning_iff] at htaken
  obtain ⟨⟨⟨⟨hne, hrun⟩, hcan⟩, heng⟩, hclass⟩ := htaken
  obtain ⟨hbe, hshare⟩ := hfree y hy j hj hne hrun hcan heng
  rcases hclass with hlc | hlt
  · rw [hbe] at hlc
    cases hlc
  · omega

/-- A command that goes on behind the quantum it completed last. -/
def Cmd.resumedAt (tile : Nat) (k : Cmd) : Cmd := { k with ph := .running (tile + 1) }

/-- A command that yielded goes on behind the quantum it completed last, once nothing keeps its engine. -/
theorem exec_beResume {s : State} {c : CmdRef} {k : Cmd} {tile : Nat} (hk : cmdOf s c = some k) (hph : k.ph = .yielded tile)
    (hfree : engineTaken s c k = false) (hlc : lcOf s c k = true ∨ lcReady s (engineOf s c k) = false) :
    exec (.beResume c) s = .next (zeroEngines (hOpcode k.hdr) (mkCtx s c {} k).job ((mkCtx s c {} k).task.bind (·.core)) k.thread k.die
      (modCmd c (Cmd.resumedAt tile) s)) := by
  have hcond : ¬ (engineTaken s c k || (!lcOf s c k && lcReady s (engineOf s c k))) = true := by
    rcases hlc with h | h <;> simp [hfree, h]
  simp only [exec, execBeResume, hk, hph]
  exact congrArg Outcome.next (if_neg hcond)

/-- An engine that passes to another job keeps what is that job's, and other engines keep what they hold (R365). -/
theorem mem_zeroed {α : Type} {l : List α} {job : Nat} (hit : α → Bool) (owner : α → Nat) (y : α) :
    y ∈ l.filter (fun y => !hit y || decide (owner y = job)) ↔ y ∈ l ∧ (hit y = true → owner y = job) := by
  cases h : hit y <;> simp [h]

theorem mem_arrays_zeroEngines (op job : Nat) (core thread die : Option Nat) (s : State) (y : Nat × Nat × Cells) :
    y ∈ (zeroEngines op job core thread die s).cores.arrays ↔
      y ∈ s.cores.arrays ∧ (isMatrix op = true → some y.1 = core → y.2.1 = job) := by
  simp only [zeroEngines]
  cases isMatrix op with
  | false => simp
  | true =>
    rw [if_pos rfl, mem_zeroed (fun y : Nat × Nat × Cells => decide (some y.1 = core)) (·.2.1)]
    simp

theorem mem_vregs_zeroEngines (op job : Nat) (core thread die : Option Nat) (s : State) (y : (Nat × Nat) × Nat × List Word) :
    y ∈ (zeroEngines op job core thread die s).cores.vregs ↔
      y ∈ s.cores.vregs ∧ (some y.1.1 = core → some y.1.2 = thread → y.2.1 = job) := by
  simp only [zeroEngines]
  rw [mem_zeroed (fun y : (Nat × Nat) × Nat × List Word => decide (some y.1.1 = core) && decide (some y.1.2 = thread)) (·.2.1)]
  simp

theorem mem_stores_zeroEngines (op job : Nat) (core thread die : Option Nat) (s : State) (y : Nat × Nat × List Word × List Word) :
    y ∈ (zeroEngines op job core thread die s).cores.stores ↔ y ∈ s.cores.stores ∧ (some y.1 = die → y.2.1 = job) := by
  simp only [zeroEngines]
  rw [mem_zeroed (fun y : Nat × Nat × List Word × List Word => decide (some y.1 = die)) (·.2.1)]
  simp

/-- Settles O36: the search of `place`, the task of `bePlacementTimeout`, and the command of `beYield` and `beResume`. -/
theorem placementAndYielding : Obligations.PlacementAndYielding := by
  unfold Obligations.PlacementAndYielding
  refine ⟨fun f x s p qid hq hp => searchOrder_placeable (mem_searchOrder_of_place hq hp),
    fun s c k f t qid hk hq hw hf hcore ht hlc hno hp => ?roam,
    fun s s1 c k f p tile hk hrun hle hcan hbe hf hlc hy => ?yields, fun s c k tile hk hph hfree hlc => ?resumes⟩
  case roam =>
    have htask := taskOf_modTask hq k.task (Task.roaming (affinity f (mkCtx s c {} k) s)) (fun _ => rfl) s
    rw [show taskOf s c.q k.task = some t from ht] at htask
    refine ⟨_, _, exec_bePlacementTimeout hk hq hw hf hcore ht hlc hno hp, htask, rfl, modTask_sameCmds _ _ _ s, ?_⟩
    rw [hq]
    rfl
  case yields =>
    obtain ⟨ps, w, hw, hs1⟩ := yieldAt_spec hf hy
    obtain rfl : s1 = modCmd c (Cmd.keeping ps) (leaveEngines (mkCtx s c {} k) w) := hs1
    refine ⟨_, exec_beYield hk hrun hle hcan hbe hf hlc hy, ⟨some ps, ?_⟩, modCmd_mem .., modCmd_cores .., fun r hr => ?_, ?_, ?_⟩
    · rw [cmdOf_modCmd c (Cmd.yieldedAt tile) (fun _ => rfl), cmdOf_modCmd c (Cmd.keeping ps) (fun _ => rfl), cmdOf_leaveEngines,
        hw.cmdOf, hk]
      rfl
    · rw [getQ_modCmd_ne _ _ hr, getQ_modCmd_ne _ _ hr, getQ_leaveEngines, hw.getQ_eq]
    · simp [hw.time]
    · simp [leaveEngines, hw.tgl]
  case resumes =>
    refine ⟨_, exec_beResume hk hph (engineTaken_eq_false hfree) hlc, ?_, fun r hr => ?_, ?_, ?_, ?_, ?_, fun y => ?_, fun y => ?_, fun y => ?_⟩
    · rw [cmdOf_zeroEngines, cmdOf_modCmd c (Cmd.resumedAt tile) (fun _ => rfl), hk]
      rfl
    · exact getQ_modCmd_ne _ s hr
    · simp
    · simp
    · simp
    · rw [← modCmd_cores c (Cmd.resumedAt tile) s]
      rfl
    · rw [mem_arrays_zeroEngines, modCmd_cores]
    · rw [mem_vregs_zeroEngines, modCmd_cores]
    · rw [mem_stores_zeroEngines, modCmd_cores]

end Sys2Proof.Machine
end

section
/-!
PROOFS. The values of block formats under their scales (R44), the pairwise tree of partial sums (R57), and the reductions over
rank that it gives (R411).
-/
namespace Sys2Proof.Machine

/-! ### Block scales (R44) -/

theorem value_mx_scaled {x : Nat} (k : Elem) (c : Nat) (h : x ≠ 255) :
    Fmt.value (.mx k) c x = (k.decode c).mul (.fin 1 ((x : Int) - 127)) := if_neg h

theorem value_tb_scaled {x : Nat} (k : Elem) (c : Nat) (h : x ≠ 255) :
    Fmt.value (.tb k) c x = (k.decode c).mul (.fin 1 ((x : Int) - 127)) := if_neg h

theorem value_mx_nan (k : Elem) (c : Nat) : Fmt.value (.mx k) c 255 = .nan := rfl

theorem value_tb_nan (k : Elem) (c : Nat) : Fmt.value (.tb k) c 255 = .nan := rfl

/-- NaN is rounded to the canonical NaN of R42. -/
theorem rne32_nan : rne32 .nan = nan32 := by decide

theorem load_mx_nan (k : Elem) (c : Nat) : Fmt.load (.mx k) c 255 = nan32 := by
  simp only [Fmt.load, value_mx_nan, rne32_nan]

theorem load_tb_nan (k : Elem) (c : Nat) : Fmt.load (.tb k) c 255 = nan32 := by
  simp only [Fmt.load, value_tb_nan, rne32_nan]

/-! ### One level of a tree (R57) -/

section
variable {α : Type} (f : α → α → α)

theorem treeLevel_length : ∀ l : List α, (treeLevel f l).length = (l.length + 1) / 2
  | [] => by simp [treeLevel]
  | [_] => by simp [treeLevel]
  | _ :: _ :: r => by
    have ih := treeLevel_length r
    simp only [treeLevel, List.length_cons]
    omega

/-- Neighbours `2 * i` and `2 * i + 1` make partial `i`. -/
theorem treeLevel_pair (z : α) : ∀ (l : List α) (i : Nat), 2 * i + 1 < l.length →
    (treeLevel f l)[i]? = some (f (l.getD (2 * i) z) (l.getD (2 * i + 1) z))
  | [], _, h => by simp at h
  | [_], _, h => by simp at h
  | _ :: _ :: _, 0, _ => by simp [treeLevel]
  | _ :: _ :: r, i + 1, h => by
    have hr : 2 * i + 1 < r.length := by simp only [List.length_cons] at h; omega
    exact treeLevel_pair z r i hr

/-- An odd last partial passes unchanged. -/
theorem treeLevel_last : ∀ l : List α, l.length % 2 = 1 → (treeLevel f l)[l.length / 2]? = l.getLast?
  | [], h => by simp at h
  | [_], _ => by simp [treeLevel]
  | a :: b :: r, h => by
    have hr : r.length % 2 = 1 := by simp only [List.length_cons] at h; omega
    have hhalf : (a :: b :: r).length / 2 = r.length / 2 + 1 := by simp only [List.length_cons]; omega
    have hne : r ≠ [] := fun h0 => by simp [h0] at hr
    rw [hhalf, treeLevel, List.getElem?_cons_succ, treeLevel_last r hr, List.getLast?_cons_cons, List.getLast?_cons_of_ne_nil hne]

/-! ### The tree -/

theorem treeFuel_short (n : Nat) {l : List α} (h : l.length ≤ 1) : treeFuel f n l = l := by
  match n, l, h with
  | 0, _, _ => rfl
  | _ + 1, [], _ => rfl
  | _ + 1, [_], _ => rfl
  | _ + 1, _ :: _ :: _, h => simp at h

theorem treeFuel_level (n : Nat) {l : List α} (h : 2 ≤ l.length) : treeFuel f (n + 1) l = treeFuel f n (treeLevel f l) := by
  match l, h with
  | _ :: _ :: _, _ => rfl

/-- Every fuel from the length of the list on gives the same tree: a level of two or more partials is shorter than they are. -/
theorem treeFuel_enough {n m : Nat} {l : List α} (hn : l.length ≤ n) (hm : l.length ≤ m) : treeFuel f n l = treeFuel f m l := by
  induction n generalizing m l with
  | zero => rw [treeFuel_short f 0 (by omega), treeFuel_short f m (by omega)]
  | succ n ih =>
    by_cases h : 2 ≤ l.length
    · obtain ⟨m, rfl⟩ : ∃ j, m = j + 1 := ⟨m - 1, by omega⟩
      have hlen := treeLevel_length f l
      rw [treeFuel_level f n h, treeFuel_level f m h]
      exact ih (by omega) (by omega)
    · rw [treeFuel_short f _ (by omega), treeFuel_short f m (by omega)]

theorem tree_single (z x : α) : tree f z [x] = x := rfl

theorem tree_level (z : α) {l : List α} (h : 2 ≤ l.length) : tree f z l = tree f z (treeLevel f l) := by
  have hlen := treeLevel_length f l
  obtain ⟨n, hn⟩ : ∃ n, l.length = n + 1 := ⟨l.length - 1, by omega⟩
  unfold tree
  rw [hn, treeFuel_level f n h, treeFuel_enough f (m := (treeLevel f l).length) (by omega) (Nat.le_refl _)]

end

/-- A dot product is the tree over its grains (R57). -/
theorem dot_eq_tree (d : DotMode) (a b : Nat → Ext) (k gk : Nat) : dot d a b k gk =
    tree fadd 0 ((List.range (cdiv k gk)).map fun g => grain d a b (g * gk) (min k ((g + 1) * gk))) := by
  simp only [dot, dotNode, Nat.sub_zero, Nat.zero_add]

/-- Settles O58: scale bytes case by case, a level of the tree, and the fuel that its levels need. -/
theorem blockScalesAndTrees : Obligations.BlockScalesAndTrees := by
  unfold Obligations.BlockScalesAndTrees
  refine ⟨fun k c x _ => ⟨fun h => ⟨value_mx_scaled k c h, value_tb_scaled k c h⟩, fun h => ?nan⟩, fun f z x => tree_single f z x,
    fun f z l h => ⟨tree_level f z h, treeLevel_length f l, fun i hi => treeLevel_pair f z l i hi, treeLevel_last f l⟩,
    fun d a b k gk _ => dot_eq_tree d a b k gk⟩
  case nan =>
    subst h
    exact ⟨value_mx_nan k c, value_tb_nan k c, load_mx_nan k c, load_tb_nan k c⟩

/-! ### Reductions over rank (R411) -/

/-- The operation of a reduction. -/
def Reduce.opOf (p : Reduce) : Word → Word → Word := if p.op = 0 then fadd else if p.op = 1 then fmax else fmin

/-- An element of a reduction without conversion: the tree over the ranks' elements, a NaN written as the one of R42. -/
theorem reduceValues_fp32 {p : Reduce} (scale bias : List Word) (ranks : List (List Word)) {i : Nat} (hconv : p.conv = false)
    (hi : i < p.count) : (reduceValues p scale bias ranks)[i]? =
      let v := tree p.opOf 0 (ranks.map fun l => l.getD i 0)
      some (if isNan32 v = true then nan32 else v) := by
  have hnum : p.num = none := by simp [Reduce.num, hconv]
  simp [reduceValues, Reduce.opOf, hnum, hi]

end Sys2Proof.Machine
end

section
/-!
PROOFS. The collectives' events (R400, R410 to R412): a line of a COL.RECV is written and acknowledged, a link goes down, a
collective times out.
-/
namespace Sys2Proof.Machine
open Host

/-! ### Writes of whole lines to healthy memory -/

/-- A span of one aligned line is one piece. -/
theorem pieces_line {a : Nat} {bs : List Byte} (ha : a % 64 = 0) (hbs : bs.length = 64) : pieces a bs = [(a, bs)] := by
  have hne : bs ≠ [] := fun h => by simp [h] at hbs
  simp [pieces, linePieces, ha, hbs, hne]

/-- A write of a whole line for no task, to a stack that answers, is a write at its place. -/
theorem putLine_healthy {s : State} {e : Circ} {a : Nat} {bs : List Byte} (hh : healthy s e) (hwin : inWin a = false)
    (hbs : bs.length = 64) : putLine none e a bs s = (putRaw a bs s, 0) := by
  obtain ⟨hpoison, hoffline, -, -, hlate, -, -⟩ := hh
  have hkeep : (putRaw a bs s).setPoison [] = putRaw a bs s := by rw [← hpoison]; rfl
  simp [putLine, shadow, cocoonOf, viewAddr, markLine, offlineAt, hasLine, delNat, hwin, hoffline, hlate, hpoison, hbs, hkeep]

theorem putDev_line {s : State} {e : Circ} {a : Nat} {bs : List Byte} (hh : healthy s e) (hwin : inWin a = false)
    (ha : a % 64 = 0) (hbs : bs.length = 64) : putDev none e a bs s = (putRaw a bs s, none) := by
  rw [putDev, pieces_line ha hbs, putSpan, putLine_healthy hh hwin hbs]
  rfl

/-- Device memory lies below the companion window. -/
theorem inWin_of_spanMem {a n b : Nat} (h : spanMem a n = true) (hb : b ≤ a + n - 1) : inWin b = false := by
  simp only [spanMem, spanBorug, spanKs, inBorug, inKs, Bool.or_eq_true, Bool.and_eq_true, decide_eq_true_eq] at h
  simp only [inWin, Bool.and_eq_false_iff, decide_eq_false_iff_not]
  unfold ksBase at h
  unfold winBase
  omega

/-! ### Registered collectives -/

@[simp] theorem cmdOf_withDom (c : CmdRef) (d : Dom) (s : State) : cmdOf { s with dom := d } c = cmdOf s c := by
  obtain ⟨q, i⟩ := c
  cases q <;> rfl

@[simp] theorem cmdOf_putRaw (c : CmdRef) (a : Nat) (bs : List Byte) (s : State) : cmdOf (putRaw a bs s) c = cmdOf s c := by
  obtain ⟨q, i⟩ := c
  cases q <;> rfl

theorem parOf_of_cmdOf {s : State} {c : CmdRef} {k : Cmd} (h : cmdOf s c = some k) : parOf s c = k.par := by
  simp [parOf, h]

/-- An update of a collective that keeps its command is what is registered for the command. -/
theorem collOf_modColl (c : CmdRef) (f : Coll → Coll) (hf : ∀ y, (f y).c = y.c) (s : State) :
    collOf (modColl c f s) c = (collOf s c).map f := by
  have hfind : (fun y => decide (y.c = c) && live (modColl c f s) y) ∘ (fun y => if y.c = c then f y else y) =
      fun y => decide (y.c = c) && live s y := by
    funext y
    by_cases h : y.c = c <;> simp [live, modColl, h, hf]
  simp only [collOf]
  rw [show (modColl c f s).dom.cols = s.dom.cols.map fun y => if y.c = c then f y else y from rfl, List.find?_map, hfind]
  refine Option.map_congr fun y hy => ?_
  have hc := List.find?_some hy
  simp only [Bool.and_eq_true, decide_eq_true_eq] at hc
  rw [if_pos hc.1]

@[simp] theorem collOf_putRaw (c : CmdRef) (a : Nat) (bs : List Byte) (s : State) : collOf (putRaw a bs s) c = collOf s c := by
  simp only [collOf, live, cmdOf_putRaw]
  rfl

/-! ### Data for a COL.RECV (R410) -/

/-- A line is taken for its collective. -/
def Coll.take (i : Nat) (y : Coll) : Coll := { y with lines := insNat i y.lines }

/-- The state in which line `i` of a receive has been written at `a`. -/
def lineWritten (c : CmdRef) (i a : Nat) (bs : List Byte) (s : State) : State := modColl c (Coll.take i) (putRaw a bs s)

theorem collOf_lineWritten (c : CmdRef) (i a : Nat) (bs : List Byte) (s : State) :
    collOf (lineWritten c i a bs s) c = (collOf s c).map (Coll.take i) := by
  rw [lineWritten, collOf_modColl c (Coll.take i) (fun _ => rfl), collOf_putRaw]

theorem putLines_one {s : State} {c : CmdRef} {e : Circ} {a i : Nat} {bs : List Byte} (hh : healthy s e)
    (hwin : inWin (a + 64 * i) = false) (ha : a % 64 = 0) (hbs : bs.length = 64) :
    putLines c e a [(i, bs)] s = (lineWritten c i (a + 64 * i) bs s, 0) := by
  rw [putLines, putDev_line hh hwin (by omega) hbs]
  rfl

/-- No request waits while no stack retrains. -/
theorem mustWait_healthy {s : State} {e : Circ} (hh : healthy s e) (o : Owner) (l : List (Nat × Nat)) :
    mustWait s o e l = false := by
  obtain ⟨-, -, hretrain, -⟩ := hh
  simp [mustWait, hretrain]

theorem sendAck_other {peer channel k len lines : Nat} {s : State} (h : peer ≠ s.dom.index) :
    sendAck peer channel k len lines s = sendDom (.ack peer channel k len lines) s := if_neg h

/-- The first line of a longer receive with parameters `p`, on healthy memory, is written at its place and acknowledged. -/
theorem deliverData_line {s : State} {y : Coll} {p : Xfer} {peer channel i : Nat} {bs : List Byte}
    (hp : Xfer.parse (parOf s y.c) = p) (hfind : findColl s 1 peer channel y.k = some y) (hcoll : collOf s y.c = some y)
    (hlines : y.lines = []) (hpeer : peer ≠ s.dom.index) (hh : healthy s y.e) (hlen : 128 ≤ p.len) (hi : 64 * i + 64 ≤ p.len)
    (hbs : bs.length = 64) (ha : p.addr % 64 = 0) (hwin : inWin (p.addr + 64 * i) = false) :
    deliverData (.data peer channel y.k p.len (64 * i) bs) s =
      sendDom (.ack peer channel y.k p.len 1) (lineWritten y.c i (p.addr + 64 * i) bs s) := by
  have hone : (List.range (bs.length / 64)).filterMap (fun j => if 64 * i / 64 + j < p.len / 64 then
      some (64 * i / 64 + j, (bs.drop (64 * j)).take 64) else none) = [(i, bs)] := by
    have hin : i < p.len / 64 := by omega
    have htake : bs.take 64 = bs := List.take_of_length_le (by omega)
    simp [hbs, hin, htake]
  have hcount : ((collOf (lineWritten y.c i (p.addr + 64 * i) bs s) y.c).map (·.lines.length)).getD 0 = 1 := by
    simp [collOf_lineWritten, hcoll, Coll.take, hlines, insNat]
  have hmore : ¬ 1 = p.len / 64 := by omega
  simp only [deliverData, hfind, hp, ne_eq, not_true_eq_false, if_false, mustWait_healthy hh, Bool.false_eq_true, hone,
    putLines_one hh hwin ha hbs, hcount, hmore]
  exact sendAck_other hpeer

theorem exec_collectiveDataArrival {s : State} {m : ColMsg} (hf : s.dom.dstate = 2) (hon : s.sup.dstate ≠ .off) :
    exec (.collectiveDataArrival m) s = .next (deliver m s) :=
  congrArg Outcome.next (if_pos (by simp [formed, hf, hon]))

/-! ### A link goes down (R400, R419) -/

theorem mem_insNat {a b : Nat} {l : List Nat} : a ∈ insNat b l ↔ a = b ∨ a ∈ l := by
  induction l with
  | nil => simp [insNat]
  | cons c r ih =>
    unfold insNat
    split
    · simp
    · split
      · rename_i hbc
        simp [hbc]
      · simp [ih, or_left_comm]

theorem getLsbD_clrBit {w : Nat} (v : BitVec w) (i p : Nat) : (clrBit v i).getLsbD p = (v.getLsbD p && decide (p ≠ i)) := by
  by_cases hp : p < w
  · simp [clrBit, hp, eq_comm]
  · simp [BitVec.getLsbD_of_ge _ _ (Nat.le_of_not_lt hp)]

/-- The state in which a link is down: its port is untrained, and that is logged. -/
def portDown (port : Nat) (s : State) : State :=
  { s with
    dom := { s.dom with ports := clrBit s.dom.ports port, down := insNat port s.dom.down }
    regs := { s.regs with errLog := .linkRetry port :: s.regs.errLog } }

/-- With no collective in progress nothing ends. -/
theorem exec_viaductLinkDown {s : State} {port : Nat} (hp : s.dom.ports.getLsbD port = true) (hc : s.dom.cols = []) :
    exec (.viaductLinkDown port) s = .next (portDown port s) := by
  have hdown : linkDown port s = portDown port s := by simp [linkDown, portDown, logErr, hc]
  exact congrArg Outcome.next ((if_pos hp).trans hdown)

/-! ### What an ended collective leaves -/

theorem CompletionWork.time {s t : State} (h : CompletionWork s t) : t.time = s.time := by
  obtain ⟨_, _, _, _, _, _, _, _, _, _, _, _, _, _, rfl⟩ := h; rfl
theorem CompletionWork.dev {s t : State} (h : CompletionWork s t) : t.mem.dev = s.mem.dev := by
  obtain ⟨_, _, _, _, _, _, _, _, _, _, _, _, _, _, rfl⟩ := h; rfl
theorem CompletionWork.ob {s t : State} (h : CompletionWork s t) : t.mem.ob = s.mem.ob := by
  obtain ⟨_, _, _, _, _, _, _, _, _, _, _, _, _, _, rfl⟩ := h; rfl
theorem CompletionWork.cols {s t : State} (h : CompletionWork s t) : t.dom.cols = s.dom.cols := by
  obtain ⟨_, _, _, _, _, _, _, _, _, _, _, _, _, _, rfl⟩ := h; rfl
theorem CompletionWork.counts {s t : State} (h : CompletionWork s t) : t.dom.counts = s.dom.counts := by
  obtain ⟨_, _, _, _, _, _, _, _, _, _, _, _, _, _, rfl⟩ := h; rfl

/-- The state in which a collective's command is registered no more. -/
def withoutColl (c : CmdRef) (s : State) : State :=
  { s with dom := { s.dom with cols := s.dom.cols.filter fun y => decide (y.c ≠ c) } }

theorem endColl_completionWork (c : CmdRef) (o : Out) (s : State) : CompletionWork (withoutColl c s) (endColl c o s) :=
  complete_completionWork c o _

theorem endColl_done {c : CmdRef} {o : Out} {s : State} {k : Cmd} {r : Nat} (h : cmdOf s c = some k) (hr : o.reply = some r) :
    endsAs (endColl c o s) c o.status r :=
  complete_done (s := withoutColl c s) (by rwa [withoutColl, cmdOf_withDom]) hr

theorem collOf_endColl (c : CmdRef) (o : Out) (s : State) : collOf (endColl c o s) c = none := by
  rw [collOf, (endColl_completionWork c o s).cols]
  simp +contextual [withoutColl]

/-! ### Timeouts (R412) -/

/-- The instant at which a collective times out that was released at `r`. -/
def timeoutAt (s : State) (r : Int) : Nat := (r + s.regs.colTimeout.toNat * 1000000).toNat

theorem exec_collectiveTimeout {s : State} {c : CmdRef} {y : Coll} (h : collOf s c = some y) :
    exec (.collectiveTimeout c) s =
      .next (endColl c { status := stLink, reply := some (collReply y) } (advanceTo (timeoutAt s y.released) s)) := by
  simp only [exec, execCollectiveTimeout, h, timeoutAt]

theorem exec_collectiveTimeout_held {s : State} {c : CmdRef} {k : Cmd} {r : Int} (hc : collOf s c = none)
    (hk : cmdOf s c = some k) (hr : heldSince s c = some r) (hrun : s.sup.dstate = .running) :
    exec (.collectiveTimeout c) s =
      .next (complete c { status := stLink, reply := some 0 } (bumpCount (collKey k) (advanceTo (timeoutAt s r) s))) := by
  have hk' : cmdOf (advanceTo (timeoutAt s r) s) c = some k := ((advanceTo_sameCmds _ s).cmdOf c).trans hk
  have hexp : expireHeld c (advanceTo (timeoutAt s r) s) =
      complete c { status := stLink, reply := some 0 } (bumpCount (collKey k) (advanceTo (timeoutAt s r) s)) := by
    simp only [expireHeld, hk']
  rw [← hexp]
  simp only [exec, execCollectiveTimeout, hc, hr, hrun, timeoutAt]
  rfl

theorem collCount_bumpCount (key : Nat × Nat × Nat) (s : State) : collCount (bumpCount key s) key = collCount s key + 1 := by
  simp [collCount, bumpCount]

/-- The count moves to an instant, or stays where it has passed it. -/
theorem advanceTo_now_max {n : Nat} {s : State} (hon : s.sup.dstate ≠ .off) (hn : n < 2 ^ 64) :
    (advanceTo n s).time.now.toNat = max s.time.now.toNat n := by
  rcases Nat.le_total s.time.now.toNat n with h | h
  · rw [advanceTo_now_of_lt hon h hn, Nat.max_eq_right h]
  · simp [advanceTo, h]

/-! ### The obligation -/

/-- Settles O49: the first line of a receive, a port without its link, the two timeouts, and the tree of a reduction. -/
theorem collectivesProceed : Obligations.CollectivesProceed := by
  unfold Obligations.CollectivesProceed
  refine ⟨?line, ?link, ⟨?timeout, ?held⟩, fun p ranks i hconv hi => reduceValues_fp32 [] [] ranks hconv hi⟩
  case line =>
    intro s y k peer channel off bs p hf hon hfind hk _ hcoll hpeer hwf hh hlines hlen hoff hin hbs ha hspan
    obtain ⟨i, rfl⟩ : ∃ i, off = 64 * i := ⟨off / 64, by omega⟩
    have hwin : inWin (p.addr + 64 * i) = false := inWin_of_spanMem hspan (by omega)
    have hp : Xfer.parse (parOf s y.c) = p := by rw [parOf_of_cmdOf hk]
    have hdev : Memory.wfOf 0 s.mem.dev = true := (memOk_iff.1 hwf).1
    refine ⟨_, (exec_collectiveDataArrival hf hon).trans
      (congrArg Outcome.next (deliverData_line hp hfind hcoll hlines hpeer hh hlen hin hbs ha hwin)), ?_, fun x hx => ?_, rfl,
      sameCmds_of_eq rfl rfl, rfl, rfl⟩
    · rw [← hbs]
      exact memRead_in hdev
    · have hout : ¬ (p.addr + 64 * i ≤ x ∧ x < p.addr + 64 * i + bs.length) := by omega
      exact (memGet_memWrite bs _ x hdev).trans (if_neg hout)
  case link =>
    intro s port hp hc
    refine ⟨_, exec_viaductLinkDown hp hc, ?_, fun p hne => ?_, mem_insNat.2 (.inl rfl), fun p h => mem_insNat.2 (.inr h), rfl⟩
    · simp [portDown, getLsbD_clrBit]
    · simp [portDown, getLsbD_clrBit, hne]
  case timeout =>
    intro s c y k hc hk
    have hwork := endColl_completionWork c { status := stLink, reply := some (collReply y) } (advanceTo (timeoutAt s y.released) s)
    refine ⟨_, exec_collectiveTimeout hc, endColl_done (((advanceTo_sameCmds _ s).cmdOf c).trans hk) rfl, collOf_endColl ..,
      hwork.dev.trans ?_, hwork.ob.trans ?_, fun hon hlt => ?_⟩
    · simp [withoutColl]
    · simp [withoutColl]
    · rw [hwork.time]
      exact advanceTo_now_max hon (by rw [timeoutAt]; omega)
  case held =>
    intro s c k r hc hk hr hrun
    have hk' : cmdOf (advanceTo (timeoutAt s r) s) c = some k := ((advanceTo_sameCmds _ s).cmdOf c).trans hk
    have hwork := complete_completionWork c { status := stLink, reply := some 0 }
      (bumpCount (collKey k) (advanceTo (timeoutAt s r) s))
    refine ⟨_, exec_collectiveTimeout_held hc hk hr hrun, complete_done (by rwa [bumpCount, cmdOf_withDom]) rfl, ?_,
      hwork.dev.trans ?_, hwork.ob.trans ?_⟩
    · rw [collCount, hwork.counts]
      have hbump := collCount_bumpCount (collKey k) (advanceTo (timeoutAt s r) s)
      rw [collCount, collCount, advanceTo_dom] at hbump
      exact hbump
    · simp [bumpCount]
    · simp [bumpCount]

end Sys2Proof.Machine
end

section
/-!
PROOFS. Memory events (R132, R272, R276 to R280, R282, R283): scrub reads, requests that time out, the end of retraining, and
recovery scrubs.
-/
namespace Sys2Proof.Machine
open Host

/-- What every step of a fold leaves, the fold leaves. -/
theorem foldl_keeps {α β : Type} {f : State → α → State} (g : State → β) (hf : ∀ s x, g (f s x) = g s) (l : List α) (s : State) :
    g (l.foldl f s) = g s := by
  induction l generalizing s with
  | nil => rfl
  | cons x r ih => exact (ih (f s x)).trans (hf s x)

/-! ### Marks of a poisoned line (R273) -/

theorem poisoned_iff {s : State} {l : Nat} : poisoned s l = true ↔ l ∈ s.mem.poison := List.contains_iff_mem

/-- All that a pending recovery scrub changes where it may start at once (R278). -/
theorem startScrubs_spec (s : State) : ∃ m sc i log a b, startScrubs s =
    { s with mem := { s.mem with comp := m, scrubs := sc }, queues := { s.queues with irqHeld := i }
             regs := { s.regs with errLog := log }, sup := { s.sup with recoveryDue := a, portHold := b } } := by
  unfold startScrubs
  dsimp only
  split
  · exact ⟨_, _, _, _, _, _, rfl⟩
  · generalize hu : State.mk .. = u
    obtain ⟨m, i, log, h⟩ := devIrq_spec 1 u
    subst hu
    exact ⟨m, _, i, log, _, _, h⟩

/-- The state in which recovery scrubs are pending. -/
def scrubsPending (ks : BitVec 4) (bg : Word) (s : State) : State :=
  { s with regs := { s.regs with ksPend := ks, bgPend := bg } }

/-- A recovery scrub is marked, and starts at once or waits. -/
theorem markScrub_cases (l : Nat) (s : State) : ∃ ks bg,
    markScrub l s = startScrubs (scrubsPending ks bg s) ∨ markScrub l s = scrubsPending ks bg s := by
  unfold markScrub
  dsimp only
  split
  · split
    · exact ⟨s.regs.ksPend, s.regs.bgPend, ite_eq_or_eq ..⟩
    · exact ⟨s.regs.ksPend, _, ite_eq_or_eq ..⟩
  · exact ⟨_, s.regs.bgPend, ite_eq_or_eq ..⟩

/-- All that the mark of a recovery scrub changes (R273). -/
theorem markScrub_spec (l : Nat) (s : State) : ∃ m sc i log ks bg a b, markScrub l s =
    { s with mem := { s.mem with comp := m, scrubs := sc }, queues := { s.queues with irqHeld := i }
             regs := { s.regs with errLog := log, ksPend := ks, bgPend := bg }
             sup := { s.sup with recoveryDue := a, portHold := b } } := by
  obtain ⟨ks, bg, h | h⟩ := markScrub_cases l s
  · obtain ⟨m, sc, i, log, a, b, hstart⟩ := startScrubs_spec (scrubsPending ks bg s)
    exact ⟨m, sc, i, log, ks, bg, a, b, h.trans hstart⟩
  · exact ⟨_, _, _, _, ks, bg, _, _, h⟩

/-- The poisoned lines once a line is poisoned too. -/
def withPoison (l : Nat) (s : State) : List Nat := if poisoned s l = true then s.mem.poison else insNat l s.mem.poison

theorem mem_withPoison {l x : Nat} {s : State} : x ∈ withPoison l s ↔ x = l ∨ x ∈ s.mem.poison := by
  unfold withPoison
  split
  · rename_i h
    exact ⟨.inr, fun hx => hx.elim (fun e => e ▸ poisoned_iff.1 h) id⟩
  · exact mem_insNat

/-- All that poisoning a line changes (R273). -/
theorem poisonLine_spec (l : Nat) (s : State) : ∃ m sc i log ks bg a b, poisonLine l s =
    { s with mem := { s.mem with comp := m, scrubs := sc, poison := withPoison l s }, queues := { s.queues with irqHeld := i }
             regs := { s.regs with errLog := log, ksPend := ks, bgPend := bg }
             sup := { s.sup with recoveryDue := a, portHold := b } } := by
  unfold poisonLine withPoison
  split
  · exact ⟨_, _, _, _, _, _, _, _, rfl⟩
  · obtain ⟨m, sc, i, log, ks, bg, a, b, hmark⟩ := markScrub_spec l (s.setPoison (insNat l s.mem.poison))
    rw [hmark]
    generalize hu : logErr _ _ = u
    obtain ⟨m', i', log', h⟩ := devIrq_spec 1 u
    subst hu
    exact ⟨m', sc, i', log', ks, bg, a, b, h⟩

section
variable (l : Nat) (s : State)

@[simp] theorem poisonLine_poison : (poisonLine l s).mem.poison = withPoison l s := by
  obtain ⟨_, _, _, _, _, _, _, _, h⟩ := poisonLine_spec l s; rw [h]
@[simp] theorem poisonLine_dev : (poisonLine l s).mem.dev = s.mem.dev := by
  obtain ⟨_, _, _, _, _, _, _, _, h⟩ := poisonLine_spec l s; rw [h]
@[simp] theorem poisonLine_ob : (poisonLine l s).mem.ob = s.mem.ob := by
  obtain ⟨_, _, _, _, _, _, _, _, h⟩ := poisonLine_spec l s; rw [h]
@[simp] theorem poisonLine_retrain : (poisonLine l s).mem.retrain = s.mem.retrain := by
  obtain ⟨_, _, _, _, _, _, _, _, h⟩ := poisonLine_spec l s; rw [h]
@[simp] theorem poisonLine_scrubPos : (poisonLine l s).mem.scrubPos = s.mem.scrubPos := by
  obtain ⟨_, _, _, _, _, _, _, _, h⟩ := poisonLine_spec l s; rw [h]
@[simp] theorem poisonLine_dom : (poisonLine l s).dom = s.dom := by
  obtain ⟨_, _, _, _, _, _, _, _, h⟩ := poisonLine_spec l s; rw [h]
@[simp] theorem poisonLine_offline : (poisonLine l s).regs.offline = s.regs.offline := by
  obtain ⟨_, _, _, _, _, _, _, _, h⟩ := poisonLine_spec l s; rw [h]
@[simp] theorem poisonLine_uncorr : (poisonLine l s).regs.uncorr = s.regs.uncorr := by
  obtain ⟨_, _, _, _, _, _, _, _, h⟩ := poisonLine_spec l s; rw [h]
@[simp] theorem poisonLine_lastAddr : (poisonLine l s).regs.lastAddr = s.regs.lastAddr := by
  obtain ⟨_, _, _, _, _, _, _, _, h⟩ := poisonLine_spec l s; rw [h]
@[simp] theorem poisonLine_lastKind : (poisonLine l s).regs.lastKind = s.regs.lastKind := by
  obtain ⟨_, _, _, _, _, _, _, _, h⟩ := poisonLine_spec l s; rw [h]

@[simp] theorem noteUncorr_poison : (noteUncorr l s).mem.poison = withPoison l s := poisonLine_poison ..
@[simp] theorem noteUncorr_dev : (noteUncorr l s).mem.dev = s.mem.dev := poisonLine_dev ..
@[simp] theorem noteUncorr_ob : (noteUncorr l s).mem.ob = s.mem.ob := poisonLine_ob ..
@[simp] theorem noteUncorr_scrubPos : (noteUncorr l s).mem.scrubPos = s.mem.scrubPos := poisonLine_scrubPos ..

theorem noteUncorr_uncorr : (noteUncorr l s).regs.uncorr.toNat = min (2 ^ 16 - 1) (s.regs.uncorr.toNat + 1) := by
  have hsat : min (2 ^ 16 - 1) (s.regs.uncorr.toNat + 1) < 2 ^ 16 := by omega
  exact (congrArg BitVec.toNat (poisonLine_uncorr ..)).trans (Nat.mod_eq_of_lt hsat)

theorem noteUncorr_lastAddr (h : l * 64 < 2 ^ 48) : (noteUncorr l s).regs.lastAddr.toNat = l * 64 :=
  (congrArg BitVec.toNat (poisonLine_lastAddr ..)).trans (Nat.mod_eq_of_lt h)

theorem noteUncorr_lastKind : (noteUncorr l s).regs.lastKind = 1 := poisonLine_lastKind ..

end

/-- An uncorrectable read poisons its line and no other. -/
theorem poisoned_noteUncorr {line l : Nat} {s : State} :
    poisoned (noteUncorr line s) l = true ↔ l = line ∨ poisoned s l = true := by
  rw [poisoned_iff, poisoned_iff, noteUncorr_poison, mem_withPoison]

/-! ### Scrub reads (R272, R276 to R279) -/

/-- The line that the background scrub of a unit reads next. -/
def scrubLine (ks : Bool) (u : Nat) (s : State) : Nat := unitLine ks u (s.mem.scrubPos.getD (scrubIdx ks u) 0)

/-- The pass that the background scrub of a unit is in. -/
def scrubPassOf (ks : Bool) (u : Nat) (s : State) : Nat := s.mem.scrubPass.getD (scrubIdx ks u) 0

theorem exec_scrubRead {s : State} {ks : Bool} {u : Fin 32} (p : ErrPat) (ov : Bool) (hup : memoryUp s = true)
    (hunit : ks = true → u.val < 4) (hon : offlineAt s (scrubLine ks u.val s * 64) = false) :
    exec (.scrubRead ⟨ks, u⟩ ⟨p, ov⟩) s =
      .next (scrub (scrubLine ks u.val s) (scrubPassOf ks u.val s) p ov (scrubNext ks u.val s)) := by
  have hgate : (memoryUp s && (!ks || decide (u.val < 4))) = true := by
    cases ks <;> simp [hup, hunit]
  have hread : scrubUnit ks u.val p ov s =
      scrub (scrubLine ks u.val s) (scrubPassOf ks u.val s) p ov (scrubNext ks u.val s) :=
    if_neg (ne_true_of_eq_false hon)
  exact congrArg Outcome.next ((if_pos hgate).trans hread)

section
variable {line pass : Nat} {p : ErrPat} {ov : Bool} {s : State}

theorem scrub_clean (hp : poisoned s line = false) (hr : readRes p = .clean) : scrub line pass p ov s = s := by
  simp [scrub, hp, hr]

theorem scrub_corrected (hp : poisoned s line = false) (hr : readRes p = .corrected) :
    scrub line pass p ov s = scrubFix line pass (noteCorr 1 s) := by
  simp [scrub, hp, hr]

theorem scrub_miscorrected {r : ErrPat} (hp : poisoned s line = false) (hr : readRes p = .miscorrected r) :
    scrub line pass p ov s = scrubFix line pass (noteCorr 1 (if ov then s else spoil line r s)) := by
  simp [scrub, hp, hr]

theorem scrub_uncorrectable (hp : poisoned s line = false) (hr : readRes p = .uncorrectable) :
    scrub line pass p ov s = noteUncorr line s := by
  simp [scrub, hp, hr]

end

/-- All that a record of a row for sparing changes. -/
theorem spareRow_spec (row : Nat) (s : State) : ∃ l f, spareRow row s =
    { s with mem := { s.mem with spare := l }, sup := { s.sup with flash := f } } := by
  unfold spareRow
  split <;> exact ⟨_, _, rfl⟩

theorem mem_spare_spareRow (row : Nat) (s : State) : row ∈ (spareRow row s).mem.spare := by
  unfold spareRow
  split
  · rename_i h
    exact List.mem_of_mem_drop (List.contains_iff_mem.1 h)
  · exact List.mem_append_right _ (List.mem_singleton.2 rfl)

/-- The state in which the pass that corrects a line of a row is its `n`-th in a row. -/
def rowCounted (row n pass : Nat) (s : State) : State :=
  { s with mem := { s.mem with rowFix := (row, n, pass) :: s.mem.rowFix.filter fun x => !decide (x.1 = row) } }

/-- A corrected line counts for its row, if it has one, and the count may record the row. -/
theorem scrubFix_cases (line pass : Nat) (s : State) : scrubFix line pass s = s ∨ ∃ n,
    scrubFix line pass s = spareRow (Config.borugRow line) (rowCounted (Config.borugRow line) n pass s) ∨
    scrubFix line pass s = rowCounted (Config.borugRow line) n pass s := by
  unfold scrubFix
  dsimp only
  split
  · exact .inl rfl
  · exact .inr ⟨_, ite_eq_or_eq ..⟩

/-- All that the count of a corrected row changes. -/
theorem scrubFix_spec (line pass : Nat) (s : State) : ∃ x l f, scrubFix line pass s =
    { s with mem := { s.mem with rowFix := x, spare := l }, sup := { s.sup with flash := f } } := by
  obtain h | ⟨n, h | h⟩ := scrubFix_cases line pass s
  · exact ⟨_, _, _, h⟩
  · obtain ⟨l, f, hspare⟩ := spareRow_spec (Config.borugRow line) (rowCounted (Config.borugRow line) n pass s)
    exact ⟨_, l, f, h.trans hspare⟩
  · exact ⟨_, _, _, h⟩

/-- The third of three consecutive passes that correct a line of a row records the row (R279). -/
theorem mem_spare_scrubFix {line pass n : Nat} {s : State} (hin : inBorug (line * 64) = true)
    (hfix : s.mem.rowFix.find? (fun x => decide (x.1 = Config.borugRow line)) = some (Config.borugRow line, n, pass))
    (hn : 2 ≤ n) : Config.borugRow line ∈ (scrubFix line (pass + 1) s).mem.spare := by
  have hthird : 3 ≤ n + 1 := by omega
  simp [scrubFix, hin, hfix, hthird, mem_spare_spareRow]

theorem scrubNext_scrubPos (ks : Bool) (u : Nat) (s : State) : (scrubNext ks u s).mem.scrubPos =
    s.mem.scrubPos.set (scrubIdx ks u) (if unitLines ks ≤ s.mem.scrubPos.getD (scrubIdx ks u) 0 + 1 then 0
      else s.mem.scrubPos.getD (scrubIdx ks u) 0 + 1) := by
  simp [scrubNext]

theorem spoil_scrubPos (line : Nat) (r : ErrPat) (s : State) : (spoil line r s).mem.scrubPos = s.mem.scrubPos :=
  foldl_keeps (·.mem.scrubPos) (fun t x => by split <;> rfl) r s

/-- The position of a unit's scrub stays, whatever the read finds. -/
theorem scrub_scrubPos (line pass : Nat) (p : ErrPat) (ov : Bool) {s : State} (hp : poisoned s line = false) :
    (scrub line pass p ov s).mem.scrubPos = s.mem.scrubPos := by
  have hfix : ∀ t : State, (scrubFix line pass t).mem.scrubPos = t.mem.scrubPos := fun t => by
    obtain ⟨_, _, _, h⟩ := scrubFix_spec line pass t
    rw [h]
  cases hr : readRes p with
  | clean => rw [scrub_clean hp hr]
  | corrected => rw [scrub_corrected hp hr, hfix, noteCorr_mem]
  | uncorrectable => rw [scrub_uncorrectable hp hr, noteUncorr_scrubPos]
  | miscorrected r =>
    rw [scrub_miscorrected hp hr, hfix, noteCorr_mem]
    split
    · rfl
    · exact spoil_scrubPos line r s

/-! ### Requests that time out (R132, R280, R283) -/

/-- The collectives and their commands stand as they do. -/
theorem collOf_congr {s t : State} (hdom : t.dom = s.dom) (hcmd : SameCmds s t) (c : CmdRef) : collOf t c = collOf s c := by
  simp [collOf, live, hdom, hcmd.cmdOf]

theorem collHeld_congr {s t : State} (hdom : t.dom = s.dom) (hcmd : SameCmds s t) (line : Nat) (w : Bool) :
    collHeld t line w = collHeld s line w := by
  have hwrite : waitsToWrite t line = waitsToWrite s line := by
    funext m
    cases m with
    | data => simp [waitsToWrite, findColl, live, parOf, hdom, hcmd.cmdOf]; rfl
    | ack => rfl
    | vec => rfl
  have hreduce : waitsToReduce t line w = waitsToReduce s line w := by
    funext y
    simp [waitsToReduce, live, parOf, hcmd.cmdOf]
  simp [collHeld, hwrite, hreduce, hdom]

theorem noteTimeout_sameCmds (line : Nat) (w : Bool) (s : State) : SameCmds s (noteTimeout line w s) :=
  sameCmds_of_eq rfl rfl

theorem collHeld_of_no_cols {s : State} (h : s.dom.cols = []) (line : Nat) (w : Bool) : collHeld s line w = none := by
  have hwrite : ∀ m ∈ s.dom.inbox, waitsToWrite s line m = none := fun m _ => by
    cases m <;> simp [waitsToWrite, findColl, h]
  cases w <;> simp [collHeld, h, List.findSome?_eq_none_iff.2 hwrite]

/-- A late write, or a late read of a line of no row that is asked for, ends no row request. -/
theorem no_row_late {s : State} {line : Nat} {w : Bool} (hw : w = true ∨ ∀ y ∈ s.mem.passHeld, line ∉ y.lines) :
    (!w && (noteTimeout line w s).mem.passHeld.any fun r => r.lines.contains line) = false := by
  obtain rfl | hrows := hw
  · rfl
  · simpa [noteTimeout] using fun _ => hrows

section
variable {s : State} {line : Nat} {w : Bool} (hup : memoryUp s = true) (hin : inBorug (line * 64) = true)
  (hon : offlineAt s (line * 64) = false)
include hup hin hon

/-- A read that times out for a row that is asked for ends the oldest row request for the line. -/
theorem exec_lowerTierTimeout_row {r : RowReq} (hr : s.mem.passHeld.find? (fun y => y.lines.contains line) = some r) :
    exec (.lowerTierTimeout line false) s = .next { noteTimeout line false s with mem := { (noteTimeout line false s).mem with
      passHeld := s.mem.passHeld.erase r, timedOut := s.mem.timedOut ++ [(r.c, r.row, line)]
      gathered := s.mem.gathered ++ [(r.c, r.row)] } } := by
  have hheld : (noteTimeout line false s).mem.passHeld = s.mem.passHeld := rfl
  have hany : s.mem.passHeld.any (fun y => y.lines.contains line) = true :=
    List.any_eq_true.2 ⟨r, List.mem_of_find?_eq_some hr, by simpa using List.find?_some hr⟩
  simp only [exec, execLowerTierTimeout, hup, hin, hon, hheld, hany, endLate, hr]
  rfl

variable (hw : w = true ∨ ∀ y ∈ s.mem.passHeld, line ∉ y.lines)
include hw

/-- Where it ends no row request, a collective that waits for the line ends. -/
theorem exec_lowerTierTimeout_coll {c : CmdRef} (hc : collHeld s line w = some c) :
    exec (.lowerTierTimeout line w) s =
      .next (endColl c { status := stTimeout, reply := some (((collOf s c).map collReply).getD 0) } (noteTimeout line w s)) := by
  have hno := no_row_late hw
  have hcmd := noteTimeout_sameCmds line w s
  simp only [exec, execLowerTierTimeout, hup, hin, hon, hno, collHeld_congr (noteTimeout_dom ..) hcmd, hc,
    collOf_congr (noteTimeout_dom ..) hcmd]
  rfl

/-- Where nothing waits for the line, the request is counted alone. -/
theorem exec_lowerTierTimeout_alone (hc : collHeld s line w = none) :
    exec (.lowerTierTimeout line w) s = .next (noteTimeout line w s) := by
  have hno := no_row_late hw
  have hcmd := noteTimeout_sameCmds line w s
  simp only [exec, execLowerTierTimeout, hup, hin, hon, hno, collHeld_congr (noteTimeout_dom ..) hcmd, hc]
  rfl

end

/-! ### The end of retraining (R132, R280, R282) -/

theorem not_mem_delNat (a : Nat) (l : List Nat) : a ∉ delNat a l := by simp [delNat]

theorem getLsbD_setBit {w : Nat} (v : BitVec w) {i : Nat} (hi : i < w) (p : Nat) :
    (setBit v i).getLsbD p = (v.getLsbD p || decide (p = i)) := by
  by_cases hp : p = i
  · simp [setBit, hp, hi]
  · simp [setBit, hp, Ne.symm hp]

/-- Without messages and collectives nothing goes on. -/
theorem retryColls_idle {s : State} (hinbox : s.dom.inbox = []) (hcols : s.dom.cols = []) : retryColls s = s := by
  have hempty : ({ s with dom := { s.dom with inbox := [] } } : State) = s := by rw [← hinbox]
  have htake : takeInbox (fun _ => true) s = s := by simp [takeInbox, hinbox, hempty]
  simp [retryColls, htake, hcols]

/-- The lines of unacknowledged writes to a stack. -/
def lateOf (k : Nat) (s : State) : List Nat := s.mem.lateWrites.filter fun l => decide (stackOf (l * 64) = k)

/-- The state in which a stack retrains no more. -/
def retrained (k : Nat) (s : State) : State :=
  { s with mem := { s.mem with retrain := delNat k s.mem.retrain
                               lateWrites := s.mem.lateWrites.filter fun l => decide (stackOf (l * 64) ≠ k) } }

/-- The state in which the late lines of a stack that accepts writes again are poisoned. -/
def latePoisoned (k : Nat) (s : State) : State := (lateOf k s).foldl poisonLate (retrained k s)

theorem mem_foldl_poisonLate (mine : List Nat) (s : State) (l : Nat) :
    l ∈ (mine.foldl poisonLate s).mem.poison ↔ l ∈ mine ∨ l ∈ s.mem.poison := by
  induction mine generalizing s with
  | nil => simp
  | cons x r ih =>
    rw [List.foldl_cons, ih, poisonLate, poisonLine_poison, mem_withPoison, noteLast_mem, List.mem_cons, ← or_assoc,
      or_comm (a := l ∈ r)]

theorem poisoned_latePoisoned {k l : Nat} {s : State} :
    poisoned (latePoisoned k s) l = true ↔ (l ∈ s.mem.lateWrites ∧ stackOf (l * 64) = k) ∨ poisoned s l = true := by
  rw [poisoned_iff, poisoned_iff, latePoisoned, mem_foldl_poisonLate, lateOf, List.mem_filter, decide_eq_true_iff]
  rfl

theorem latePoisoned_dom (k : Nat) (s : State) : (latePoisoned k s).dom = s.dom :=
  foldl_keeps (·.dom) (fun t l => poisonLine_dom l (noteLast l 3 t)) _ _
theorem latePoisoned_offline (k : Nat) (s : State) : (latePoisoned k s).regs.offline = s.regs.offline :=
  foldl_keeps (·.regs.offline) (fun t l => poisonLine_offline l (noteLast l 3 t)) _ _
theorem latePoisoned_retrain (k : Nat) (s : State) : (latePoisoned k s).mem.retrain = delNat k s.mem.retrain :=
  foldl_keeps (·.mem.retrain) (fun t l => poisonLine_retrain l (noteLast l 3 t)) _ _
theorem latePoisoned_dev (k : Nat) (s : State) : (latePoisoned k s).mem.dev = s.mem.dev :=
  foldl_keeps (·.mem.dev) (fun t l => poisonLine_dev l (noteLast l 3 t)) _ _
theorem latePoisoned_ob (k : Nat) (s : State) : (latePoisoned k s).mem.ob = s.mem.ob :=
  foldl_keeps (·.mem.ob) (fun t l => poisonLine_ob l (noteLast l 3 t)) _ _

theorem exec_stackRetrainEnd_ok {s : State} {k : Fin 32} (hk : k.val ∈ s.mem.retrain) (hinbox : s.dom.inbox = [])
    (hcols : s.dom.cols = []) : exec (.stackRetrainEnd k true) s = .next (latePoisoned k.val s) := by
  have hdom := latePoisoned_dom k.val s
  refine congrArg Outcome.next ((if_pos (List.contains_iff_mem.2 hk)).trans ?_)
  exact retryColls_idle ((congrArg Dom.inbox hdom).trans hinbox) ((congrArg Dom.cols hdom).trans hcols)

/-- The first line of a row request in a stack. -/
def lineIn (k : Nat) (r : RowReq) : Option Nat := r.lines.find? fun l => inBorug (l * 64) && decide (stackOf (l * 64) = k)

theorem lineIn_isSome {k : Nat} {r : RowReq} :
    (lineIn k r).isSome = true ↔ ∃ l ∈ r.lines, inBorug (l * 64) = true ∧ stackOf (l * 64) = k := by
  simp [lineIn]

theorem foldl_answerRow (f : RowReq → Nat) (l : List RowReq) (s : State) : l.foldl (fun t r => answerRow (f r) r t) s =
    { s with mem := { s.mem with gathered := s.mem.gathered ++ l.map fun r => (r.c, r.row)
                                 rowBad := s.mem.rowBad ++ l.map fun r => (r.c, r.row, f r) } } := by
  induction l generalizing s with
  | nil => simp
  | cons r l ih => rw [List.foldl_cons, ih]; simp [answerRow]

/-- The rows that are asked for of a stack. -/
def rowsOf (k : Nat) (s : State) : List RowReq := (s.mem.passHeld ++ s.mem.passWait).filter fun r => (lineIn k r).isSome

/-- The row requests of a stack that goes offline are answered, and the others stay. -/
theorem failRows_eq (k : Nat) (s : State) : failRows k s = { s with mem := { s.mem with
    passHeld := s.mem.passHeld.filter fun r => (lineIn k r).isNone
    passWait := s.mem.passWait.filter fun r => (lineIn k r).isNone
    gathered := s.mem.gathered ++ (rowsOf k s).map fun r => (r.c, r.row)
    rowBad := s.mem.rowBad ++ (rowsOf k s).map fun r => (r.c, r.row, (lineIn k r).getD 0) } } :=
  foldl_answerRow (fun r => (lineIn k r).getD 0) (rowsOf k s) { s with mem := { s.mem with
    passHeld := s.mem.passHeld.filter fun r => (lineIn k r).isNone
    passWait := s.mem.passWait.filter fun r => (lineIn k r).isNone } }

/-- A row request with a line in the stack waits no more: it is answered. -/
theorem failRows_answers {k : Nat} {s : State} {y : RowReq} (hy : y ∈ s.mem.passHeld ++ s.mem.passWait)
    (hline : ∃ l ∈ y.lines, inBorug (l * 64) = true ∧ stackOf (l * 64) = k) :
    y ∉ (failRows k s).mem.passHeld ∧ y ∉ (failRows k s).mem.passWait ∧ (y.c, y.row) ∈ (failRows k s).mem.gathered := by
  have hsome := lineIn_isSome.2 hline
  have hgone : ∀ l : List RowReq, y ∉ l.filter fun r => (lineIn k r).isNone := fun l hmem => by
    have hnone := (List.mem_filter.1 hmem).2
    simp [Option.isNone_iff_eq_none.1 hnone] at hsome
  rw [failRows_eq]
  exact ⟨hgone _, hgone _, List.mem_append_right _ (List.mem_map_of_mem (List.mem_filter.2 ⟨hy, hsome⟩))⟩

/-- The state in which a stack is offline, as the log and the message of vector 1 leave it. -/
def wentOffline (k : Nat) (comp : Mem) (irq : List (Nat × Nat)) (log : List ErrEvent) (s : State) : State :=
  { s with mem := { (retrained k s).mem with comp := comp }, queues := { s.queues with irqHeld := irq }
           regs := { s.regs with errLog := log, offline := setBit s.regs.offline k } }

/-- A stack goes offline: that is logged, and its row requests are answered. -/
theorem exec_stackRetrainEnd_fail {s : State} {k : Fin 32} (hk : k.val ∈ s.mem.retrain) (hinbox : s.dom.inbox = [])
    (hcols : s.dom.cols = []) :
    ∃ m i log, exec (.stackRetrainEnd k false) s = .next (failRows k.val (wentOffline k.val m i log s)) := by
  obtain ⟨m, i, log, h⟩ := devIrq_spec 1 (logErr (.offline k.val)
    { retrained k.val s with regs := { s.regs with offline := setBit s.regs.offline k.val } })
  refine ⟨m, i, log, congrArg Outcome.next ((if_pos (List.contains_iff_mem.2 hk)).trans ?_)⟩
  refine (congrArg (fun t => retryColls (failRows k.val t)) h).trans (retryColls_idle ?_ ?_)
  · rw [failRows_eq]
    exact hinbox
  · rw [failRows_eq]
    exact hcols

/-! ### Recovery scrubs (R278) -/

/-- The state in which a recovery scrub is pending no more. -/
def scrubDone (ks : Bool) (u : Nat) (s : State) : State :=
  { s with
    mem := { s.mem with scrubs := s.mem.scrubs.filter fun x => decide (x ≠ (ks, u)) }
    regs := if ks then { s.regs with ksPend := clrBit s.regs.ksPend u } else { s.regs with bgPend := clrBit s.regs.bgPend u } }

/-- The poisoned lines of a unit. -/
def poisonIn (ks : Bool) (u : Nat) (s : State) : List Nat := s.mem.poison.filter (inUnit ks u)

/-- The state in which the lines of a unit that are poisoned already are logged. -/
def scrubLogged (ks : Bool) (u : Nat) (s : State) : State := (poisonIn ks u s).foldl scrubFound (scrubDone ks u s)

theorem exec_recoveryScrubEnd {s : State} {ks : Bool} {u : Fin 32} (h : (ks, u.val) ∈ s.mem.scrubs)
    (found : List (Nat × ErrPat)) : exec (.recoveryScrubEnd ks u found) s =
      .next ((found.filter fun x => inUnit ks u.val x.1 && !poisoned s x.1).foldl scrubMet (scrubLogged ks u.val s)) :=
  congrArg Outcome.next (if_pos (List.contains_iff_mem.2 h))

/-- A line that is poisoned already is logged and counted, and marks no scrub. -/
theorem scrubFound_of_poisoned {l : Nat} {s : State} (h : poisoned s l = true) :
    (scrubFound s l).mem = s.mem ∧ (scrubFound s l).regs.ksPend = s.regs.ksPend ∧ (scrubFound s l).regs.bgPend = s.regs.bgPend := by
  have hp : ∀ r : Regs, poisoned { s with regs := r } l = true := fun _ => h
  simp only [scrubFound, noteUncorr, poisonLine, noteLast, logErr, hp]
  exact ⟨rfl, rfl, rfl⟩

theorem foldl_scrubFound_of_poisoned (bad : List Nat) {s : State} (h : ∀ l ∈ bad, poisoned s l = true) :
    (bad.foldl scrubFound s).mem = s.mem ∧ (bad.foldl scrubFound s).regs.ksPend = s.regs.ksPend ∧
      (bad.foldl scrubFound s).regs.bgPend = s.regs.bgPend := by
  induction bad generalizing s with
  | nil => exact ⟨rfl, rfl, rfl⟩
  | cons l r ih =>
    obtain ⟨hmem, hks, hbg⟩ := scrubFound_of_poisoned (h l List.mem_cons_self)
    have hrest : ∀ x ∈ r, poisoned (scrubFound s l) x = true := fun x hx => by
      rw [poisoned, hmem]
      exact h x (List.mem_cons_of_mem _ hx)
    obtain ⟨hmem', hks', hbg'⟩ := ih hrest
    exact ⟨hmem'.trans hmem, hks'.trans hks, hbg'.trans hbg⟩

theorem scrubLogged_spec (ks : Bool) (u : Nat) (s : State) : (scrubLogged ks u s).mem = (scrubDone ks u s).mem ∧
    (scrubLogged ks u s).regs.ksPend = (scrubDone ks u s).regs.ksPend ∧
    (scrubLogged ks u s).regs.bgPend = (scrubDone ks u s).regs.bgPend :=
  foldl_scrubFound_of_poisoned (poisonIn ks u s) fun _ hl => poisoned_iff.2 (List.mem_filter.1 hl).1

theorem scrubLogged_mem (ks : Bool) (u : Nat) (s : State) : (scrubLogged ks u s).mem =
    { s.mem with scrubs := s.mem.scrubs.filter fun x => decide (x ≠ (ks, u)) } := (scrubLogged_spec ks u s).1

/-- The pending bit of the unit is clear. -/
theorem scrubLogged_pending (ks : Bool) (u : Nat) (s : State) :
    if ks = true then (scrubLogged ks u s).regs.ksPend.getLsbD u = false else (scrubLogged ks u s).regs.bgPend.getLsbD u = false := by
  obtain ⟨-, hks, hbg⟩ := scrubLogged_spec ks u s
  cases ks with
  | true => rw [if_pos rfl, hks]; simp [scrubDone, getLsbD_clrBit]
  | false => rw [if_neg Bool.false_ne_true, hbg]; simp [scrubDone, getLsbD_clrBit]

/-- The one line that a recovery scrub finds uncorrectable is logged, counted and poisoned. -/
theorem exec_recoveryScrubEnd_uncorrectable {s : State} {ks : Bool} {u : Fin 32} {line : Nat} {p : ErrPat}
    (h : (ks, u.val) ∈ s.mem.scrubs) (hr : readRes p = .uncorrectable) (hin : inUnit ks u.val line = true)
    (hp : poisoned s line = false) :
    exec (.recoveryScrubEnd ks u [(line, p)]) s = .next (scrubFound (scrubLogged ks u.val s) line) := by
  have hone : ([(line, p)].filter fun x => inUnit ks u.val x.1 && !poisoned s x.1) = [(line, p)] := by simp [hin, hp]
  rw [exec_recoveryScrubEnd h, hone, List.foldl_cons, List.foldl_nil, scrubMet, hr]

theorem poisoned_scrubFound {line l : Nat} {s : State} :
    poisoned (scrubFound s line) l = true ↔ l = line ∨ poisoned s l = true := by
  rw [scrubFound, poisoned_noteUncorr, poisoned, logErr_mem, poisoned]

/-! ### The obligation -/

/-- Settles O54: what a read finds decides over a scrub read, a waiting row or collective over a timeout, and the marks of a
poisoned line change no byte. -/
theorem memoryEvents : Obligations.MemoryEvents := by
  unfold Obligations.MemoryEvents
  refine ⟨?scrub, ?timeout, ?retrain, ?recovery⟩
  case scrub =>
    intro s ks u p ov j i line hup hunit hon hp
    have hp' : poisoned (scrubNext ks u.val s) (scrubLine ks u.val s) = false := hp
    refine ⟨_, exec_scrubRead p ov hup hunit hon, (scrub_scrubPos _ _ p ov hp').trans (scrubNext_scrubPos ..),
      fun hr => ?_, fun hr => ?_, fun hr => ?_⟩
    · rw [scrub_clean hp' hr]
      rfl
    · rw [scrub_corrected hp' hr]
      obtain ⟨x, l, f, hfix⟩ := scrubFix_spec (scrubLine ks u.val s) (scrubPassOf ks u.val s) (noteCorr 1 (scrubNext ks u.val s))
      refine ⟨by rw [hfix]; rfl, by rw [hfix]; rfl, by rw [hfix]; rfl, fun n pass hin hrow hpass hn => ?_⟩
      rw [scrubPassOf, ← hpass]
      exact mem_spare_scrubFix (s := noteCorr 1 (scrubNext ks u.val s)) hin hrow hn
    · rw [scrub_uncorrectable hp' hr]
      exact ⟨poisoned_noteUncorr.2 (.inl rfl), noteUncorr_dev .., noteUncorr_uncorr .., fun hlt => noteUncorr_lastAddr _ _ hlt,
        noteUncorr_lastKind ..⟩
  case timeout =>
    intro s line w hup hin hon
    refine ⟨fun hcols => ?_, fun c k hw hc hk _ => ?_⟩
    · have hnone := collHeld_of_no_cols hcols line w
      have hstack : stackOf (line * 64) ∈ (noteTimeout line w s).mem.retrain := mem_insNat.2 (.inl rfl)
      cases w with
      | true =>
        exact ⟨_, exec_lowerTierTimeout_alone hup hin hon (.inl rfl) hnone, hstack, fun _ => mem_insNat.2 (.inl rfl),
          fun h => (Bool.noConfusion h), rfl, rfl⟩
      | false =>
        cases hr : s.mem.passHeld.find? fun y => y.lines.contains line with
        | none =>
          have hrows : ∀ y ∈ s.mem.passHeld, line ∉ y.lines := by simpa using hr
          exact ⟨_, exec_lowerTierTimeout_alone hup hin hon (.inr hrows) hnone, hstack, fun h => (Bool.noConfusion h),
            fun _ _ h => (nomatch h), rfl, rfl⟩
        | some r =>
          refine ⟨_, exec_lowerTierTimeout_row hup hin hon hr, hstack, fun h => (Bool.noConfusion h), fun _ r' h => ?_, rfl, rfl⟩
          obtain rfl := Option.some.inj h
          exact ⟨rfl, rfl, rfl⟩
    · have hwork := endColl_completionWork c { status := stTimeout, reply := some (((collOf s c).map collReply).getD 0) }
        (noteTimeout line w s)
      exact ⟨_, exec_lowerTierTimeout_coll hup hin hon hw hc, endColl_done (((noteTimeout_sameCmds line w s).cmdOf c).trans hk) rfl,
        collOf_endColl .., hwork.dev, hwork.ob⟩
  case retrain =>
    intro s k hk hinbox hcols
    refine ⟨⟨_, exec_stackRetrainEnd_ok hk hinbox hcols, ?_, latePoisoned_offline .., fun l hl hstack => ?_, fun l hl => ?_,
      latePoisoned_dev .., latePoisoned_ob ..⟩, ?_⟩
    · rw [latePoisoned_retrain]
      exact not_mem_delNat _ _
    · exact poisoned_latePoisoned.2 (.inl ⟨hl, hstack⟩)
    · exact poisoned_latePoisoned.2 (.inr hl)
    · obtain ⟨m, i, log, h⟩ := exec_stackRetrainEnd_fail hk hinbox hcols
      have hrows := failRows_eq k.val (wentOffline k.val m i log s)
      refine ⟨_, h, ?_, ?_, fun i hi => ?_, ?_, fun y hy hline => failRows_answers hy hline, ?_, ?_⟩
      · rw [hrows]
        exact not_mem_delNat k.val s.mem.retrain
      · rw [hrows]
        exact (getLsbD_setBit s.regs.offline k.isLt k).trans (by simp)
      · rw [hrows]
        exact (getLsbD_setBit s.regs.offline k.isLt _).trans (by simp [hi])
      · rw [hrows]; rfl
      · rw [hrows]; rfl
      · rw [hrows]; rfl
  case recovery =>
    intro s ks u hu
    have hmem := scrubLogged_mem ks u.val s
    refine ⟨⟨_, exec_recoveryScrubEnd hu [], ?_, scrubLogged_pending .., ?_, ?_, ?_⟩, fun line p hr hin hp =>
      ⟨_, exec_recoveryScrubEnd_uncorrectable hu hr hin hp, poisoned_scrubFound.2 (.inl rfl), fun l hne => ?_, ?_, ?_⟩⟩
    · simp [hmem]
    · simp [hmem]
    · simp [hmem]
    · simp [hmem]
    · rw [Bool.eq_iff_iff, poisoned_scrubFound, or_iff_right hne, poisoned, hmem, poisoned]
    · rw [scrubFound, noteUncorr_dev, logErr_mem, hmem]
    · rw [scrubFound, noteUncorr_ob, logErr_mem, hmem]

end Sys2Proof.Machine
end

section
/-!
PROOFS. What data commands share: numbers as bytes in memory, reads and stores of spans in healthy memory for a task without a
Cocoon (R272 to R283), and device memory at a command's start.
-/
namespace Sys2Proof.Machine
open Host

/-! ### Bytes of a number in memory -/

theorem leBytes_append (m n v : Nat) : leBytes (m + n) v = leBytes m v ++ leBytes n (v / 256 ^ m) := by
  induction m generalizing v with
  | zero => simp [leBytes]
  | succ m ih => rw [Nat.succ_add, leBytes, leBytes, ih, Nat.div_div_eq_div_mul, ← Nat.pow_succ', List.cons_append]

/-- The low `n` bytes do not see what stands above them. -/
theorem leBytes_mod (n v : Nat) : leBytes n (v % 256 ^ n) = leBytes n v := by
  induction n generalizing v with
  | zero => rfl
  | succ n ih =>
    have hlow : BitVec.ofNat 8 (v % 256 ^ (n + 1)) = BitVec.ofNat 8 v :=
      BitVec.eq_of_toNat_eq (Nat.mod_mod_of_dvd v (Dvd.intro_left (256 ^ n) rfl))
    have hhigh : v % 256 ^ (n + 1) / 256 = v / 256 % 256 ^ n := by rw [Nat.pow_succ', Nat.mod_mul_right_div_self]
    rw [leBytes, leBytes, hlow, hhigh, ih]

theorem memWrite_append {z : Byte} (x y : List Byte) (m : Mem) (a : Nat) :
    memWrite z m a (x ++ y) = memWrite z (memWrite z m a x) (a + x.length) y := by
  induction x generalizing m a with
  | nil => rfl
  | cons b r ih => simp only [List.cons_append, memWrite, ih, List.length_cons, Nat.add_assoc, Nat.add_comm 1]

/-- A read within a number that was written. -/
theorem memRead_memWrite_leBytes {z : Byte} {m : Mem} (h : Memory.wfOf z m = true) (a v : Nat) {off n len : Nat}
    (hlen : off + n ≤ len) : memRead z (memWrite z m a (leBytes len v)) (a + off) n = leBytes n (v / 256 ^ off) := by
  obtain ⟨r, rfl⟩ := Nat.exists_eq_add_of_le hlen
  have hm := memWrite_wf (leBytes off v) a h
  have hin := memRead_in (bs := leBytes n (v / 256 ^ off)) (a := a + off) hm
  rw [leBytes_append, leBytes_append, List.append_assoc, memWrite_append, leBytes_length, memWrite_append, leBytes_length,
    memRead_out (memWrite_wf _ _ hm) (.inl (Nat.le_refl _))]
  rwa [leBytes_length] at hin

/-! ### Stores of spans one after the other -/

/-- Device memory after stores of bytes at addresses, in order. -/
def stored (m : Mem) (ws : List (Nat × List Byte)) : Mem := ws.foldl (fun m w => memWrite 0 m w.1 w.2) m

theorem stored_cons (m : Mem) (w : Nat × List Byte) (ws : List (Nat × List Byte)) :
    stored m (w :: ws) = stored (memWrite 0 m w.1 w.2) ws := rfl

theorem stored_singleton (m : Mem) (a : Nat) (bs : List Byte) : stored m [(a, bs)] = memWrite 0 m a bs := rfl

theorem memGet_stored_outside {ws : List (Nat × List Byte)} {m : Mem} (h : Memory.wfOf 0 m = true) {a : Nat}
    (ha : ∀ w ∈ ws, a < w.1 ∨ w.1 + w.2.length ≤ a) : memGet 0 (stored m ws) a = memGet 0 m a := by
  induction ws generalizing m with
  | nil => rfl
  | cons w r ih =>
    have hw := ha w List.mem_cons_self
    rw [stored_cons, ih (memWrite_wf _ _ h) fun y hy => ha y (List.mem_cons_of_mem _ hy), memGet_memWrite _ _ _ h,
      if_neg (by omega)]

/-- Of stores that do not meet, each stands as it was written. -/
theorem memRead_stored {ws : List (Nat × List Byte)} {m : Mem} (h : Memory.wfOf 0 m = true)
    (hp : ws.Pairwise fun v w => v.1 + v.2.length ≤ w.1) {w : Nat × List Byte} (hw : w ∈ ws) :
    memRead 0 (stored m ws) w.1 w.2.length = w.2 := by
  induction ws generalizing m with
  | nil => cases hw
  | cons v r ih =>
    obtain ⟨hv, hr⟩ := List.pairwise_cons.1 hp
    have hm := memWrite_wf v.2 v.1 h
    rw [stored_cons]
    rcases List.mem_cons.1 hw with rfl | hw
    · refine Eq.trans (List.map_congr_left fun i hi => memGet_stored_outside hm fun y hy => ?_) (memRead_in h)
      have := hv y hy
      have := List.mem_range.1 hi
      omega
    · exact ih hm hr hw

/-! ### A command's accesses to healthy memory, for a task without a Cocoon -/

theorem viewAddr_plain {s : State} {o : Owner} (hc : cocoonOf s o = none) (a : Nat) : viewAddr s o a = a := by
  rw [viewAddr, hc]

theorem cocoonOf_putRaw (a : Nat) (bs : List Byte) (s : State) (o : Owner) : cocoonOf (putRaw a bs s) o = cocoonOf s o := by
  cases o <;> rfl

/-- What such a task reads is what the memory holds. -/
theorem readBytes_plain {s : State} {o : Owner} (hc : cocoonOf s o = none) {a n : Nat} (hspan : spanMem a n = true) :
    readBytes s o a n = memRead 0 s.mem.dev a n := by
  refine List.map_congr_left fun i hi => ?_
  have := List.mem_range.1 hi
  rw [readByte, inWin_of_spanMem hspan (by omega), viewAddr_plain hc]
  rfl

theorem lineFault_healthy {s : State} {e : Circ} (hh : healthy s e) {a : Nat} (hwin : inWin a = false) (o : Owner) :
    lineFault s o e a = 0 := by
  obtain ⟨hpoison, hoffline, -, herrs, hlate, -, hgone⟩ := hh
  simp [lineFault, hwin, offlineAt, poisoned, lineBad, lineRes, hasLine, hpoison, hoffline, herrs, hlate, hgone]

theorem readFault_healthy {s : State} {e : Circ} (hh : healthy s e) {a n : Nat} (hspan : spanMem a n = true) (o : Owner) :
    readFault s o e a n = none := by
  refine List.findSome?_eq_none_iff.2 fun l hl => ?_
  have hwin : inWin (l * 64) = false := by
    refine inWin_of_spanMem hspan ?_
    unfold linesOf at hl
    split at hl
    · cases hl
    · obtain ⟨i, hi, rfl⟩ := List.mem_map.1 hl
      have := List.mem_range.1 hi
      omega
  simp [lineFault_healthy hh hwin o]

/-- Reads of such memory leave nothing behind. -/
theorem noteReads_healthy {s : State} {e : Circ} (hh : healthy s e) (o : Owner) (l : List (Nat × Nat)) :
    noteReads o e l s = s := by
  obtain ⟨hpoison, -, -, herrs, hlate, -, -⟩ := hh
  simp [noteReads, hpoison, herrs, hlate]

/-- A write within a line takes place. -/
theorem putLine_plain {s : State} {o : Owner} {e : Circ} (hh : healthy s e) (hc : cocoonOf s o = none) {a : Nat}
    (hwin : inWin a = false) (bs : List Byte) : putLine o e a bs s = (putRaw a bs s, 0) := by
  obtain ⟨hpoison, hoffline, -, herrs, hlate, -, -⟩ := hh
  have hkeep : (putRaw a bs s).setPoison [] = putRaw a bs s := by rw [← hpoison]; rfl
  have hview : ∀ b, viewAddr s o b = b := viewAddr_plain hc
  have hmark : ∀ b, markLine o b (putRaw a bs s) = putRaw a bs s := fun b => by
    rw [markLine, cocoonOf_putRaw, hc]
  simp [putLine, shadow, hc, hview, hmark, offlineAt, lineBad, lineFixed, lineRes, poisoned, hasLine, delNat, hwin, hoffline,
    herrs, hlate, hpoison, hkeep]

/-- So does a write of a span, which is one write at its place. -/
theorem putSpan_plain {e : Circ} {o : Owner} (n : Nat) {s : State} {a : Nat} {bs : List Byte} (hh : healthy s e)
    (hc : cocoonOf s o = none) (hwin : ∀ b, b ≤ a + bs.length - 1 → inWin b = false) (hn : a % 64 + bs.length ≤ 64 * n) :
    putSpan o e (linePieces a n bs) s = (putRaw a bs s, none) := by
  induction n generalizing s a bs with
  | zero =>
    obtain rfl : bs = [] := List.length_eq_zero_iff.1 (by omega)
    rfl
  | succ n ih =>
    rw [linePieces]
    split
    · split
      · rename_i hempty
        obtain rfl : bs = [] := List.isEmpty_iff.1 hempty
        rfl
      · rename_i hempty
        have hpos : 0 < bs.length := List.length_pos_iff.2 fun h => hempty (List.isEmpty_iff.2 h)
        rw [putSpan, putLine_plain hh hc (hwin a (by omega))]
        rfl
    · rename_i hlong
      have htake : (bs.take (64 - a % 64)).length = 64 - a % 64 := by rw [List.length_take]; omega
      have hrest := ih (s := putRaw a (bs.take (64 - a % 64)) s) (a := a + (64 - a % 64)) (bs := bs.drop (64 - a % 64)) hh
        (by rwa [cocoonOf_putRaw]) (fun b hb => hwin b (by rw [List.length_drop] at hb; omega)) (by rw [List.length_drop]; omega)
      rw [putSpan, putLine_plain hh hc (hwin a (by omega))]
      refine hrest.trans ?_
      have happend := memWrite_append (z := 0) (bs.take (64 - a % 64)) (bs.drop (64 - a % 64)) s.mem.dev a
      rw [List.take_append_drop, htake] at happend
      simp only [putRaw, setDev_dev, happend]
      rfl

theorem putDev_plain {s : State} {o : Owner} {e : Circ} (hh : healthy s e) (hc : cocoonOf s o = none) {a : Nat} {bs : List Byte}
    (hspan : spanMem a bs.length = true) : putDev o e a bs s = (putRaw a bs s, none) :=
  putSpan_plain _ hh hc (fun _ => inWin_of_spanMem hspan) (by omega)

/-- A piece of work that reads spans and stores bytes at addresses. -/
def storePiece (reads : List (Nat × Nat)) (ws : List (Nat × List Byte)) : Piece :=
  { reads := reads, writes := ws.map fun w => devWr w.1 w.2 }

theorem putWrs_plain {o : Owner} {e : Circ} (core : Nat) {ws : List (Nat × List Byte)} {s : State} (hh : healthy s e)
    (hc : cocoonOf s o = none) (hspan : ∀ w ∈ ws, spanMem w.1 w.2.length = true) :
    putWrs o e core (ws.map fun w => devWr w.1 w.2) s = (s.setDev (stored s.mem.dev ws), none) := by
  induction ws generalizing s with
  | nil => rfl
  | cons w r ih =>
    have hput : putWr o e core (devWr w.1 w.2) s = (putRaw w.1 w.2 s, none) := putDev_plain hh hc (hspan w List.mem_cons_self)
    rw [List.map_cons, putWrs, hput]
    exact ih (s := putRaw w.1 w.2 s) hh (by rwa [cocoonOf_putRaw]) fun y hy => hspan y (List.mem_cons_of_mem _ hy)

theorem firstFault_storePiece {s : State} {o : Owner} {e : Circ} {reads : List (Nat × Nat)} (ws : List (Nat × List Byte))
    (hh : healthy s e) (hreads : ∀ x ∈ reads, spanMem x.1 x.2 = true) : firstFault s o e [storePiece reads ws] = none := by
  have hread : reads.findSome? (fun x => readFault s o e x.1 x.2) = none :=
    List.findSome?_eq_none_iff.2 fun x hx => readFault_healthy hh (hreads x hx) o
  simp [firstFault, Piece.faultOf, storePiece, hread]

/-- A command of one such piece leaves its stores, and does not fail. -/
theorem runPieces_storePiece {s : State} {o : Owner} {e : Circ} (core : Nat) {reads : List (Nat × Nat)}
    {ws : List (Nat × List Byte)} (hh : healthy s e) (hc : cocoonOf s o = none) (hreads : ∀ x ∈ reads, spanMem x.1 x.2 = true)
    (hspan : ∀ w ∈ ws, spanMem w.1 w.2.length = true) :
    runPieces false o e core [storePiece reads ws] s = (s.setDev (stored s.mem.dev ws), none) := by
  have hnote : notePieces o e [storePiece reads ws] s = s := by
    simp [notePieces, noteArrived, noteReads_healthy hh, storePiece]
  have hwrites : (storePiece reads ws).writes.filter (fun w => !w.next) =
      ws.map fun w => devWr w.1 w.2 := List.filter_eq_self.2 fun w hw => by
    obtain ⟨y, -, rfl⟩ := List.mem_map.1 hw
    rfl
  have hput : putPieces o e core 1 [(storePiece reads ws, 0)] s = (s.setDev (stored s.mem.dev ws), none) := by
    simp [putPieces, hwrites, putWrs_plain core hh hc hspan]
  simp [runPieces, firstFault_storePiece ws hh hreads, hnote, hput]

/-! ### The start of a command reads memory and writes none -/

theorem noteRead_dev (o : Owner) (e : Circ) (s : State) (a : Nat) : (noteRead o e s a).mem.dev = s.mem.dev := by
  unfold noteRead
  dsimp only
  repeat' split
  all_goals first
    | exact noteUncorr_dev ..
    | rfl

theorem noteReads_dev (o : Owner) (e : Circ) (l : List (Nat × Nat)) (s : State) : (noteReads o e l s).mem.dev = s.mem.dev := by
  unfold noteReads
  split
  · rfl
  · exact foldl_keeps (·.mem.dev) (fun t l => noteRead_dev o e t (l * 64)) _ s

theorem readLuna_dev (f : Family) (x : Ctx) (s : State) : (readLuna f x s).mem.dev = s.mem.dev := by
  unfold readLuna
  dsimp only
  repeat' split
  all_goals simp [noteReads_dev]

theorem readStep_dev (f : Family) (x : Ctx) (s : State) : (readStep f x s).mem.dev = s.mem.dev := by
  unfold readStep
  split
  · rfl
  · rw [noteReads_dev, modCmd_mem]

theorem claimBank_dev (core : Nat) (r : QRef) (t : Nat) (s : State) (b : Nat) : (claimBank core r t s b).mem.dev = s.mem.dev := by
  unfold claimBank
  split <;> rfl

theorem beginCmd_dev (f : Family) (x : Ctx) (core : Option Nat) (s : State) : (beginCmd f x core s).mem.dev = s.mem.dev := by
  have hread := (readStep_dev f x (readLuna f x s)).trans (readLuna_dev f x s)
  unfold beginCmd
  dsimp only
  split
  · simpa using hread
  · rw [foldl_keeps (·.mem.dev) (claimBank_dev _ _ _)]
    simpa using hread

/-- The state in which a started command works is the one that its start leaves. -/
theorem startOf_begins {op : Nat} {f : Family} {c : CmdRef} {e : Circ} {s s1 : State} {x : Ctx}
    (h : startOf op f c e s = some (x, s1)) : ∃ y core, s1 = beginCmd f y core (miscorrect (circOf op c e s) s) := by
  unfold startOf at h
  dsimp only at h
  split at h
  · cases h
  · split at h
    · split at h
      · split at h
        · exact ⟨_, _, (Prod.mk.inj (Option.some.inj h)).2.symm⟩
        · cases h
      · cases h
    · cases h

/-- Where no codeword is in error, a command begins with device memory as its row finds it. -/
theorem startOf_dev {op : Nat} {f : Family} {c : CmdRef} {e : Circ} {s s1 : State} {x : Ctx}
    (h : startOf op f c e s = some (x, s1)) (he : (circOf op c e s).errs = []) : s1.mem.dev = s.mem.dev := by
  obtain ⟨y, core, rfl⟩ := startOf_begins h
  rw [beginCmd_dev, miscorrect_clean _ s he]

end Sys2Proof.Machine
end

section
/-!
PROOFS. RNG.SET (R223, R231, R232): the record that INIT writes, the words that OFFSETS and ADVANCE write, the binding.
-/
namespace Sys2Proof.Machine
open Host

/-! ### The record that INIT writes (R231, R232) -/

theorem fld_lt (v hi lo : Nat) : fld v hi lo < 2 ^ (hi + 1 - lo) := Nat.mod_lt _ (Nat.two_pow_pos _)

/-- The offset of a slot in the record of INIT. -/
def RngSet.offset (p : RngSet) (i : Nat) : Nat := if p.mask.testBit i then p.val i else 0

/-- The words of the record behind its key: 0, then the offsets of the slots. -/
def RngSet.words (p : RngSet) : List Nat := 0 :: rngSlots.map p.offset

/-- The field widths of parsed parameters. -/
def RngSet.narrow (p : RngSet) : Prop := p.key < 2 ^ 128 ∧ ∀ i, p.val i < 2 ^ 32

theorem RngSet.parse_narrow (v : Nat) : (RngSet.parse v).narrow := by
  refine ⟨fld_lt v 255 128, fun i => Nat.lt_of_lt_of_le (fld_lt v (32 * i + 251) (32 * i + 224)) ?_⟩
  exact Nat.pow_le_pow_right (by omega) (by omega)

theorem RngSet.words_lt {p : RngSet} (h : p.narrow) : ∀ w ∈ p.words, w < 2 ^ 32 := by
  intro w hw
  rcases List.mem_cons.1 hw with rfl | hw
  · exact Nat.two_pow_pos 32
  · obtain ⟨i, -, rfl⟩ := List.mem_map.1 hw
    unfold RngSet.offset
    split
    · exact h.2 i
    · exact Nat.two_pow_pos 32

theorem RngSet.words_zero (p : RngSet) : p.words.getD 0 0 = 0 := rfl

theorem RngSet.words_getD (p : RngSet) {i : Nat} (h1 : 1 ≤ i) (h15 : i ≤ 15) : p.words.getD i 0 = p.offset i := by
  obtain ⟨j, rfl⟩ := Nat.exists_eq_add_of_le' h1
  have hj : j < 15 := by omega
  simp [RngSet.words, rngSlots, hj]

/-- Slots from `k` on add their offsets at the places of their words. -/
theorem RngSet.foldl_slots (p : RngSet) (n k v : Nat) :
    ((List.range' k n).filter fun i => p.mask.testBit i).foldl (fun v i => v + p.val i <<< (32 * i + 128)) v =
      v + 2 ^ (32 * k + 128) * Nat.ofDigits (2 ^ 32) ((List.range' k n).map p.offset) := by
  induction n generalizing k v with
  | zero => simp
  | succ n ih =>
    have hstep : 2 ^ (32 * (k + 1) + 128) = 2 ^ (32 * k + 128) * 2 ^ 32 := by rw [← Nat.pow_add]; congr 1
    rw [List.range'_succ, List.map_cons, Nat.ofDigits_cons, RngSet.offset]
    by_cases hk : p.mask.testBit k = true
    · rw [List.filter_cons_of_pos hk, List.foldl_cons, ih, if_pos hk, Nat.shiftLeft_eq, hstep]
      ring
    · rw [List.filter_cons_of_neg hk, ih, if_neg hk, hstep]
      ring

theorem RngSet.record_eq (p : RngSet) : p.record = p.key + 2 ^ 128 * Nat.ofDigits (2 ^ 32) p.words := by
  have hslots : rngSlots = List.range' 1 15 := by decide
  rw [RngSet.record, RngSet.slots, RngSet.words, hslots, RngSet.foldl_slots, Nat.ofDigits_cons]
  ring

theorem RngSet.record_key {p : RngSet} (h : p.narrow) : leBytes 16 p.record = leBytes 16 p.key := by
  have hpow : 256 ^ 16 = 2 ^ 128 := by norm_num
  rw [← leBytes_mod 16 p.record, RngSet.record_eq, hpow, Nat.add_mul_mod_self_left, Nat.mod_eq_of_lt h.1]

/-- The record from word `i` behind its key on. -/
theorem RngSet.record_div {p : RngSet} (h : p.narrow) (i : Nat) :
    p.record / 256 ^ (16 + 4 * i) = Nat.ofDigits (2 ^ 32) (p.words.drop i) := by
  have hpow : 256 ^ (16 + 4 * i) = 2 ^ 128 * (2 ^ 32) ^ i := by
    rw [Nat.pow_add, Nat.pow_mul]
    norm_num
  rw [hpow, ← Nat.div_div_eq_div_mul, RngSet.record_eq, Nat.add_mul_div_left _ _ (Nat.two_pow_pos 128),
    Nat.div_eq_of_lt h.1, Nat.zero_add]
  exact Nat.ofDigits_div_pow_eq_ofDigits_drop i (Nat.two_pow_pos 32) _ (RngSet.words_lt h)

theorem RngSet.record_word {p : RngSet} (h : p.narrow) {i : Nat} (hi : i ≤ 15) :
    leBytes 4 (p.record / 256 ^ (16 + 4 * i)) = leBytes 4 (p.words.getD i 0) := by
  have hlen : i < p.words.length := Nat.lt_succ_of_le hi
  rw [RngSet.record_div h, List.drop_eq_getElem_cons hlen, Nat.ofDigits_cons, ← leBytes_mod 4,
    List.getD_eq_getElem _ _ hlen, ← leBytes_mod 4 p.words[i]]
  congr 1
  exact Nat.add_mul_mod_self_left p.words[i] (2 ^ 32) _

/-- Behind its 16 words the record is 0. -/
theorem RngSet.record_high {p : RngSet} (h : p.narrow) {n : Nat} (hn : 80 ≤ n) : p.record / 256 ^ n = 0 := by
  obtain ⟨k, rfl⟩ := Nat.exists_eq_add_of_le hn
  have h80 : p.record / 256 ^ 80 = 0 := RngSet.record_div h 16
  rw [Nat.pow_add, ← Nat.div_div_eq_div_mul, h80, Nat.zero_div]

/-! ### What RNG.SET stores -/

/-- The stores of RNG.SET, in order. -/
def RngSet.stores (p : RngSet) (s : State) (o : Owner) : List (Nat × List Byte) :=
  match p.op with
  | 0 => [(p.rec1, leBytes 128 p.record)]
  | 3 => []
  | _ => p.slots.map fun i => (p.rec1 + 16 + 4 * i, leBytes 4 (p.word s o i))

theorem RngSet.piece_eq (p : RngSet) (s : State) (o : Owner) :
    p.piece s o = storePiece (if p.op = 2 then [(p.rec1, 128)] else []) (p.stores s o) := by
  unfold RngSet.piece RngSet.stores
  split
  · rename_i h; simp [storePiece, h, devWr]
  · rename_i h; simp [storePiece, h]
  · simp [storePiece, devWr, Function.comp_def]

theorem RngSet.stores_init {p : RngSet} (h : p.op = 0) (s : State) (o : Owner) :
    p.stores s o = [(p.rec1, leBytes 128 p.record)] := by simp only [RngSet.stores, h]

theorem RngSet.stores_bind {p : RngSet} (h : p.op = 3) (s : State) (o : Owner) : p.stores s o = [] := by
  simp only [RngSet.stores, h]

theorem RngSet.stores_offsets {p : RngSet} (h : p.op = 1 ∨ p.op = 2) (s : State) (o : Owner) :
    p.stores s o = p.slots.map fun i => (p.rec1 + 16 + 4 * i, leBytes 4 (p.word s o i)) := by
  rcases h with h | h <;> simp only [RngSet.stores, h]

theorem RngSet.mem_slots {p : RngSet} {i : Nat} : i ∈ p.slots ↔ (1 ≤ i ∧ i ≤ 15) ∧ p.mask.testBit i = true := by
  have hslots : i ∈ rngSlots ↔ 1 ≤ i ∧ i ≤ 15 := by
    simp only [rngSlots, List.mem_map, List.mem_range]
    exact ⟨fun ⟨j, hj, h⟩ => by omega, fun h => ⟨i - 1, by omega, by omega⟩⟩
  rw [RngSet.slots, List.mem_filter, hslots]

/-- Every store lies in the record. -/
theorem RngSet.stores_within {p : RngSet} {s : State} {o : Owner} {w : Nat × List Byte} (hw : w ∈ p.stores s o) :
    p.rec1 ≤ w.1 ∧ w.1 + w.2.length ≤ p.rec1 + 128 ∧ 0 < w.2.length := by
  unfold RngSet.stores at hw
  split at hw
  · obtain rfl := List.mem_singleton.1 hw
    simp [leBytes_length]
  · cases hw
  · obtain ⟨i, hi, rfl⟩ := List.mem_map.1 hw
    obtain ⟨⟨-, h15⟩, -⟩ := RngSet.mem_slots.1 hi
    simp only [leBytes_length]
    omega

/-- The stores of OFFSETS and ADVANCE do not meet: the slots ascend. -/
theorem RngSet.stores_apart (p : RngSet) (s : State) (o : Owner) :
    (p.slots.map fun i => (p.rec1 + 16 + 4 * i, leBytes 4 (p.word s o i))).Pairwise fun v w => v.1 + v.2.length ≤ w.1 := by
  have hslots : p.slots.Pairwise (· < ·) := List.Pairwise.filter _ (by decide)
  refine List.pairwise_map.2 (hslots.imp fun {i j} hij => ?_)
  simp only [leBytes_length]
  omega

/-- The word that OFFSETS or ADVANCE writes, by the word in memory: the new offset below the reserved bits. -/
theorem RngSet.word_plain (p : RngSet) {s : State} {o : Owner} (hc : cocoonOf s o = none) {i : Nat}
    (hspan : spanMem (p.rec1 + 16 + 4 * i) 4 = true) :
    p.word s o i =
      let w := leNat (memRead 0 s.mem.dev (p.rec1 + 16 + 4 * i) 4)
      (if p.op = 2 then (w + p.val i) % 2 ^ 28 else p.val i) + w / 2 ^ 28 * 2 ^ 28 := by
  simp only [RngSet.word, readNat, readBytes_plain hc hspan, Nat.mod_add_mod]

theorem spanMem_of_spanKs {a n b m : Nat} (h : spanKs a n = true) (hlo : a ≤ b) (hhi : b + m ≤ a + n) (hm : 0 < m) :
    spanMem b m = true := by
  simp only [spanKs, inKs, Bool.and_eq_true, decide_eq_true_eq] at h
  simp only [spanMem, spanKs, inKs, Bool.or_eq_true, Bool.and_eq_true, decide_eq_true_eq]
  omega

/-! ### The record that each operation leaves -/

/-- A field within the record that INIT stores. -/
theorem RngSet.memRead_init (p : RngSet) {m : Mem} (hm : Memory.wfOf 0 m = true) {off n : Nat} (hlen : off + n ≤ 128) :
    memRead 0 (stored m [(p.rec1, leBytes 128 p.record)]) (p.rec1 + off) n = leBytes n (p.record / 256 ^ off) := by
  rw [stored_singleton, memRead_memWrite_leBytes hm p.rec1 p.record hlen]

theorem RngSet.memRead_init_word {p : RngSet} (hp : p.narrow) {m : Mem} (hm : Memory.wfOf 0 m = true) {i : Nat} (hi : i ≤ 15) :
    memRead 0 (stored m [(p.rec1, leBytes 128 p.record)]) (p.rec1 + 16 + 4 * i) 4 = leBytes 4 (p.words.getD i 0) := by
  rw [Nat.add_assoc, RngSet.memRead_init p hm (by omega), RngSet.record_word hp hi]

/-- Key, first word, offsets and the rest of the record after INIT. -/
theorem RngSet.stored_init {p : RngSet} (hp : p.narrow) (hop : p.op = 0) (s : State) (o : Owner) {m : Mem}
    (hm : Memory.wfOf 0 m = true) : memRead 0 (stored m (p.stores s o)) p.rec1 16 = leBytes 16 p.key ∧
      memRead 0 (stored m (p.stores s o)) (p.rec1 + 16) 4 = leBytes 4 0 ∧
      (∀ i, 1 ≤ i → i ≤ 15 → memRead 0 (stored m (p.stores s o)) (p.rec1 + 16 + 4 * i) 4 =
        leBytes 4 (if p.mask.testBit i then p.val i else 0)) ∧
      (∀ a, p.rec1 + 80 ≤ a → a < p.rec1 + 128 → memGet 0 (stored m (p.stores s o)) a = 0) := by
  rw [RngSet.stores_init hop]
  refine ⟨?key, ?first, fun i h1 h15 => ?offset, fun a hlo hhi => ?rest⟩
  case key =>
    have hkey := RngSet.memRead_init p hm (off := 0) (n := 16) (by omega)
    rwa [Nat.add_zero, Nat.pow_zero, Nat.div_one, RngSet.record_key hp] at hkey
  case first =>
    have hfirst := RngSet.memRead_init_word hp hm (Nat.zero_le 15)
    rwa [Nat.mul_zero, Nat.add_zero, RngSet.words_zero] at hfirst
  case offset => rw [RngSet.memRead_init_word hp hm h15, RngSet.words_getD p h1 h15, RngSet.offset]
  case rest =>
    obtain ⟨n, rfl⟩ := Nat.exists_eq_add_of_le (Nat.le_trans (Nat.le_add_right p.rec1 80) hlo)
    have hbyte := RngSet.memRead_init p hm (off := n) (n := 1) (by omega)
    rw [RngSet.record_high hp (by omega)] at hbyte
    exact (List.cons.inj hbyte).1

/-- The word of a slot in MASK after OFFSETS or ADVANCE. -/
theorem RngSet.stored_offsets {p : RngSet} (hop : p.op = 1 ∨ p.op = 2) {s : State} {o : Owner} (hc : cocoonOf s o = none)
    (hspan : spanKs p.rec1 128 = true) (hm : Memory.wfOf 0 s.mem.dev = true) {i : Nat} (h1 : 1 ≤ i) (h15 : i ≤ 15)
    (hmask : p.mask.testBit i = true) :
    let w := leNat (memRead 0 s.mem.dev (p.rec1 + 16 + 4 * i) 4)
    memRead 0 (stored s.mem.dev (p.stores s o)) (p.rec1 + 16 + 4 * i) 4 =
      leBytes 4 ((if p.op = 2 then (w + p.val i) % 2 ^ 28 else p.val i) + w / 2 ^ 28 * 2 ^ 28) := by
  have hslot : (p.rec1 + 16 + 4 * i, leBytes 4 (p.word s o i)) ∈
      p.slots.map fun i => (p.rec1 + 16 + 4 * i, leBytes 4 (p.word s o i)) :=
    List.mem_map_of_mem (RngSet.mem_slots.2 ⟨⟨h1, h15⟩, hmask⟩)
  have hword := memRead_stored hm (RngSet.stores_apart p s o) hslot
  rwa [← RngSet.stores_offsets hop, leBytes_length,
    RngSet.word_plain p hc (spanMem_of_spanKs hspan (by omega) (by omega) (by omega))] at hword

/-- Beside the words of the slots in MASK, OFFSETS and ADVANCE leave every byte. -/
theorem RngSet.stored_offsets_beside {p : RngSet} (hop : p.op = 1 ∨ p.op = 2) (s : State) (o : Owner) {m : Mem}
    (hm : Memory.wfOf 0 m = true) {a : Nat}
    (ha : ∀ i, 1 ≤ i → i ≤ 15 → p.mask.testBit i = true → a < p.rec1 + 16 + 4 * i ∨ p.rec1 + 20 + 4 * i ≤ a) :
    memGet 0 (stored m (p.stores s o)) a = memGet 0 m a := by
  refine memGet_stored_outside hm fun w hw => ?_
  rw [RngSet.stores_offsets hop] at hw
  obtain ⟨i, hi, rfl⟩ := List.mem_map.1 hw
  obtain ⟨⟨h1, h15⟩, hmask⟩ := RngSet.mem_slots.1 hi
  have hout := ha i h1 h15 hmask
  simp only [leBytes_length]
  omega

theorem RngSet.stored_frame (p : RngSet) (s : State) (o : Owner) {m : Mem} (hm : Memory.wfOf 0 m = true) {a : Nat}
    (ha : a < p.rec1 ∨ p.rec1 + 128 ≤ a) : memGet 0 (stored m (p.stores s o)) a = memGet 0 m a := by
  refine memGet_stored_outside hm fun w hw => ?_
  have hin := RngSet.stores_within hw
  omega

/-! ### The command -/

/-- The piece of RNG.SET leaves its stores in a healthy record. -/
theorem runPieces_rngPlan {x : Ctx} {s : State} (hspan : spanKs (RngSet.parse x.par).rec1 128 = true) (hh : healthy s x.e)
    (hc : cocoonOf s x.o = none) : runPieces (rngPlan x s).mixed x.o x.e x.core (rngPlan x s).pieces s =
      (s.setDev (stored s.mem.dev ((RngSet.parse x.par).stores s x.o)), none) := by
  have hpieces : (rngPlan x s).pieces =
      [storePiece (if (RngSet.parse x.par).op = 2 then [((RngSet.parse x.par).rec1, 128)] else [])
        ((RngSet.parse x.par).stores s x.o)] := congrArg (fun y => [y]) (RngSet.piece_eq ..)
  rw [hpieces]
  refine runPieces_storePiece x.core hh hc (fun y hy => ?reads) fun w hw => ?stores
  case reads =>
    split at hy
    · obtain rfl := List.mem_singleton.1 hy
      exact spanMem_of_spanKs hspan (Nat.le_refl _) (Nat.le_refl _) (by omega)
    · cases hy
  case stores =>
    obtain ⟨hlo, hhi, hpos⟩ := RngSet.stores_within hw
    exact spanMem_of_spanKs hspan hlo hhi hpos

/-- The state in which RNG.SET completes. -/
def rngStored (x : Ctx) (s : State) : State :=
  leaveEngines x (s.setDev (stored s.mem.dev ((RngSet.parse x.par).stores s x.o)))

/-- The completion of RNG.SET, with the record's address as its reply. -/
def rngDone (x : Ctx) (s : State) : State := complete x.c { reply := some (RngSet.parse x.par).rec1 } (rngStored x s)

/-- The work of RNG.SET on a healthy record: its stores, its completion, and the record bound to its job. -/
theorem execPlan_rngPlan {x : Ctx} {s : State} (hspan : spanKs (RngSet.parse x.par).rec1 128 = true) (hh : healthy s x.e)
    (hmis : x.e.mis1 = none) (hc : cocoonOf s x.o = none) (hkept : x.cmd.kept = none) : execPlan (rngPlan x s) x s =
      { rngDone x s with luna := put x.job (RngSet.parse x.par).rec1 (rngDone x s).luna } := by
  have henter : ∀ rf, (rngPlan x s).enter x rf s = s := fun _ => rfl
  have honce := execPlan_once (rngPlan x s) x s hmis
  simp only [kept_none hkept, henter, runPieces_rngPlan hspan hh hc] at honce
  exact honce

/-- The row of RNG.SET on a healthy record: success with the record's address, the binding, the stores. -/
theorem exec_rngSet {c : CmdRef} {e : Circ} {s s1 : State} {x : Ctx} (h : startOf 0x0601 rngFamily c e s = some (x, s1))
    (hspan : spanKs (RngSet.parse x.par).rec1 128 = true) (hh : healthy s1 e) (hmis : e.mis1 = none)
    (hc : cocoonOf s1 x.o = none) :
    ∃ t, exec (.rngSet c e) s = .next t ∧ endsAs t c stOk (RngSet.parse x.par).rec1 ∧
      look t.luna x.job = some (RngSet.parse x.par).rec1 ∧
      t.mem.dev = stored s1.mem.dev ((RngSet.parse x.par).stores s1 x.o) := by
  obtain ⟨rfl, hxe, ⟨k, hk⟩, -, -, hkept⟩ := startOf_ctx h
  obtain rfl : x.e = e := hxe
  have hexec : exec (.rngSet x.c x.e) s = .next (execPlan (rngPlan x s1) x s1) := congrArg Outcome.next (runCmd_start h)
  rw [execPlan_rngPlan hspan hh hmis hc hkept] at hexec
  have hstored : cmdOf (rngStored x s1) x.c = some k := hk
  exact ⟨_, hexec, complete_done (o := { reply := some (RngSet.parse x.par).rec1 }) hstored rfl,
    (look_put ..).trans (if_pos rfl), (complete_completionWork x.c _ (rngStored x s1)).dev⟩

/-! ### The obligation -/

/-- Settles O13: the stores of RNG.SET, operation by operation. -/
theorem randomStreams : Obligations.RandomStreams := by
  unfold Obligations.RandomStreams
  intro c e s s1 x h
  dsimp only
  intro hspan halign hh hmis hwf hc
  have ⟨_, _, _, herrs, _⟩ := hh
  obtain ⟨t, hexec, hends, hluna, hdev⟩ := exec_rngSet h hspan hh hmis hc
  have hstart : s1.mem.dev = s.mem.dev := startOf_dev h herrs
  have hm : Memory.wfOf 0 s1.mem.dev = true := (memOk_iff.1 hwf).1
  have hp := RngSet.parse_narrow x.par
  refine ⟨t, hexec, hends, hluna, ?_⟩
  rw [hdev, ← hstart]
  exact ⟨fun hop => RngSet.stored_init hp hop s1 x.o hm, fun hop =>
    ⟨fun i h1 h15 hmask => RngSet.stored_offsets hop hc hspan hm h1 h15 hmask,
      fun a ha => RngSet.stored_offsets_beside hop s1 x.o hm ha⟩,
    fun hop => by rw [RngSet.stores_bind hop]; rfl, fun a ha => RngSet.stored_frame _ s1 x.o hm ha⟩

end Sys2Proof.Machine
end

section
/-!
PROOFS. Stores whose bytes are those of one function of the address, and the copy of a granule that they make (R375).
-/
namespace Sys2Proof.Machine
open Host

/-- Every store of a list writes, at each of its addresses, the byte that `g` has there. -/
def Agree (g : Nat → Byte) (ws : List (Nat × List Byte)) : Prop :=
  ∀ w ∈ ws, w.2 = (List.range w.2.length).map fun i => g (w.1 + i)

/-- One of the stores of a list writes address `a`. -/
def Covered (ws : List (Nat × List Byte)) (a : Nat) : Prop := ∃ w ∈ ws, w.1 ≤ a ∧ a < w.1 + w.2.length

theorem stored_append (m : Mem) (v w : List (Nat × List Byte)) : stored m (v ++ w) = stored (stored m v) w :=
  List.foldl_append

theorem stored_wf {m : Mem} (h : Memory.wfOf 0 m = true) (ws : List (Nat × List Byte)) : Memory.wfOf 0 (stored m ws) = true := by
  induction ws generalizing m with
  | nil => exact h
  | cons w r ih => exact ih (memWrite_wf _ _ h)

/-- A byte that some store writes, or that stood so before, is the one of the function on which the stores agree. -/
theorem memGet_stored_agree {g : Nat → Byte} {ws : List (Nat × List Byte)} {m : Mem} (hm : Memory.wfOf 0 m = true)
    (hg : Agree g ws) {a : Nat} (ha : Covered ws a ∨ memGet 0 m a = g a) : memGet 0 (stored m ws) a = g a := by
  induction ws generalizing m with
  | nil =>
    rcases ha with ⟨w, hw, -⟩ | ha
    · cases hw
    · exact ha
  | cons v r ih =>
    have hv := hg v List.mem_cons_self
    refine ih (memWrite_wf _ _ hm) (fun w hw => hg w (List.mem_cons_of_mem _ hw)) ?_
    rw [memGet_memWrite _ _ _ hm]
    by_cases hin : v.1 ≤ a ∧ a < v.1 + v.2.length
    · right
      have hidx : a - v.1 < v.2.length := by omega
      rw [if_pos hin, hv]
      simp [hidx, Nat.add_sub_cancel' hin.1]
    · rw [if_neg hin]
      rcases ha with ⟨w, hw, hwa⟩ | ha
      · rcases List.mem_cons.1 hw with rfl | hw
        · exact absurd hwa hin
        · exact .inl ⟨w, hw, hwa⟩
      · exact .inr ha

/-- A span that stores cover holds the bytes of the function on which they agree. -/
theorem memRead_stored_agree {g : Nat → Byte} {ws : List (Nat × List Byte)} {m : Mem} (hm : Memory.wfOf 0 m = true)
    (hg : Agree g ws) {a n : Nat} (ha : ∀ i < n, Covered ws (a + i)) :
    memRead 0 (stored m ws) a n = (List.range n).map fun i => g (a + i) :=
  List.map_congr_left fun i hi => memGet_stored_agree hm hg (.inl (ha i (List.mem_range.1 hi)))

/-! ### The copy of a granule (R375) -/

/-- The first `n` lines of granule `src`, as stores into granule `dst`. -/
def granuleStores (m : Mem) (src dst n : Nat) : List (Nat × List Byte) :=
  (List.range n).map fun i => ((dst * 64 + i) * 64, memRead 0 m ((src * 64 + i) * 64) 64)

theorem granuleStores_succ (m : Mem) (src dst n : Nat) : granuleStores m src dst (n + 1) =
    granuleStores m src dst n ++ [((dst * 64 + n) * 64, memRead 0 m ((src * 64 + n) * 64) 64)] := by
  rw [granuleStores, List.range_succ, List.map_append]
  rfl

theorem granuleStores_agree (m : Mem) (src dst n : Nat) :
    Agree (fun a => memGet 0 m (a - dst * 4096 + src * 4096)) (granuleStores m src dst n) := by
  intro w hw
  obtain ⟨i, -, rfl⟩ := List.mem_map.1 hw
  simp only [memRead, List.length_map, List.length_range]
  refine List.map_congr_left fun j _ => ?_
  congr 1
  omega

theorem granuleStores_outside {m : Mem} (hm : Memory.wfOf 0 m = true) (src dst : Nat) {n a : Nat} (hn : n ≤ 64)
    (ha : a / 4096 ≠ dst) : memGet 0 (stored m (granuleStores m src dst n)) a = memGet 0 m a := by
  refine memGet_stored_outside hm fun w hw => ?_
  obtain ⟨i, hi, rfl⟩ := List.mem_map.1 hw
  have := List.mem_range.1 hi
  simp only [memRead, List.length_map, List.length_range]
  omega

theorem granuleStores_inside {m : Mem} (hm : Memory.wfOf 0 m = true) (src dst : Nat) {r : Nat} (hr : r < 4096) :
    memGet 0 (stored m (granuleStores m src dst 64)) (dst * 4096 + r) = memGet 0 m (src * 4096 + r) := by
  rw [memGet_stored_agree hm (granuleStores_agree m src dst 64)]
  · congr 1
    omega
  · refine .inl ⟨_, List.mem_map_of_mem (List.mem_range.2 (show r / 64 < 64 by omega)), ?_⟩
    simp only [memRead, List.length_map, List.length_range]
    omega

theorem healthy_setDev {s : State} {e : Circ} (hh : healthy s e) (m : Mem) : healthy (s.setDev m) e := by
  obtain ⟨hpoison, hoffline, hretrain, hcirc⟩ := hh
  exact ⟨hpoison, hoffline, hretrain, hcirc⟩

theorem putRaw_setDev (a : Nat) (bs : List Byte) (m : Mem) (s : State) :
    putRaw a bs (s.setDev m) = s.setDev (memWrite 0 m a bs) := rfl

/-- Between healthy lines a copy is a store of the line's bytes. -/
theorem copyLine_healthy {s : State} {e : Circ} (hh : healthy s e) (src dst : Nat) :
    copyLine e src dst s = putRaw (dst * 64) (memRead 0 s.mem.dev (src * 64) 64) s := by
  obtain ⟨hpoison, hoffline, -, herrs, -, -, -⟩ := hh
  have hkeep : ∀ bs, (putRaw (dst * 64) bs s).setPoison [] = putRaw (dst * 64) bs s := fun bs => by rw [← hpoison]; rfl
  have hraw : ∀ bs, (putRaw (dst * 64) bs s).mem.poison = [] := fun _ => hpoison
  simp [copyLine, poisoned, lineBad, lineFixed, lineRes, offlineAt, delNat, hpoison, hoffline, herrs, hraw, hkeep]

theorem copyLines_healthy {s : State} {e : Circ} (hh : healthy s e) (hm : Memory.wfOf 0 s.mem.dev = true) {src dst : Nat}
    (hne : dst ≠ src) {n : Nat} (hn : n ≤ 64) : (List.range n).foldl (fun t i => copyLine e (src * 64 + i) (dst * 64 + i) t) s =
      s.setDev (stored s.mem.dev (granuleStores s.mem.dev src dst n)) := by
  induction n with
  | zero => rfl
  | succ n ih =>
    have hsame : memRead 0 (stored s.mem.dev (granuleStores s.mem.dev src dst n)) ((src * 64 + n) * 64) 64 =
        memRead 0 s.mem.dev ((src * 64 + n) * 64) 64 := List.map_congr_left fun i hi =>
      granuleStores_outside hm src dst (by omega) (by have := List.mem_range.1 hi; omega)
    have hcopy := copyLine_healthy (healthy_setDev hh (stored s.mem.dev (granuleStores s.mem.dev src dst n)))
      (src * 64 + n) (dst * 64 + n)
    rw [setDev_dev, hsame, putRaw_setDev] at hcopy
    rw [List.range_succ, List.foldl_append, ih (by omega), List.foldl_cons, List.foldl_nil, hcopy, granuleStores_succ,
      stored_append, stored_singleton]

/-- A granule of healthy memory copied into another: the copy reads as the original did, every other byte as before. -/
theorem copyGranule_healthy {s : State} {e : Circ} (hh : healthy s e) (hm : Memory.wfOf 0 s.mem.dev = true) {src dst : Nat}
    (hne : dst ≠ src) : ∃ m, copyGranule e src dst s = s.setDev m ∧ Memory.wfOf 0 m = true ∧
      (∀ r < 4096, memGet 0 m (dst * 4096 + r) = memGet 0 s.mem.dev (src * 4096 + r)) ∧
      (∀ a, a / 4096 ≠ dst → memGet 0 m a = memGet 0 s.mem.dev a) :=
  ⟨_, copyLines_healthy hh hm hne (Nat.le_refl 64), stored_wf hm _, fun _ => granuleStores_inside hm src dst,
    fun _ => granuleStores_outside hm src dst (Nat.le_refl 64)⟩

end Sys2Proof.Machine
end

section
/-!
PROOFS. Writes of a speculative task (R375, R376) and of poisoned lines (R273).
-/
namespace Sys2Proof.Machine
open Host

/-! ### Cocoons -/

theorem cocoonOf_task {s : State} {q : QRef} {n : Nat} {k : Cocoon} (h : cocoonOf s (some (q, n)) = some k) :
    k.q = q ∧ k.task = n := by
  simpa using List.find?_some h

/-- The Cocoon of a list that is found is found as changed. -/
theorem find?_replaced {p : Cocoon → Bool} {k k' : Cocoon} (hp : p k' = true) (hnum : k'.num = k.num) {l : List Cocoon}
    (h : l.find? p = some k) :
    (l.map fun j => if j.num = k'.num then k' else j).find? p = some k' := by
  induction l with
  | nil => cases h
  | cons j r ih =>
    rw [List.map_cons]
    by_cases hj : j.num = k.num
    · rw [if_pos (hj.trans hnum.symm), List.find?_cons_of_pos hp]
    · have hmiss : ¬ p j = true := fun hpj => by
        rw [List.find?_cons_of_pos hpj] at h
        exact hj (congrArg Cocoon.num (Option.some.inj h))
      rw [List.find?_cons_of_neg hmiss] at h
      rw [if_neg (fun hj' => hj (hj'.trans hnum)), List.find?_cons_of_neg hmiss]
      exact ih h

/-- A task's Cocoon that changes is its task's Cocoon as changed. -/
theorem cocoonOf_putCocoon {s : State} {q : QRef} {n : Nat} {k k' : Cocoon} (h : cocoonOf s (some (q, n)) = some k)
    (hnum : k'.num = k.num) (hq : k'.q = k.q) (ht : k'.task = k.task) :
    cocoonOf (putCocoon k' s) (some (q, n)) = some k' := by
  obtain ⟨hkq, hkt⟩ := cocoonOf_task h
  exact find?_replaced (by simp [hq, ht, hkq, hkt]) hnum h

/-- The Cocoon with granule `c` of its pool as the shadow of granule `g`. -/
def Cocoon.shadowing (k : Cocoon) (g c : Nat) : Cocoon := { k with granules := k.granules ++ [⟨g, c, 0⟩] }

/-- The Cocoon with the line of `a` marked as written. -/
def Cocoon.marking (k : Cocoon) (a : Nat) : Cocoon :=
  { k with granules := k.granules.map fun g => if g.orig = a / 4096 then { g with marks := setBit g.marks (a % 4096 / 64) } else g }

theorem Cocoon.granule_shadowing {k : Cocoon} {g : Nat} (c : Nat) (h : k.granule g = none) :
    (k.shadowing g c).granule g = some ⟨g, c, 0⟩ := by
  unfold Cocoon.granule at h
  simp [Cocoon.granule, Cocoon.shadowing, h]

/-- A mark changes no shadow. -/
theorem Cocoon.copy_marking (k : Cocoon) (a g : Nat) :
    ((k.marking a).granule g).map (·.copy) = (k.granule g).map (·.copy) := by
  simp only [Cocoon.granule, Cocoon.marking]
  induction k.granules with
  | nil => rfl
  | cons x r ih =>
    by_cases hx : x.orig = g
    · by_cases hg : g = a / 4096 <;> simp [hx, hg]
    · by_cases hg : x.orig = a / 4096
      · simpa [List.find?_cons, hx, hg, show a / 4096 ≠ g from hg ▸ hx] using ih
      · simpa [List.find?_cons, hx, hg] using ih

/-- In a granule that its Cocoon shadows a task finds each byte in the copy (R376). -/
theorem viewAddr_shadowed {s : State} {o : Owner} {k : Cocoon} {a c : Nat} (h : cocoonOf s o = some k)
    (hg : (k.granule (a / 4096)).map (·.copy) = some c) : viewAddr s o a = c * 4096 + a % 4096 := by
  obtain ⟨g, hgran, rfl⟩ := Option.map_eq_some_iff.1 hg
  simp only [viewAddr, h, hgran]

theorem markLine_marking {s : State} {o : Owner} {k : Cocoon} (h : cocoonOf s o = some k) (a : Nat) :
    markLine o a s = putCocoon (k.marking a) s := by
  rw [markLine, h]
  rfl

/-! ### The first write into a granule -/

/-- The state in which a Cocoon shadows granule `g` by granule `c`, with device memory `m`. -/
def shadowedState (k : Cocoon) (g c : Nat) (m : Mem) (s : State) : State := putCocoon (k.shadowing g c) (s.setDev m)

theorem healthy_shadowedState {s : State} {e : Circ} (hh : healthy s e) (k : Cocoon) (g c : Nat) (m : Mem) :
    healthy (shadowedState k g c m s) e := by
  obtain ⟨hpoison, hoffline, hretrain, hcirc⟩ := hh
  exact ⟨hpoison, hoffline, hretrain, hcirc⟩

theorem shadow_first {s : State} {o : Owner} {k : Cocoon} {e : Circ} {a c : Nat} {m : Mem} (h : cocoonOf s o = some k)
    (hg : k.granule (a / 4096) = none) (hc : k.nextFree (a / 4096) = some c)
    (hcopy : copyGranule e (a / 4096) c s = s.setDev m) : shadow o e a s = some (shadowedState k (a / 4096) c m s) := by
  simp only [shadow, h, hg, hc, hcopy]
  rfl

/-- In healthy memory a write within a line whose granule stands as it should takes place where its task finds the line. -/
theorem putLine_of_shadow {s s1 : State} {o : Owner} {e : Circ} {a : Nat} (hs : shadow o e a s = some s1) (hh : healthy s1 e)
    (hwin : inWin a = false) (bs : List Byte) :
    putLine o e a bs s = (markLine o a (putRaw (viewAddr s1 o a) bs s1), 0) := by
  obtain ⟨hpoison, hoffline, -, herrs, hlate, -, -⟩ := hh
  have hkeep : ∀ b, (putRaw b bs s1).setPoison [] = putRaw b bs s1 := fun b => by rw [← hpoison]; rfl
  simp [putLine, hs, offlineAt, lineBad, lineFixed, lineRes, poisoned, hasLine, delNat, hwin, hoffline, herrs, hlate, hpoison,
    hkeep]

/-- A granule lies in device memory with any of its bytes. -/
theorem inWin_granule {a b : Nat} (h : spanMem a 1 = true) (hb : b / 4096 = a / 4096) : inWin b = false := by
  simp only [spanMem, spanBorug, spanKs, inBorug, inKs, Bool.or_eq_true, Bool.and_eq_true, decide_eq_true_eq] at h
  simp only [inWin, Bool.and_eq_false_iff, decide_eq_false_iff_not]
  unfold ksBase at h
  unfold winBase
  omega

/-- A first write of a speculative task into a granule whose copy is `m`: where its task finds the granule, and the write. -/
theorem putLine_first {s : State} {q : QRef} {n : Nat} {k : Cocoon} {e : Circ} {a c : Nat} {m : Mem} (bs : List Byte)
    (h : cocoonOf s (some (q, n)) = some k) (hg : k.granule (a / 4096) = none)
    (hc : k.nextFree (a / 4096) = some c) (hh : healthy s e) (ha : spanMem a 1 = true)
    (hcopy : copyGranule e (a / 4096) c s = s.setDev m) :
    ∃ t, putLine (some (q, n)) e a bs s = (t, 0) ∧ t.mem.dev = memWrite 0 m (c * 4096 + a % 4096) bs ∧
      (∀ b, b / 4096 = a / 4096 → readByte t (some (q, n)) b = memGet 0 t.mem.dev (c * 4096 + b % 4096)) := by
  have h1 : cocoonOf (shadowedState k (a / 4096) c m s) (some (q, n)) = some (k.shadowing (a / 4096) c) :=
    cocoonOf_putCocoon (s := s.setDev m) h rfl rfl rfl
  have hshadow : ((k.shadowing (a / 4096) c).granule (a / 4096)).map (·.copy) = some c := by
    rw [Cocoon.granule_shadowing c hg]
    rfl
  have hput := putLine_of_shadow (shadow_first h hg hc hcopy) (healthy_shadowedState hh ..) (inWin_granule ha rfl) bs
  have h2 : cocoonOf (putRaw (c * 4096 + a % 4096) bs (shadowedState k (a / 4096) c m s)) (some (q, n)) =
      some (k.shadowing (a / 4096) c) := by rw [cocoonOf_putRaw, h1]
  have h3 := cocoonOf_putCocoon (k' := (k.shadowing (a / 4096) c).marking a) h2 rfl rfl rfl
  rw [viewAddr_shadowed h1 hshadow, markLine_marking h2] at hput
  refine ⟨_, hput, rfl, fun b hb => ?_⟩
  rw [readByte, inWin_granule ha hb, viewAddr_shadowed h3 (by rw [hb, Cocoon.copy_marking, hshadow])]
  rfl

/-! ### Poisoned lines (R273) -/

theorem lineFault_poisoned {s : State} {o : Owner} {e : Circ} {a : Nat} (hc : cocoonOf s o = none) (hwin : inWin a = false)
    (hp : poisoned s (a / 64) = true) (hgone : e.gone = []) : lineFault s o e a = stUncorr := by
  simp [lineFault, viewAddr_plain hc, hasLine, hwin, hp, hgone]

theorem cocoonOf_setPoison (l : List Nat) (s : State) (o : Owner) : cocoonOf (s.setPoison l) o = cocoonOf s o := by
  cases o <;> rfl

/-- Without a Cocoon no line is marked. -/
theorem markLine_plain {s : State} {o : Owner} (hc : cocoonOf s o = none) (a : Nat) : markLine o a s = s := by
  rw [markLine, hc]

/-- A write of a whole line of a stack that answers clears the line's poison and takes place. -/
theorem putLine_whole {s : State} {o : Owner} {e : Circ} {a : Nat} {bs : List Byte} (hc : cocoonOf s o = none)
    (hwin : inWin a = false) (hon : offlineAt s a = false) (hlate : e.late = []) (hbs : bs.length = 64) :
    putLine o e a bs s = ((putRaw a bs s).setPoison (delNat (a / 64) s.mem.poison), 0) := by
  have hmark : markLine o a ((putRaw a bs s).setPoison (delNat (a / 64) s.mem.poison)) =
      (putRaw a bs s).setPoison (delNat (a / 64) s.mem.poison) :=
    markLine_plain (by rwa [cocoonOf_setPoison, cocoonOf_putRaw]) a
  simp [putLine, shadow, hc, viewAddr_plain hc, hasLine, hwin, hon, hlate, hbs, hmark]

/-- A shorter write of a poisoned line fails, as its read of the line does. -/
theorem putLine_part {s : State} {o : Owner} {e : Circ} {a : Nat} {bs : List Byte} (hc : cocoonOf s o = none)
    (hwin : inWin a = false) (hp : poisoned s (a / 64) = true) (hon : offlineAt s a = false) (hlate : e.late = [])
    (hbs : bs.length < 64) : putLine o e a bs s = (noteUncorr (a / 64) s, stUncorr) := by
  simp [putLine, shadow, hc, viewAddr_plain hc, hasLine, hwin, hon, hlate, hbs, hp]

theorem poisoned_setPoison_delNat (l : Nat) (p : List Nat) (s : State) : poisoned (s.setPoison (delNat l p)) l = false := by
  simp [poisoned, delNat]

/-! ### The obligation -/

/-- Settles O60: the first write of a speculative task into a granule, and accesses to a poisoned line. -/
theorem speculationAndPoison : Obligations.SpeculationAndPoison := by
  unfold Obligations.SpeculationAndPoison
  refine ⟨?shadow, ?poison⟩
  case shadow =>
    intro s q n k e a c bs hk hg hc hh hwf ha _ hline hne _
    have hm : Memory.wfOf 0 s.mem.dev = true := (memOk_iff.1 hwf).1
    obtain ⟨m, hcopy, hmc, hinside, houtside⟩ := copyGranule_healthy hh hm hne
    obtain ⟨t, hput, hdev, hread⟩ := putLine_first bs hk hg hc hh ha hcopy
    refine ⟨t, hput, ?written, fun b hb hout => ?rest, fun b hb => ?frame⟩
    case written =>
      refine Eq.trans (List.map_congr_left fun i hi => ?_) (memRead_in (a := c * 4096 + a % 4096) hmc)
      have := List.mem_range.1 hi
      have hoff : (a + i) % 4096 = a % 4096 + i := by omega
      rw [hread (a + i) (by omega), hdev, hoff, Nat.add_assoc]
    case rest =>
      have hsame : a / 4096 * 4096 + b % 4096 = b := by omega
      rw [hread b hb, hdev, memGet_memWrite _ _ _ hmc, if_neg (by omega), hinside _ (Nat.mod_lt _ (by omega)), hsame]
    case frame =>
      rw [hdev, memGet_memWrite _ _ _ hmc, if_neg (by omega), houtside b hb]
  case poison =>
    intro s o e a bs hc ha hp hon hlate hgone hwf
    have hwin : inWin a = false := inWin_granule ha rfl
    refine ⟨lineFault_poisoned hc hwin hp hgone, fun _ hbs => ⟨_, putLine_whole hc hwin hon hlate hbs, ?cleared, ?written⟩,
      fun hbs => ⟨_, putLine_part hc hwin hp hon hlate hbs, ?kept, noteUncorr_dev ..⟩⟩
    case cleared => exact poisoned_setPoison_delNat ..
    case written => exact hbs ▸ memRead_in (memOk_iff.1 hwf).1
    case kept => exact poisoned_noteUncorr.2 (.inr hp)

end Sys2Proof.Machine
end

section
/-!
PROOFS. Work whose pieces store bytes in healthy memory, for a task without a Cocoon; RAW moves (R265, R270) and constant fills of
memory (R269).
-/
namespace Sys2Proof.Machine
open Host

/-! ### Pieces that store in healthy memory -/

/-- A span within a span of device memory. -/
theorem spanMem_of_spanMem {a n b m : Nat} (h : spanMem a n = true) (hlo : a ≤ b) (hhi : b + m ≤ a + n) (hm : 0 < m) :
    spanMem b m = true := by
  simp only [spanMem, spanBorug, spanKs, inBorug, inKs, Bool.or_eq_true, Bool.and_eq_true, decide_eq_true_eq] at h ⊢
  omega

theorem cocoonOf_setDev (m : Mem) (s : State) (o : Owner) : cocoonOf (s.setDev m) o = cocoonOf s o := by
  cases o <;> rfl

theorem readByte_plain {s : State} {o : Owner} (hc : cocoonOf s o = none) {a : Nat} (hwin : inWin a = false) :
    readByte s o a = memGet 0 s.mem.dev a := by
  rw [readByte, hwin, viewAddr_plain hc]
  rfl

/-- What a write stores in device memory, and what a piece does. -/
def Wr.store (w : Wr) : Option (Nat × List Byte) :=
  match w.d with
  | .dev a => some (a, w.bytes)
  | .ob _ => none
def Piece.stores (p : Piece) : List (Nat × List Byte) := p.writes.filterMap Wr.store

/-- A piece that reads and writes spans of device memory alone, with no fault of its own. -/
structure Piece.Plain (p : Piece) : Prop where
  fault : p.fault = none
  arrived : p.arrived = false
  reads : ∀ x ∈ p.reads, spanMem x.1 x.2 = true
  writes : ∀ w ∈ p.writes, ∃ a, w.d = .dev a ∧ spanMem a w.bytes.length = true

theorem putWrs_stores {o : Owner} {e : Circ} (core : Nat) {ws : List Wr} {s : State} (hh : healthy s e)
    (hc : cocoonOf s o = none) (hw : ∀ w ∈ ws, ∃ a, w.d = .dev a ∧ spanMem a w.bytes.length = true) :
    putWrs o e core ws s = (s.setDev (stored s.mem.dev (ws.filterMap Wr.store)), none) := by
  induction ws generalizing s with
  | nil => rfl
  | cons w r ih =>
    obtain ⟨a, hd, hspan⟩ := hw w List.mem_cons_self
    have hput : putWr o e core w s = (putRaw a w.bytes s, none) := by
      rw [putWr, hd]
      exact putDev_plain hh hc hspan
    have hstore : w.store = some (a, w.bytes) := by rw [Wr.store, hd]
    rw [putWrs, hput, List.filterMap_cons_some hstore, stored_cons]
    exact ih (healthy_setDev hh _) (by rwa [cocoonOf_putRaw]) fun y hy => hw y (List.mem_cons_of_mem _ hy)

theorem faultOf_plain {s : State} {o : Owner} {e : Circ} {p : Piece} (hp : p.Plain) (hh : healthy s e) :
    p.faultOf s o e = none := by
  have hread : p.reads.findSome? (fun x => readFault s o e x.1 x.2) = none :=
    List.findSome?_eq_none_iff.2 fun x hx => readFault_healthy hh (hp.reads x hx) o
  obtain ⟨-, -, -, -, -, hparity, -⟩ := hh
  simp [Piece.faultOf, hp.fault, hp.arrived, hread, hparity]

theorem firstFault_plain {s : State} {o : Owner} {e : Circ} {ps : List Piece} (hp : ∀ p ∈ ps, p.Plain) (hh : healthy s e) :
    firstFault s o e ps = none :=
  List.findSome?_eq_none_iff.2 fun y hy => by
    have hmem : y.1 ∈ ps := by simpa using List.fst_mem_of_mem_zipIdx hy
    simp [faultOf_plain (hp y.1 hmem) hh]

theorem notePieces_plain {s : State} {o : Owner} {e : Circ} {ps : List Piece} (hp : ∀ p ∈ ps, p.Plain) (hh : healthy s e) :
    notePieces o e ps s = s := by
  have hnone : ps.filter (·.arrived) = [] := List.filter_eq_nil_iff.2 fun p hmem => by simp [(hp p hmem).arrived]
  rw [notePieces, hnone, noteReads_healthy hh]
  rfl

/-- Pieces without a failure make all their stores, in order; of the last one none may wait for a piece after it (R270). -/
theorem putPieces_plain {o : Owner} {e : Circ} (core k : Nat) {ps : List Piece} {s : State} (hh : healthy s e)
    (hc : cocoonOf s o = none) (hp : ∀ p ∈ ps, p.Plain) (hlast : ∀ p ∈ ps.getLast?, ∀ w ∈ p.writes, w.next = false) :
    putPieces o e core (k + ps.length) (ps.zipIdx k) s = (s.setDev (stored s.mem.dev (ps.flatMap Piece.stores)), none) := by
  induction ps generalizing s k with
  | nil => rfl
  | cons p r ih =>
    have hall : p.writes.filter (fun w => !(w.next && decide (k + (p :: r).length ≤ k + 1))) = p.writes := by
      refine List.filter_eq_self.2 fun w hw => ?_
      cases r with
      | nil => simp [hlast p rfl w hw]
      | cons q r => simp
    have hstep := putWrs_stores core hh hc (hp p List.mem_cons_self).writes
    have hrest := ih (k + 1) (s := s.setDev (stored s.mem.dev p.stores)) (healthy_setDev hh _)
      (by rwa [cocoonOf_setDev]) (fun q hq => hp q (List.mem_cons_of_mem _ hq))
      (fun q hq => hlast q (by cases r with
        | nil => cases hq
        | cons y r => rwa [List.getLast?_cons_cons]))
    have hnot : ¬ k + (p :: r).length ≤ k := by simp
    have hlen : k + 1 + r.length = k + (p :: r).length := by rw [List.length_cons]; omega
    rw [hlen] at hrest
    rw [List.zipIdx_cons, putPieces, if_neg hnot, hall, hstep]
    refine hrest.trans ?_
    rw [List.flatMap_cons, stored_append]
    rfl

/-- Work by such pieces leaves their stores, and does not fail. -/
theorem runPieces_plain (mixed : Bool) {o : Owner} {e : Circ} (core : Nat) {ps : List Piece} {s : State} (hh : healthy s e)
    (hc : cocoonOf s o = none) (hp : ∀ p ∈ ps, p.Plain) (hlast : ∀ p ∈ ps.getLast?, ∀ w ∈ p.writes, w.next = false) :
    runPieces mixed o e core ps s = (s.setDev (stored s.mem.dev (ps.flatMap Piece.stores)), none) := by
  have hput := putPieces_plain core 0 hh hc hp hlast
  have hnote : notePieces o e (if mixed = true then ps else ps.take (ps.length + 1)) s = s := by
    rw [List.take_of_length_le (Nat.le_succ _), ite_self, notePieces_plain hp hh]
  rw [Nat.zero_add] at hput
  simp only [runPieces, firstFault_plain hp hh, Option.map_none, Option.getD_none, hnote, hput]
  rfl

/-! ### Stores by the lines of a destination -/

/-- Stores of parts of a function's bytes, one for each of a list of lines. -/
def lineStores (g : Nat → Byte) (lo hi : Nat → Nat) (ls : List Nat) : List (Nat × List Byte) :=
  ls.map fun l => (lo l, (List.range (hi l - lo l)).map fun i => g (lo l + i))

theorem lineStores_agree (g : Nat → Byte) (lo hi : Nat → Nat) (ls : List Nat) : Agree g (lineStores g lo hi ls) := by
  intro w hw
  obtain ⟨l, -, rfl⟩ := List.mem_map.1 hw
  rw [List.length_map, List.length_range]

/-- A span that its lines' stores cover, and lie in, holds the bytes of the function, and nothing else changes. -/
theorem lineStores_fill {g : Nat → Byte} {lo hi : Nat → Nat} {ls : List Nat} {m : Mem} {b n : Nat}
    (hm : Memory.wfOf 0 m = true) (hin : ∀ l ∈ ls, b ≤ lo l ∧ hi l ≤ b + n)
    (hcover : ∀ i < n, (b + i) / 64 ∈ ls ∧ lo ((b + i) / 64) ≤ b + i ∧ b + i < hi ((b + i) / 64)) :
    memRead 0 (stored m (lineStores g lo hi ls)) b n = (List.range n).map (fun i => g (b + i)) ∧
      (∀ i, i < b ∨ b + n ≤ i → memGet 0 (stored m (lineStores g lo hi ls)) i = memGet 0 m i) := by
  refine ⟨memRead_stored_agree hm (lineStores_agree g lo hi ls) fun i hi => ?_, fun i hi => memGet_stored_outside hm fun w hw => ?_⟩
  · obtain ⟨hmem, hlow, hhigh⟩ := hcover i hi
    refine ⟨_, List.mem_map_of_mem hmem, ?_⟩
    simp only [List.length_map, List.length_range]
    omega
  · obtain ⟨l, hl, rfl⟩ := List.mem_map.1 hw
    have := hin l hl
    simp only [List.length_map, List.length_range]
    omega

/-! ### Moves of units that do not fail -/

/-- A move by such pieces completes with success, and device memory as they leave it. -/
theorem move_plain {op : Nat} {f : Family} {c : CmdRef} {e : Circ} {s s1 : State} {x : Ctx} {p : Plan} {n core : Nat}
    (h : startOf op f c e s = some (x, s1)) (hop : op ∉ rowOps) (hwork : f.work x s1 = execPlan p x s1)
    (hscratch : p.scratch = []) (hpost : ∀ r t, p.post r t = t) (hout : p.out = movOut n core) (hh : healthy s1 e)
    (hmis : e.mis1 = none) (hc : cocoonOf s1 x.o = none) (hp : ∀ q ∈ p.pieces, q.Plain)
    (hlast : ∀ q ∈ p.pieces.getLast?, ∀ w ∈ q.writes, w.next = false) :
    (∃ k, cmdOf (runCmd op f c e s) c = some k ∧ k.ph = .done ∧ k.status = stOk) ∧
      (runCmd op f c e s).mem.dev = stored s.mem.dev (p.pieces.flatMap Piece.stores) := by
  obtain ⟨rfl, hxe, ⟨k, hk⟩, -, -, hkept⟩ := startOf_ctx h
  have hcirc : circOf op x.c e s = e := if_neg hop
  rw [hcirc] at hxe
  obtain rfl : x.e = e := hxe
  have hrun := runCmd_start h
  rw [hcirc, hwork, execPlan_once p x s1 hmis] at hrun
  have henter : ∀ rf, p.enter x rf s1 = s1 := fun rf => by rw [Plan.enter, hscratch]; rfl
  simp only [kept_none hkept, henter, runPieces_plain p.mixed x.core hh hc hp hlast, hpost, hout] at hrun
  have ⟨_, _, _, herrs, _⟩ := hh
  have hdev : s1.mem.dev = s.mem.dev := startOf_dev h (hcirc.symm ▸ herrs)
  rw [hrun, ← hdev]
  obtain ⟨k', hk', hph, hst, -⟩ := complete_done (c := x.c) (o := movOut n core {})
    (s := leaveEngines x (s1.setDev (stored s1.mem.dev (p.pieces.flatMap Piece.stores)))) hk rfl
  exact ⟨⟨k', hk', hph, hst⟩, (complete_completionWork ..).dev⟩

/-! ### RAW moves (R265, R270) -/

/-- The byte that a move from `a` to `b` brings to an address. -/
def movedByte (m : Mem) (a b y : Nat) : Byte := memGet 0 m (y - b + a)

/-- The source lines of a span, which are the units of a RAW move. -/
def unitsOf (a n : Nat) : Nat := (a + n - 1) / 64 - a / 64 + 1

theorem linesOf_length {n : Nat} (a : Nat) (hn : 0 < n) : (linesOf a n).length = unitsOf a n := by
  rw [linesOf, if_neg (by omega), List.length_map, List.length_range, unitsOf]

theorem mem_linesOf {a n l : Nat} (hn : 0 < n) : l ∈ linesOf a n ↔ a / 64 ≤ l ∧ l ≤ (a + n - 1) / 64 := by
  rw [linesOf, if_neg (by omega), List.mem_map]
  exact ⟨fun ⟨i, hi, h⟩ => by have := List.mem_range.1 hi; omega,
    fun h => ⟨l - a / 64, List.mem_range.2 (by omega), by omega⟩⟩

/-- The end of source line `u` of a RAW move of `n` units and `len` bytes. -/
def rawEnd (a len n u : Nat) : Nat := if u + 1 = n then len else rawStart a (u + 1)

/-- The part of a line `l` that lies in a destination span, as offsets from its start. -/
def lineLo (b l : Nat) : Nat := l * 64 - b
def lineHi (b len l : Nat) : Nat := min len ((l + 1) * 64 - b)

/-- The destination lines that go with source line `u` (R270). -/
def rawLines (a b len n u : Nat) : List Nat :=
  (linesOf (b + rawStart a u) (rawEnd a len n u - rawStart a u)).filter fun l => decide (lineLo b l ≥ rawStart a u)

section
variable {a b len : Nat} (hlen : 0 < len)
include hlen

theorem rawEnd_bounds {u : Nat} (hu : u < unitsOf a len) :
    rawStart a u < rawEnd a len (unitsOf a len) u ∧ rawEnd a len (unitsOf a len) u ≤ len := by
  unfold unitsOf at *
  unfold rawEnd rawStart
  rw [if_neg (Nat.succ_ne_zero u)]
  split <;> split <;> omega

/-- Lines that go with a unit have bytes of the destination. -/
theorem rawLines_bounds {u l : Nat} (hu : u < unitsOf a len) (hl : l ∈ rawLines a b len (unitsOf a len) u) :
    lineLo b l < lineHi b len l := by
  obtain ⟨hlo, hhi⟩ := rawEnd_bounds hlen hu
  rw [rawLines, List.mem_filter, mem_linesOf (by omega)] at hl
  unfold lineLo lineHi
  omega

/-- Every byte of the source stands in the line of some unit. -/
theorem exists_unit {i : Nat} (hi : i < len) :
    ∃ u < unitsOf a len, rawStart a u ≤ i ∧ i < rawEnd a len (unitsOf a len) u := by
  refine ⟨(a + i) / 64 - a / 64, ?_, ?_, ?_⟩
  · unfold unitsOf
    omega
  · unfold rawStart
    split <;> omega
  · unfold rawEnd rawStart
    rw [if_neg (Nat.succ_ne_zero _)]
    split <;> omega

/-- Every destination line goes with some unit. -/
theorem rawLines_cover {i : Nat} (hi : i < len) : ∃ u < unitsOf a len, (b + i) / 64 ∈ rawLines a b len (unitsOf a len) u := by
  have hfirst : lineLo b ((b + i) / 64) < len := by
    unfold lineLo
    omega
  obtain ⟨u, hu, hlo, hhi⟩ := exists_unit (a := a) hlen hfirst
  refine ⟨u, hu, ?_⟩
  rw [rawLines, List.mem_filter, mem_linesOf (by omega), decide_eq_true_eq]
  refine ⟨?_, hlo⟩
  unfold lineLo at hlo hhi
  omega

end

section
variable {p : MovTile} {s : State} {x : Ctx} {a b : Nat} (hsrc : p.src = .dev a) (hdst : p.dst = .dev b) (hrepl : p.repl = 0)
include hsrc hdst hrepl

theorem rawPiece_eq (n u : Nat) : rawPiece p s x n u =
    { reads := [(a + rawStart a u, rawEnd a p.len n u - rawStart a u)]
      writes := (rawLines a b p.len n u).map fun l =>
        { d := .dev (b + lineLo b l)
          bytes := (List.range (lineHi b p.len l - lineLo b l)).map fun i => readByte s x.o (a + (lineLo b l + i))
          next := decide (rawEnd a p.len n u < lineHi b p.len l) } } := by
  simp only [rawPiece, hsrc, hdst, MovTile.put, MovTile.copies, hrepl, endAddr, readSpan, endRead, List.map_cons, List.map_nil,
    if_true, ← List.map_eq_flatMap]
  rfl

theorem rawPiece_stores (hc : cocoonOf s x.o = none) (hspan : spanMem a p.len = true) (u : Nat) :
    (rawPiece p s x (unitsOf a p.len) u).stores =
      lineStores (movedByte s.mem.dev a b) (fun l => b + lineLo b l) (fun l => b + lineHi b p.len l)
        (rawLines a b p.len (unitsOf a p.len) u) := by
  rw [rawPiece_eq hsrc hdst hrepl, Piece.stores, List.filterMap_map, lineStores, ← List.filterMap_eq_map]
  refine List.filterMap_congr fun l hl => congrArg some (Prod.ext rfl ?_)
  have hmax : lineHi b p.len l ≤ p.len := Nat.min_le_left ..
  dsimp only
  rw [Nat.add_sub_add_left]
  refine List.map_congr_left fun i hi => ?_
  have := List.mem_range.1 hi
  have hoff : b + lineLo b l + i - b + a = a + (lineLo b l + i) := by omega
  rw [readByte_plain hc (inWin_of_spanMem hspan (by omega)), movedByte, hoff]

/-- The last unit leaves no line to one after it. -/
theorem rawPiece_last {n u : Nat} (hu : u + 1 = n) : ∀ w ∈ (rawPiece p s x n u).writes, w.next = false := by
  rw [rawPiece_eq hsrc hdst hrepl]
  intro w hw
  obtain ⟨l, -, rfl⟩ := List.mem_map.1 hw
  have hmax : lineHi b p.len l ≤ p.len := Nat.min_le_left ..
  simp [rawEnd, hu, hmax]

variable (hlen : 0 < p.len) (hsa : spanMem a p.len = true) (hsb : spanMem b p.len = true)
include hlen hsa hsb

theorem rawPiece_plain {u : Nat} (hu : u < unitsOf a p.len) : (rawPiece p s x (unitsOf a p.len) u).Plain := by
  obtain ⟨hlo, hhi⟩ := rawEnd_bounds hlen hu
  rw [rawPiece_eq hsrc hdst hrepl]
  refine ⟨rfl, rfl, fun y hy => ?reads, fun w hw => ?writes⟩
  case reads =>
    obtain rfl := List.mem_singleton.1 hy
    exact spanMem_of_spanMem hsa (by omega) (by omega) (by omega)
  case writes =>
    obtain ⟨l, hl, rfl⟩ := List.mem_map.1 hw
    have hbounds := rawLines_bounds hlen hu hl
    have hmax : lineHi b p.len l ≤ p.len := Nat.min_le_left ..
    refine ⟨_, rfl, ?_⟩
    rw [List.length_map, List.length_range]
    exact spanMem_of_spanMem hsb (by omega) (by omega) (by omega)

end

/-- The destination lines of a RAW move, unit by unit. -/
def movedLines (a b len : Nat) : List Nat := (List.range (unitsOf a len)).flatMap (rawLines a b len (unitsOf a len))

/-- A RAW move between device spans completes, and its stores are those of its destination lines. -/
theorem runCmd_movTile_raw {c : CmdRef} {e : Circ} {s s1 : State} {x : Ctx} {p : MovTile} {a b : Nat}
    (h : startOf 0x0101 movTileFamily c e s = some (x, s1)) (hp : MovTile.parse x.par = p) (hlayout : p.layout = 0)
    (hsrc : p.src = .dev a) (hdst : p.dst = .dev b) (hrepl : p.repl = 0) (hlen : 0 < p.len) (hsa : spanMem a p.len = true)
    (hsb : spanMem b p.len = true) (hh : healthy s1 e) (hmis : e.mis1 = none) (hc : cocoonOf s1 x.o = none) :
    (∃ k, cmdOf (runCmd 0x0101 movTileFamily c e s) c = some k ∧ k.ph = .done ∧ k.status = stOk) ∧
      (runCmd 0x0101 movTileFamily c e s).mem.dev = stored s.mem.dev (lineStores (movedByte s.mem.dev a b)
        (fun l => b + lineLo b l) (fun l => b + lineHi b p.len l) (movedLines a b p.len)) := by
  have ⟨_, _, _, herrs, _⟩ := hh
  have hdev : s1.mem.dev = s.mem.dev := startOf_dev h herrs
  have hpieces : (movTilePlan x s1).pieces = (List.range (unitsOf a p.len)).map (rawPiece p s1 x (unitsOf a p.len)) := by
    simp only [movTilePlan, MovTile.pieces, hp, hlayout, if_true, hsrc, endAddr, linesOf_length a hlen]
  have hplain : ∀ q ∈ (movTilePlan x s1).pieces, q.Plain := by
    rw [hpieces]
    intro q hq
    obtain ⟨u, hu, rfl⟩ := List.mem_map.1 hq
    exact rawPiece_plain hsrc hdst hrepl hlen hsa hsb (List.mem_range.1 hu)
  have hlast : ∀ q ∈ (movTilePlan x s1).pieces.getLast?, ∀ w ∈ q.writes, w.next = false := by
    rw [hpieces, unitsOf, List.range_succ, List.map_append, List.map_singleton, List.getLast?_concat]
    intro q hq
    obtain rfl := Option.some.inj hq
    exact rawPiece_last hsrc hdst hrepl rfl
  have hstores : (movTilePlan x s1).pieces.flatMap Piece.stores = lineStores (movedByte s.mem.dev a b)
      (fun l => b + lineLo b l) (fun l => b + lineHi b p.len l) (movedLines a b p.len) := by
    rw [hpieces, List.flatMap_map, lineStores, movedLines, List.map_flatMap, ← hdev]
    exact List.flatMap_congr fun u _ => rawPiece_stores hsrc hdst hrepl hc hsa u
  exact hstores ▸ move_plain (p := movTilePlan x s1) h (by decide) rfl rfl (fun _ _ => rfl) rfl hh hmis hc hplain hlast

/-- The stores of a RAW move fill its destination with its source. -/
theorem movedLines_fill {m : Mem} (hm : Memory.wfOf 0 m = true) {a b len : Nat} (hlen : 0 < len) :
    let t := stored m (lineStores (movedByte m a b) (fun l => b + lineLo b l) (fun l => b + lineHi b len l) (movedLines a b len))
    memRead 0 t b len = memRead 0 m a len ∧ ∀ i, i < b ∨ b + len ≤ i → memGet 0 t i = memGet 0 m i := by
  have hfill := lineStores_fill (g := movedByte m a b) (lo := fun l => b + lineLo b l) (hi := fun l => b + lineHi b len l)
    (ls := movedLines a b len) (b := b) (n := len) hm
    (fun l _ => ⟨Nat.le_add_right .., Nat.add_le_add_left (Nat.min_le_left ..) b⟩) fun i hi => by
      obtain ⟨u, hu, hl⟩ := rawLines_cover (a := a) (b := b) hlen hi
      refine ⟨List.mem_flatMap.2 ⟨u, List.mem_range.2 hu, hl⟩, ?_, ?_⟩
      · unfold lineLo
        omega
      · unfold lineHi
        omega
  refine ⟨hfill.1.trans (List.map_congr_left fun i _ => ?_), hfill.2⟩
  rw [movedByte, Nat.add_sub_cancel_left, Nat.add_comm]

/-! ### Constant fills of memory (R269) -/

/-- The byte of a constant fill at an address: words stand at multiples of 4. -/
def fillByte (v y : Nat) : Byte := (leBytes 4 v).getD (y % 4) 0

/-- Words one after the other, byte by byte. -/
theorem flatten_replicate_word (v : Nat) {a : Nat} (ha : a % 4 = 0) (n : Nat) :
    (List.replicate n (leBytes 4 v)).flatten = (List.range (4 * n)).map fun i => fillByte v (a + i) := by
  induction n generalizing a with
  | zero => rfl
  | succ n ih =>
    have hword : leBytes 4 v = (List.range 4).map fun i => fillByte v (a + i) := by
      refine List.ext_getElem (by simp [leBytes_length]) fun i hi _ => ?_
      rw [leBytes_length] at hi
      have hmod : (a + i) % 4 = i := by omega
      rw [List.getElem_map, List.getElem_range, fillByte, hmod, List.getD_eq_getElem]
    have hrest := ih (a := a + 4) (by omega)
    have hsplit : 4 * (n + 1) = 4 + 4 * n := by omega
    rw [List.replicate_succ, List.flatten_cons, hrest, hsplit, List.range_add, List.map_append, ← hword, List.map_map]
    simp only [Function.comp_def, Nat.add_assoc]

/-- The part of a destination line that a fill writes. -/
def fillLo (p : Fill) (l : Nat) : Nat := max p.dst (l * 64)
def fillHi (p : Fill) (l : Nat) : Nat := min (p.dst + p.len) (l * 64 + 64)

/-- The unit of a constant fill for a destination line. -/
def fillPiece (p : Fill) (l : Nat) : Piece :=
  { writes := [{ d := .dev (fillLo p l)
                 bytes := (List.replicate ((fillHi p l - fillLo p l) / 4) (leBytes 4 p.value.toNat)).flatten }] }

theorem memPieces_eq (p : Fill) : p.memPieces = (linesOf p.dst p.len).map (fillPiece p) := rfl

section
variable {p : Fill} (hdst : p.dst % 4 = 0) (hlen4 : p.len % 4 = 0)
include hdst hlen4

theorem fillPiece_bytes (l : Nat) :
    (List.replicate ((fillHi p l - fillLo p l) / 4) (leBytes 4 p.value.toNat)).flatten =
      (List.range (fillHi p l - fillLo p l)).map fun i => fillByte p.value.toNat (fillLo p l + i) := by
  have hlo : fillLo p l % 4 = 0 := by
    unfold fillLo
    omega
  have hn : 4 * ((fillHi p l - fillLo p l) / 4) = fillHi p l - fillLo p l := by
    unfold fillLo fillHi
    omega
  rw [flatten_replicate_word _ hlo, hn]

theorem fillPiece_stores (l : Nat) : (fillPiece p l).stores =
    [(fillLo p l, (List.range (fillHi p l - fillLo p l)).map fun i => fillByte p.value.toNat (fillLo p l + i))] :=
  congrArg (fun bs => [(fillLo p l, bs)]) (fillPiece_bytes hdst hlen4 l)

theorem fillPiece_plain (hlen : 0 < p.len) (hspan : spanMem p.dst p.len = true) {l : Nat} (hl : l ∈ linesOf p.dst p.len) :
    (fillPiece p l).Plain := by
  refine ⟨rfl, rfl, fun y hy => absurd hy List.not_mem_nil, fun w hw => ?_⟩
  obtain rfl := List.mem_singleton.1 hw
  refine ⟨_, rfl, ?_⟩
  rw [mem_linesOf hlen] at hl
  rw [fillPiece_bytes hdst hlen4, List.length_map, List.length_range]
  refine spanMem_of_spanMem hspan (Nat.le_max_left ..) ?_ ?_
  · unfold fillLo fillHi
    omega
  · unfold fillLo fillHi
    omega

end

/-- A constant fill of memory completes, and its stores are those of its destination lines. -/
theorem runCmd_movFill_mem {c : CmdRef} {e : Circ} {s s1 : State} {x : Ctx} {p : Fill}
    (h : startOf 0x0104 movFillFamily c e s = some (x, s1)) (hp : Fill.parse x.par = p) (hob : p.ob = false)
    (hdst : p.dst % 4 = 0) (hlen4 : p.len % 4 = 0) (hlen : 0 < p.len) (hspan : spanMem p.dst p.len = true) (hh : healthy s1 e)
    (hmis : e.mis1 = none) (hc : cocoonOf s1 x.o = none) :
    (∃ k, cmdOf (runCmd 0x0104 movFillFamily c e s) c = some k ∧ k.ph = .done ∧ k.status = stOk) ∧
      (runCmd 0x0104 movFillFamily c e s).mem.dev =
        stored s.mem.dev (lineStores (fillByte p.value.toNat) (fillLo p) (fillHi p) (linesOf p.dst p.len)) := by
  have hpieces : (movFillPlan x s1).pieces = (linesOf p.dst p.len).map (fillPiece p) := by
    rw [← memPieces_eq]
    simp only [movFillPlan, hp, hob, if_false, Bool.false_eq_true]
  have hplain : ∀ q ∈ (movFillPlan x s1).pieces, q.Plain := by
    rw [hpieces]
    intro q hq
    obtain ⟨l, hl, rfl⟩ := List.mem_map.1 hq
    exact fillPiece_plain hdst hlen4 hlen hspan hl
  have hlast : ∀ q ∈ (movFillPlan x s1).pieces.getLast?, ∀ w ∈ q.writes, w.next = false := by
    rw [hpieces]
    intro q hq w hw
    obtain ⟨l, -, rfl⟩ := List.mem_map.1 (List.mem_of_getLast? hq)
    obtain rfl := List.mem_singleton.1 hw
    rfl
  have hstores : (movFillPlan x s1).pieces.flatMap Piece.stores =
      lineStores (fillByte p.value.toNat) (fillLo p) (fillHi p) (linesOf p.dst p.len) := by
    rw [hpieces, List.flatMap_map, lineStores, List.map_eq_flatMap]
    exact List.flatMap_congr fun l _ => fillPiece_stores hdst hlen4 l
  exact hstores ▸ move_plain (p := movFillPlan x s1) h (by decide) rfl rfl (fun _ _ => rfl) rfl hh hmis hc hplain hlast

/-- The stores of a constant fill leave its word throughout its span. -/
theorem fillLines_fill {m : Mem} (hm : Memory.wfOf 0 m = true) {p : Fill} (hdst : p.dst % 4 = 0) (hlen4 : p.len % 4 = 0)
    (hlen : 0 < p.len) :
    let t := stored m (lineStores (fillByte p.value.toNat) (fillLo p) (fillHi p) (linesOf p.dst p.len))
    memRead 0 t p.dst p.len = (List.replicate (p.len / 4) (leBytes 4 p.value.toNat)).flatten ∧
      ∀ i, i < p.dst ∨ p.dst + p.len ≤ i → memGet 0 t i = memGet 0 m i := by
  have hwords : 4 * (p.len / 4) = p.len := by omega
  rw [flatten_replicate_word _ hdst, hwords]
  refine lineStores_fill hm (fun l _ => ⟨Nat.le_max_left .., Nat.min_le_left ..⟩) fun i hi => ⟨?_, ?_, ?_⟩
  · rw [mem_linesOf hlen]
    omega
  · unfold fillLo
    omega
  · unfold fillHi
    omega

/-! ### The obligation -/

/-- Settles O12: RAW moves between device spans, and constant fills of memory. -/
theorem movesAndFills : Obligations.MovesAndFills := by
  unfold Obligations.MovesAndFills
  refine ⟨?move, ?fill⟩
  case move =>
    intro c e s s1 x a b h
    dsimp only
    intro hlayout hsrc hdst hrepl hlen hsa hsb _ hh hmis hwf hc
    have ⟨_, _, _, herrs, _⟩ := hh
    have hm : Memory.wfOf 0 s.mem.dev = true := startOf_dev h herrs ▸ (memOk_iff.1 hwf).1
    obtain ⟨hdone, hdev⟩ := runCmd_movTile_raw h rfl hlayout hsrc hdst hrepl hlen hsa hsb hh hmis hc
    refine ⟨_, rfl, hdone, ?_⟩
    rw [hdev]
    exact movedLines_fill hm hlen
  case fill =>
    intro c e s s1 x h
    dsimp only
    intro hob hdst hlen4 hlen hspan hh hmis hwf hc
    have ⟨_, _, _, herrs, _⟩ := hh
    have hm : Memory.wfOf 0 s.mem.dev = true := startOf_dev h herrs ▸ (memOk_iff.1 hwf).1
    obtain ⟨hdone, hdev⟩ := runCmd_movFill_mem h rfl hob hdst hlen4 hlen hspan hh hmis hc
    refine ⟨_, rfl, hdone, ?_⟩
    rw [hdev]
    exact fillLines_fill hm hdst hlen4 hlen

end Sys2Proof.Machine
end

section
/-!
PROOFS. Where a command's work writes (R66, R281, R343): device bytes and operand-buffer bytes outside the spans of its pieces and of
its work region, and everything beside memory that a command has no part in.
-/
namespace Sys2Proof.Machine
open Host

/-! ### What a command has no part in -/

/-- The time base, the link, the commands that wait and flash are as before. -/
structure Aside (s t : State) : Prop where
  time : t.time = s.time
  link : t.link = s.link
  pending : t.pending = s.pending
  flash : t.sup.flash = s.sup.flash

theorem Aside.refl (s : State) : Aside s s := ⟨rfl, rfl, rfl, rfl⟩

theorem Aside.trans {s t u : State} (h : Aside s t) (g : Aside t u) : Aside s u :=
  ⟨g.time.trans h.time, g.link.trans h.link, g.pending.trans h.pending, g.flash.trans h.flash⟩

theorem foldl_aside {α : Type} {f : State → α → State} (hf : ∀ s x, Aside s (f s x)) (l : List α) (s : State) :
    Aside s (l.foldl f s) := by
  induction l generalizing s with
  | nil => exact .refl s
  | cons x r ih => exact (hf s x).trans (ih _)

theorem LineWork.aside {s t : State} (h : LineWork s t) : Aside s t := by
  obtain ⟨_, _, _, _, _, _, _, rfl⟩ := h
  exact ⟨rfl, rfl, rfl, rfl⟩

theorem CompletionWork.aside {s t : State} (h : CompletionWork s t) : Aside s t := by
  obtain ⟨_, _, _, _, _, _, _, _, _, _, _, _, _, _, rfl⟩ := h
  exact ⟨rfl, rfl, rfl, rfl⟩

theorem setQ_aside (r : QRef) (q : Queue) (s : State) : Aside s (setQ r q s) := (setQ_completionWork r q s).aside

theorem modCmd_aside (c : CmdRef) (f : Cmd → Cmd) (s : State) : Aside s (modCmd c f s) := setQ_aside ..

theorem modTask_aside (r : QRef) (t : Nat) (f : Task → Task) (s : State) : Aside s (modTask r t f s) := setQ_aside ..

/-! ### The start of a command -/

theorem readLuna_aside (f : Family) (x : Ctx) (s : State) : Aside s (readLuna f x s) := by
  unfold readLuna
  dsimp only
  repeat' split
  all_goals first
    | exact (modCmd_aside ..).trans (noteReads_lineWork ..).aside
    | exact modCmd_aside ..

theorem readStep_aside (f : Family) (x : Ctx) (s : State) : Aside s (readStep f x s) := by
  unfold readStep
  split
  · exact .refl s
  · exact (modCmd_aside ..).trans (noteReads_lineWork ..).aside

theorem startSlip_aside (r : QRef) (k : Cmd) (s : State) : Aside s (startSlip r k s) := by
  unfold startSlip
  repeat' split
  · exact .refl s
  · exact .refl s
  · exact .refl s
  · exact modTask_aside ..
  · exact (modTask_aside ..).trans ⟨rfl, rfl, rfl, rfl⟩

theorem placeCmd_aside (f : Family) (x : Ctx) (p : Nat) (s : State) : Aside s (placeCmd f x p s) := by
  unfold placeCmd
  dsimp only
  split
  · exact modCmd_aside ..
  · exact ((modCmd_aside ..).trans (modTask_aside ..)).trans ⟨rfl, rfl, rfl, rfl⟩

theorem claimBank_aside (core : Nat) (r : QRef) (t : Nat) (s : State) (b : Nat) : Aside s (claimBank core r t s b) := by
  unfold claimBank
  split
  · exact .refl s
  · exact ⟨rfl, rfl, rfl, rfl⟩

theorem enterPipe_aside (k : Cmd) (p : Option Nat) (s : State) : Aside s (enterPipe k p s) := by
  cases p <;> exact ⟨rfl, rfl, rfl, rfl⟩

theorem beginCmd_aside (f : Family) (x : Ctx) (core : Option Nat) (s : State) : Aside s (beginCmd f x core s) := by
  unfold beginCmd
  extract_lets now th s1 s2 s3 s4
  have h1 : Aside s s1 := ((readLuna_aside f x s).trans (readStep_aside ..)).trans (modCmd_aside ..)
  have h2 : Aside s s2 := h1.trans (modTask_aside ..)
  have h3 : Aside s s3 := (h2.trans (startSlip_aside ..)).trans ⟨rfl, rfl, rfl, rfl⟩
  have h4 : Aside s s4 := h3.trans (enterPipe_aside ..)
  split
  · exact h4
  · exact (h4.trans (placeCmd_aside ..)).trans (foldl_aside (fun _ _ => claimBank_aside ..) _ _)

theorem startOf_aside {op : Nat} {f : Family} {c : CmdRef} {e : Circ} {s s1 : State} {x : Ctx}
    (h : startOf op f c e s = some (x, s1)) : Aside s s1 := by
  obtain ⟨y, core, rfl⟩ := startOf_begins h
  exact (miscorrect_lineWork _ s).aside.trans (beginCmd_aside ..)

/-! ### What follows the work -/

/-- Neither device memory nor an operand buffer changes, nor what a command has no part in. -/
structure Settled (s t : State) : Prop where
  aside : Aside s t
  dev : t.mem.dev = s.mem.dev
  ob : t.mem.ob = s.mem.ob

theorem Settled.refl (s : State) : Settled s s := ⟨.refl s, rfl, rfl⟩

theorem Settled.trans {s t u : State} (h : Settled s t) (g : Settled t u) : Settled s u :=
  ⟨h.aside.trans g.aside, g.dev.trans h.dev, g.ob.trans h.ob⟩

theorem foldl_settled {α : Type} {f : State → α → State} (hf : ∀ s x, Settled s (f s x)) (l : List α) (s : State) :
    Settled s (l.foldl f s) := by
  induction l generalizing s with
  | nil => exact .refl s
  | cons x r ih => exact (hf s x).trans (ih _)

theorem CompletionWork.settled {s t : State} (h : CompletionWork s t) : Settled s t := ⟨h.aside, h.dev, h.ob⟩

theorem leaveEngines_settled (x : Ctx) (s : State) : Settled s (leaveEngines x s) := ⟨⟨rfl, rfl, rfl, rfl⟩, rfl, rfl⟩

/-- A core or an engine that is marked may end its run (R12, R441). -/
theorem crossing_settled (b : Bool) (s : State) : Settled s (if b then beginCrossing s else s) := by
  split
  · exact (beginCrossing_completionWork s).settled
  · exact .refl s

theorem markCore_settled (x : Ctx) (s : State) : Settled s (markCore x s) := by
  refine Settled.trans ?_ (crossing_settled ..)
  exact .trans (t := { s with cores := { s.cores with marked := insNat x.core s.cores.marked } })
    ⟨⟨rfl, rfl, rfl, rfl⟩, rfl, rfl⟩ (setQ_completionWork ..).settled

theorem markAbt_settled (die : Nat) (s : State) : Settled s (markAbt die s) :=
  .trans (t := { s with cores := { s.cores with abtMarked := insNat die s.cores.abtMarked } })
    ⟨⟨rfl, rfl, rfl, rfl⟩, rfl, rfl⟩ (crossing_settled ..)

theorem answerRow_settled (l : Nat) (r : RowReq) (s : State) : Settled s (answerRow l r s) := ⟨⟨rfl, rfl, rfl, rfl⟩, rfl, rfl⟩

theorem requestRow_settled (r : RowReq) (s : State) : Settled s (requestRow r s) := by
  unfold requestRow
  split
  · exact answerRow_settled ..
  · split
    · exact ⟨⟨rfl, rfl, rfl, rfl⟩, rfl, rfl⟩
    · exact ⟨⟨rfl, rfl, rfl, rfl⟩, rfl, rfl⟩

theorem requestRows_settled (c : CmdRef) (o : Owner) (rows p : Nat) (reads : Nat → List (Nat × Nat)) (s : State) :
    Settled s (requestRows c o rows p reads s) := by
  refine foldl_settled (fun t r => ?_) _ s
  split
  · exact .refl t
  · exact foldl_settled (fun _ _ => requestRow_settled ..) _ t

/-- A row of a command of row requests does the command's row, and keeps accounts of its requests (R131). -/
theorem runRows_settled {op : Nat} {f : Family} {reads : Ctx → State → Nat × (Nat → List (Nat × Nat))} {c : CmdRef} {e : Circ}
    {s : State} (h : rowOut? s c e = false) : Settled (runCmd op f c (withLate c e s) s) (runRows op f reads c e s) := by
  rw [runRows, h, if_neg Bool.false_ne_true]
  dsimp only
  repeat' split
  · exact requestRows_settled ..
  · exact .refl _
  · exact ⟨⟨rfl, rfl, rfl, rfl⟩, rfl, rfl⟩
  · exact ⟨⟨rfl, rfl, rfl, rfl⟩, rfl, rfl⟩

/-! ### Work that writes within sets of addresses -/

/-- For a task without a Cocoon, device bytes outside `D` and operand-buffer bytes outside `B` read as before; the memories stay
canonical and the task without a Cocoon. -/
structure WritesIn (o : Owner) (D B : Set Nat) (s t : State) : Prop where
  frame : s.memOk → cocoonOf s o = none → t.memOk ∧ cocoonOf t o = none ∧
    (∀ a, a ∉ D → memGet 0 t.mem.dev a = memGet 0 s.mem.dev a) ∧ (∀ a, a ∉ B → memGet 0 t.mem.ob a = memGet 0 s.mem.ob a)

section
variable {o : Owner} {D B : Set Nat}

theorem WritesIn.refl (s : State) : WritesIn o D B s s := ⟨fun hm hc => ⟨hm, hc, fun _ _ => rfl, fun _ _ => rfl⟩⟩

theorem WritesIn.trans {s t u : State} (h : WritesIn o D B s t) (g : WritesIn o D B t u) : WritesIn o D B s u := by
  refine ⟨fun hm hc => ?_⟩
  obtain ⟨hm1, hc1, hdev1, hob1⟩ := h.frame hm hc
  obtain ⟨hm2, hc2, hdev2, hob2⟩ := g.frame hm1 hc1
  exact ⟨hm2, hc2, fun a ha => (hdev2 a ha).trans (hdev1 a ha), fun a ha => (hob2 a ha).trans (hob1 a ha)⟩

theorem foldl_writesIn {α : Type} {f : State → α → State} {l : List α} (hf : ∀ x ∈ l, ∀ s, WritesIn o D B s (f s x)) (s : State) :
    WritesIn o D B s (l.foldl f s) := by
  induction l generalizing s with
  | nil => exact .refl s
  | cons x r ih => exact (hf x List.mem_cons_self s).trans (ih (fun y hy => hf y (List.mem_cons_of_mem _ hy)) _)

/-- What touches neither memory nor Cocoons. -/
theorem writesIn_of_keeps {s t : State} (hm : s.memOk → t.memOk) (hcocoons : t.cocoons = s.cocoons)
    (hdev : t.mem.dev = s.mem.dev) (hob : t.mem.ob = s.mem.ob) : WritesIn o D B s t := by
  refine ⟨fun h hc => ⟨hm h, ?_, fun _ _ => by rw [hdev], fun _ _ => by rw [hob]⟩⟩
  cases o with
  | none => rfl
  | some _ => rwa [cocoonOf, hcocoons]

theorem putComp_writesIn (a : Nat) (bs : List Byte) (s : State) : WritesIn o D B s (putComp a bs s) :=
  writesIn_of_keeps (putComp_memOk a bs) rfl rfl rfl

theorem setPoison_writesIn (l : List Nat) (s : State) : WritesIn o D B s (s.setPoison l) :=
  writesIn_of_keeps (setPoison_memOk l) rfl rfl rfl

theorem putRaw_writesIn {a : Nat} {bs : List Byte} (h : ∀ i < bs.length, a + i ∈ D) (s : State) :
    WritesIn o D B s (putRaw a bs s) := by
  refine ⟨fun hm hc => ⟨putRaw_memOk a bs hm, by rwa [cocoonOf_putRaw], fun b hb => ?_, fun _ _ => rfl⟩⟩
  have hmiss : ¬ (a ≤ b ∧ b < a + bs.length) := fun hin => hb (by
    have := h (b - a) (by omega)
    rwa [Nat.add_sub_cancel' hin.1] at this)
  exact (memGet_memWrite _ _ _ (memOk_iff.1 hm).1).trans (if_neg hmiss)

theorem setOb_writesIn {k : Nat} {bs : List Byte} (h : ∀ i < bs.length, k + i ∈ B) (s : State) :
    WritesIn o D B s (s.setOb (memWrite 0 s.mem.ob k bs)) := by
  refine ⟨fun hm hc => ⟨setOb_memOk hm (memWrite_wf _ _ (memOk_iff.1 hm).2.2), ?_, fun _ _ => rfl, fun b hb => ?_⟩⟩
  · cases o with
    | none => rfl
    | some _ => exact hc
  · have hmiss : ¬ (k ≤ b ∧ b < k + bs.length) := fun hin => hb (by
      have := h (b - k) (by omega)
      rwa [Nat.add_sub_cancel' hin.1] at this)
    exact (memGet_memWrite _ _ _ (memOk_iff.1 hm).2.2).trans (if_neg hmiss)

/-! ### Reads write nothing (R272, R273, R280, R283) -/

theorem poisonLine_cocoons (l : Nat) (s : State) : (poisonLine l s).cocoons = s.cocoons := by
  obtain ⟨_, _, _, _, _, _, _, _, h⟩ := poisonLine_spec l s
  rw [h]

theorem noteUncorr_writesIn (l : Nat) (s : State) : WritesIn o D B s (noteUncorr l s) :=
  writesIn_of_keeps (noteUncorr_memOk l) (poisonLine_cocoons ..) (noteUncorr_dev ..) (noteUncorr_ob ..)

theorem noteTimeout_writesIn (l : Nat) (w : Bool) (s : State) : WritesIn o D B s (noteTimeout l w s) :=
  writesIn_of_keeps (noteTimeout_memOk l w) rfl rfl rfl

theorem noteCorr_writesIn (n : Nat) (s : State) : WritesIn o D B s (noteCorr n s) :=
  writesIn_of_keeps (noteCorr_memOk n) rfl rfl rfl

theorem noteRead_writesIn (e : Circ) (s : State) (a : Nat) : WritesIn o D B s (noteRead o e s a) := by
  unfold noteRead
  dsimp only
  repeat' split
  · exact .refl s
  · exact .refl s
  · exact noteUncorr_writesIn ..
  · exact noteTimeout_writesIn ..
  · exact noteCorr_writesIn ..
  · exact .refl s

theorem noteReads_writesIn (e : Circ) (l : List (Nat × Nat)) (s : State) : WritesIn o D B s (noteReads o e l s) := by
  unfold noteReads
  split
  · exact .refl s
  · exact foldl_writesIn (fun l _ t => noteRead_writesIn e t (l * 64)) s

theorem noteServed_writesIn (e : Circ) (s : State) (a : Nat) : WritesIn o D B s (noteServed o e s a) := by
  unfold noteServed
  dsimp only
  repeat' split
  · exact .refl s
  · exact noteUncorr_writesIn ..
  · exact noteCorr_writesIn ..
  · exact .refl s

theorem notePieces_writesIn (e : Circ) (ps : List Piece) (s : State) : WritesIn o D B s (notePieces o e ps s) :=
  (noteReads_writesIn ..).trans (foldl_writesIn (fun l _ t => noteServed_writesIn e t (l * 64)) _)

/-! ### Writes of lines and spans -/

/-- A line that is written, with its mark in a Cocoon if there is one and with its poison as it then is. -/
theorem written_writesIn {a b : Nat} {bs : List Byte} (h : ∀ i < bs.length, b + i ∈ D) (l : List Nat) (s : State) :
    WritesIn o D B s (markLine o a ((putRaw b bs s).setPoison l)) := by
  refine ⟨fun hm hc => ?_⟩
  have hput := ((putRaw_writesIn (o := o) (B := B) h s).trans (setPoison_writesIn l _)).frame hm hc
  rwa [markLine_plain hput.2.1]

/-- A write within a line, whether or not it takes place. -/
theorem putLine_writesIn (e : Circ) {a : Nat} {bs : List Byte} (h : ∀ i < bs.length, a + i ∈ D) (s : State) :
    WritesIn o D B s (putLine o e a bs s).1 := by
  refine ⟨fun hm hc => WritesIn.frame ?_ hm hc⟩
  simp only [putLine, shadow, hc, viewAddr_plain hc]
  repeat' split
  · exact putComp_writesIn ..
  · exact .refl s
  · exact .refl s
  · exact noteTimeout_writesIn ..
  · exact noteUncorr_writesIn ..
  · exact (noteCorr_writesIn ..).trans (written_writesIn h _ _)
  · exact written_writesIn h _ s

/-- The pieces of a span lie in it. -/
theorem linePieces_within {n : Nat} {a : Nat} {bs : List Byte} {x : Nat × List Byte} (hx : x ∈ linePieces a n bs) :
    a ≤ x.1 ∧ x.1 + x.2.length ≤ a + bs.length := by
  induction n generalizing a bs with
  | zero => cases hx
  | succ n ih =>
    rw [linePieces] at hx
    split at hx
    · split at hx
      · cases hx
      · obtain rfl := List.mem_singleton.1 hx
        exact ⟨Nat.le_refl _, Nat.le_refl _⟩
    · rcases List.mem_cons.1 hx with rfl | hx
      · simp only [List.length_take]
        omega
      · have := ih hx
        rw [List.length_drop] at this
        omega

theorem pieces_subset {a : Nat} {bs : List Byte} {S : Set Nat} (h : ∀ i < bs.length, a + i ∈ S) :
    ∀ x ∈ pieces a bs, ∀ i < x.2.length, x.1 + i ∈ S := by
  intro x hx i hi
  obtain ⟨hlo, hhi⟩ := linePieces_within hx
  have := h (x.1 + i - a) (by omega)
  rwa [Nat.add_sub_cancel' (by omega)] at this

theorem putSpan_writesIn (e : Circ) {l : List (Nat × List Byte)} (h : ∀ x ∈ l, ∀ i < x.2.length, x.1 + i ∈ D) (s : State) :
    WritesIn o D B s (putSpan o e l s).1 := by
  induction l generalizing s with
  | nil => exact .refl s
  | cons x r ih =>
    obtain ⟨a, bs⟩ := x
    have hput := putLine_writesIn (o := o) (B := B) e (h _ List.mem_cons_self) s
    unfold putSpan
    split
    · rename_i s1 hs1
      rw [hs1] at hput
      exact hput.trans (ih (fun y hy => h y (List.mem_cons_of_mem _ hy)) s1)
    · rename_i s1 st _ hs1
      rwa [hs1] at hput

/-! ### Writes of pieces -/

/-- A write of a piece, on a core, within sets of device and operand-buffer addresses. -/
def Wr.In (core : Nat) (D B : Set Nat) (w : Wr) : Prop :=
  match w.d with
  | .dev a => ∀ i < w.bytes.length, a + i ∈ D
  | .ob off => ∀ i < w.bytes.length, obKey core off + i ∈ B

theorem putWr_writesIn (e : Circ) {core : Nat} {w : Wr} (h : w.In core D B) (s : State) :
    WritesIn o D B s (putWr o e core w s).1 := by
  unfold Wr.In at h
  unfold putWr
  split at h
  · rename_i a hd
    rw [hd]
    exact putSpan_writesIn e (pieces_subset h) s
  · rename_i off hd
    rw [hd]
    exact setOb_writesIn h s

theorem putWrs_writesIn (e : Circ) {core : Nat} {l : List Wr} (h : ∀ w ∈ l, w.In core D B) (s : State) :
    WritesIn o D B s (putWrs o e core l s).1 := by
  induction l generalizing s with
  | nil => exact .refl s
  | cons w r ih =>
    have hput := putWr_writesIn (o := o) e (h w List.mem_cons_self) s
    unfold putWrs
    split
    · rename_i s1 hs1
      rw [hs1] at hput
      exact hput.trans (ih (fun y hy => h y (List.mem_cons_of_mem _ hy)) s1)
    · rename_i s1 f hs1
      rwa [hs1] at hput

theorem putPieces_writesIn (e : Circ) {core : Nat} (stop : Nat) {l : List (Piece × Nat)}
    (h : ∀ y ∈ l, ∀ w ∈ y.1.writes, w.In core D B) (s : State) : WritesIn o D B s (putPieces o e core stop l s).1 := by
  induction l generalizing s with
  | nil => exact .refl s
  | cons y r ih =>
    obtain ⟨p, i⟩ := y
    have hput := putWrs_writesIn (o := o) e (l := p.writes.filter fun w => !(w.next && decide (stop ≤ i + 1)))
      (fun w hw => h _ List.mem_cons_self w (List.mem_of_mem_filter hw)) s
    unfold putPieces
    split
    · exact .refl s
    · split
      · rename_i s1 hs1
        rw [hs1] at hput
        exact hput.trans (ih (fun y hy => h y (List.mem_cons_of_mem _ hy)) s1)
      · rename_i s1 f hs1
        rwa [hs1] at hput

theorem scatterWr_writesIn (e : Circ) {core : Nat} (n : Nat) {w : Wr} (h : w.In core D B) (s : State) :
    WritesIn o D B s (scatterWr o e core n w s) := by
  unfold Wr.In at h
  unfold scatterWr
  split at h
  · rename_i a hd
    rw [hd]
    refine foldl_writesIn (fun x hx t => ?_) s
    split
    · exact putLine_writesIn e (pieces_subset h x hx) t
    · exact .refl t
  · rename_i off hd
    rw [hd]
    refine foldl_writesIn (fun x hx t => ?_) s
    split
    · exact setOb_writesIn (pieces_subset h x hx) t
    · exact .refl t

theorem scatter_writesIn (e : Circ) {core : Nat} {ws : List Wr} (h : ∀ w ∈ ws, w.In core D B) (s : State) :
    WritesIn o D B s (scatter o e core ws s) :=
  (foldl_writesIn (fun w hw t => scatterWr_writesIn e _ (h w (List.mem_of_mem_filter hw)) t) s).trans
    (writesIn_of_keeps id rfl rfl rfl)

/-- Work by pieces, whether or not one fails (R281). -/
theorem runPieces_writesIn (mixed : Bool) (e : Circ) {core : Nat} {ps : List Piece}
    (h : ∀ p ∈ ps, ∀ w ∈ p.writes, w.In core D B) (s : State) : WritesIn o D B s (runPieces mixed o e core ps s).1 := by
  have hput : ∀ stop l, WritesIn o D B s (putPieces o e core stop ps.zipIdx (notePieces o e l s)).1 := fun stop l =>
    (notePieces_writesIn ..).trans
      (putPieces_writesIn e stop (fun y hy => h y.1 (by simpa using List.fst_mem_of_mem_zipIdx hy)) _)
  have hscatter : ∀ n, ∀ w ∈ ((ps.drop (n - 1)).take 1).flatMap (fun p => p.writes.filter (·.next)) ++
      (ps.drop n).flatMap (·.writes), w.In core D B := by
    intro n w hw
    rcases List.mem_append.1 hw with hw | hw
    · obtain ⟨p, hp, hw⟩ := List.mem_flatMap.1 hw
      exact h p (List.mem_of_mem_drop (List.mem_of_mem_take hp)) w (List.mem_of_mem_filter hw)
    · obtain ⟨p, hp, hw⟩ := List.mem_flatMap.1 hw
      exact h p (List.mem_of_mem_drop hp) w hw
  unfold runPieces
  dsimp only
  split
  · exact hput _ _
  · dsimp only
    split
    · exact (hput _ _).trans (scatter_writesIn e (hscatter _) _)
    · exact hput _ _

theorem planEnter_writesIn {p : Plan} {x : Ctx} (h : ∀ y ∈ p.scratch, ∀ i < y.2, obKey x.core y.1 + i ∈ B)
    (rf : Option (Nat × Nat × Nat)) (s : State) : WritesIn o D B s (p.enter x rf s) := by
  unfold Plan.enter
  split
  · exact .refl s
  · refine foldl_writesIn (fun y hy t => setOb_writesIn (fun i hi => h y hy i ?_) t) s
    rwa [List.length_map, List.length_range] at hi

end

/-! ### A command's plan -/

/-- What a plan adds to its pieces' work touches nothing that this work is about. -/
structure Plan.Quiet (p : Plan) : Prop where
  post : ∀ r t, Settled t (p.post r t)
  mark : ∀ t, Settled t (p.mark t)

/-- The work of a plan is that of its first pieces, and what settles it. -/
theorem execPlan_settled {p : Plan} {x : Ctx} {s : State} (hq : p.Quiet) (hkept : x.cmd.kept = none) :
    ∃ n rf, Settled (runPieces p.mixed x.o x.e x.core (p.pieces.take n) (p.enter x rf s)).1 (execPlan p x s) := by
  have hleave : ∀ u, Settled u (leaveEngines x u) := leaveEngines_settled x
  have hdone : ∀ u o, Settled u (complete x.c o u) := fun u o => (complete_completionWork x.c o u).settled
  simp only [execPlan, kept_none hkept]
  split
  · rename_i v w _ _
    exact ⟨max v w, firstFault s x.o x.e p.pieces,
      (((hleave _).trans (hq.mark _)).trans (hdone _ _)).trans (hq.post _ _)⟩
  · refine ⟨p.pieces.length, firstFault s x.o x.e p.pieces, ?_⟩
    rw [List.take_length]
    exact ((hleave _).trans (hdone _ _)).trans (hq.post _ _)

/-- The addresses of spans. -/
def spanSet (l : List (Nat × Nat)) : Set Nat := {a | ¬ outside l a}

theorem mem_spanSet {l : List (Nat × Nat)} {x : Nat × Nat} (hx : x ∈ l) {i : Nat} (hi : i < x.2) : x.1 + i ∈ spanSet l := by
  intro hout
  have := hout x hx
  omega

/-- The writes of pieces lie in their device spans and in their buffer spans. -/
theorem write_in_spans {ps : List Piece} {p : Piece} (hp : p ∈ ps) {w : Wr} (hw : w ∈ p.writes) (core : Nat)
    (scratch : List (Nat × Nat)) :
    w.In core (spanSet (devSpans ps)) (spanSet (obKeys core (scratch ++ obSpans ps))) := by
  unfold Wr.In
  split
  · rename_i a hd
    have hx : (a, w.bytes.length) ∈ devSpans ps :=
      List.mem_flatMap.2 ⟨p, hp, List.mem_filterMap.2 ⟨w, hw, by rw [hd]⟩⟩
    exact fun i hi => mem_spanSet hx hi
  · rename_i off hd
    have hx : (off, w.bytes.length) ∈ obSpans ps :=
      List.mem_flatMap.2 ⟨p, hp, List.mem_filterMap.2 ⟨w, hw, by rw [hd]⟩⟩
    exact fun i hi => mem_spanSet (List.mem_map_of_mem (f := fun x => (obKey core x.1, x.2)) (List.mem_append_right _ hx)) hi

/-- Where a plan's work writes, with or without failures. -/
theorem execPlan_frame {p : Plan} {x : Ctx} {s : State} (hq : p.Quiet) (hkept : x.cmd.kept = none) (hm : s.memOk)
    (hc : cocoonOf s x.o = none) :
    Aside s (execPlan p x s) ∧
      (∀ a, outside (devSpans p.pieces) a → memGet 0 (execPlan p x s).mem.dev a = memGet 0 s.mem.dev a) ∧
      (∀ a, outside (obKeys x.core (p.scratch ++ obSpans p.pieces)) a →
        memGet 0 (execPlan p x s).mem.ob a = memGet 0 s.mem.ob a) := by
  obtain ⟨n, rf, haside, hdev, hob⟩ := execPlan_settled (s := s) hq hkept
  have henter := planEnter_writesIn (o := x.o) (D := spanSet (devSpans p.pieces))
    (B := spanSet (obKeys x.core (p.scratch ++ obSpans p.pieces))) (p := p) (x := x) (fun y hy i hi =>
      mem_spanSet (List.mem_map_of_mem (f := fun x' => (obKey x.core x'.1, x'.2)) (List.mem_append_left _ hy)) hi) rf s
  have hrun := henter.trans (runPieces_writesIn p.mixed x.e (core := x.core) (ps := p.pieces.take n)
    (fun q hq w hw => write_in_spans (List.mem_of_mem_take hq) hw x.core p.scratch) _)
  obtain ⟨-, -, hd, hb⟩ := hrun.frame hm hc
  have hwork := lineWork_trans (planEnter_lineWork p x rf s) (runPieces_lineWork p.mixed x.o x.e x.core (p.pieces.take n) _)
  exact ⟨hwork.aside.trans haside, fun a ha => by rw [hdev, hd a (not_not_intro ha)],
    fun a ha => by rw [hob, hb a (not_not_intro ha)]⟩

/-! ### The commands that work by pieces -/

/-- A plan that adds nothing to its pieces' work. -/
theorem Plan.Quiet.of_none {p : Plan} (hpost : p.post = fun _ t => t) (hmark : p.mark = fun t => t) : p.Quiet :=
  ⟨fun _ t => hpost ▸ .refl t, fun t => hmark ▸ .refl t⟩

/-- A plan that may mark its core for retirement (R90). -/
theorem Plan.Quiet.of_markCore {p : Plan} (x : Ctx) (hpost : p.post = fun _ t => t) (hmark : p.mark = markCore x) : p.Quiet :=
  ⟨fun _ t => hpost ▸ .refl t, fun t => hmark ▸ markCore_settled x t⟩

theorem abtPlan_quiet (x : Ctx) (s : State) : (abtPlan x s).Quiet := ⟨fun _ t => .refl t, fun t => markAbt_settled _ t⟩

theorem rngPlan_quiet (x : Ctx) (s : State) : (rngPlan x s).Quiet := by
  refine ⟨fun r t => ?_, fun t => .refl t⟩
  show Settled t (if _ then _ else t)
  split
  · exact ⟨⟨rfl, rfl, rfl, rfl⟩, rfl, rfl⟩
  · exact .refl t

theorem lockPlan_quiet (x : Ctx) (s : State) : (lockPlan x s).Quiet := by
  refine ⟨fun r t => ?_, fun t => .refl t⟩
  show Settled t (if _ then t else if _ then _ else _)
  repeat' split
  · exact .refl t
  · exact ⟨⟨rfl, rfl, rfl, rfl⟩, rfl, rfl⟩
  · exact ⟨⟨rfl, rfl, rfl, rfl⟩, rfl, rfl⟩

theorem decPlan_quiet (x : Ctx) (s : State) : (decPlan x s).Quiet := by
  unfold decPlan
  dsimp only
  split
  · exact .of_none rfl rfl
  · exact .of_none rfl rfl
  · exact .of_none rfl rfl
  · exact .of_none rfl rfl

/-- The row of a command that works by pieces: its family's work is that of its plan, and the row is that of a queue command or of
a command of row requests. -/
structure WorksBy (i : Instr) (op : Nat) (f : Family) (c : CmdRef) (e : Circ) (plan : Ctx → State → Plan) : Prop where
  work : ∀ x s, f.work x s = execPlan (plan x s) x s
  quiet : ∀ x s, (plan x s).Quiet
  row : ∀ s, (op ∉ rowOps ∧ exec i s = .next (runCmd op f c e s)) ∨
    (op ∈ rowOps ∧ ∃ reads, exec i s = .next (runRows op f reads c e s))

theorem WorksBy.ofCmd {i : Instr} {op : Nat} {f : Family} {c : CmdRef} {e : Circ} {plan : Ctx → State → Plan}
    (hquiet : ∀ x s, (plan x s).Quiet) (hop : op ∉ rowOps := by decide)
    (hwork : ∀ x s, f.work x s = execPlan (plan x s) x s := by intros; rfl)
    (hexec : ∀ s, exec i s = .next (runCmd op f c e s) := by intros; rfl) : WorksBy i op f c e plan :=
  ⟨hwork, hquiet, fun s => .inl ⟨hop, hexec s⟩⟩

theorem WorksBy.ofRows {i : Instr} {op : Nat} {f : Family} {c : CmdRef} {e : Circ} {plan : Ctx → State → Plan}
    {reads : Ctx → State → Nat × (Nat → List (Nat × Nat))} (hexec : ∀ s, exec i s = .next (runRows op f reads c e s))
    (hquiet : ∀ x s, (plan x s).Quiet) (hop : op ∈ rowOps := by decide)
    (hwork : ∀ x s, f.work x s = execPlan (plan x s) x s := by intros; rfl) : WorksBy i op f c e plan :=
  ⟨hwork, hquiet, fun s => .inr ⟨hop, reads, hexec s⟩⟩

/-- Every command that has a plan works by it. -/
theorem worksBy {i : Instr} {op : Nat} {f : Family} {c : CmdRef} {e : Circ} {plan : Ctx → State → Plan}
    (hrow : queueRow i = some (op, f, c, e)) (hplan : planOf i = some plan) : WorksBy i op f c e plan := by
  cases i with
  | movTile => cases hrow; cases hplan; exact .ofCmd fun _ _ => .of_none rfl rfl
  | movExpand => cases hrow; cases hplan; exact .ofCmd fun _ _ => .of_none rfl rfl
  | movGather => cases hrow; cases hplan; exact .ofRows (fun _ => rfl) fun _ _ => .of_none rfl rfl
  | movFill => cases hrow; cases hplan; exact .ofCmd fun _ _ => .of_none rfl rfl
  | mtxRun => cases hrow; cases hplan; exact .ofCmd fun x _ => .of_markCore x rfl rfl
  | mtxChain2 => cases hrow; cases hplan; exact .ofCmd fun x _ => .of_markCore x rfl rfl
  | mtxMv => cases hrow; cases hplan; exact .ofCmd fun x _ => .of_markCore x rfl rfl
  | vecRun => cases hrow; cases hplan; exact .ofRows (fun _ => rfl) fun _ _ => .of_none rfl rfl
  | vecStats => cases hrow; cases hplan; exact .ofCmd fun _ _ => .of_none rfl rfl
  | vecUpdate => cases hrow; cases hplan; exact .ofCmd fun _ _ => .of_none rfl rfl
  | vecSched => cases hrow; cases hplan; exact .ofCmd fun _ _ => .of_none rfl rfl
  | attFwd => cases hrow; cases hplan; exact .ofRows (fun _ => rfl) fun x _ => .of_markCore x rfl rfl
  | attBwd => cases hrow; cases hplan; exact .ofRows (fun _ => rfl) fun x _ => .of_markCore x rfl rfl
  | kvAppend => cases hrow; cases hplan; exact .ofRows (fun _ => rfl) fun _ _ => .of_none rfl rfl
  | kvMap => cases hrow; cases hplan; exact .ofRows (fun _ => rfl) fun _ _ => .of_none rfl rfl
  | cnvFuse => cases hrow; cases hplan; exact .ofCmd fun x _ => .of_markCore x rfl rfl
  | abtRun => cases hrow; cases hplan; exact .ofCmd abtPlan_quiet
  | rngSet => cases hrow; cases hplan; exact .ofCmd rngPlan_quiet
  | smpGumbel => cases hrow; cases hplan; exact .ofCmd fun _ _ => .of_none rfl rfl
  | medDec => cases hrow; cases hplan; exact .ofCmd decPlan_quiet
  | medScale => cases hrow; cases hplan; exact .ofCmd fun _ _ => .of_none rfl rfl
  | medLock => cases hrow; cases hplan; exact .ofCmd lockPlan_quiet
  | synSignal => cases hrow; cases hplan; exact .ofCmd fun _ _ => .of_none rfl rfl
  | synWait => cases hrow; cases hplan; exact .ofCmd fun _ _ => .of_none rfl rfl
  | _ => cases hplan

/-- A command that may start does the work of its plan, and what settles it (R343, R344). -/
theorem WorksBy.exec_settled {i : Instr} {op : Nat} {f : Family} {c : CmdRef} {e : Circ} {plan : Ctx → State → Plan}
    {s s1 : State} {x : Ctx} (hw : WorksBy i op f c e plan) (h : startOf op f c e s = some (x, s1)) :
    ∃ t, exec i s = .next t ∧ Settled (execPlan (plan x s1) x s1) t := by
  have hrun := runCmd_start h
  rw [hw.work] at hrun
  rcases hw.row s with ⟨hop, hexec⟩ | ⟨hop, reads, hexec⟩
  · rw [circOf, if_neg hop] at hrun
    exact ⟨_, hexec, hrun ▸ .refl _⟩
  · obtain ⟨-, -, -, hrows, -, -⟩ := startOf_ctx h
    have hin : rowOut? s c e = false := by simpa [rowsIn, hop] using hrows
    rw [circOf, if_pos hop] at hrun
    exact ⟨_, hexec, hrun ▸ runRows_settled hin⟩

/-! ### The obligation -/

/-- Settles O11: the spans in which a data command writes, and what it has no part in. -/
theorem dataCommandsWriteTheirSpans : Obligations.DataCommandsWriteTheirSpans := by
  unfold Obligations.DataCommandsWriteTheirSpans
  intro i op f c e s s1 x plan hrow hplan h hwf hc
  have hw := worksBy hrow hplan
  obtain ⟨-, -, -, -, -, hkept⟩ := startOf_ctx h
  obtain ⟨t, hexec, haside, hdev, hob⟩ := hw.exec_settled h
  obtain ⟨hwork, hdevs, hobs⟩ := execPlan_frame (hw.quiet x s1) hkept hwf hc
  obtain ⟨htime, hlink, hpending, hflash⟩ := ((startOf_aside h).trans hwork).trans haside
  exact ⟨t, hexec, fun a ha => by rw [hdev, hdevs a ha], fun a ha => by rw [hob, hobs a ha], htime, hlink, hpending, hflash⟩

end Sys2Proof.Machine
end

section
/-!
PROOFS. The start of a command that takes no core and reads no record of its own (R223, R240, R370): what it leaves, and the
phases of every command; the picture that a lock group starts (R316).
-/
namespace Sys2Proof.Machine
open Host

/-! ### What a start without a core leaves -/

/-- Memory, supervisors, time and lock groups are as before, and the registers but for those of slips (R413). -/
structure OnlySlips (s t : State) : Prop where
  mem : t.mem = s.mem
  sup : t.sup = s.sup
  time : t.time = s.time
  groups : t.media.groups = s.media.groups
  regs : t.regs = { s.regs with slips := t.regs.slips, slipMax := t.regs.slipMax, slipTag := t.regs.slipTag }

theorem OnlySlips.refl (s : State) : OnlySlips s s := ⟨rfl, rfl, rfl, rfl, rfl⟩

theorem OnlySlips.trans {s t u : State} (h : OnlySlips s t) (g : OnlySlips t u) : OnlySlips s u :=
  ⟨g.mem.trans h.mem, g.sup.trans h.sup, g.time.trans h.time, g.groups.trans h.groups, g.regs.trans (by rw [h.regs])⟩

theorem setQ_onlySlips (r : QRef) (q : Queue) (s : State) : OnlySlips s (setQ r q s) := by
  cases r <;> exact ⟨rfl, rfl, rfl, rfl, rfl⟩

theorem modCmd_onlySlips (c : CmdRef) (f : Cmd → Cmd) (s : State) : OnlySlips s (modCmd c f s) := setQ_onlySlips ..

theorem modTask_onlySlips (r : QRef) (t : Nat) (f : Task → Task) (s : State) : OnlySlips s (modTask r t f s) := setQ_onlySlips ..

theorem startSlip_onlySlips (r : QRef) (k : Cmd) (s : State) : OnlySlips s (startSlip r k s) := by
  unfold startSlip
  repeat' split
  · exact .refl s
  · exact .refl s
  · exact .refl s
  · exact modTask_onlySlips ..
  · exact (modTask_onlySlips ..).trans ⟨rfl, rfl, rfl, rfl, rfl⟩

theorem enterPipe_onlySlips (k : Cmd) (p : Option Nat) (s : State) : OnlySlips s (enterPipe k p s) := by
  cases p <;> exact ⟨rfl, rfl, rfl, rfl, rfl⟩

theorem readLuna_onlySlips {f : Family} {x : Ctx} (hdraws : f.draws x.par = false) (s : State) :
    OnlySlips s (readLuna f x s) := by
  unfold readLuna
  dsimp only
  rw [hdraws]
  split <;> exact modCmd_onlySlips ..

theorem readStep_none {f : Family} {x : Ctx} (hstep : f.step x.par = none) (s : State) : readStep f x s = s := by
  rw [readStep, hstep]

/-- A command that draws nothing, works by no step record and takes no core begins without a trace in memory. -/
theorem beginCmd_onlySlips {f : Family} {x : Ctx} (hdraws : f.draws x.par = false) (hstep : f.step x.par = none) (s : State) :
    OnlySlips s (beginCmd f x none s) := by
  unfold beginCmd
  extract_lets now th s1 s2 s3 s4
  have h1 : OnlySlips s s1 := by
    refine (readLuna_onlySlips hdraws s).trans ?_
    simp only [s1, readStep_none hstep]
    exact modCmd_onlySlips ..
  have h3 : OnlySlips s s3 := ((h1.trans (modTask_onlySlips ..)).trans (startSlip_onlySlips ..)).trans ⟨rfl, rfl, rfl, rfl, rfl⟩
  exact h3.trans (enterPipe_onlySlips ..)

/-! ### The phases of commands -/

/-- A change of the command at one place is not seen at another. -/
theorem find?_map_other {f : Cmd → Cmd} (hf : ∀ k, (f k).idx = k.idx) {i j : Nat} (hij : i ≠ j) (l : List Cmd) :
    (l.map fun k => if k.idx = j then f k else k).find? (fun k => decide (k.idx = i)) = l.find? fun k => decide (k.idx = i) := by
  have hplace : ∀ k : Cmd, (if k.idx = j then f k else k).idx = k.idx := fun k => by
    split
    · exact hf k
    · rfl
  simp only [List.find?_map, Function.comp_def, hplace]
  cases hk : l.find? fun k => decide (k.idx = i) with
  | none => rfl
  | some k =>
    have hki : k.idx = i := of_decide_eq_true (List.find?_some (p := fun k : Cmd => decide (k.idx = i)) hk)
    rw [Option.map_some, if_neg (hki ▸ hij)]

theorem cmdOf_modCmd_ne {c d : CmdRef} {f : Cmd → Cmd} (hd : d ≠ c) (s : State)
    (hf : ∀ k, (f k).idx = k.idx := by intro; rfl) : cmdOf (modCmd c f s) d = cmdOf s d := by
  by_cases hq : d.q = c.q
  · have hidx : d.idx ≠ c.idx := fun hi => hd (by
      obtain ⟨dq, di⟩ := d
      obtain ⟨cq, ci⟩ := c
      exact congrArg₂ CmdRef.mk hq hi)
    rcases getQ_setQ_self c.q _ s with hget | ⟨himg, hrun⟩
    · rw [cmdOf, hq, modCmd, hget, find?_map_other hf hidx, cmdOf, hq]
    · simp [cmdOf, modCmd, hq, himg, hrun, getQ, setQ]
  · rw [cmdOf, getQ_modCmd_ne f s hq, cmdOf]

/-- Every command is where it was, in the phase that it was in. -/
structure KeepsPhases (s t : State) : Prop where
  phase : ∀ c, (cmdOf t c).map (·.ph) = (cmdOf s c).map (·.ph)

theorem KeepsPhases.trans {s t u : State} (h : KeepsPhases s t) (g : KeepsPhases t u) : KeepsPhases s u :=
  ⟨fun c => (g.phase c).trans (h.phase c)⟩

theorem KeepsPhases.of_cmdOf {s t : State} (h : ∀ c, cmdOf t c = cmdOf s c) : KeepsPhases s t := ⟨fun c => by rw [h c]⟩

theorem modCmd_keepsPhases (c : CmdRef) (f : Cmd → Cmd) (s : State) (hidx : ∀ k, (f k).idx = k.idx := by intro; rfl)
    (hph : ∀ k, (f k).ph = k.ph := by intro; rfl) : KeepsPhases s (modCmd c f s) := by
  refine ⟨fun d => ?_⟩
  by_cases hd : d = c
  · rw [hd, cmdOf_modCmd c f hidx, Option.map_map]
    exact congrArg (Option.map · _) (funext hph)
  · rw [cmdOf_modCmd_ne hd s hidx]

theorem readLuna_keepsPhases (f : Family) (x : Ctx) (s : State) : KeepsPhases s (readLuna f x s) := by
  have hmod : ∀ l b, KeepsPhases s (modCmd x.c (fun k => { k with luna := l, lunaBad := b }) s) := fun _ _ =>
    modCmd_keepsPhases ..
  unfold readLuna
  dsimp only
  split
  · split
    · exact (hmod ..).trans (.of_cmdOf (noteReads_lineWork ..).cmdOf)
    · exact hmod ..
  · exact hmod ..

theorem readStep_keepsPhases (f : Family) (x : Ctx) (s : State) : KeepsPhases s (readStep f x s) := by
  unfold readStep
  split
  · exact .of_cmdOf fun _ => rfl
  · exact (modCmd_keepsPhases ..).trans (.of_cmdOf (noteReads_lineWork ..).cmdOf)

/-- The start of a command changes no phase: the row that starts it does. -/
theorem beginCmd_keepsPhases (f : Family) (x : Ctx) (s : State) : KeepsPhases s (beginCmd f x none s) := by
  unfold beginCmd
  extract_lets now th s1 s2 s3 s4
  have h1 : KeepsPhases s s1 := ((readLuna_keepsPhases f x s).trans (readStep_keepsPhases f x _)).trans
    (modCmd_keepsPhases ..)
  exact h1.trans (.of_cmdOf fun c => by simp [s4, s3, s2])

end Sys2Proof.Machine
end

section
/-!
PROOFS. The members of a lock group start a picture together (R316).
-/
namespace Sys2Proof.Machine
open Host

/-! ### Commands in progress at their first position -/

/-- The command stands at the start of its work. -/
def Begun (t : State) (c : CmdRef) : Prop := ∃ k, cmdOf t c = some k ∧ k.ph = .running 0

theorem begun_iff {t : State} {c : CmdRef} : Begun t c ↔ (cmdOf t c).map (·.ph) = some (.running 0) := by
  simp [Begun]

/-- One member's command starts. -/
def startMember (t : State) (x : CmdRef × Cmd) : State :=
  modCmd x.1 (fun k => { k with ph := .running 0 }) (beginCmd (encFamilyOf true) (mkCtx t x.1 {} x.2) none t)

theorem startMember_onlySlips (t : State) (x : CmdRef × Cmd) : OnlySlips t (startMember t x) :=
  (beginCmd_onlySlips rfl rfl t).trans (modCmd_onlySlips ..)

/-- The start of a member puts its own command in progress and leaves the phase of every other. -/
theorem startMember_phase (t : State) (x : CmdRef × Cmd) (c : CmdRef) :
    (cmdOf (startMember t x) c).map (·.ph) = if c = x.1 then (cmdOf t c).map fun _ => .running 0 else (cmdOf t c).map (·.ph) := by
  have hbegin := (beginCmd_keepsPhases (encFamilyOf true) (mkCtx t x.1 {} x.2) t).phase c
  unfold startMember
  split
  · rename_i hc
    subst hc
    rw [cmdOf_modCmd _ _ (by intro; rfl), Option.map_map]
    exact (Option.map_map (fun _ => Phase.running 0) (·.ph) _).symm.trans
      ((congrArg (Option.map fun _ => Phase.running 0) hbegin).trans (Option.map_map ..))
  · rename_i hc
    rw [cmdOf_modCmd_ne hc, hbegin]

theorem startMembers_onlySlips (l : List (CmdRef × Cmd)) (t : State) : OnlySlips t (l.foldl startMember t) := by
  induction l generalizing t with
  | nil => exact .refl t
  | cons x r ih => exact (startMember_onlySlips t x).trans (ih _)

/-- Commands in progress stay so while the others start. -/
theorem Begun.startMembers {t : State} {c : CmdRef} (h : Begun t c) (l : List (CmdRef × Cmd)) :
    Begun (l.foldl startMember t) c := by
  induction l generalizing t with
  | nil => exact h
  | cons x r ih =>
    refine ih ?_
    obtain ⟨k, hk, hph⟩ := h
    rw [begun_iff, startMember_phase, hk]
    split
    · rfl
    · rw [Option.map_some, hph]

/-- Of the commands that start together, each is in progress afterwards. -/
theorem startMembers_begun {l : List (CmdRef × Cmd)} {t : State} {x : CmdRef × Cmd} (hx : x ∈ l) (hk : (cmdOf t x.1).isSome) :
    Begun (l.foldl startMember t) x.1 := by
  induction l generalizing t with
  | nil => cases hx
  | cons y r ih =>
    obtain ⟨k, hk⟩ := Option.isSome_iff_exists.1 hk
    have hphase := startMember_phase t y x.1
    rw [hk, Option.map_some, Option.map_some] at hphase
    rcases List.mem_cons.1 hx with rfl | hx
    · rw [if_pos rfl] at hphase
      exact (begun_iff.2 hphase).startMembers r
    · refine ih hx ?_
      have hsome := congrArg Option.isSome hphase
      rwa [apply_ite Option.isSome, Option.isSome_map, Option.isSome_some, Option.isSome_some, ite_self] at hsome

/-! ### LOCK_GROUP_PICTURE_START -/

/-- A group that still stands needs no binding (R315). -/
theorem regroup_bound {o : Owner} {ctx : Nat} {s : State} {g : Group} (h : groupOf s ctx = some g) : regroup o ctx s = s := by
  simp [regroup, h]

/-- Where every member's command may start and no pipe is held, all start at the next beat boundary, and the group notes the
picture. -/
theorem startPicture_go {g : Group} {s : State} (hidle : g.started = none) (hpipes : ∀ i ∈ g.pipes, i ∉ heldPipes s 0x0702)
    (hgo : ∀ m ∈ g.members, ∃ c k core, encCmdOf s m = some (c, k) ∧ admission 0x0702 (encFamilyOf true) c {} k s = .go core) :
    ∃ f, startPicture g s = setGroup (g.members.headD 0) f
      ((g.members.filterMap (encCmdOf s)).foldl startMember (advanceTo (beatUp s.time.now.toNat) s)) := by
  have hlen : (g.members.filterMap (encCmdOf s)).length = g.members.length := by
    rw [List.length_filterMap_eq_countP, List.countP_eq_length]
    intro m hm
    obtain ⟨c, k, core, hcmd, -⟩ := hgo m hm
    rw [hcmd]
    rfl
  have hfree : (g.pipes.any fun i => (heldPipes s 0x0702).contains i) = false := by
    simpa only [List.any_eq_false, List.contains_iff_mem] using hpipes
  have hadmit : ∀ y ∈ (g.members.filterMap (encCmdOf s)).map fun x => (x, admission 0x0702 (encFamilyOf true) x.1 {} x.2 s),
      ∃ core, y.2 = .go core := by
    intro y hy
    obtain ⟨x, hx, rfl⟩ := List.mem_map.1 hy
    obtain ⟨m, hm, hmx⟩ := List.mem_filterMap.1 hx
    obtain ⟨c, k, core, hcmd, hadm⟩ := hgo m hm
    obtain rfl := Option.some.inj (hcmd.symm.trans hmx)
    exact ⟨core, hadm⟩
  unfold startPicture
  extract_lets cs fam vs
  have hcond : (g.started.isSome || cs.length != g.members.length ||
      g.pipes.any fun i => (heldPipes s 0x0702).contains i) = false := by
    rw [hfree, hidle, hlen]
    simp
  rw [hcond, if_neg Bool.false_ne_true]
  split
  · rename_i x v hfind
    obtain ⟨core, hcore⟩ := hadmit _ (List.mem_of_find?_eq_some hfind)
    have hstop := List.find?_some hfind
    obtain rfl : v = .go core := hcore
    cases hstop
  · rw [if_pos]
    · exact ⟨_, rfl⟩
    · refine List.all_eq_true.2 fun y hy => ?_
      obtain ⟨core, hcore⟩ := hadmit y hy
      simp [hcore]

/-- Settles O15: the members' commands start one after the other at the beat boundary, and none loses its phase to a later one. -/
theorem lockGroupsStartTogether : Obligations.LockGroupsStartTogether := by
  unfold Obligations.LockGroupsStartTogether
  intro s ctx g hg hidle hpipes hon hlt hgo
  obtain ⟨f, hstart⟩ := startPicture_go hidle hpipes fun m hm => by
    obtain ⟨c, k, core, hcmd, -, hadm⟩ := hgo m hm
    exact ⟨c, k, core, hcmd, hadm⟩
  have hexec : exec (.lockGroupPictureStart ctx) s = .next (startPicture g s) := by
    show Outcome.next _ = _
    rw [regroup_bound hg, hg]
  have hnow := advanceTo_beatUp_now hon hlt
  have hfold := startMembers_onlySlips (g.members.filterMap (encCmdOf s)) (advanceTo (beatUp s.time.now.toNat) s)
  have htime := congrArg (fun t : TimeBase => t.now.toNat) hfold.time
  refine ⟨_, hstart ▸ hexec, ?_, ?_, ?_, fun m hm c k hcmd => ?begun, ?_, ?_, ?_⟩
  case begun =>
    obtain ⟨c', k', core, hcmd', hk, -⟩ := hgo m hm
    obtain ⟨rfl, rfl⟩ := Prod.mk.inj (Option.some.inj (hcmd'.symm.trans hcmd))
    refine startMembers_begun (x := (c', k')) (List.mem_filterMap.2 ⟨m, hm, hcmd'⟩) ?_
    rw [(advanceTo_sameCmds _ s).cmdOf, hk]
    rfl
  · exact (congrArg (· % 1024) (htime.trans hnow)).trans (beatUp_mod _)
  · exact (le_beatUp _).trans_eq (htime.trans hnow).symm
  · exact (htime.trans hnow).trans_lt (beatUp_lt _)
  · exact hfold.mem.trans (advanceTo_mem ..)
  · exact hfold.sup.trans (advanceTo_sup ..)
  · exact hfold.regs.trans (by rw [advanceTo_regs]; rfl)

end Sys2Proof.Machine
end

section
/-!
PROOFS. A command that takes no core, from its row to its work; work that ends at the fault of its last piece (R281).
-/
namespace Sys2Proof.Machine
open Host

/-! ### The start of a command -/

/-- What the start of a command comes from: its admission, and the state and context in which it works. -/
theorem startOf_admitted {op : Nat} {f : Family} {c : CmdRef} {e : Circ} {s s1 : State} {x : Ctx}
    (h : startOf op f c e s = some (x, s1)) :
    let e1 := circOf op c e s
    let s0 := miscorrect e1 s
    ∃ k core, cmdOf s c = some k ∧ admission op f c e1 k s = .go core ∧ s1 = beginCmd f (mkCtx s0 c e1 k) core s0 ∧
      x = ctxNow c e1 k s1 := by
  unfold startOf at h
  dsimp only at h ⊢
  split at h
  · cases h
  · rename_i k hk
    split at h
    · split at h
      · rename_i core hgo
        split at h
        · obtain ⟨rfl, rfl⟩ := Prod.mk.inj (Option.some.inj h)
          exact ⟨k, core, hk, hgo, rfl, rfl⟩
        · cases h
      · cases h
    · cases h

/-- A command that needs no core is admitted without one. -/
theorem admission_go_none {op : Nat} {f : Family} {c : CmdRef} {e : Circ} {k : Cmd} {s : State} {core : Option Nat}
    (hcore : f.core k.par = false) (h : admission op f c e k s = .go core) : core = none := by
  have hpar : ¬ f.core (mkCtx s c e k).par = true := by
    rw [show (mkCtx s c e k).par = k.par from rfl, hcore]
    exact Bool.false_ne_true
  unfold admission at h
  simp only [if_neg hpar] at h
  repeat' split at h
  all_goals cases h
  all_goals rfl

/-- The context in which a started command works holds the command as it stands in its queue. -/
theorem startOf_cmd {op : Nat} {f : Family} {c : CmdRef} {e : Circ} {s s1 : State} {x : Ctx}
    (h : startOf op f c e s = some (x, s1)) : cmdOf s1 c = some x.cmd ∧ x.cmd.par = x.par := by
  obtain ⟨k, core, hk, -, hs1, rfl⟩ := startOf_admitted h
  obtain ⟨k', hk', -⟩ := beginCmd_cmdOf (f := f) (core := core)
    (x := mkCtx (miscorrect (circOf op c e s) s) c (circOf op c e s) k)
    (((miscorrect_lineWork (circOf op c e s) s).cmdOf c).trans hk)
  have hnow : cmdOf s1 c = some k' := hs1 ▸ hk'
  refine ⟨?_, rfl⟩
  rw [ctxNow, hnow]
  rfl

/-- Of a command without a core, without draws and without a step record, the start leaves no trace in memory. -/
theorem startOf_onlySlips {op : Nat} {f : Family} {c : CmdRef} {e : Circ} {s s1 : State} {x : Ctx}
    (h : startOf op f c e s = some (x, s1)) (hcore : ∀ v, f.core v = false) (hdraws : ∀ v, f.draws v = false)
    (hstep : ∀ v, f.step v = none) (he : (circOf op c e s).errs = []) : OnlySlips s s1 := by
  obtain ⟨k, core, -, hgo, rfl, -⟩ := startOf_admitted h
  obtain rfl := admission_go_none (hcore _) hgo
  rw [miscorrect_clean _ s he]
  exact beginCmd_onlySlips (hdraws _) (hstep _) s

/-! ### Work without the checks of R88 -/

/-- A plan without those checks runs its pieces once and completes. -/
theorem execPlan_unchecked {p : Plan} {x : Ctx} {s : State} (hp : p.checked = false) (hscratch : p.scratch = [])
    (hkept : x.cmd.kept = none) :
    execPlan p x s =
      let u := runPieces p.mixed x.o x.e x.core p.pieces s
      p.post { fail := u.2 } (complete x.c (p.out { fail := u.2 }) (leaveEngines x u.1)) := by
  have henter : ∀ rf, p.enter x rf s = s := fun rf => by rw [Plan.enter, hscratch]; rfl
  simp [execPlan, kept_none hkept, hp, henter]

/-- Pieces behind the one at which the work stops write nothing. -/
theorem putPieces_append_late {o : Owner} {e : Circ} (core : Nat) {stop : Nat} (l : List (Piece × Nat)) {r : List (Piece × Nat)}
    (hr : ∀ y ∈ r, stop ≤ y.2) (s : State) : putPieces o e core stop (l ++ r) s = putPieces o e core stop l s := by
  induction l generalizing s with
  | nil =>
    cases r with
    | nil => rfl
    | cons y r =>
      obtain ⟨p, i⟩ := y
      exact if_pos (hr _ List.mem_cons_self)
  | cons y l ih => simp only [List.cons_append, putPieces, ih]

/-- Work by pieces in healthy memory whose last meets a fault of its own, with writes that take place only on success (R296): the
others leave their stores, and the fault ends it. -/
theorem runPieces_fault {o : Owner} {e : Circ} (core : Nat) {ps : List Piece} {q : Piece} {f : Nat × Nat} {s : State}
    (hh : healthy s e) (hc : cocoonOf s o = none) (hp : ∀ p ∈ ps, p.Plain)
    (hnext : ∀ p ∈ ps ++ [q], ∀ w ∈ p.writes, w.next = false) (hfault : q.fault = some f) (hq : q.arrived = false)
    (hfirm : ∀ w ∈ q.writes, w.firm = true) :
    runPieces true o e core (ps ++ [q]) s =
      ({ s.setDev (stored s.mem.dev (ps.flatMap Piece.stores)) with freeCtr := s.freeCtr + 1 }, some (ps.length, f)) := by
  have hfirst : firstFault s o e (ps ++ [q]) = some (ps.length, f) := by
    have hplain := firstFault_plain (o := o) hp hh
    unfold firstFault at hplain ⊢
    rw [List.zipIdx_append, List.findSome?_append, hplain]
    simp [Piece.faultOf, hfault]
  have hput := putPieces_plain core 0 hh hc hp fun p hmem => hnext p (List.mem_append_left _ (List.mem_of_getLast? hmem))
  rw [Nat.zero_add] at hput
  have hlate : putPieces o e core ps.length (ps ++ [q]).zipIdx s =
      (s.setDev (stored s.mem.dev (ps.flatMap Piece.stores)), none) := by
    rw [List.zipIdx_append, putPieces_append_late core _ (by simp), hput]
  have hnote : notePieces o e (ps ++ [q]) s = s := by
    have hnone : (ps ++ [q]).filter (·.arrived) = [] := List.filter_eq_nil_iff.2 fun p hmem => by
      rcases List.mem_append.1 hmem with hmem | hmem
      · simp [(hp p hmem).arrived]
      · simp [List.mem_singleton.1 hmem, hq]
    rw [notePieces, hnone, noteReads_healthy hh]
    rfl
  have hheld : ∀ n, ((ps ++ [q]).drop n |>.take 1).flatMap (fun p => p.writes.filter (·.next)) = [] := fun n =>
    List.flatMap_eq_nil_iff.2 fun p hmem => List.filter_eq_nil_iff.2 fun w hw => by
      simp [hnext p (List.mem_of_mem_drop (List.mem_of_mem_take hmem)) w hw]
  have hlast : (ps ++ [q]).drop ps.length = [q] := List.drop_left
  have hnone : q.writes.filter (fun w => !w.firm) = [] := List.filter_eq_nil_iff.2 fun w hw => by simp [hfirm w hw]
  simp [runPieces, hfirst, hnote, hlate, hheld, hlast, hnone, scatter]

end Sys2Proof.Machine
end

section
/-!
PROOFS. MED.ENC: where the writes of pictures and contexts lie, in slots of the reference pictures (R324) and in stream contexts
(R296, R303).
-/
namespace Sys2Proof.Machine
open Host

/-! ### Spans within spans -/

/-- A part of a Keystone span lies in memory: one with bytes, an empty one strictly inside, or all of an empty span. -/
theorem spanMem_part {a n b m : Nat} (h : spanKs a n = true) (hlo : a ≤ b) (hhi : b + m ≤ a + n)
    (hpos : 0 < m ∨ (a < b ∧ b < a + n) ∨ n = 0) : spanMem b m = true := by
  simp only [spanKs, inKs, Bool.and_eq_true, decide_eq_true_eq] at h
  simp only [spanMem, spanKs, inKs, Bool.or_eq_true, Bool.and_eq_true, decide_eq_true_eq]
  omega

/-! ### Picture slots (R324) -/

theorem packCodes_length (w : Nat) (l : List Nat) : (packCodes w l).length = l.length * w / 8 := leBytes_length ..

theorem roundUp_64 (n : Nat) : ∃ i, roundUp 64 n = 64 * i ∧ n ≤ 64 * i :=
  ⟨cdiv n 64, Nat.mul_comm .., by unfold cdiv; omega⟩

/-- The bytes of the samples of a slot. -/
def slotSamples (w h b : Nat) : Nat := roundUp 64 w * roundUp 64 h * 3 * b / 16

/-- A slot has bytes behind its samples, or none at all. -/
theorem slotSamples_lt (w h b : Nat) : slotSamples w h b < slotLen w h b ∨ slotSamples w h b = 0 ∧ slotLen w h b = 0 := by
  obtain ⟨i, hi, -⟩ := roundUp_64 w
  obtain ⟨j, hj, -⟩ := roundUp_64 h
  have hprod : 64 * i * (64 * j) = 4096 * (i * j) := by ring
  have hbits : 4096 * (i * j) * (3 * b + 1) = 4096 * (i * j) * 3 * b + 4096 * (i * j) := by ring
  rw [slotSamples, slotLen, hi, hj, hprod, hbits]
  rcases Nat.eq_zero_or_pos (i * j) with hzero | hpos
  · simp [hzero, roundUp, cdiv]
  · left
    unfold roundUp cdiv
    generalize 4096 * (i * j) * 3 * b = bits
    omega

theorem slotLen_of_roundUp_zero {w : Nat} (hw : roundUp 64 w = 0) (h b : Nat) : slotLen w h b = 0 := by
  rw [slotLen, hw, Nat.zero_mul, Nat.zero_mul]
  rfl

section
variable {w h b y : Nat} (hb : b = 8 ∨ b = 10)
include hb

/-- A row of luma samples ends within the samples of its slot. -/
theorem slotRow_luma (hy : y < h) : b * slotIdx w h 0 y 0 / 8 + roundUp 64 w * b / 8 ≤ slotSamples w h b := by
  obtain ⟨i, hi, -⟩ := roundUp_64 w
  obtain ⟨j, hj, hhj⟩ := roundUp_64 h
  have hidx : slotIdx w h 0 y 0 = 64 * (y * i) := by
    simp only [slotIdx, if_true, hi]
    ring
  have hrows : y * i + i ≤ 64 * (i * j) := by nlinarith
  have hprod : 64 * i * (64 * j) = 4096 * (i * j) := by ring
  rw [slotSamples, hidx, hi, hj, hprod]
  rcases hb with rfl | rfl <;> omega

/-- So does a row of chroma samples. -/
theorem slotRow_chroma {c : Nat} (hc : c < 2) (hy : y < h / 2) :
    b * slotIdx w h (c + 1) y 0 / 8 + roundUp 64 w / 2 * b / 8 ≤ slotSamples w h b := by
  obtain ⟨i, hi, -⟩ := roundUp_64 w
  obtain ⟨j, hj, hhj⟩ := roundUp_64 h
  have hprod : 64 * i * (64 * j) = 4096 * (i * j) := by ring
  have hquarter : 4096 * (i * j) / 4 = 1024 * (i * j) := by omega
  have hhalf : 64 * i / 2 = 32 * i := by omega
  have hidx : slotIdx w h (c + 1) y 0 = 4096 * (i * j) + c * (1024 * (i * j)) + 32 * (y * i) := by
    simp only [slotIdx, Nat.succ_ne_zero, if_false, hi, hj, hprod, hquarter, hhalf, Nat.add_sub_cancel]
    ring
  have hrows : y * i + i ≤ 32 * (i * j) := by
    have : y + 1 ≤ 32 * j := by omega
    nlinarith
  rw [slotSamples, hidx, hi, hj, hprod, hhalf]
  obtain rfl | rfl : c = 0 ∨ c = 1 := by omega
  all_goals rcases hb with rfl | rfl <;> omega

/-- The rows of a picture as high as its slot lie in the slot's samples, and have bytes unless the slot has none. -/
theorem slotWr_within {q : Pic} (hq : q.h = h) {v : Nat × List Byte} (hv : v ∈ slotWr w h b q 0 (roundUp 64 w)) :
    v.1 + v.2.length ≤ slotSamples w h b ∧ (0 < v.2.length ∨ slotLen w h b = 0) := by
  have hpos : 0 < roundUp 64 w ∨ slotLen w h b = 0 := (Nat.eq_zero_or_pos _).symm.imp_right (slotLen_of_roundUp_zero · h b)
  obtain ⟨i, hi, -⟩ := roundUp_64 w
  obtain ⟨c, hc, hv⟩ := List.mem_flatMap.1 hv
  obtain ⟨y, hy, rfl⟩ := List.mem_map.1 hv
  rw [List.mem_range, hq] at hy
  simp only [packCodes_length, List.length_map, List.length_range, Nat.sub_zero, Nat.zero_div]
  rcases c with - | c
  · have hrow := slotRow_luma (w := w) hb (h := h) (y := y) (by simpa using hy)
    simp only [if_true, Nat.div_one] at hrow ⊢
    exact ⟨hrow, hpos.imp_left fun _ => by rcases hb with rfl | rfl <;> omega⟩
  · have hrow := slotRow_chroma (w := w) hb (h := h) (y := y) (c := c) (by have := List.mem_range.1 hc; omega) (by simpa using hy)
    simp only [Nat.succ_ne_zero, if_false] at hrow ⊢
    exact ⟨hrow, hpos.imp_left fun _ => by rcases hb with rfl | rfl <;> omega⟩

end

theorem slotTail_within (ins : List Nat) (w h b : Nat) :
    (slotTail ins w h b).1 + (slotTail ins w h b).2.length ≤ slotLen w h b ∧
      (0 < (slotTail ins w h b).2.length ∨ slotLen w h b = 0) := by
  have hlt := slotSamples_lt w h b
  have hlen : (slotTail ins w h b).2.length = slotLen w h b - slotSamples w h b := by
    simp [slotTail, slotSamples]
  rw [hlen, show (slotTail ins w h b).1 = slotSamples w h b from rfl]
  omega

theorem Enc.depth_cases (p : Enc) : p.depth = 8 ∨ p.depth = 10 := by
  unfold Enc.depth
  split <;> simp

/-- A write that stores bytes in a span of memory, and holds nothing back for a piece after it (R270). -/
def Wr.Direct (w : Wr) : Prop := (∃ a, w.d = .dev a ∧ spanMem a w.bytes.length = true) ∧ w.next = false

/-- The reconstruction of a whole picture lies in the reference slots of its stream. -/
theorem Shot.refWrs_direct {z : Shot} (hbase : spanKs z.base (3 * slotLen z.q.w z.q.h z.q.depth) = true) (unit : List Byte) :
    ∀ w ∈ z.refWrs unit 0 (roundUp 64 z.q.w), w.Direct := by
  have hslot : ∀ (r off : Nat) (bs : List Byte), r < 3 → off + bs.length ≤ slotLen z.q.w z.q.h z.q.depth →
      (0 < bs.length ∨ slotLen z.q.w z.q.h z.q.depth = 0) →
      (devWr (z.base + r * slotLen z.q.w z.q.h z.q.depth + off) bs).Direct := by
    intro r off bs hr hoff hpos
    refine ⟨⟨_, rfl, spanMem_part hbase (by omega) ?_ (hpos.imp_right fun hnone => .inr (by rw [hnone]))⟩, rfl⟩
    have : r * slotLen z.q.w z.q.h z.q.depth ≤ 2 * slotLen z.q.w z.q.h z.q.depth := Nat.mul_le_mul_right _ (by omega)
    simp only [devWr]
    omega
  intro w hw
  unfold Shot.refWrs at hw
  dsimp only at hw
  split at hw
  · cases hw
  · rw [if_pos rfl] at hw
    rcases List.mem_append.1 hw with hw | hw
    · obtain ⟨v, hv, rfl⟩ := List.mem_map.1 hw
      have hheight : (z.recon unit).h = z.q.h := rfl
      obtain ⟨hend, hpos⟩ := slotWr_within z.q.depth_cases hheight hv
      have hfill := slotSamples_lt z.q.w z.q.h z.q.depth
      exact hslot (z.q.anchors z.c.coded % 3) v.1 v.2 (Nat.mod_lt _ (by omega)) (by omega) hpos
    · obtain rfl := List.mem_singleton.1 hw
      obtain ⟨hend, hpos⟩ := slotTail_within (tailIns (z.decIns unit) z.refs (z.q.readable z.c.coded (z.q.w - 1)) 0)
        z.q.w z.q.h z.q.depth
      exact hslot (z.q.anchors z.c.coded % 3) _ _ (Nat.mod_lt _ (by omega)) hend hpos

/-! ### Contexts (R296, R303) -/

/-- A context keeps a picture of each type, of no more rows than a picture of 65,535 lines has. -/
structure EncCtx.Small (c : EncCtx) : Prop where
  types : c.last.length = 3
  rows : ∀ l, some l ∈ c.last → l.rows.length ≤ 4096

theorem Enc.rowCount_le (v : Nat) : (Enc.parse v).rowCount ≤ 4096 := by
  have hh : (Enc.parse v).h < 2 ^ 16 := fld_lt v 63 48
  unfold Enc.rowCount Enc.rowH cdiv
  split <;> omega

theorem encCtx_small (s : State) (o : Owner) (a : Nat) : (encCtx s o a).Small := by
  refine ⟨by simp [encCtx], fun l hl => ?_⟩
  obtain ⟨t, -, hl⟩ := List.mem_map.1 hl
  split at hl
  · obtain rfl := Option.some.inj hl
    rw [List.length_map, List.length_range]
    exact Enc.rowCount_le _
  · cases hl

theorem Enc.rows_length (q : Enc) (t : Nat) (c : EncCtx) (ins : List Nat) : (q.rows t c ins).length = q.rowCount := by
  have hfold : ∀ (f : List (Int × Nat × Nat) → Nat → Int × Nat × Nat) (ls : List Nat) (l : List (Int × Nat × Nat)),
      (ls.foldl (fun l r => l ++ [f l r]) l).length = l.length + ls.length := by
    intro f ls
    induction ls with
    | nil => exact fun _ => rfl
    | cons r ls ih =>
      intro l
      rw [List.foldl_cons, ih, List.length_append, List.length_singleton, List.length_cons, Nat.add_assoc, Nat.add_comm 1]
  refine (hfold _ _ _).trans ?_
  rw [List.length_nil, List.length_range, Nat.zero_add]

theorem Shot.code_rows_length (z : Shot) : z.code.rows.length = z.q.rowCount := by
  rw [show z.code.rows = (z.q.rows (z.q.pictureAt z.c.coded).1 z.c z.ins).map (·.2.1) from rfl, List.length_map, Enc.rows_length]

theorem EncCtx.next_small {c : EncCtx} (hc : c.Small) {k : Coded} (hk : k.rows.length ≤ 4096) : (c.next k).Small := by
  refine ⟨(List.length_set ..).trans hc.types, fun l hl => ?_⟩
  rcases List.mem_or_eq_of_mem_set hl with hl | hl
  · exact hc.rows l hl
  · obtain rfl := Option.some.inj hl
    exact hk

/-- Bytes at an address that lie in a context: not none at its start, since the first byte marks it. -/
def InCtx (a : Nat) (v : Nat × List Byte) : Prop :=
  a ≤ v.1 ∧ v.1 + v.2.length ≤ a + ctxLen ∧ (0 < v.2.length ∨ a < v.1 ∧ v.1 < a + ctxLen)

theorem EncCtx.writes_inCtx {c : EncCtx} (hc : c.Small) (a : Nat) : ∀ v ∈ c.writes a, InCtx a v := by
  intro v hv
  unfold InCtx ctxLen
  rcases List.mem_append.1 hv with hv | hv
  · obtain ⟨⟨l, t⟩, hlt, hv⟩ := List.mem_filterMap.1 hv
    obtain ⟨z, rfl, rfl⟩ := Option.map_eq_some_iff.1 hv
    have ht : t < 3 := by
      have := (List.mem_zipIdx hlt).2.1
      have := hc.types
      omega
    have hrows := hc.rows z (List.fst_mem_of_mem_zipIdx hlt)
    have hlen : (z.rows.flatMap (leBytes 8)).length = 8 * z.rows.length := by
      simp [List.length_flatMap, leBytes_length, Nat.mul_comm]
    dsimp only
    omega
  · obtain rfl := List.mem_singleton.1 hv
    simp only [leBytes_length]
    omega

theorem readBytes_length (s : State) (o : Owner) (a n : Nat) : (readBytes s o a n).length = n := by
  rw [readBytes, List.length_map, List.length_range]

/-- What a picture that succeeds writes to its context lies in it. -/
theorem encNext_inCtx {p : Enc} {c : EncCtx} (hc : c.Small) {k : Coded} (hk : k.rows.length ≤ 4096) (carried : List Nat) (x : Ctx)
    (s : State) : ∀ v ∈ encNext p c k carried x s, InCtx p.ctx v := by
  intro v hv
  rcases List.mem_append.1 hv with hv | hv
  · rcases List.mem_cons.1 hv with rfl | hv
    · unfold InCtx
      rw [readBytes_length]
      unfold ctxLen
      omega
    · exact EncCtx.writes_inCtx (EncCtx.next_small hc hk) p.ctx v hv
  · obtain rfl := List.mem_singleton.1 hv
    unfold InCtx carryAt carryLen ctxLen
    rw [List.length_map, List.length_range]
    omega

theorem ctxWr_direct {a : Nat} (ha : spanKs a ctxLen = true) {v : Nat × List Byte} (hv : InCtx a v) : (ctxWr v.1 v.2).Direct := by
  obtain ⟨hlo, hhi, hpos⟩ := hv
  exact ⟨⟨_, rfl, spanMem_part ha hlo hhi (hpos.imp_right .inl)⟩, rfl⟩

end Sys2Proof.Machine
end

section
/-!
PROOFS. MED.ENC: contexts that open and close (R295, R326), and a picture of an independent stream (R298, R320, R327, R331).
-/
namespace Sys2Proof.Machine
open Host

/-! ### A stream outside every lock group (R315) -/

theorem groupOf_congr {s t : State} (h : t.media.groups = s.media.groups) (ctx : Nat) : groupOf t ctx = groupOf s ctx := by
  rw [groupOf, h, groupOf]

theorem setGroup_of_alone {s : State} {ctx : Nat} (h : groupOf s ctx = none) (f : Group → Group) : setGroup ctx f s = s := by
  have hsame : s.media.groups.map (fun g => if g.members.contains ctx then f g else g) = s.media.groups := by
    refine (List.map_congr_left fun g hg => ?_).trans (List.map_id _)
    exact if_neg (List.find?_eq_none.1 h g hg)
  rw [setGroup, hsame]

theorem failGroup_of_alone {s : State} {y : Nat × Nat} (h : groupOf s y.1 = none) : failGroup y s = s := by
  rw [failGroup, h]

/-- A command that succeeds, or whose stream is in no group, ends no other command. -/
theorem afterEnc_alone {c : CmdRef} {before t : State} {k : Cmd} (hk : cmdOf t c = some k)
    (h : k.status = stOk ∨ groupOf t (shownAs k.par).1 = none) : afterEnc c before t = t := by
  unfold afterEnc
  rw [hk]
  split
  · rename_i k0 k' _ hk'
    obtain rfl := Option.some.inj hk'
    dsimp only
    split
    · rename_i hfailed
      have halone : groupOf t (shownAs k.par).1 = none := h.resolve_left fun hok => by simp [hok] at hfailed
      split
      · exact setGroup_of_alone halone _
      · split
        · rfl
        · exact failGroup_of_alone halone
    · rfl
  · rfl

theorem CompletionWork.media {s t : State} (h : CompletionWork s t) : t.media = s.media := by
  obtain ⟨_, _, _, _, _, _, _, _, _, _, _, _, _, _, rfl⟩ := h; rfl

theorem LineWork.media {s t : State} (h : LineWork s t) : t.media = s.media := by obtain ⟨_, _, _, _, _, _, _, rfl⟩ := h; rfl

/-- The row of a MED.ENC whose work completes it with success, or outside every lock group. -/
theorem exec_medEnc {c : CmdRef} {e : Circ} {s s1 u : State} {x : Ctx} {o : Out} {r : Nat}
    (h : startOf 0x0702 encFamily c e s = some (x, s1)) (hwork : encWork x s1 = complete c o u) (hcmd : cmdOf u c = some x.cmd)
    (hr : o.reply = some r) (halone : o.status = stOk ∨ groupOf u (Enc.parse x.par).ctx = none) :
    exec (.medEnc c e) s = .next (complete c o u) ∧ endsAs (complete c o u) c o.status r := by
  obtain ⟨-, hpar⟩ := startOf_cmd h
  obtain ⟨code, hdone⟩ := cmdOf_complete (o := o) hcmd
  have hafter : afterEnc c s (complete c o u) = complete c o u := by
    refine afterEnc_alone hdone (halone.imp (fun hok => (settle_status ..).trans hok) fun hnone => ?_)
    rw [← hpar] at hnone
    exact (groupOf_congr (congrArg Media.groups (complete_completionWork c o u).media) _).trans hnone
  refine ⟨?_, complete_done hcmd hr⟩
  have hrun : runCmd 0x0702 encFamily c e s = encWork x s1 := runCmd_start h
  show Outcome.next (afterEnc c s (runCmd 0x0702 encFamily c e s)) = _
  rw [hrun, hwork, hafter]

/-! ### Opening and closing a context (R295, R326) -/

/-- The plan of an OPEN or a CLOSE: `n` bytes of the context are read, and bytes are written to it. -/
def ctxPlan (x : Ctx) (n : Nat) (ws : List (Nat × List Byte)) : Plan :=
  { pieces := [{ reads := [((Enc.parse x.par).ctx, n)], writes := ws.map fun w => ctxWr w.1 w.2 }]
    mixed := true
    out := fun r => { status := (r.fail.map (·.2.1)).getD stOk, reply := some (x.cmd.pipe.getD 0 <<< 52) } }

/-- The context of a stream that has coded nothing. -/
def openedCtx (x : Ctx) : EncCtx :=
  { par := x.par % 2 ^ 768, grouped := false, tiled := false, members := [], coded := 0, full := (Enc.parse x.par).vbv / 2
    last := [none, none, none] }

/-- What OPEN writes: the bytes that the context has, its header with the parameters, and no carried state. -/
def openWrites (x : Ctx) (s : State) : List (Nat × List Byte) :=
  let a := (Enc.parse x.par).ctx
  (a, readBytes s x.o a ctxLen) :: (openedCtx x).writes a ++ [(a + carryAt, List.replicate carryLen (0 : Byte))]

/-- What CLOSE writes. -/
def closeWrites (x : Ctx) : List (Nat × List Byte) := [((Enc.parse x.par).ctx, leBytes 1 0)]

theorem encWork_open {x : Ctx} (hop : (Enc.parse x.par).op = 0) (s : State) :
    encWork x s = execPlan (ctxPlan x (ctxSeen 0) (openWrites x s)) x s := by
  simp only [encWork, hop]
  rfl

theorem encWork_close {x : Ctx} (h0 : (Enc.parse x.par).op ≠ 0) (h1 : (Enc.parse x.par).op ≠ 1) (s : State) :
    encWork x s = execPlan (ctxPlan x ctxLen (closeWrites x)) x s := by
  unfold encWork
  dsimp only
  split
  · exact absurd ‹_› h0
  · exact absurd ‹_› h1
  · rfl

theorem openWrites_inCtx (x : Ctx) (s : State) : ∀ v ∈ openWrites x s, InCtx (Enc.parse x.par).ctx v := by
  have hlast : (openedCtx x).last = [none, none, none] := rfl
  have hsmall : (openedCtx x).Small := ⟨rfl, fun l hl => by simp [hlast] at hl⟩
  intro v hv
  rcases List.mem_append.1 hv with hv | hv
  · rcases List.mem_cons.1 hv with rfl | hv
    · unfold InCtx
      rw [readBytes_length]
      unfold ctxLen
      omega
    · exact EncCtx.writes_inCtx hsmall _ v hv
  · obtain rfl := List.mem_singleton.1 hv
    unfold InCtx carryAt carryLen ctxLen
    rw [List.length_replicate]
    omega

theorem closeWrites_inCtx (x : Ctx) : ∀ v ∈ closeWrites x, InCtx (Enc.parse x.par).ctx v := by
  intro v hv
  obtain rfl := List.mem_singleton.1 hv
  unfold InCtx ctxLen
  rw [leBytes_length]
  omega

theorem ctxWrs_stores (ws : List (Nat × List Byte)) : (ws.map fun w => ctxWr w.1 w.2).filterMap Wr.store = ws := by
  rw [List.filterMap_map]
  exact List.filterMap_some

/-- Such a plan on a healthy context completes with success, its bytes stored. -/
theorem execPlan_ctxPlan {x : Ctx} {s : State} {n : Nat} {ws : List (Nat × List Byte)} (hh : healthy s x.e)
    (hc : cocoonOf s x.o = none) (hkept : x.cmd.kept = none) (hctx : spanKs (Enc.parse x.par).ctx ctxLen = true)
    (hpos : 0 < n) (hn : n ≤ ctxLen) (hws : ∀ v ∈ ws, InCtx (Enc.parse x.par).ctx v) :
    execPlan (ctxPlan x n ws) x s =
      complete x.c { reply := some (x.cmd.pipe.getD 0 <<< 52) } (leaveEngines x (s.setDev (stored s.mem.dev ws))) := by
  have hdirect : ∀ w ∈ ws.map fun w => ctxWr w.1 w.2, w.Direct := fun w hw => by
    obtain ⟨v, hv, rfl⟩ := List.mem_map.1 hw
    exact ctxWr_direct hctx (hws v hv)
  have hplain : ∀ q ∈ (ctxPlan x n ws).pieces, q.Plain := fun q hq => by
    obtain rfl := List.mem_singleton.1 hq
    refine ⟨rfl, rfl, fun y hy => ?_, fun w hw => (hdirect w hw).1⟩
    obtain rfl := List.mem_singleton.1 hy
    exact spanMem_part hctx (Nat.le_refl _) (Nat.add_le_add_left hn _) (.inl hpos)
  have hrun := runPieces_plain true x.core hh hc hplain fun q hq w hw => by
    obtain rfl := Option.some.inj hq
    exact (hdirect w hw).2
  have hstores : (ctxPlan x n ws).pieces.flatMap Piece.stores = ws :=
    (List.flatMap_singleton ..).trans (ctxWrs_stores ws)
  rw [hstores] at hrun
  rw [execPlan_unchecked rfl rfl hkept, show (ctxPlan x n ws).mixed = true from rfl, hrun]
  rfl

/-- Bits from the eighth on are not in the first byte of a number. -/
theorem leBytes_one_add_shift (a b : Nat) {n : Nat} (hn : 8 ≤ n) : leBytes 1 (a + b <<< n) = leBytes 1 a := by
  obtain ⟨m, rfl⟩ := Nat.exists_eq_add_of_le hn
  have hshift : b <<< (8 + m) = 256 * (b * 2 ^ m) := by
    rw [Nat.shiftLeft_eq, Nat.pow_add]
    ring
  rw [← leBytes_mod 1 (a + _), hshift, Nat.pow_one, Nat.add_mul_mod_self_left]
  exact leBytes_mod 1 a

/-- The header of a context outside every group that has coded nothing. -/
theorem EncCtx.header_fresh {c : EncCtx} (hgrouped : c.grouped = false) (htiled : c.tiled = false) (hmembers : c.members = [])
    (hcoded : c.coded = 0) (hlast : c.last = [none, none, none]) : c.header = 2 + (c.full % 2 ^ 64) <<< 128 := by
  simp [EncCtx.header, hgrouped, htiled, hmembers, hcoded, hlast, ofBool]

/-- The first byte of an open context is 2. -/
theorem openedCtx_mark (x : Ctx) : leBytes 1 ((openedCtx x).header + (openedCtx x).par <<< 2048) = [2] := by
  rw [leBytes_one_add_shift _ _ (by omega), EncCtx.header_fresh rfl rfl rfl rfl rfl, leBytes_one_add_shift _ _ (by omega)]
  rfl

theorem memGet_memWrite_leBytes {m : Mem} (hm : Memory.wfOf 0 m = true) (a v : Nat) {len : Nat} (hlen : 0 < len) {b : Byte}
    (hb : leBytes 1 v = [b]) : memGet 0 (memWrite 0 m a (leBytes len v)) a = b := by
  have hread := memRead_memWrite_leBytes hm a v (off := 0) (n := 1) (len := len) (by omega)
  rw [Nat.pow_zero, Nat.div_one, hb] at hread
  exact (List.cons.inj hread).1

theorem openWrites_mark {x : Ctx} {s : State} {m : Mem} (hm : Memory.wfOf 0 m = true) :
    memGet 0 (stored m (openWrites x s)) (Enc.parse x.par).ctx = 2 := by
  have hwrites : (openedCtx x).writes (Enc.parse x.par).ctx =
      [((Enc.parse x.par).ctx, leBytes 384 ((openedCtx x).header + (openedCtx x).par <<< 2048))] := rfl
  have hcarry : ∀ w ∈ [((Enc.parse x.par).ctx + carryAt, List.replicate carryLen (0 : Byte))],
      (Enc.parse x.par).ctx < w.1 ∨ w.1 + w.2.length ≤ (Enc.parse x.par).ctx := fun w hw => by
    obtain rfl := List.mem_singleton.1 hw
    unfold carryAt
    omega
  have hover : ∀ bs : List Byte, memGet 0 (stored m (((Enc.parse x.par).ctx, bs) :: (openedCtx x).writes (Enc.parse x.par).ctx))
      (Enc.parse x.par).ctx = 2 := fun bs => by
    rw [hwrites, stored_cons, stored_singleton]
    exact memGet_memWrite_leBytes (memWrite_wf bs _ hm) _ _ (by omega) (openedCtx_mark x)
  rw [openWrites, stored_append, memGet_stored_outside (stored_wf hm _) hcarry]
  exact hover _

theorem closeWrites_mark {x : Ctx} {m : Mem} (hm : Memory.wfOf 0 m = true) :
    memGet 0 (stored m (closeWrites x)) (Enc.parse x.par).ctx = 0 :=
  memGet_memWrite_leBytes hm _ 0 (by omega) rfl

/-- OPEN and CLOSE work by such a plan, within the context and with its mark (log 14). -/
theorem encWork_context {x : Ctx} {s : State} (hop : (Enc.parse x.par).op ≠ 1) (hm : Memory.wfOf 0 s.mem.dev = true) :
    ∃ n ws, 0 < n ∧ n ≤ ctxLen ∧ (∀ v ∈ ws, InCtx (Enc.parse x.par).ctx v) ∧
      encWork x s = execPlan (ctxPlan x n ws) x s ∧
      memGet 0 (stored s.mem.dev ws) (Enc.parse x.par).ctx = if (Enc.parse x.par).op = 0 then 2 else 0 := by
  by_cases h0 : (Enc.parse x.par).op = 0
  · exact ⟨_, _, by decide, by decide, openWrites_inCtx x s, encWork_open h0 s, (if_pos h0).symm ▸ openWrites_mark hm⟩
  · exact ⟨_, _, by decide, Nat.le_refl _, closeWrites_inCtx x, encWork_close h0 hop s, (if_neg h0).symm ▸ closeWrites_mark hm⟩

/-! ### A picture of an independent stream -/

/-- The plan of an ENCODE outside every lock group. -/
def encPlan (x : Ctx) (s : State) : Plan :=
  let p := Enc.parse x.par
  let z := shotOf p x s
  { pieces := encPieces p z z.code x s, mixed := true, out := fun r => encOut p z z.code x r.fail }

theorem encWork_picture {x : Ctx} {s : State} (hop : (Enc.parse x.par).op = 1) (hdone : partDone s x.c = false)
    (halone : groupOf s (Enc.parse x.par).ctx = none) : encWork x s = execPlan (encPlan x s) x s := by
  have hscl : awaitsScl x s = false := by simp [awaitsScl, halone]
  have hgroup : ¬ ((shotOf (Enc.parse x.par) x s).c.grouped && (groupOf s (Enc.parse x.par).ctx).isSome) = true := by
    simp [halone]
  simp only [encWork, hop, hdone, hscl, Bool.or_self, Bool.false_eq_true, if_false]
  unfold encPicture
  exact if_neg hgroup

/-- The pieces of such a picture before the one that ends it. -/
def encBody (p : Enc) (z : Shot) (k : Coded) : List Piece :=
  let own := k.unit z.q.tiled
  let outs := own.take p.outLen
  [{ reads := [(p.ctx, ctxLen)] },
   { reads := (z.q.srcMem z.src).reads z.q.sw z.q.sh ++ (z.q.refSlots z.c.coded).map fun i =>
      (z.base + i * slotLen z.q.w z.q.h z.q.depth, slotLen z.q.w z.q.h z.q.depth) },
   { writes := (if outs.isEmpty then [] else [devWr p.out outs]) ++
      if z.q.tiled then [] else z.refWrs own 0 (roundUp 64 z.q.w) }]

/-- The piece that ends it: the context advances where the bytes fit the output. -/
def encEnd (p : Enc) (z : Shot) (k : Coded) (x : Ctx) (s : State) : Piece :=
  { fault := if (k.unit z.q.tiled).length ≤ p.outLen then none else some (stMedia, 0)
    writes := (encNext p z.c k (z.carried (k.unit z.q.tiled)) x s).map fun w => ctxWr w.1 w.2 }

theorem encPieces_alone {p : Enc} {s : State} (halone : groupOf s p.ctx = none) (z : Shot) (k : Coded) (x : Ctx) :
    encPieces p z k x s = encBody p z k ++ [encEnd p z k x s] := by
  have hgroup : ¬ (z.c.grouped && (groupOf s p.ctx).isSome) = true := by simp [halone]
  simp only [encPieces, if_neg hgroup]
  rfl

theorem Enc.refSlots_lt (q : Enc) (i : Nat) : ∀ r ∈ q.refSlots i, r < 3 := by
  unfold Enc.refSlots
  dsimp only
  split
  · simp
  · simp [Nat.mod_lt]
  · simp [Nat.mod_lt]

/-- Context, source, output and references of a picture lie in the Keystone. -/
structure Shot.InKeystone (p : Enc) (z : Shot) : Prop where
  ctx : spanKs p.ctx ctxLen = true
  src : ∀ y ∈ (z.q.srcMem z.src).reads z.q.sw z.q.sh, spanKs y.1 y.2 = true
  out : spanKs p.out p.outLen = true
  room : 0 < p.outLen
  base : spanKs z.base (3 * slotLen z.q.w z.q.h z.q.depth) = true

section
variable {p : Enc} {z : Shot} (hz : z.InKeystone p) (k : Coded)
include hz

theorem encBody_direct : ∀ q ∈ encBody p z k, ∀ w ∈ q.writes, w.Direct := by
  intro q hq w hw
  simp only [encBody, List.mem_cons, List.not_mem_nil, or_false] at hq
  rcases hq with rfl | rfl | rfl
  · cases hw
  · cases hw
  · rcases List.mem_append.1 hw with hw | hw
    · split at hw
      · cases hw
      · rename_i houts
        obtain rfl := List.mem_singleton.1 hw
        have hpos := List.length_pos_iff.2 fun h => houts (List.isEmpty_iff.2 h)
        exact ⟨⟨_, rfl, spanMem_part hz.out (Nat.le_refl _) (Nat.add_le_add_left (List.length_take_le ..) _) (.inl hpos)⟩, rfl⟩
    · split at hw
      · cases hw
      · exact Shot.refWrs_direct hz.base _ w hw

theorem encBody_plain : ∀ q ∈ encBody p z k, q.Plain := by
  intro q hq
  have hwrites := encBody_direct hz k q hq
  simp only [encBody, List.mem_cons, List.not_mem_nil, or_false] at hq
  rcases hq with rfl | rfl | rfl
  · refine ⟨rfl, rfl, fun y hy => ?_, fun w hw => (hwrites w hw).1⟩
    obtain rfl := List.mem_singleton.1 hy
    rw [spanMem, hz.ctx, Bool.or_true]
  · refine ⟨rfl, rfl, fun y hy => ?_, fun w hw => (hwrites w hw).1⟩
    rcases List.mem_append.1 hy with hy | hy
    · rw [spanMem, hz.src y hy, Bool.or_true]
    · obtain ⟨i, hi, rfl⟩ := List.mem_map.1 hy
      have := Nat.mul_le_mul_right (slotLen z.q.w z.q.h z.q.depth) (Nat.le_of_lt_succ (z.q.refSlots_lt _ i hi))
      exact spanMem_part hz.base (by omega) (by omega) (by omega)
  · exact ⟨rfl, rfl, fun y hy => absurd hy List.not_mem_nil, fun w hw => (hwrites w hw).1⟩

variable {k} (hsmall : z.c.Small) (hrows : k.rows.length ≤ 4096) (x : Ctx) (s : State)
include hsmall hrows

theorem encEnd_direct : ∀ w ∈ (encEnd p z k x s).writes, w.Direct := by
  intro w hw
  obtain ⟨v, hv, rfl⟩ := List.mem_map.1 hw
  exact ctxWr_direct hz.ctx (encNext_inCtx hsmall hrows _ x s v hv)

variable {s} (hh : healthy s x.e) (hc : cocoonOf s x.o = none) (halone : groupOf s p.ctx = none)
include hh hc halone

/-- A picture whose bytes fit its output meets no failure; one whose bytes do not fails behind its output (R320). It leaves the
operand buffers. -/
theorem runPieces_encPieces :
    let u := runPieces true x.o x.e x.core (encPieces p z k x s) s
    u.1.mem.ob = s.mem.ob ∧ u.2 = if (k.unit z.q.tiled).length ≤ p.outLen then none else some (3, stMedia, 0) := by
  have hdirect : ∀ q ∈ encBody p z k ++ [encEnd p z k x s], ∀ w ∈ q.writes, w.Direct := fun q hq => by
    rcases List.mem_append.1 hq with hq | hq
    · exact encBody_direct hz k q hq
    · exact List.mem_singleton.1 hq ▸ encEnd_direct hz hsmall hrows x s
  have hnext : ∀ q ∈ encBody p z k ++ [encEnd p z k x s], ∀ w ∈ q.writes, w.next = false := fun q hq w hw => (hdirect q hq w hw).2
  rw [encPieces_alone halone]
  split
  · rename_i hfit
    have hplain : ∀ q ∈ encBody p z k ++ [encEnd p z k x s], q.Plain := fun q hq => by
      rcases List.mem_append.1 hq with hq | hq
      · exact encBody_plain hz k q hq
      · obtain rfl := List.mem_singleton.1 hq
        exact ⟨if_pos hfit, rfl, fun y hy => absurd hy List.not_mem_nil, fun w hw => (encEnd_direct hz hsmall hrows x s w hw).1⟩
    rw [runPieces_plain true x.core hh hc hplain fun q hq => hnext q (List.mem_of_getLast? hq)]
    exact ⟨rfl, rfl⟩
  · rename_i hover
    have hfirm : ∀ w ∈ (encEnd p z k x s).writes, w.firm = true := fun w hw => by
      obtain ⟨v, -, rfl⟩ := List.mem_map.1 hw
      rfl
    rw [runPieces_fault x.core hh hc (encBody_plain hz k) hnext (if_neg hover) rfl hfirm]
    exact ⟨rfl, rfl⟩

end

/-- The outcome of a picture whose bytes fit its output (R331). -/
theorem encOut_fits {p : Enc} {z : Shot} {k : Coded} (h : (k.unit z.q.tiled).length ≤ p.outLen) (x : Ctx) :
    encOut p z k x none = { reply := some (encReply z k (k.unit z.q.tiled).length 0 x) } := by
  rw [encOut, Nat.min_eq_left h]

/-- The outcome of one whose bytes do not (R320, R327). -/
theorem encOut_over {p : Enc} {z : Shot} {k : Coded} (h : p.outLen < (k.unit z.q.tiled).length) (x : Ctx) :
    encOut p z k x (some (3, stMedia, 0)) = { status := stMedia, reply := some (encReply z k p.outLen 4 x) } := by
  simp only [encOut, Nat.min_eq_right (Nat.le_of_lt h), if_true]

/-- The work of a picture completes its command with the outcome of its pieces, and leaves operand buffers and groups. -/
theorem encWork_completes {x : Ctx} {s : State} (hop : (Enc.parse x.par).op = 1) (hdone : partDone s x.c = false)
    (halone : groupOf s (Enc.parse x.par).ctx = none) (hkept : x.cmd.kept = none) (hh : healthy s x.e)
    (hc : cocoonOf s x.o = none) (hz : (shotOf (Enc.parse x.par) x s).InKeystone (Enc.parse x.par)) :
    let p := Enc.parse x.par
    let z := shotOf p x s
    ∃ u, encWork x s = complete x.c (encOut p z z.code x
        (if (z.code.unit z.q.tiled).length ≤ p.outLen then none else some (3, stMedia, 0))) u ∧
      cmdOf u x.c = cmdOf s x.c ∧ u.mem.ob = s.mem.ob ∧ groupOf u p.ctx = none := by
  intro p z
  have hrows : z.code.rows.length ≤ 4096 := (Shot.code_rows_length z).trans_le (Enc.rowCount_le _)
  obtain ⟨hob, hfail⟩ := runPieces_encPieces hz (encCtx_small s x.o p.ctx) hrows x hh hc halone
  have hline := runPieces_lineWork true x.o x.e x.core (encPieces p z z.code x s) s
  rw [← hfail]
  exact ⟨_, (encWork_picture hop hdone halone).trans (execPlan_unchecked rfl rfl hkept),
    (cmdOf_leaveEngines ..).trans (hline.cmdOf _), hob, (groupOf_congr (congrArg Media.groups hline.media) _).trans halone⟩

/-! ### The obligation -/

/-- Settles O14: contexts by the bytes that OPEN and CLOSE store, a picture by the pieces of its plan. -/
theorem encoding : Obligations.Encoding := by
  unfold Obligations.Encoding
  intro c e s s1 x h
  dsimp only
  intro hh hctx _ hwf hc
  have ⟨_, _, _, herrs, _⟩ := hh
  obtain ⟨rfl, hxe, -, -, -, hkept⟩ := startOf_ctx h
  obtain rfl : x.e = e := hxe
  obtain ⟨hcmd, -⟩ := startOf_cmd h
  have hstart : OnlySlips s s1 := startOf_onlySlips h (fun _ => rfl) (fun _ => rfl) (fun _ => rfl) herrs
  have hob : s1.mem.ob = s.mem.ob := congrArg Memory.ob hstart.mem
  have hm : Memory.wfOf 0 s1.mem.dev = true := (memOk_iff.1 hwf).1
  refine ⟨fun hop => ?context, fun hop halone hdone hsrc hout hroom hbase => ?picture⟩
  case context =>
    obtain ⟨n, ws, hpos, hn, hws, hwork, hmark⟩ := encWork_context hop hm
    rw [execPlan_ctxPlan hh hc hkept hctx hpos hn hws] at hwork
    obtain ⟨hexec, hends⟩ := exec_medEnc h hwork hcmd rfl (.inl rfl)
    have hwritten := complete_completionWork x.c { reply := some (x.cmd.pipe.getD 0 <<< 52) }
      (leaveEngines x (s1.setDev (stored s1.mem.dev ws)))
    refine ⟨_, hexec, hends, hwritten.dev ▸ hmark, fun a ha => ?_, hwritten.ob.trans hob⟩
    rw [hwritten.dev, ← congrArg Memory.dev hstart.mem]
    refine memGet_stored_outside hm fun w hw => ?_
    obtain ⟨hlo, hhi, -⟩ := hws w hw
    omega
  case picture =>
    have hgroup : groupOf s1 (Enc.parse x.par).ctx = none := (groupOf_congr hstart.groups _).trans halone
    have hdone1 : partDone s1 x.c = false := by rw [partDone, hstart.groups]; exact hdone
    have hz : (shotOf (Enc.parse x.par) x s1).InKeystone (Enc.parse x.par) := ⟨hctx, hsrc, hout, hroom, hbase⟩
    obtain ⟨u, hwork, hcmdu, hobu, hgroupu⟩ := encWork_completes hop hdone1 hgroup hkept hh hc hz
    have hend : ∀ o, (complete x.c o u).mem.ob = s.mem.ob := fun o => (complete_completionWork x.c o u).ob.trans (hobu.trans hob)
    by_cases hfit : ((shotOf (Enc.parse x.par) x s1).code.unit (shotOf (Enc.parse x.par) x s1).q.tiled).length ≤
        (Enc.parse x.par).outLen
    · rw [if_pos hfit, encOut_fits hfit] at hwork
      obtain ⟨hexec, hends⟩ := exec_medEnc h hwork (hcmdu.trans hcmd) rfl (.inl rfl)
      exact ⟨_, hexec, hend _, fun _ => hends, fun hover => absurd hfit (Nat.not_le.2 hover)⟩
    · rw [if_neg hfit, encOut_over (Nat.not_le.1 hfit)] at hwork
      obtain ⟨hexec, hends⟩ := exec_medEnc h hwork (hcmdu.trans hcmd) rfl (.inr hgroupu)
      exact ⟨_, hexec, hend _, fun hle => absurd hle hfit, fun _ => hends⟩

end Sys2Proof.Machine
end

section
/-!
PROOFS. What the work of a queue command does to the device state (R352): at most it ends a run; SUP.STATE and SUP.ELECT change it
as their tables say (R439, R440).
-/
namespace Sys2Proof.Machine
open Host

/-! ### Ends of runs -/

theorem mayDrain_of_dstate {s t : State} (h : t.sup.dstate = s.sup.dstate) : mayDrain s t := .inl h

theorem LineWork.mayDrain {s t : State} (h : LineWork s t) : mayDrain s t := .inl h.dstate

theorem foldl_mayDrain {α : Type} {f : State → α → State} (hf : ∀ s x, mayDrain s (f s x)) (l : List α) (s : State) :
    mayDrain s (l.foldl f s) := by
  induction l generalizing s with
  | nil => exact mayDrain_refl s
  | cons x r ih => exact mayDrain_trans (hf s x) (ih _)

/-- A result's state that has the device state of `s`. -/
theorem dstate_of_pair {α : Type} {s t : State} {p : State × α} {a : α} (h : p = (t, a))
    (hp : p.1.sup.dstate = s.sup.dstate) : t.sup.dstate = s.sup.dstate := by rw [← hp, h]

/-- A completion in a state that has the device state of `s`. -/
theorem complete_after {s u : State} (h : u.sup.dstate = s.sup.dstate) (c : CmdRef) (o : Out) : mayDrain s (complete c o u) :=
  mayDrain_trans (.inl h) (complete_mayDrain c o u)

theorem crossing_mayDrain (b : Bool) (s : State) : mayDrain s (if b then beginCrossing s else s) := by
  split
  · exact beginCrossing_mayDrain s
  · exact mayDrain_refl s

theorem markCore_mayDrain (x : Ctx) (s : State) : mayDrain s (markCore x s) :=
  mayDrain_trans (t := modTask x.c.q x.cmd.task (fun t => { t with avoid := some x.core })
    { s with cores := { s.cores with marked := insNat x.core s.cores.marked } })
    (mayDrain_of_sup (modTask_sup ..)) (crossing_mayDrain ..)

theorem markAbt_mayDrain (die : Nat) (s : State) : mayDrain s (markAbt die s) :=
  mayDrain_trans (t := { s with cores := { s.cores with abtMarked := insNat die s.cores.abtMarked } })
    (mayDrain_of_sup rfl) (crossing_mayDrain ..)

/-! ### Work by a plan -/

/-- What a plan adds to its pieces' work: Luna records and stream contexts at the end; a mark on its core, or on an Abutment engine,
where its checksum failed twice. -/
structure Plan.Ends (x : Ctx) (p : Plan) : Prop where
  post : ∀ r t, ∃ l m, p.post r t = { t with luna := l, media := m }
  mark : ∀ t, p.mark t = t ∨ p.mark t = markCore x t ∨ ∃ die, p.mark t = markAbt die t

theorem Plan.Ends.of_none {x : Ctx} {p : Plan} (hpost : p.post = fun _ t => t) (hmark : p.mark = fun t => t) : p.Ends x :=
  ⟨fun _ t => ⟨t.luna, t.media, congrFun (congrFun hpost _) t⟩, fun t => .inl (congrFun hmark t)⟩

theorem Plan.Ends.of_markCore {x : Ctx} {p : Plan} (hpost : p.post = fun _ t => t) (hmark : p.mark = markCore x) : p.Ends x :=
  ⟨fun _ t => ⟨t.luna, t.media, congrFun (congrFun hpost _) t⟩, fun t => .inr (.inl (congrFun hmark t))⟩

theorem abtPlan_ends (x : Ctx) (s : State) : (abtPlan x s).Ends x :=
  ⟨fun _ t => ⟨t.luna, t.media, rfl⟩, fun _ => .inr (.inr ⟨_, rfl⟩)⟩

theorem rngPlan_ends (x : Ctx) (s : State) : (rngPlan x s).Ends x := by
  refine ⟨fun r t => ?_, fun _ => .inl rfl⟩
  dsimp only [rngPlan]
  split <;> exact ⟨_, _, rfl⟩

theorem lockPlan_ends (x : Ctx) (s : State) : (lockPlan x s).Ends x := by
  refine ⟨fun r t => ?_, fun _ => .inl rfl⟩
  dsimp only [lockPlan]
  repeat' split
  all_goals exact ⟨_, _, rfl⟩

theorem decPlan_ends (x : Ctx) (s : State) : (decPlan x s).Ends x := by
  unfold decPlan
  dsimp only
  split <;> exact .of_none rfl rfl

/-- What the plan of each command that has one adds to its pieces' work. -/
theorem planOf_ends {i : Instr} {plan : Ctx → State → Plan} (h : planOf i = some plan) (x : Ctx) (s : State) : (plan x s).Ends x := by
  cases i with
  | abtRun => cases h; exact abtPlan_ends x s
  | rngSet => cases h; exact rngPlan_ends x s
  | medDec => cases h; exact decPlan_ends x s
  | medLock => cases h; exact lockPlan_ends x s
  | mtxRun | mtxChain2 | mtxMv | attFwd | attBwd | cnvFuse => cases h; exact .of_markCore rfl rfl
  | movTile | movExpand | movGather | movFill | vecRun | vecStats | vecUpdate | vecSched | kvAppend | kvMap | smpGumbel | medScale
    | synSignal | synWait => cases h; exact .of_none rfl rfl
  | _ => cases h

theorem Plan.Ends.post_mayDrain {x : Ctx} {p : Plan} (hp : p.Ends x) (r : Res) (t : State) : mayDrain t (p.post r t) := by
  obtain ⟨l, m, h⟩ := hp.post r t
  exact .inl (by rw [h])

theorem Plan.Ends.mark_mayDrain {x : Ctx} {p : Plan} (hp : p.Ends x) (t : State) : mayDrain t (p.mark t) := by
  rcases hp.mark t with h | h | ⟨die, h⟩
  · rw [h]
    exact mayDrain_refl t
  · rw [h]
    exact markCore_mayDrain x t
  · rw [h]
    exact markAbt_mayDrain die t

theorem leaveEngines_dstate (x : Ctx) (s : State) : (leaveEngines x s).sup.dstate = s.sup.dstate := rfl

theorem execPlan_mayDrain {p : Plan} {x : Ctx} (hp : p.Ends x) (s : State) : mayDrain s (execPlan p x s) := by
  obtain ⟨ps, hk⟩ := kept_eq p x s
  have hrun : ∀ mixed qs rf, mayDrain s (leaveEngines x (runPieces mixed x.o x.e x.core qs
      (Plan.enter { p with pieces := ps } x rf s)).1) := fun mixed qs rf =>
    (lineWork_trans (planEnter_lineWork { p with pieces := ps } x rf s) (runPieces_lineWork mixed x.o x.e x.core qs _)).mayDrain
  unfold execPlan
  rw [hk]
  dsimp only
  split
  · exact mayDrain_trans (mayDrain_trans (mayDrain_trans (hrun ..) (hp.mark_mayDrain _)) (complete_mayDrain ..)) (hp.post_mayDrain _ _)
  · exact mayDrain_trans (mayDrain_trans (hrun ..) (complete_mayDrain ..)) (hp.post_mayDrain _ _)

/-! ### The row of a queue command -/

theorem claimBank_dstate (core : Nat) (r : QRef) (t : Nat) (s : State) (b : Nat) :
    (claimBank core r t s b).sup.dstate = s.sup.dstate := by
  unfold claimBank
  split <;> rfl

theorem readLuna_dstate (f : Family) (x : Ctx) (s : State) : (readLuna f x s).sup.dstate = s.sup.dstate := by
  unfold readLuna
  dsimp only
  split
  · split
    · exact (noteReads_lineWork ..).dstate.trans (by rw [modCmd_sup])
    · rw [modCmd_sup]
  · rw [modCmd_sup]

theorem readStep_dstate (f : Family) (x : Ctx) (s : State) : (readStep f x s).sup.dstate = s.sup.dstate := by
  unfold readStep
  split
  · rfl
  · exact (noteReads_lineWork ..).dstate.trans (by rw [modCmd_sup])

/-- The start of a command leaves the device state. -/
theorem beginCmd_dstate (f : Family) (x : Ctx) (core : Option Nat) (s : State) :
    (beginCmd f x core s).sup.dstate = s.sup.dstate := by
  have hread := (readStep_dstate f x (readLuna f x s)).trans (readLuna_dstate f x s)
  unfold beginCmd
  extract_lets now th s1 s2 s3 s4
  have h4 : s4.sup.dstate = s.sup.dstate := by
    have : s4.sup = s1.sup := by simp [s4, s3, s2]
    rw [this, modCmd_sup, hread]
  split
  · exact h4
  · rw [foldl_keeps (fun t : State => t.sup.dstate) (fun t b => claimBank_dstate ..), placeCmd_sup]
    exact h4

theorem pendCmd_mayDrain (op : Nat) (c : CmdRef) (e : Circ) (s : State) : mayDrain s (pendCmd op c e s) := by
  unfold pendCmd
  refine mayDrain_trans (mayDrain_of_dstate ?_) (crossing_mayDrain ..)
  rw [modCmd_sup]

theorem notePeeks_dstate (f : Family) (x : Ctx) (o : Out) (s : State) : (notePeeks f x o s).sup.dstate = s.sup.dstate := by
  unfold notePeeks
  split
  · exact (noteReads_lineWork ..).dstate.trans (miscorrect_lineWork ..).dstate
  · rfl

section
/- `R`: a relation of the device states before and after that allows the end of a run. -/
variable {R : DState → DState → Prop} (hR : ∀ s t : State, mayDrain s t → R s.sup.dstate t.sup.dstate)
include hR

theorem workOf_dstate {f : Family} (hwork : ∀ x t, R t.sup.dstate (f.work x t).sup.dstate) (x : Ctx) (s : State) :
    R s.sup.dstate (workOf f x s).sup.dstate := by
  unfold workOf
  split
  · exact hR _ _ (complete_after rfl ..)
  · exact hwork x s

theorem goOn_dstate {f : Family} (hwork : ∀ x t, R t.sup.dstate (f.work x t).sup.dstate) (x : Ctx) (pos : Nat) (s : State) :
    R s.sup.dstate (goOn f x pos s).sup.dstate := by
  have hkeep : ∀ (g : Cmd → Cmd) (t : State), t.sup = s.sup → R s.sup.dstate (modCmd x.c g t).sup.dstate := fun g t ht => by
    rw [modCmd_sup, ht]
    exact hR s s (mayDrain_refl s)
  unfold goOn
  split
  · exact hkeep _ _ rfl
  · split
    · exact workOf_dstate hR hwork x s
    · exact hkeep _ _ rfl

/-- The row of a queue command changes the device state as its family's work does, or ends a run. -/
theorem runCmd_dstate {f : Family} (hwork : ∀ x t, R t.sup.dstate (f.work x t).sup.dstate)
    (hfail : ∀ x r t, R t.sup.dstate (f.onFail x r t).sup.dstate) (op : Nat) (c : CmdRef) (e : Circ) (s : State) :
    R s.sup.dstate (runCmd op f c e s).sup.dstate := by
  have hrefl := hR s s (mayDrain_refl s)
  have hgo : ∀ x pos t, t.sup.dstate = s.sup.dstate → R s.sup.dstate (goOn f x pos t).sup.dstate := fun x pos t ht =>
    ht ▸ goOn_dstate hR hwork x pos t
  unfold runCmd
  split
  · exact hrefl
  · split
    · split
      · split
        · exact hrefl
        · exact hR _ _ (complete_after (notePeeks_dstate ..) ..)
        · exact hfail _ _ _
        · exact hR _ _ (pendCmd_mayDrain ..)
        · rw [placeCmd_sup]
          exact hrefl
        · exact hgo _ _ _ ((beginCmd_dstate ..).trans (miscorrect_lineWork ..).dstate)
      · split
        · exact hrefl
        · exact hgo _ _ _ (miscorrect_lineWork e s).dstate
      · exact hrefl
      · exact hrefl
      · exact hrefl
    · exact hrefl

end

theorem requestRow_dstate (r : RowReq) (s : State) : (requestRow r s).sup.dstate = s.sup.dstate := by
  unfold requestRow
  repeat' split
  all_goals rfl

theorem requestRows_dstate (c : CmdRef) (o : Owner) (rows p : Nat) (reads : Nat → List (Nat × Nat)) (s : State) :
    (requestRows c o rows p reads s).sup.dstate = s.sup.dstate := by
  refine foldl_keeps (fun t : State => t.sup.dstate) (fun t r => ?_) _ s
  split
  · rfl
  · exact foldl_keeps (fun t : State => t.sup.dstate) (fun u q => requestRow_dstate q u) _ t

/-- A row of a command of row requests leaves the device state as its command's row does. -/
theorem runRows_dstate (op : Nat) (f : Family) (reads : Ctx → State → Nat × (Nat → List (Nat × Nat))) (c : CmdRef) (e : Circ)
    (s : State) : (runRows op f reads c e s).sup.dstate = s.sup.dstate ∨
      (runRows op f reads c e s).sup.dstate = (runCmd op f c (withLate c e s) s).sup.dstate := by
  unfold runRows
  split
  · exact .inl rfl
  · right
    dsimp only
    split
    · split
      · exact requestRows_dstate ..
      · rfl
      · rfl
    · rfl

/-! ### Collectives (R410 to R412) -/

theorem endColl_mayDrain (c : CmdRef) (o : Out) (s : State) : mayDrain s (endColl c o s) := complete_after rfl ..

theorem deliverAck_mayDrain (peer channel k len lines : Nat) (s : State) : mayDrain s (deliverAck peer channel k len lines s) := by
  unfold deliverAck
  dsimp only
  repeat' split
  · exact mayDrain_refl s
  · exact endColl_mayDrain ..
  · exact endColl_mayDrain ..
  · exact .inl rfl

theorem sendAck_mayDrain (peer channel k len lines : Nat) (s : State) : mayDrain s (sendAck peer channel k len lines s) := by
  unfold sendAck
  split
  · exact deliverAck_mayDrain ..
  · exact .inl rfl

theorem putLines_dstate (c : CmdRef) (e : Circ) (a : Nat) (l : List (Nat × List Byte)) (s : State) :
    (putLines c e a l s).1.sup.dstate = s.sup.dstate := by
  induction l generalizing s with
  | nil => rfl
  | cons x r ih =>
    obtain ⟨i, bs⟩ := x
    have hput := (putDev_lineWork none e (a + 64 * i) bs s).dstate
    unfold putLines
    split
    · rename_i s1 h1
      rw [h1] at hput
      exact (ih _).trans hput
    · rename_i s1 f h1
      rw [h1] at hput
      exact hput

theorem deliverData_mayDrain (m : ColMsg) (s : State) : mayDrain s (deliverData m s) := by
  unfold deliverData
  split
  · split
    · exact .inl rfl
    · dsimp only
      split
      · exact mayDrain_trans (sendAck_mayDrain ..) (endColl_mayDrain ..)
      · split
        · exact .inl rfl
        · split
          · rename_i s1 h1
            have hput : mayDrain s s1 := .inl (dstate_of_pair h1 (putLines_dstate ..))
            refine mayDrain_trans (mayDrain_trans hput ?_) (sendAck_mayDrain ..)
            split
            · exact endColl_mayDrain ..
            · exact mayDrain_refl s1
          · rename_i s1 st _ h1
            have hput : mayDrain s s1 := .inl (dstate_of_pair h1 (putLines_dstate ..))
            exact mayDrain_trans hput (endColl_mayDrain ..)
  · exact mayDrain_refl s

theorem tryReduce_mayDrain (c : CmdRef) (s : State) : mayDrain s (tryReduce c s) := by
  unfold tryReduce
  split
  · exact mayDrain_refl s
  · rename_i y _
    dsimp only
    split
    · exact endColl_mayDrain ..
    split
    · exact mayDrain_refl s
    split
    · exact endColl_mayDrain ..
    split
    · exact mayDrain_refl s
    split
    · exact mayDrain_trans (noteReads_lineWork ..).mayDrain (endColl_mayDrain ..)
    · split
      all_goals
        rename_i h1
        exact mayDrain_trans (.inl (dstate_of_pair h1 ((putDev_lineWork ..).dstate.trans (noteReads_lineWork ..).dstate)))
          (endColl_mayDrain ..)

theorem deliverVec_mayDrain (m : ColMsg) (s : State) : mayDrain s (deliverVec m s) := by
  unfold deliverVec
  split
  · split
    · exact .inl rfl
    · exact mayDrain_trans (.inl rfl) (tryReduce_mayDrain ..)
  · exact mayDrain_refl s

theorem deliver_mayDrain (m : ColMsg) (s : State) : mayDrain s (deliver m s) := by
  cases m with
  | data => exact deliverData_mayDrain ..
  | ack => exact deliverAck_mayDrain ..
  | vec => exact deliverVec_mayDrain ..

theorem takeInbox_mayDrain (f : ColMsg → Bool) (s : State) : mayDrain s (takeInbox f s) :=
  mayDrain_trans (.inl rfl) (foldl_mayDrain (fun t m => deliver_mayDrain m t) _ _)

theorem retryColls_mayDrain (s : State) : mayDrain s (retryColls s) :=
  mayDrain_trans (takeInbox_mayDrain ..) (foldl_mayDrain (fun t (y : Coll) => tryReduce_mayDrain y.c t) _ _)

theorem beginColl_mayDrain (x : Ctx) (kind peer channel : Nat) (s : State) : mayDrain s (beginColl x kind peer channel s).1 :=
  .inl (by simp only [beginColl, modCmd_sup]; rfl)

/-- Data for the part itself are delivered at once; data for another part leave over the Viaduct. -/
theorem deliverOrSend_mayDrain (p : Prop) [Decidable p] (m : ColMsg) (n : DomMsg) (s : State) :
    mayDrain s (if p then deliver m s else sendDom n s) := by
  split
  · exact deliver_mayDrain m s
  · exact .inl rfl

theorem sendWork_mayDrain (x : Ctx) (s : State) : mayDrain s (sendWork x s) := by
  have hbegin := beginColl_mayDrain x 0 (Xfer.parse x.par).peer (Xfer.parse x.par).channel s
  have hread := mayDrain_trans hbegin (noteReads_lineWork none x.e [((Xfer.parse x.par).addr, (Xfer.parse x.par).len)] _).mayDrain
  unfold sendWork
  split
  · exact mayDrain_refl s
  · dsimp only
    split
    · exact mayDrain_trans hbegin (endColl_mayDrain ..)
    · split
      · exact mayDrain_trans (mayDrain_trans hread (deliverOrSend_mayDrain ..)) (endColl_mayDrain ..)
      · exact mayDrain_trans hread (deliverOrSend_mayDrain ..)

theorem recvWork_mayDrain (x : Ctx) (s : State) : mayDrain s (recvWork x s) := by
  have hbegin := beginColl_mayDrain x 1 (Xfer.parse x.par).peer (Xfer.parse x.par).channel s
  unfold recvWork
  split
  · exact mayDrain_refl s
  · dsimp only
    split
    · exact mayDrain_trans hbegin (endColl_mayDrain ..)
    · exact mayDrain_trans hbegin (takeInbox_mayDrain ..)

theorem reduceWork_mayDrain (x : Ctx) (s : State) : mayDrain s (reduceWork x s) := by
  have hbegin := beginColl_mayDrain x 2 0 (Reduce.parse x.par).channel s
  have hread := mayDrain_trans hbegin
    (noteReads_lineWork none x.e [((Reduce.parse x.par).src, 4 * (Reduce.parse x.par).count)] _).mayDrain
  have hsent : ∀ (l : List Nat) (m : DomMsg) (t : State), mayDrain t (if l.isEmpty then t else sendDom m t) := fun l m t => by
    split <;> exact .inl rfl
  unfold reduceWork
  split
  · exact mayDrain_refl s
  · dsimp only
    split
    · exact mayDrain_trans hbegin (endColl_mayDrain ..)
    · split
      · exact mayDrain_trans hread (endColl_mayDrain ..)
      · refine mayDrain_trans (mayDrain_trans ?_ (tryReduce_mayDrain ..)) (takeInbox_mayDrain ..)
        exact mayDrain_trans (mayDrain_trans hread (hsent ..)) (.inl rfl)

end Sys2Proof.Machine
end

section
/-!
PROOFS. The device state under the work of each family of queue commands (R352).
-/
namespace Sys2Proof.Machine
open Host

/-! ### Tasks, contexts, images -/

theorem runPieces_dstate {mixed : Bool} {o : Owner} {e : Circ} {core : Nat} {ps : List Piece} {s t : State}
    {r : Option (Nat × Nat × Nat)} (h : runPieces mixed o e core ps s = (t, r)) : t.sup.dstate = s.sup.dstate :=
  dstate_of_pair h (runPieces_lineWork ..).dstate

theorem signalFail_mayDrain (x : Ctx) (root : Nat) (s : State) : mayDrain s (signalFail x root s) := by
  unfold signalFail
  split
  all_goals
    rename_i h
    exact complete_after (dstate_of_pair h (putLine_lineWork ..).dstate) ..

theorem fenceWork_mayDrain (x : Ctx) (s : State) : mayDrain s (fenceWork x s) :=
  complete_after (by rw [setQ_sup]) ..

theorem beginWork_mayDrain (x : Ctx) (s : State) : mayDrain s (beginWork x s) := by
  unfold beginWork
  split
  · exact complete_mayDrain ..
  · exact complete_after (by rw [modTask_sup]) ..

theorem endSpec_sup (x : Ctx) (st : TState) (s : State) : (endSpec x st s).sup = s.sup := by
  unfold endSpec
  split <;> simp

theorem commitWork_mayDrain (x : Ctx) (s : State) : mayDrain s (commitWork x s) := by
  unfold commitWork
  dsimp only
  split
  · rename_i h
    exact complete_after (by rw [endSpec_sup, runPieces_dstate h]) ..
  · rename_i h
    exact complete_after (runPieces_dstate h) ..

theorem discardWork_mayDrain (x : Ctx) (s : State) : mayDrain s (discardWork x s) :=
  complete_after (by rw [endSpec_sup]) ..

/-- A result's state that has come about by work of lines. -/
theorem lineWork_of_pair {α : Type} {s t : State} {p : State × α} {a : α} (h : p = (t, a)) (hp : LineWork s p.1) : LineWork s t := by
  rwa [h] at hp

theorem saveTo_lineWork (o : Owner) (e : Circ) (dst : Nat) (c : Chry) (s : State) : LineWork s (saveTo o e dst c s).1 := by
  unfold saveTo
  dsimp only
  split
  · rename_i h
    exact lineWork_of_pair h (runPieces_lineWork ..)
  · rename_i h
    refine lineWork_trans (lineWork_of_pair h (runPieces_lineWork ..)) ?_
    split
    all_goals
      rename_i h
      exact lineWork_of_pair h (putDev_lineWork ..)

theorem saveWork_mayDrain (x : Ctx) (s : State) : mayDrain s (saveWork x s) := by
  have hread : mayDrain s (if (Save.parse x.par).n = 0 then s
      else noteReads x.o x.e [((Save.parse x.par).rgn, 16 * (Save.parse x.par).n)] s) := by
    split
    · exact mayDrain_refl s
    · exact (noteReads_lineWork ..).mayDrain
  unfold saveWork
  dsimp only
  split
  · exact complete_after (noteReads_lineWork ..).dstate ..
  · generalize (if (Save.parse x.par).n = 0 then s
      else noteReads x.o x.e [((Save.parse x.par).rgn, 16 * (Save.parse x.par).n)] s) = u at hread ⊢
    refine mayDrain_trans hread ?_
    split
    · exact complete_mayDrain ..
    split
    · exact complete_mayDrain ..
    split
    · exact complete_mayDrain ..
    split
    all_goals
      rename_i h
      have h1 := dstate_of_pair h (saveTo_lineWork ..).dstate
      refine complete_after ?_ ..
      exact h1

theorem note_lineWork (p : Restore) (x : Ctx) (off n : Nat) (s : State) : LineWork s (p.note x off n s) := by
  unfold Restore.note
  split
  · exact lineWork_refl s
  · exact noteReads_lineWork ..

theorem restoreRegions_mayDrain (h : Nat) (l : List (Nat × Nat)) (p : Restore) (x : Ctx) (s : State) :
    mayDrain s (restoreRegions h l p x s) := by
  unfold restoreRegions
  dsimp only
  split
  · exact complete_after (lineWork_trans (note_lineWork ..) (scatter_lineWork ..)).dstate ..
  · split
    all_goals
      rename_i hrun
      have h1 := runPieces_dstate hrun
      refine complete_after ?_ ..
      exact h1

theorem restoreWork_mayDrain (x : Ctx) (s : State) : mayDrain s (restoreWork x s) := by
  unfold restoreWork
  dsimp only
  split
  · exact complete_mayDrain ..
  split
  · exact complete_after (note_lineWork ..).dstate ..
  split
  · exact complete_after (note_lineWork ..).dstate ..
  split
  · exact complete_after (note_lineWork ..).dstate ..
  split
  · exact complete_after (note_lineWork ..).dstate ..
  · exact mayDrain_trans (note_lineWork ..).mayDrain (restoreRegions_mayDrain ..)

theorem loadImage_mayDrain (x : Ctx) (p : Load) (s : State) : mayDrain s (loadImage x p s) := by
  have hread : ∀ (l : List (Nat × Nat)) (o : Out), mayDrain s (complete x.c o (noteReads x.o x.e l s)) := fun l o =>
    complete_after (noteReads_lineWork ..).dstate ..
  unfold loadImage
  dsimp only
  split
  · exact hread ..
  split
  · exact hread ..
  split
  · exact hread ..
  split
  · exact hread ..
  split
  · exact hread ..
  split
  · exact hread ..
  split
  · exact hread ..
  split
  · exact hread ..
  · refine complete_after ?_ ..
    exact (noteReads_lineWork x.o x.e _ s).dstate

theorem loadWork_mayDrain (x : Ctx) (s : State) : mayDrain s (loadFamily.work x s) := by
  show mayDrain s (if _ then loadImage x _ s else unloadImage x _ s)
  split
  · exact loadImage_mayDrain ..
  · unfold unloadImage
    split
    · exact complete_mayDrain ..
    split
    · exact complete_mayDrain ..
    · exact complete_after rfl ..

theorem schRunWork_mayDrain (x : Ctx) (s : State) : mayDrain s (schRunWork x s) :=
  .inl (by unfold schRunWork; rw [modCmd_sup])

/-! ### Control commands -/

theorem limitWork_mayDrain (x : Ctx) (s : State) : mayDrain s (limitFamily.work x s) := complete_after rfl ..

theorem reserveWork_mayDrain (x : Ctx) (s : State) : mayDrain s (reserveFamily.work x s) := complete_after rfl ..

theorem queueWork_mayDrain (x : Ctx) (s : State) : mayDrain s (queueFamily.work x s) := complete_after (by rw [setQ_sup]) ..

theorem endImage_mayDrain (x : Nat × Nat × Option Nat) (s : State) : mayDrain s (endImage x s) := by
  unfold endImage
  split
  · exact mayDrain_refl s
  · split
    · exact stopImage_mayDrain ..
    · refine mayDrain_trans (complete_after ?_ ..) (beginCrossing_mayDrain _)
      rfl

theorem stopNow_mayDrain (s : State) : mayDrain s (stopNow s) := by
  unfold stopNow
  split
  · exact mayDrain_trans (.inl rfl) (endImage_mayDrain ..)
  · exact mayDrain_refl s

theorem stopLater_mayDrain (x : StopReq) (now : Bool) (s : State) : mayDrain s (stopLater x now s) := by
  have hnow : mayDrain s (if now then stopNow (setStop (some x) s) else setStop (some x) s) := by
    split
    · exact mayDrain_trans (.inl rfl) (stopNow_mayDrain _)
    · exact .inl rfl
  unfold stopLater
  dsimp only
  generalize (if now then stopNow (setStop (some x) s) else setStop (some x) s) = u at hnow ⊢
  split
  · exact hnow
  · exact mayDrain_trans hnow (beginCrossing_mayDrain _)

/-- What SUP.STATE may do to the device state (R440). -/
def stateMoves (a b : DState) : Prop :=
  b = a ∨ (a = .running ∧ b = .draining) ∨ (a = .ready ∧ b = .parked) ∨ (a = .parked ∧ b = .ready)

theorem mayDrain.stateMoves {s t : State} (h : mayDrain s t) : stateMoves s.sup.dstate t.sup.dstate :=
  h.elim .inl (fun h => .inr (.inl h))

theorem stateEffect_moves (v : Nat) (s : State) : stateMoves s.sup.dstate (stateEffect v s).sup.dstate := by
  unfold stateEffect
  dsimp only
  split
  · exact .inl rfl
  · exact .inl rfl
  · exact .inl rfl
  · rename_i h
    exact .inr (.inr (.inl ⟨h, setDState_dstate ..⟩))
  · exact (stopLater_mayDrain ..).stateMoves
  · exact (stopLater_mayDrain ..).stateMoves
  · exact (stopLater_mayDrain ..).stateMoves
  · exact (stopLater_mayDrain ..).stateMoves
  · rename_i h
    exact .inr (.inr (.inr ⟨h, setDState_dstate ..⟩))
  · split
    · exact .inl rfl
    · exact (beginCrossing_mayDrain _).stateMoves
  · exact .inl rfl

theorem stateMoves_mayDrain {a : DState} {t u : State} (h : stateMoves a t.sup.dstate) (g : mayDrain t u) :
    stateMoves a u.sup.dstate := by
  rcases g with g | ⟨ht, hu⟩
  · rwa [g]
  · rw [ht] at h
    rcases h with h | ⟨-, h⟩ | ⟨-, h⟩ | ⟨-, h⟩
    · exact .inr (.inl ⟨h.symm, hu⟩)
    all_goals cases h

theorem stateWork_moves (x : Ctx) (s : State) : stateMoves s.sup.dstate (stateFamily.work x s).sup.dstate :=
  stateMoves_mayDrain (stateEffect_moves x.par s) (complete_mayDrain ..)

/-! ### Firmware and elections -/

theorem flashFault_mayDrain (x : Ctx) (s : State) : mayDrain s (flashFault x s) := complete_after rfl ..

@[simp] theorem setVerified_dstate (rt b : Bool) (s : State) : (setVerified rt b s).sup.dstate = s.sup.dstate := by
  cases rt <;> rfl

@[simp] theorem setVerifiedPrim_dstate (rt b : Bool) (s : State) : (setVerifiedPrim rt b s).sup.dstate = s.sup.dstate := by
  cases rt <;> rfl

@[simp] theorem setActivation_dstate (rt b : Bool) (s : State) : (setActivation rt b s).sup.dstate = s.sup.dstate := by
  cases rt <;> rfl

@[simp] theorem swapMarks_dstate (rt : Bool) (s : State) : (swapMarks rt s).sup.dstate = s.sup.dstate := by
  simp [swapMarks]

@[simp] theorem putFlash_dstate (a : Nat) (bs : List Byte) (s : State) : (putFlash a bs s).sup.dstate = s.sup.dstate := rfl

@[simp] theorem writeRecord_dstate (i1 rt : Bool) (floor : Nat) (s : State) :
    (writeRecord i1 rt floor s).sup.dstate = s.sup.dstate := by
  simp only [writeRecord, putFlash_dstate]

@[simp] theorem unmarkBelow_dstate (rt : Bool) (s : State) : (unmarkBelow rt s).sup.dstate = s.sup.dstate := by
  unfold unmarkBelow
  dsimp only
  repeat' split
  all_goals simp

theorem backTo_dstate (run : Bool) (s : State) (copy : Bool) : (backTo run s copy).sup.dstate = s.sup.dstate := by
  unfold backTo
  split
  · rfl
  · exact swapMarks_dstate ..

theorem stageWrite_mayDrain (x : Ctx) (p : FwStage) (s : State) : mayDrain s (stageWrite x p s) := by
  have hread := (noteReads_lineWork x.o x.e [(p.src, p.len)] s).dstate
  unfold stageWrite
  dsimp only
  split
  · exact complete_after hread ..
  split
  · exact mayDrain_trans (.inl (by simp [hread])) (flashFault_mayDrain ..)
  · exact complete_after (by simp [hread]) ..

theorem stageVerify_mayDrain (x : Ctx) (p : FwStage) (s : State) : mayDrain s (stageVerify x p s) := by
  unfold stageVerify
  dsimp only
  split <;> exact complete_after (by simp) ..

theorem loadRuntime_mayDrain (x : Ctx) (s : State) : mayDrain s (loadRuntime x s) := by
  unfold loadRuntime
  dsimp only
  split
  · exact complete_after rfl ..
  · exact complete_after (by rw [backTo_dstate]; simp) ..

theorem activateNow_mayDrain (x : Ctx) (s : State) : mayDrain s (activateNow x s) := by
  unfold activateNow
  split
  · exact loadRuntime_mayDrain ..
  · exact mayDrain_refl s

theorem stageActivate_mayDrain (x : Ctx) (p : FwStage) (s : State) : mayDrain s (stageActivate x p s) := by
  have hrec : ∀ b : Bool, ∀ i1 r1 i2 r2 f1 f2, (setActivation p.rt true (swapMarks p.rt
      (if b then writeRecord i1 r1 f1 s else writeRecord i2 r2 f2 s))).sup.dstate = s.sup.dstate := by
    intro b i1 r1 i2 r2 f1 f2
    cases b <;> simp
  unfold stageActivate
  split
  · exact complete_mayDrain ..
  split
  · exact complete_mayDrain ..
  split
  · exact flashFault_mayDrain ..
  extract_lets r v s1 s2
  have h1 : s1.sup.dstate = s.sup.dstate := hrec ..
  split
  · exact complete_after h1 ..
  split
  · exact mayDrain_trans (.inl h1) (loadRuntime_mayDrain ..)
  · exact .inl ((congrArg Sup.dstate (modCmd_sup ..)).trans h1)

theorem stageRaise_mayDrain (x : Ctx) (s : State) : mayDrain s (stageRaise x s) := by
  unfold stageRaise
  dsimp only
  split
  · exact complete_mayDrain ..
  split
  · exact flashFault_mayDrain ..
  · exact complete_after (by simp) ..

theorem stageWork_mayDrain (x : Ctx) (s : State) : mayDrain s (stageWork x s) := by
  unfold stageWork
  dsimp only
  split
  · exact complete_mayDrain ..
  split
  · exact stageWrite_mayDrain ..
  · exact stageVerify_mayDrain ..
  · exact stageActivate_mayDrain ..
  · exact stageRaise_mayDrain ..
  · exact complete_mayDrain ..

theorem useIndex_dstate (d : Side) (s : State) : (useIndex d s).sup.dstate = s.sup.dstate := by
  have hj : ∀ i n, (journalWrite d i n s).sup.dstate = s.sup.dstate := fun i n => by
    simp only [journalWrite]
    split <;> simp only [putFlash_dstate]
  have hset : ∀ (l : Keys) (t : State), (setKeys d l t).sup.dstate = t.sup.dstate := fun _ _ => by cases d <;> rfl
  unfold useIndex
  rw [hset]
  split
  · exact hj ..
  · rfl

theorem attestWork_mayDrain (x : Ctx) (s : State) : mayDrain s (attestWork x s) := by
  unfold attestWork
  dsimp only
  split
  · exact flashFault_mayDrain ..
  split
  all_goals
    rename_i h
    exact complete_after (dstate_of_pair h ((putDev_lineWork ..).dstate.trans (useIndex_dstate ..))) ..

/-- The end of a run, or the end of a fence (R439). -/
def leadMoves (a b : DState) : Prop := b = a ∨ (a = .running ∧ b = .draining) ∨ (a = .fenced ∧ b = .ready)

theorem mayDrain.leadMoves {s t : State} (h : mayDrain s t) : leadMoves s.sup.dstate t.sup.dstate :=
  h.elim .inl (fun h => .inr (.inl h))

theorem leadMoves_trans {a b c : DState} (h : leadMoves a b) (g : leadMoves b c) : leadMoves a c := by
  cases a <;> cases b <;> cases c <;> simp_all [leadMoves]

theorem takeLead_moves (term : Word) (side : Side) (s : State) : leadMoves s.sup.dstate (takeLead term side s).sup.dstate := by
  unfold takeLead
  dsimp only
  simp only [devIrq_sup, refreshAlert_sup]
  split
  · rename_i h
    exact .inr (.inr ⟨h, setDState_dstate ..⟩)
  · exact .inl (by rw [devIrq_sup, refreshAlert_sup])

theorem electWork_moves (x : Ctx) (s : State) : leadMoves s.sup.dstate (electWork x s).sup.dstate := by
  unfold electWork
  dsimp only
  split
  · exact (complete_mayDrain ..).leadMoves
  split
  · exact (complete_mayDrain ..).leadMoves
  split
  · exact (complete_mayDrain ..).leadMoves
  · exact leadMoves_trans (takeLead_moves ..) (complete_mayDrain ..).leadMoves

/-! ### Lock groups and MED.ENC -/

@[simp] theorem setGroup_sup (ctx : Nat) (f : Group → Group) (s : State) : (setGroup ctx f s).sup = s.sup := rfl

theorem failMember_mayDrain (parts : List Part) (s : State) (y : Nat × Nat) : mayDrain s (failMember parts s y) := by
  unfold failMember
  split
  · exact complete_mayDrain ..
  · exact .inl rfl

theorem failGroup_mayDrain (y : Nat × Nat) (s : State) : mayDrain s (failGroup y s) := by
  unfold failGroup
  split
  · exact mayDrain_refl s
  split
  · exact .inl rfl
  · refine mayDrain_trans (.inl ?_) (foldl_mayDrain (fun t y => failMember_mayDrain _ t y) _ _)
    split <;> rfl

theorem afterEnc_mayDrain (c : CmdRef) (b s : State) : mayDrain s (afterEnc c b s) := by
  unfold afterEnc
  split
  · dsimp only
    split
    · split
      · exact .inl rfl
      split
      · exact mayDrain_refl s
      · exact failGroup_mayDrain ..
    · exact mayDrain_refl s
  · exact mayDrain_refl s

theorem putWrs_dstate {o : Owner} {e : Circ} {core : Nat} {l : List Wr} {s t : State} {r : Option (Nat × Nat)}
    (h : putWrs o e core l s = (t, r)) : t.sup.dstate = s.sup.dstate := dstate_of_pair h (putWrs_lineWork ..).dstate

theorem putParts_dstate (tiled : Bool) (parts : List Part) (e : Circ) (l : List (Part × Nat)) (s : State) :
    (putParts tiled parts e l s).1.sup.dstate = s.sup.dstate := by
  induction l generalizing s with
  | nil => rfl
  | cons y r ih =>
    obtain ⟨y, i⟩ := y
    unfold putParts
    dsimp only
    split
    · exact ih s
    split
    · rename_i h
      exact putWrs_dstate h
    · rename_i h
      have h1 := putWrs_dstate h
      generalize (if tiled then _ else _ : List Wr × Option Nat × Bool) = w at h1 ⊢
      split
      · exact h1
      split
      · exact h1
      split
      · rename_i h
        exact (putWrs_dstate h).trans h1
      · rename_i h
        exact (ih _).trans ((putWrs_dstate h).trans h1)

theorem putContexts_dstate (parts : List Part) (e : Circ) (s : State) : (putContexts parts e s).sup.dstate = s.sup.dstate := by
  refine foldl_keeps (fun t : State => t.sup.dstate) (fun t y => ?_) _ s
  split
  · rfl
  · exact (putWrs_lineWork ..).dstate

theorem finishGroup_mayDrain (ctx : Nat) (e : Circ) (s : State) : mayDrain s (finishGroup ctx e s) := by
  unfold finishGroup
  split
  · exact mayDrain_refl s
  dsimp only
  split
  · exact mayDrain_refl s
  split
  · rename_i h
    have h1 := dstate_of_pair h (putParts_dstate ..)
    refine mayDrain_trans (complete_after ?_ ..) (failGroup_mayDrain ..)
    exact h1
  · rename_i h
    refine mayDrain_trans (.inl ?_) (foldl_mayDrain (fun t y => complete_mayDrain ..) _ _)
    rw [setGroup_sup, putContexts_dstate]
    exact dstate_of_pair h (putParts_dstate ..)

theorem encPicture_mayDrain (p : Enc) (x : Ctx) (s : State) : mayDrain s (encPicture p x s) := by
  unfold encPicture
  dsimp only
  split
  · split
    · rename_i h
      exact complete_after (runPieces_dstate h) ..
    · rename_i h
      refine mayDrain_trans (.inl ?_) (finishGroup_mayDrain ..)
      rw [setGroup_sup, modCmd_sup]
      exact runPieces_dstate h
  · exact execPlan_mayDrain (.of_none rfl rfl) s

theorem encWork_mayDrain (x : Ctx) (s : State) : mayDrain s (encWork x s) := by
  unfold encWork
  dsimp only
  split
  · exact execPlan_mayDrain (.of_none rfl rfl) s
  · split
    · exact mayDrain_refl s
    · exact encPicture_mayDrain ..
  · exact execPlan_mayDrain (.of_none rfl rfl) s

end Sys2Proof.Machine
end

section
/-!
PROOFS. The device state under the row of each queue command (R352).
-/
namespace Sys2Proof.Machine
open Host

/-! ### Queue commands -/

/-- A command whose dependency failed ends at most a run. -/
theorem queueRow_onFail_mayDrain {i : Instr} {op : Nat} {f : Family} {c : CmdRef} {e : Circ} (h : queueRow i = some (op, f, c, e))
    (x : Ctx) (root : Nat) (s : State) : mayDrain s (f.onFail x root s) := by
  cases i with
  | synSignal => cases h; exact signalFail_mayDrain x root s
  | _ => cases h <;> exact complete_mayDrain ..

/-- The work of a queue command other than SUP.STATE and SUP.ELECT ends at most a run. -/
theorem queueRow_work_mayDrain {i : Instr} {op : Nat} {f : Family} {c : CmdRef} {e : Circ} (h : queueRow i = some (op, f, c, e))
    (hstate : op ≠ 0x0F01) (helect : op ≠ 0x0F02) (x : Ctx) (s : State) : mayDrain s (f.work x s) := by
  rcases hplan : planOf i with _ | plan
  · cases i with
    | synFence => cases h; exact fenceWork_mayDrain x s
    | tskBegin => cases h; exact beginWork_mayDrain x s
    | tskCommit => cases h; exact commitWork_mayDrain x s
    | tskDiscard => cases h; exact discardWork_mayDrain x s
    | ctxSave => cases h; exact saveWork_mayDrain x s
    | ctxRestore => cases h; exact restoreWork_mayDrain x s
    | colSend => cases h; exact sendWork_mayDrain x s
    | colRecv => cases h; exact recvWork_mayDrain x s
    | colReduce => cases h; exact reduceWork_mayDrain x s
    | schLoad => cases h; exact loadWork_mayDrain x s
    | schRun => cases h; exact schRunWork_mayDrain x s
    | tglLimit => cases h; exact limitWork_mayDrain x s
    | tglReserve => cases h; exact reserveWork_mayDrain x s
    | supState => cases h; exact absurd rfl hstate
    | supElect => cases h; exact absurd rfl helect
    | supFwstage => cases h; exact stageWork_mayDrain x s
    | supAttest => cases h; exact attestWork_mayDrain x s
    | supQueue => cases h; exact queueWork_mayDrain x s
    | _ => cases h <;> cases hplan
  · rw [(worksBy h hplan).work]
    exact execPlan_mayDrain (planOf_ends hplan x s) s

/-- What the row of a queue command leaves of the device state, `runCmd` has left of it. -/
theorem exec_queueRow_dstate {i : Instr} {op : Nat} {f : Family} {c : CmdRef} {e : Circ} (h : queueRow i = some (op, f, c, e))
    (s : State) : ∃ t, exec i s = .next t ∧
      (t.sup.dstate = s.sup.dstate ∨ t.sup.dstate = (runCmd op f c (circOf op c e s) s).sup.dstate) := by
  cases i with
  | movGather | vecRun | attFwd | attBwd | kvAppend | kvMap =>
    cases h
    exact ⟨_, rfl, runRows_dstate ..⟩
  | schRun =>
    cases h
    refine ⟨_, rfl, ?_⟩
    split
    · exact .inl rfl
    · exact .inr rfl
  | _ => cases h <;> exact ⟨_, rfl, .inr rfl⟩

/-- What a queue command may do to the device state: the end of a run; the changes of R440 and R439. -/
theorem exec_queueRow_moves {i : Instr} {op : Nat} {f : Family} {c : CmdRef} {e : Circ} (h : queueRow i = some (op, f, c, e))
    {s t : State} (ht : exec i s = .next t) :
    mayDrain s t ∨ stateMoves s.sup.dstate t.sup.dstate ∨ leadMoves s.sup.dstate t.sup.dstate := by
  obtain ⟨u, hu, hd⟩ := exec_queueRow_dstate h s
  cases hu.symm.trans ht
  have hfail := queueRow_onFail_mayDrain h
  rcases hd with hd | hd
  · exact .inl (.inl hd)
  by_cases hstate : op = 0x0F01
  · refine .inr (.inl (hd ▸ runCmd_dstate (fun s t h => h.stateMoves) (fun x t => ?_) (fun x r t => (hfail x r t).stateMoves) ..))
    cases i with
    | supState => cases h; exact stateWork_moves x t
    | _ => cases h <;> cases hstate
  by_cases helect : op = 0x0F02
  · refine .inr (.inr (hd ▸ runCmd_dstate (fun s t h => h.leadMoves) (fun x t => ?_) (fun x r t => (hfail x r t).leadMoves) ..))
    cases i with
    | supElect => cases h; exact electWork_moves x t
    | _ => cases h <;> cases helect
  · exact .inl (by
      rw [mayDrain, hd]
      exact runCmd_dstate (R := fun a b => b = a ∨ (a = .running ∧ b = .draining)) (fun s t h => h)
        (queueRow_work_mayDrain h hstate helect) hfail ..)

/-- MED.ENC ends at most a run. -/
theorem exec_medEnc_mayDrain {c : CmdRef} {e : Circ} {s t : State} (h : exec (.medEnc c e) s = .next t) : mayDrain s t := by
  have hrun : mayDrain s (runCmd 0x0702 encFamily c e s) :=
    runCmd_dstate (R := fun a b => b = a ∨ (a = .running ∧ b = .draining)) (f := encFamily) (fun s t h => h) encWork_mayDrain
      (fun x r t => complete_mayDrain ..) ..
  have ht : afterEnc c s (runCmd 0x0702 encFamily c e s) = t := Outcome.next.inj h
  exact ht ▸ mayDrain_trans hrun (afterEnc_mayDrain ..)

end Sys2Proof.Machine
end

section
/-!
PROOFS. The device state under events that end at most a run (R30, R352).
-/
namespace Sys2Proof.Machine
open Host

theorem mayDrain_ite {p : Prop} [Decidable p] {s a b : State} (ha : mayDrain s a) (hb : mayDrain s b) :
    mayDrain s (if p then a else b) := by
  split
  · exact ha
  · exact hb

theorem mayDrain_if {p : Prop} [Decidable p] {s a : State} (ha : mayDrain s a) : mayDrain s (if p then a else s) :=
  mayDrain_ite ha (mayDrain_refl s)

/-- What follows a change that leaves the device state. -/
theorem mayDrain.from {s u t : State} (g : mayDrain u t) (h : u.sup.dstate = s.sup.dstate := by rfl) : mayDrain s t :=
  mayDrain_trans (.inl h) g

theorem advanceTo_mayDrain (n : Nat) (s : State) : mayDrain s (advanceTo n s) := .inl (by rw [advanceTo_sup])

/-! ### Queues -/

theorem doorbell_mayDrain (x : DWord) (s : State) : mayDrain s (doorbell x s) :=
  mayDrain_ite (.inl rfl) (.inl (by rw [setQ_sup]))

theorem commandDoorbell_mayDrain (l : List (Nat × Byte)) (v : DWord) (s : State) :
    mayDrain s (if reachable (companionStores l s) then doorbell v (companionStores l s) else companionStores l s) :=
  mayDrain_ite (mayDrain_trans (t := companionStores l s) (.inl rfl) (doorbell_mayDrain ..)) (.inl rfl)

theorem fetchSlot_mayDrain (qid : Nat) (s : State) : mayDrain s (fetchSlot qid s) := by
  unfold fetchSlot
  extract_lets q a h par idx pass named st
  split
  rename_i q1 task _
  extract_lets k s1 s2
  have h1 : mayDrain s s1 := .inl (by rw [setQ_sup])
  exact mayDrain_ite h1 (mayDrain_trans (mayDrain_trans h1 (complete_mayDrain ..)) (mayDrain_if (failGroup_mayDrain ..)))

theorem sendIrq_mayDrain (v q : Nat) (s : State) : mayDrain s (sendIrq v q s) := mayDrain_of_sup (sendIrq_sup ..)

theorem devIrq_mayDrain (v : Nat) (s : State) : mayDrain s (devIrq v s) := mayDrain_of_sup (devIrq_sup ..)

theorem setQ_mayDrain (r : QRef) (q : Queue) (s : State) : mayDrain s (setQ r q s) := mayDrain_of_sup (setQ_sup ..)

theorem modCmd_mayDrain (c : CmdRef) (f : Cmd → Cmd) (s : State) : mayDrain s (modCmd c f s) := mayDrain_of_sup (modCmd_sup ..)

theorem modTask_mayDrain (r : QRef) (n : Nat) (f : Task → Task) (s : State) : mayDrain s (modTask r n f s) :=
  mayDrain_of_sup (modTask_sup ..)

theorem recordIrq_mayDrain (qid : Nat) (s : State) : mayDrain s (recordIrq qid s) := by
  have hsend : ∀ r q v, mayDrain s (sendIrq v qid (setQ r q s)) := fun r q v =>
    mayDrain_trans (setQ_mayDrain ..) (sendIrq_mayDrain ..)
  unfold recordIrq
  dsimp only
  split
  · exact mayDrain_if (devIrq_mayDrain ..)
  split
  · exact mayDrain_refl s
  split
  · exact mayDrain_ite (setQ_mayDrain ..) (hsend ..)
  · exact hsend ..

/-! ### Best-effort work, quanta, the Tollgate -/

theorem exec_beYield_mayDrain {c : CmdRef} {n : Nat} {s t : State} (h : exec (.beYield c n) s = .next t) : mayDrain s t := by
  obtain rfl := Outcome.next.inj h
  split
  · exact mayDrain_refl s
  dsimp only
  refine mayDrain_if ?_
  split
  · rename_i hy
    obtain ⟨f, hf, hy⟩ := Option.bind_eq_some_iff.1 hy
    obtain ⟨ps, u, hu, rfl⟩ := yieldAt_spec hf hy
    refine mayDrain_trans (mayDrain_trans ?_ (modCmd_mayDrain ..)) (modCmd_mayDrain ..)
    exact .inl ((leaveEngines_dstate ..).trans hu.dstate)
  · exact mayDrain_refl s

theorem grant_mayDrain (q : Quantum) (lc : Bool) (s : State) : mayDrain s (grant q lc s) := .inl rfl

theorem offer_mayDrain (o : Offer) (s : State) : mayDrain s (offer o s) := by
  rcases offer_cases o s with h | ⟨lc, -, h⟩ | h
  · rw [h]; exact mayDrain_refl s
  · rw [h]; exact grant_mayDrain ..
  · rw [h]; exact .inl rfl

theorem offerAgain_mayDrain (s : State) : mayDrain s (offerAgain s) :=
  mayDrain.from (foldl_mayDrain (fun t o => offer_mayDrain o t) _ _)

theorem endWindow_mayDrain (dies : List (Nat × Nat)) (p : BitVec 12) (s : State) : mayDrain s (endWindow dies p s) :=
  mayDrain_trans (advanceTo_mayDrain ..) (.inl rfl)

theorem holdWindow_mayDrain (s : State) : mayDrain s (holdWindow s) := mayDrain_ite (mayDrain_refl s) (.inl rfl)

theorem samplePower_mayDrain (vin iin : BitVec 13) (s : State) : mayDrain s (samplePower vin iin s) :=
  mayDrain_trans (mayDrain_trans (advanceTo_mayDrain ..) (.inl rfl)) (holdWindow_mayDrain _)

theorem tryPrecharge_mayDrain (s : State) : mayDrain s (tryPrecharge s) := by
  unfold tryPrecharge
  exact mayDrain_if (.inl rfl)

theorem powerSample_mayDrain (vin iin : BitVec 13) (s : State) :
    mayDrain s (if s.sup.dstate = .off then tryPrecharge (noteRegion vin (nextSample s))
      else if tollgateOn s then samplePower vin iin (noteInput vin iin (noteRegion vin (nextSample s)))
      else noteInput vin iin (noteRegion vin (nextSample s))) :=
  mayDrain_ite (mayDrain.from (tryPrecharge_mayDrain _))
    (mayDrain_ite (mayDrain.from (samplePower_mayDrain ..)) (.inl rfl))

/-! ### Crossings and image runs -/

theorem adoptCocoons_sup (s : State) : (adoptCocoons s).sup = s.sup := by
  refine foldl_keeps (fun t : State => t.sup) (fun t k => ?_) _ s
  split
  · rfl
  · exact (putCocoon_sup ..).trans (setQ_sup ..)

theorem endImageRun_mayDrain (s : State) : mayDrain s (endImageRun s) := by
  have hadopt := mayDrain_of_sup (adoptCocoons_sup s)
  unfold endImageRun
  split
  · exact mayDrain_refl s
  split
  · exact mayDrain_refl s
  split
  · exact mayDrain_trans (mayDrain_trans hadopt (.inl rfl)) (complete_mayDrain ..)
  split
  · exact .inl rfl
  · exact mayDrain_ite (mayDrain_trans (mayDrain_trans hadopt (.inl rfl)) (complete_mayDrain ..)) (mayDrain_trans hadopt (.inl rfl))

theorem drained_mayDrain (s : State) : mayDrain s (endImageRun (applySettings (clearEngines s))) := (endImageRun_mayDrain _).from

theorem exec_crossingDrainEnd_mayDrain {s t : State} (h : exec .crossingDrainEnd s = .next t) : mayDrain s t := by
  obtain rfl := Outcome.next.inj h
  split
  · exact mayDrain_refl s
  split
  · exact mayDrain_refl s
  · have hend := mayDrain_trans (advanceTo_mayDrain (beatUp s.time.now.toNat) s) (drained_mayDrain _)
    exact mayDrain_trans hend (.inl rfl)

theorem runMsExpiry_mayDrain (s : State) (n : Nat) : mayDrain s (beginCrossing (advanceTo n s)) :=
  mayDrain_trans (advanceTo_mayDrain ..) (beginCrossing_mayDrain _)

theorem failImage_mayDrain (st : Nat) (s : State) : mayDrain s (failImage st s) := by
  unfold failImage
  dsimp only
  split
  · exact mayDrain_refl s
  split
  · exact mayDrain.from (stopImage_mayDrain ..)
  · refine mayDrain_trans (.inl ?_) (complete_mayDrain ..)
    rfl

/-- The reads of an image leave the device state to what follows them. -/
theorem withImage_dstate {R : DState → DState → Prop} (hR : ∀ s t : State, mayDrain s t → R s.sup.dstate t.sup.dstate)
    {go : ImgRun → State → State} (hgo : ∀ r t, R t.sup.dstate (go r t).sup.dstate) (r : ImgRun) (l : List (Nat × Nat)) (s : State) :
    R s.sup.dstate (withImage r l s go).sup.dstate := by
  have hread : ∀ i : Img, (noteReads none r.e l { s with img := i }).sup.dstate = s.sup.dstate := fun i =>
    (noteReads_lineWork ..).dstate
  unfold withImage
  dsimp only
  split
  · exact hR s s (mayDrain_refl s)
  split
  · exact hR _ _ (mayDrain_trans (.inl (hread _)) (failImage_mayDrain ..))
  · rw [← hread]
    exact hgo _ _

theorem refuseRun_mayDrain (r : ImgRun) (code : Nat) (s : State) : mayDrain s (refuseRun r code s) := complete_after rfl ..

theorem addPacket_mayDrain (task beat : Nat) (s : State) (x : Nat × (Nat × Nat × Nat)) : mayDrain s (addPacket task beat s x) := by
  have hset : ∀ q, mayDrain s (setQ .img q s) := fun q => setQ_mayDrain ..
  unfold addPacket
  dsimp only
  split
  · exact hset _
  · exact mayDrain_trans (mayDrain_trans (hset _) (complete_mayDrain ..)) (mayDrain_if (failGroup_mayDrain ..))

theorem markSlip_mayDrain (r : ImgRun) (task : Nat) (due : Int) (s : State) : mayDrain s (markSlip r task due s) := by
  unfold markSlip
  dsimp only
  split
  · exact mayDrain_refl s
  · exact mayDrain_if (modTask_mayDrain ..)

theorem releaseTask_mayDrain (r : ImgRun) (i : Nat) (t : Task) (s : State) : mayDrain s (releaseTask r i t s) := by
  unfold releaseTask
  extract_lets due s1 late z rd sec recs base ps tag s2 s3
  have h2 : mayDrain s s2 := mayDrain_trans (advanceTo_mayDrain ..) (modTask_mayDrain ..)
  have h3 : mayDrain s s3 := by
    refine mayDrain_trans (mayDrain_ite ?_ h2) (foldl_mayDrain (fun u y => addPacket_mayDrain _ _ u y) _ _)
    exact mayDrain_trans h2 (.inl rfl)
  exact mayDrain_trans h3 (markSlip_mayDrain ..)

theorem receiveAbort_mayDrain (part tag status : Nat) (s : State) : mayDrain s (receiveAbort part tag status s) :=
  mayDrain_trans (mayDrain.from (endImage_mayDrain ..)) (beginCrossing_mayDrain _)

/-! ### Domains and collectives -/

theorem linkDown_mayDrain (port : Nat) (s : State) : mayDrain s (linkDown port s) :=
  mayDrain.from (foldl_mayDrain (fun _ _ => endColl_mayDrain ..) _ _)

theorem leave_mayDrain (s : State) : mayDrain s (leave s) :=
  mayDrain.from (foldl_mayDrain (fun _ _ => endColl_mayDrain ..) _ _)

theorem expireHeld_mayDrain (c : CmdRef) (s : State) : mayDrain s (expireHeld c s) := by
  unfold expireHeld
  split
  · exact mayDrain_refl s
  · exact complete_after rfl ..

theorem failForm_mayDrain (code : Nat) (s : State) : mayDrain s (failForm code s) := .inl rfl

theorem unloadAll_mayDrain (s : State) : mayDrain s (unloadAll s) := mayDrain_trans (endImage_mayDrain ..) (.inl rfl)

theorem startForm_mayDrain (links : List (Nat × Nat)) (s : State) : mayDrain s (startForm links s) := by
  unfold startForm
  extract_lets v ls s1 h s2
  have h2 : mayDrain s s2 := mayDrain_trans (unloadAll_mayDrain s) (.inl rfl)
  exact mayDrain_ite (mayDrain_ite (mayDrain_trans h2 (.inl rfl)) (mayDrain_trans h2 (.inl rfl)))
    (mayDrain_ite (mayDrain_trans h2 (.inl rfl)) (mayDrain_trans h2 (.inl rfl)))

theorem decide'_mayDrain (hs : List Hello) (s : State) : mayDrain s (decide' hs s) := by
  unfold decide'
  dsimp only
  split <;> exact .inl rfl

theorem takeHello_mayDrain (h : Hello) (s : State) : mayDrain s (takeHello h s) := by
  unfold takeHello
  dsimp only
  exact mayDrain_ite (mayDrain_refl s) (mayDrain_ite (.inl rfl) (mayDrain_ite (.inl rfl) (decide'_mayDrain ..)))

/-! ### Memory and link -/

theorem spareRow_mayDrain (row : Nat) (s : State) : mayDrain s (spareRow row s) := by
  unfold spareRow
  exact mayDrain_ite (mayDrain_refl s) (.inl rfl)

theorem scrubFix_mayDrain (line pass : Nat) (s : State) : mayDrain s (scrubFix line pass s) := by
  unfold scrubFix
  dsimp only
  exact mayDrain_ite (mayDrain_refl s) (mayDrain_ite (mayDrain.from (spareRow_mayDrain ..)) (.inl rfl))

theorem noteUncorr_mayDrain (l : Nat) (s : State) : mayDrain s (noteUncorr l s) := (noteUncorr_lineWork ..).mayDrain

theorem spoil_mayDrain (line : Nat) (r : ErrPat) (s : State) : mayDrain s (spoil line r s) :=
  foldl_mayDrain (fun _ _ => mayDrain_if (mayDrain_of_sup (putRaw_sup ..))) _ s

theorem noteCorr_mayDrain (n : Nat) (s : State) : mayDrain s (noteCorr n s) := .inl rfl

theorem scrub_mayDrain (line pass : Nat) (p : ErrPat) (b : Bool) (s : State) : mayDrain s (scrub line pass p b s) := by
  unfold scrub
  refine mayDrain_ite (noteUncorr_mayDrain ..) ?_
  split
  · exact mayDrain_refl s
  · exact mayDrain.from (scrubFix_mayDrain ..)
  · refine mayDrain_trans (mayDrain_trans (mayDrain_ite (mayDrain_refl s) (spoil_mayDrain ..)) (noteCorr_mayDrain ..))
      (scrubFix_mayDrain ..)
  · exact noteUncorr_mayDrain ..

theorem scrubUnit_mayDrain (ks : Bool) (unit : Nat) (p : ErrPat) (b : Bool) (s : State) : mayDrain s (scrubUnit ks unit p b s) :=
  mayDrain_ite (.inl rfl) (mayDrain.from (scrub_mayDrain ..))

theorem scrubFound_mayDrain (s : State) (line : Nat) : mayDrain s (scrubFound s line) :=
  mayDrain.from (noteUncorr_mayDrain ..)

theorem scrubMet_mayDrain (s : State) (x : Nat × ErrPat) : mayDrain s (scrubMet s x) := by
  unfold scrubMet
  split
  · exact mayDrain_refl s
  · exact noteCorr_mayDrain ..
  · exact mayDrain_trans (spoil_mayDrain ..) (noteCorr_mayDrain ..)
  · exact scrubFound_mayDrain ..

theorem endScrub_mayDrain (ks : Bool) (unit : Nat) (found : List (Nat × ErrPat)) (s : State) :
    mayDrain s (endScrub ks unit found s) :=
  mayDrain_trans (mayDrain.from (foldl_mayDrain scrubFound_mayDrain _ _)) (foldl_mayDrain scrubMet_mayDrain _ _)

theorem endLate_mayDrain (line : Nat) (s : State) : mayDrain s (endLate line s) := by
  unfold endLate
  split
  · exact mayDrain_refl s
  · exact .inl rfl

theorem lateRequest_mayDrain (line : Nat) (write : Bool) (s : State) : mayDrain s
    (let s1 := noteTimeout line write s
     if !write && s1.mem.passHeld.any (fun r => r.lines.contains line) then endLate line s1
     else match collHeld s1 line write with
       | some c => endColl c { status := stTimeout, reply := some (((collOf s1 c).map collReply).getD 0) } s1
       | none => s1) := by
  have h1 := (noteTimeout_lineWork line write s).mayDrain
  refine mayDrain_ite (mayDrain_trans h1 (endLate_mayDrain ..)) ?_
  split
  · exact mayDrain_trans h1 (endColl_mayDrain ..)
  · exact h1

theorem answerRow_mayDrain (l : Nat) (r : RowReq) (s : State) : mayDrain s (answerRow l r s) := .inl rfl

theorem failRows_mayDrain (stack : Nat) (s : State) : mayDrain s (failRows stack s) :=
  mayDrain.from (foldl_mayDrain (fun _ _ => answerRow_mayDrain ..) _ _)

theorem endRetrain_mayDrain (stack : Nat) (ok : Bool) (s : State) : mayDrain s (endRetrain stack ok s) := by
  unfold endRetrain
  dsimp only
  refine mayDrain_trans (mayDrain_ite ?_ ?_) (retryColls_mayDrain _)
  · exact mayDrain_trans (.inl rfl)
      (foldl_mayDrain (fun t l => (lineWork_trans ⟨_, _, _, _, _, _, _, rfl⟩ (poisonLine_lineWork l (noteLast l 3 t))).mayDrain) _ _)
  · exact mayDrain_trans (mayDrain.from (devIrq_mayDrain ..)) (failRows_mayDrain ..)

theorem takeBad_mayDrain (c : CmdRef) (row l : Nat) (s : State) : mayDrain s (takeBad c row l s) :=
  mayDrain.from (noteUncorr_mayDrain ..)

theorem rowArrived_mayDrain (c : CmdRef) (row : Nat) (l : List Nat) (s : State) :
    mayDrain s (l.foldl (fun t x => takeBad c row x t) (rowArrived c row s)) :=
  mayDrain.from (foldl_mayDrain (fun _ _ => takeBad_mayDrain ..) _ _)

theorem trainLink_mayDrain (gen : BitVec 2) (good : BitVec 32) (s : State) : mayDrain s (trainLink gen good s) := by
  unfold trainLink
  dsimp only
  exact mayDrain_ite (mayDrain_refl s) (.inl rfl)

theorem linkReturns_mayDrain (s : State) : mayDrain s (linkReturns s) :=
  mayDrain_trans (mayDrain.from (foldl_mayDrain (fun _ _ => sendIrq_mayDrain ..) _ _)) (devIrq_mayDrain ..)

theorem mirrorEnd_mayDrain (k : Copy) (s : State) : mayDrain s (mirrorEnd k s) := by
  have h1 : mayDrain s (noteReads none {} [(k.src, k.len)] { s with img := { s.img with copy := none } }) :=
    mayDrain.from (noteReads_lineWork ..).mayDrain
  unfold mirrorEnd
  exact mayDrain_ite (mayDrain_trans h1 (putDev_lineWork ..).mayDrain) (mayDrain_trans h1 (.inl rfl))

/-! ### Lock groups -/

theorem regroup_mayDrain (o : Owner) (ctx : Nat) (s : State) : mayDrain s (regroup o ctx s) := by
  unfold regroup
  exact mayDrain_if (.inl rfl)

theorem startPicture_mayDrain (g : Group) (s : State) : mayDrain s (startPicture g s) := by
  unfold startPicture
  dsimp only
  split
  · exact mayDrain_refl s
  split
  · exact mayDrain_trans (complete_mayDrain ..) (failGroup_mayDrain ..)
  split
  · refine mayDrain_trans (mayDrain_trans (advanceTo_mayDrain (beatUp s.time.now.toNat) s)
      (foldl_mayDrain (fun t x => ?_) _ _)) (.inl rfl)
    exact mayDrain_trans (.inl (beginCmd_dstate ..)) (modCmd_mayDrain ..)
  · exact mayDrain_refl s

/-! ### Registers and time -/

theorem writeReg_mayDrain (a : Nat) (v : Word) (s : State) : mayDrain s (writeReg a v s) := by
  obtain ⟨r, lo, hi, h⟩ := writeReg_spec a v s
  exact .inl (by rw [h])

theorem ignoreWrite_mayDrain (a : Nat) (s : State) : mayDrain s (ignoreWrite a s) := mayDrain_of_sup (logErr_sup ..)

theorem companionAccess_mayDrain (w : Bool) (a n : Nat) (s : State) : mayDrain s (companionAccess w a n s) := by
  have hresp : ∀ v b, mayDrain s (if w then s else setResp v b s) := fun v b => mayDrain_ite (mayDrain_refl s) (.inl rfl)
  unfold companionAccess
  exact mayDrain_ite (mayDrain_ite (hresp ..) (mayDrain_trans (hresp ..) (.inl rfl)))
    (mayDrain_if (mayDrain_trans (hresp ..) (.inl rfl)))

theorem openWrite_mayDrain (v : Word) (s : State) : mayDrain s (openWrite v s) := by
  unfold openWrite
  exact mayDrain_ite (ignoreWrite_mayDrain ..) (mayDrain_ite (mayDrain_refl s) (mayDrain_ite (ignoreWrite_mayDrain ..)
    (mayDrain_of_sup (setQ_sup ..))))

theorem setRegs_mayDrain (r : Regs) (s : State) : mayDrain s (setRegs s r) := .inl rfl

theorem ringWrite_mayDrain (off : Nat) (v : Word) (s : State) : mayDrain s (ringWrite off v s) := by
  unfold ringWrite
  split
  · exact mayDrain_ite (openWrite_mayDrain ..) (mayDrain_ite (setRegs_mayDrain ..) (ignoreWrite_mayDrain ..))
  split
  · exact ignoreWrite_mayDrain ..
  dsimp only
  split
  · exact setRegs_mayDrain ..
  · exact setRegs_mayDrain ..
  · exact setRegs_mayDrain ..
  · exact setRegs_mayDrain ..
  · exact mayDrain_refl s

theorem alignPps_mayDrain (s : State) : mayDrain s (alignPps s) := mayDrain_of_sup (alignPps_frame s).2.2.2.1

end Sys2Proof.Machine
end

section
/-!
PROOFS. The device changes state only as the table of R352 sets out: fences, crossings, runs, faults, power and start-up.
-/
namespace Sys2Proof.Machine
open Host

/-! ### Fences (R437) and device faults -/

/-- What a fence may do to the device state: from RUNNING and DRAINING it leads to FENCED. -/
def fenceMoves (a b : DState) : Prop := b = a ∨ ((a = .running ∨ a = .draining) ∧ (b = .draining ∨ b = .fenced))

theorem fenceMoves_trans {a b c : DState} (h : fenceMoves a b) (g : fenceMoves b c) : fenceMoves a c := by
  rcases h with rfl | ⟨ha, hb⟩
  · exact g
  · rcases g with rfl | ⟨-, hc⟩
    · exact .inr ⟨ha, hb⟩
    · exact .inr ⟨ha, hc⟩

theorem mayDrain.fenceMoves {s t : State} (h : mayDrain s t) : fenceMoves s.sup.dstate t.sup.dstate :=
  h.elim .inl fun ⟨hs, ht⟩ => .inr ⟨.inl hs, .inl ht⟩

theorem faultAbort_mayDrain (s : State) : mayDrain s (faultAbort s) := by
  unfold faultAbort
  exact mayDrain_if (.inl rfl)

theorem fenceImage_mayDrain (s : State) : mayDrain s (fenceImage s) := by
  have habort := faultAbort_mayDrain s
  unfold fenceImage
  dsimp only
  split
  · refine mayDrain_ite habort (mayDrain_ite (mayDrain_trans habort (.inl rfl)) (mayDrain_trans habort ?_))
    exact complete_after rfl ..
  · exact habort

theorem fenceDevice_moves (s : State) : fenceMoves s.sup.dstate (fenceDevice s).sup.dstate := by
  unfold fenceDevice
  split
  · rename_i h
    exact .inr ⟨.inl h, .inr (beginDrain_dstate ..)⟩
  · rename_i h
    exact .inr ⟨.inr h, .inr (setDState_dstate ..)⟩
  · exact .inl rfl

theorem setFenced_dstate (d : Side) (s : State) : (setFenced d s).sup.dstate = s.sup.dstate := by
  cases d <;> rfl

theorem fence_moves (d : Side) (cause : Nat) (s : State) : fenceMoves s.sup.dstate (fence d cause s).sup.dstate := by
  unfold fence
  split
  · exact .inl rfl
  · extract_lets first sup s1 s2
    have h1 : s1.sup.dstate = s.sup.dstate := by
      refine (setFenced_dstate ..).trans ?_
      split <;> rfl
    have h2 : mayDrain s s2 := by
      refine mayDrain_trans (.inl h1) (mayDrain_trans (mayDrain_ite (devIrq_mayDrain ..) (mayDrain_refl s1)) (.inl rfl))
    exact fenceMoves_trans (mayDrain_trans h2 (mayDrain_ite (fenceImage_mayDrain s2) (mayDrain_refl s2))).fenceMoves
      (fenceDevice_moves _)

theorem setPaths_dstate (d : Side) (a b : Bool) (s : State) : (setPaths d a b s).sup.dstate = s.sup.dstate := by
  cases d <;> rfl

theorem receiveBeat_moves (d : Side) (a b : Option Beat) (s : State) :
    fenceMoves s.sup.dstate (receiveBeat d a b s).sup.dstate := by
  unfold receiveBeat
  extract_lets sender s1 sup1 s2 sup2 s3
  have h1 : s1.sup.dstate = s.sup.dstate := setPaths_dstate ..
  have h2 : s2.sup.dstate = s.sup.dstate := by
    refine Eq.trans ?_ h1
    show (if _ then s1 else _ : State).sup.dstate = _
    split <;> rfl
  have h3 : s3.sup.dstate = s.sup.dstate := by
    refine Eq.trans ?_ h2
    show (if _ then _ else s2 : State).sup.dstate = _
    split <;> rfl
  split
  · exact .inl h1
  split
  · exact h3 ▸ fence_moves ..
  · exact .inl h3

theorem crossCheck_moves (agree : Bool) (s : State) : fenceMoves s.sup.dstate (crossCheck agree s).sup.dstate := by
  have h0 := (advanceTo_mayDrain (beatUp s.time.now.toNat) s).fenceMoves
  unfold crossCheck
  dsimp only
  split
  · exact h0
  · refine fenceMoves_trans h0 (fenceMoves_trans (fenceMoves_trans (.inl ?_) (fence_moves ..)) (fence_moves ..))
    rfl

theorem stopWork_dstate (c : CmdRef) (k : Cmd) (s : State) : (stopWork c k s).sup.dstate = s.sup.dstate := by
  unfold stopWork
  split <;> rfl

theorem faultCmd_mayDrain (s : State) (x : CmdRef × Nat) : mayDrain s (faultCmd s x) := by
  unfold faultCmd
  split
  · exact mayDrain_refl s
  refine mayDrain_ite (mayDrain_refl s) (mayDrain_ite (complete_mayDrain ..) (mayDrain_ite (complete_after (stopWork_dstate ..) ..) ?_))
  split
  · exact complete_mayDrain ..
  · exact mayDrain_refl s

theorem completeAll_mayDrain (s : State) : mayDrain s (completeAll s) := by
  unfold completeAll
  extract_lets cs s1 dom s2 s3
  have h2 : mayDrain s s2 := mayDrain_trans (foldl_mayDrain faultCmd_mayDrain cs s) (.inl rfl)
  exact mayDrain_trans (mayDrain_trans h2 (faultAbort_mayDrain s2)) (.inl rfl)

theorem enterFaulted_dstate (path : Bool) (s : State) : (enterFaulted path s).sup.dstate = .faulted := by
  unfold enterFaulted
  dsimp only
  split
  · have h := setDState_dstate .faulted { s with sup := { s.sup with ctlPath := path } }
    rcases completeAll_mayDrain (setDState .faulted { s with sup := { s.sup with ctlPath := path } }) with g | ⟨g, -⟩
    · exact g.trans h
    · rw [h] at g; cases g
  · rfl

/-! ### Crossings (R31) -/

theorem foldl_leadMoves {α : Type} {f : State → α → State} (hf : ∀ s x, leadMoves s.sup.dstate (f s x).sup.dstate) (l : List α)
    (s : State) : leadMoves s.sup.dstate (l.foldl f s).sup.dstate := by
  induction l generalizing s with
  | nil => exact .inl rfl
  | cons x r ih => exact leadMoves_trans (hf s x) (ih _)

section
variable {work : Ctx → State → State} (hwork : ∀ x t, leadMoves t.sup.dstate (work x t).sup.dstate)
include hwork

theorem performWith_moves (f : Family) (p : Pend) (s : State) : leadMoves s.sup.dstate (performWith f work p s).sup.dstate := by
  unfold performWith
  split
  · exact .inl rfl
  split
  · exact .inl rfl
  · dsimp only
    rename_i k _ _
    have hbegin := (beginCmd_dstate f (mkCtx (miscorrect p.e s) p.c p.e k) none (miscorrect p.e s)).trans (miscorrect_lineWork p.e s).dstate
    exact leadMoves_trans (.inl hbegin) (hwork _ _)

theorem performAll_moves (op : Nat) (f : Family) (s : State) : leadMoves s.sup.dstate (performAll op f work s).sup.dstate :=
  foldl_leadMoves (fun t p => performWith_moves hwork f p t) _ s

end

theorem autoSave_mayDrain (e : Circ) (s : State) : mayDrain s (autoSave e s) := by
  unfold autoSave
  split
  · exact mayDrain_refl s
  dsimp only
  split
  · exact mayDrain_refl s
  split
  · exact .inl rfl
  split
  all_goals
    rename_i h
    have h1 := dstate_of_pair h (saveTo_lineWork ..).dstate
    exact .inl h1

theorem retireCores_mayDrain (s : State) : mayDrain s (retireCores s) := by
  obtain ⟨bad, h⟩ := retireCores_spec s
  exact .inl (by rw [h])

theorem electPending_moves (s : State) : leadMoves s.sup.dstate (electPending s).sup.dstate := performAll_moves electWork_moves ..

theorem performActions_moves (e : Circ) (s : State) : leadMoves s.sup.dstate (performActions e s).sup.dstate := by
  unfold performActions
  dsimp only
  have hsave := performAll_moves (fun x t => (saveWork_mayDrain x t).leadMoves) 0x0A01 saveFamily s
  refine leadMoves_trans hsave (leadMoves_trans (autoSave_mayDrain e _).leadMoves ?_)
  refine leadMoves_trans (retireCores_mayDrain _).leadMoves (leadMoves_trans (electPending_moves _) ?_)
  exact leadMoves_trans (performAll_moves (fun x t => (activateNow_mayDrain x t).leadMoves) ..)
    (performAll_moves (fun x t => (restoreWork_mayDrain x t).leadMoves) ..)

theorem exec_crossingPendingActions_moves {e : Circ} {s t : State} (h : exec (.crossingPendingActions e) s = .next t) :
    leadMoves s.sup.dstate t.sup.dstate := by
  have hact := performActions_moves e
  have hend : ∀ u, leadMoves u.sup.dstate (setActed (startScrubs u)).sup.dstate := fun u => .inl (startScrubs_lineWork u).dstate
  have hadv : ∀ n, leadMoves s.sup.dstate (advanceTo n s).sup.dstate := fun n => (advanceTo_mayDrain n s).leadMoves
  have helect : ∀ u, leadMoves u.sup.dstate (electPending (retireCores u)).sup.dstate := fun u =>
    leadMoves_trans (retireCores_mayDrain u).leadMoves (electPending_moves _)
  obtain rfl := Outcome.next.inj h
  split
  · split
    · exact .inl rfl
    split
    · exact hact s
    · exact leadMoves_trans (leadMoves_trans (hadv _) (hact _)) (hend _)
  · split
    · exact .inl rfl
    split
    · exact helect s
    · exact leadMoves_trans (leadMoves_trans (hadv _) (helect _)) (hend _)
  · split
    · exact .inl rfl
    · exact hact s
  · split
    · exact .inl rfl
    · exact hact s
  · exact .inl rfl

/-! ### Runs (R352, R407) -/

theorem startRun_dstate (kind : RunKind) (ms : Nat) (s : State) : (startRun kind ms s).sup.dstate = .running := setDState_dstate ..

theorem restNow_dstate (x : StopReq) (s : State) : (restNow x s).sup.dstate = .ready ∨ (restNow x s).sup.dstate = .parked := by
  cases x
  · exact .inl (setDState_dstate ..)
  · exact .inr (setDState_dstate ..)

/-- A run, or rest at the end of a crossing, is all that may follow where the next run would start. -/
theorem nextRun_dstate (s : State) : (nextRun s).sup.dstate = s.sup.dstate ∨
    ((s.sup.dstate = .draining ∨ s.sup.dstate = .ready) ∧ (nextRun s).sup.dstate = .running) ∨
    (s.sup.dstate = .draining ∧ ((nextRun s).sup.dstate = .ready ∨ (nextRun s).sup.dstate = .parked)) := by
  unfold nextRun
  extract_lets s1
  split
  · rename_i hd
    split
    · exact .inl rfl
    split
    · exact .inr (.inr ⟨hd, restNow_dstate ..⟩)
    · split
      · exact .inr (.inr ⟨hd, restNow_dstate ..⟩)
      split
      · exact .inr (.inl ⟨.inl hd, startRun_dstate ..⟩)
      · exact .inl rfl
    · split
      · exact .inr (.inl ⟨.inl hd, startRun_dstate ..⟩)
      · exact .inl rfl
    · exact .inr (.inl ⟨.inl hd, startRun_dstate ..⟩)
  · split
    · rename_i hr
      simp only [Bool.and_eq_true, decide_eq_true_eq] at hr
      obtain ⟨⟨hr, -⟩, -⟩ := hr
      split
      · exact .inr (.inl ⟨.inr hr, startRun_dstate ..⟩)
      split
      · split
        · exact .inr (.inl ⟨.inr hr, startRun_dstate ..⟩)
        · exact .inl rfl
      · exact .inl rfl
    · exact .inl rfl

/-- What the start of an image run may do to the device state; a run without tasks ends at once (log 47). -/
def imageMoves (a b : DState) : Prop := b = a ∨ (a = .running ∧ b = .draining) ∨ b = .running ∨ b = .draining

theorem startImage_moves (r : ImgRun) (z : Slot) (map : List Nat) (s : State) :
    imageMoves s.sup.dstate (startImage r z map s).sup.dstate := by
  unfold startImage
  extract_lets p s0 now ts q0 q s1 r1 img s2 s3
  have h3 : s3.sup.dstate = .running := startRun_dstate ..
  split
  · rcases beginCrossing_mayDrain s3 with h | ⟨-, h⟩
    · exact .inr (.inr (.inl (h.trans h3)))
    · exact .inr (.inr (.inr h))
  · exact .inr (.inr (.inl h3))

theorem exec_imageRunStart_moves {s t : State} (h : exec .imageRunStart s = .next t) :
    t.sup.dstate = s.sup.dstate ∨
      ((s.sup.dstate = .draining ∨ s.sup.dstate = .ready) ∧ imageMoves s.sup.dstate t.sup.dstate) := by
  obtain rfl := Outcome.next.inj h
  split
  · exact .inl rfl
  dsimp only
  split
  · exact .inl rfl
  rename_i r _ hok
  simp only [Bool.not_eq_true, Bool.not_eq_false', Bool.and_eq_true, Bool.or_eq_true, beq_iff_eq] at hok
  have hst : s.sup.dstate = .draining ∨ s.sup.dstate = .ready := hok.2.imp (·.1) (·.1)
  have hdrain : ∀ u, mayDrain s u → imageMoves s.sup.dstate u.sup.dstate := fun u hu => hu.elim .inl fun hu => .inr (.inl hu)
  refine .inr ⟨hst, ?_⟩
  split
  · exact hdrain _ (refuseRun_mayDrain ..)
  split
  · exact hdrain _ (refuseRun_mayDrain ..)
  · exact withImage_dstate (R := imageMoves) (fun s t h => h.elim .inl fun h => .inr (.inl h))
      (fun r t => startImage_moves r _ _ t) ..

/-! ### Power (R443 to R448) -/

/-- The device goes OFF, or keeps its state. -/
def offMoves (s t : State) : Prop := t.sup.dstate = s.sup.dstate ∨ t.sup.dstate = .off

theorem openSwitch_moves (cause : BitVec 8) (latch : Bool) (s : State) : offMoves s (openSwitch cause latch s) := by
  unfold openSwitch
  split
  · exact .inr rfl
  split <;> exact .inl rfl

theorem exec_railsInRegulation_moves {s t : State} (hp : PowerOk s) (h : exec .railsInRegulation s = .next t) :
    t.sup.dstate = s.sup.dstate ∨ (s.sup.dstate = .off ∧ t.sup.dstate = .instar) := by
  obtain ⟨hon, -, hramp, -⟩ := hp
  obtain rfl := Outcome.next.inj h
  split
  · rename_i hr
    have hoff : s.sup.dstate = .off := by
      by_contra hne
      have := (hon hne).1
      rw [(hramp hr).2] at this
      cases this
    dsimp only
    split
    · exact .inr ⟨hoff, rfl⟩
    · exact .inl rfl
  · exact .inl rfl

theorem exec_modResetNRelease_moves {r : Release} {s t : State} (hp : PowerOk s) (h : exec (.modResetNRelease r) s = .next t) :
    t.sup.dstate = s.sup.dstate ∨ (s.sup.dstate = .off ∧ t.sup.dstate = .instar) := by
  obtain ⟨hon, -, -, -⟩ := hp
  obtain rfl := Outcome.next.inj h
  split
  · exact .inl rfl
  · rename_i hr
    have hoff : s.sup.dstate = .off := by
      by_contra hne
      exact hr (hon hne).2
    dsimp only
    split
    · exact .inr ⟨hoff, rfl⟩
    · exact .inl rfl

/-! ### Start-up (R421 to R424) -/

theorem dstate_of_inStage {n : Nat} {s : State} (h : inStage n s = true) : s.sup.dstate = .instar := by
  simp only [inStage, Bool.and_eq_true, beq_iff_eq] at h
  exact h.1.1.1

/-- A stage of start-up keeps the device state, or fails it. -/
def bootMoves (s t : State) : Prop := t.sup.dstate = s.sup.dstate ∨ t.sup.dstate = .faulted

theorem bootFailed_moves (code : Nat) (s t : State) : bootMoves s (bootFailed code t) := .inr (setDState_dstate ..)

/-- A name for a value that is not to be evaluated. -/
theorem exists_name {α : Type} (a : α) : ∃ x, a = x := ⟨a, rfl⟩

theorem endInstar0_moves (b : BootCheck) (s : State) : bootMoves s (endInstar0 b s) := by
  unfold endInstar0
  -- what is read in flash does not matter here, and must not be evaluated
  obtain ⟨seed, hseed⟩ := exists_name reconstruct
  obtain ⟨ok, hok⟩ := exists_name seedOk
  obtain ⟨keys, hkeys⟩ := exists_name keysAtPowerUp
  obtain ⟨slot, hslot⟩ := exists_name acceptSlot
  obtain ⟨agree, hagree⟩ := exists_name agreeCopy
  obtain ⟨record, hrecord⟩ := exists_name bootRecord
  obtain ⟨header, hheader⟩ := exists_name fwHeader
  rw [hseed, hok, hkeys, hslot, hagree, hrecord, hheader]
  dsimp only
  split
  · exact bootFailed_moves ..
  split
  · exact bootFailed_moves ..
  split
  · exact bootFailed_moves ..
  · exact .inl rfl

theorem applySelfTest_dstate (t : SelfTest) (s : State) : (applySelfTest t s).sup.dstate = s.sup.dstate := by
  have htrain : ∀ u, (trainLink t.linkGen t.linkLanes u).sup = u.sup := fun u => by
    unfold trainLink
    dsimp only
    split <;> rfl
  simp only [applySelfTest, htrain]
  rw [foldl_keeps (fun u : State => u.sup) (fun _ _ => logErr_sup ..)]

theorem writeTestRecord_dstate (ok : Bool) (s : State) : (writeTestRecord ok s).sup.dstate = s.sup.dstate := by
  obtain ⟨bytes, hbytes⟩ := exists_name (testRecordBytes s)
  rw [writeTestRecord, hbytes]
  split
  · rw [logErr_sup]
  · rfl

theorem runRuntime_dstate (copy : Bool) (s : State) : (runRuntime copy s).sup.dstate = s.sup.dstate := by
  obtain ⟨header, hheader⟩ := exists_name fwHeader
  rw [runRuntime, hheader]

theorem endInstar1_moves (b : SelfTest) (s : State) : bootMoves s (endInstar1 b s) := by
  have hrec := (writeTestRecord_dstate b.recordOk (applySelfTest b s)).trans (applySelfTest_dstate b s)
  unfold endInstar1
  obtain ⟨agree, hagree⟩ := exists_name agreeCopy
  rw [hagree]
  dsimp only
  split
  · exact bootFailed_moves ..
  split
  · exact bootFailed_moves ..
  · rename_i c _
    have hrun := (runRuntime_dstate c _).trans hrec
    exact .inl hrun

end Sys2Proof.Machine
end

section
/-!
PROOFS. The device changes state only as the table of R352 sets out: every row, and the tick of an empty queue.
-/
namespace Sys2Proof.Machine
open Host

/-! ### Changes that the table holds -/

theorem tabled_refl (a : DState) : tabled a a = true := by cases a <;> rfl

theorem tabled_off (a : DState) : tabled a .off = true := by cases a <;> rfl

theorem tabled_of_eq {s t : State} (h : t.sup.dstate = s.sup.dstate) : tabled s.sup.dstate t.sup.dstate = true := h ▸ tabled_refl _

theorem mayDrain.tabled {s t : State} (h : mayDrain s t) : tabled s.sup.dstate t.sup.dstate = true := by
  rcases h with h | ⟨hs, ht⟩
  · exact tabled_of_eq h
  · rw [hs, ht]; rfl

theorem offMoves.tabled {s t : State} (h : offMoves s t) : tabled s.sup.dstate t.sup.dstate = true := by
  rcases h with h | h
  · exact tabled_of_eq h
  · rw [h]; exact tabled_off _

theorem stateMoves.tabled {a b : DState} (h : stateMoves a b) : tabled a b = true := by
  rcases h with rfl | ⟨rfl, rfl⟩ | ⟨rfl, rfl⟩ | ⟨rfl, rfl⟩
  · exact tabled_refl _
  all_goals rfl

theorem leadMoves.tabled {a b : DState} (h : leadMoves a b) : tabled a b = true := by
  rcases h with rfl | ⟨rfl, rfl⟩ | ⟨rfl, rfl⟩
  · exact tabled_refl _
  all_goals rfl

theorem fenceMoves.tabled {a b : DState} (h : fenceMoves a b) : tabled a b = true := by
  rcases h with rfl | ⟨rfl | rfl, rfl | rfl⟩
  · exact tabled_refl _
  all_goals rfl

theorem nextRun_tabled (s : State) : tabled s.sup.dstate (nextRun s).sup.dstate = true := by
  rcases nextRun_dstate s with h | ⟨h | h, g⟩ | ⟨h, g | g⟩
  · exact tabled_of_eq h
  all_goals rw [h, g]; rfl

theorem bootMoves.tabled {s t : State} (hs : s.sup.dstate = .instar) (h : bootMoves s t) :
    tabled s.sup.dstate t.sup.dstate = true := by
  rcases h with h | h
  · exact tabled_of_eq h
  · rw [hs, h]; rfl

theorem endInstar2_tabled (n : Nat) {s : State} (hs : s.sup.dstate = .instar) :
    tabled s.sup.dstate (endInstar2 n s).sup.dstate = true := by
  rw [show (endInstar2 n s).sup.dstate = .ready from setDState_dstate .., hs]
  rfl

theorem tabled_of_powered {s t : State} (h : t.sup.dstate = s.sup.dstate ∨ (s.sup.dstate = .off ∧ t.sup.dstate = .instar)) :
    tabled s.sup.dstate t.sup.dstate = true := by
  rcases h with h | ⟨hs, ht⟩
  · exact tabled_of_eq h
  · rw [hs, ht]; rfl

theorem enterFaulted_tabled (path : Bool) (s : State) : tabled s.sup.dstate
    (if s.sup.dstate == .off || s.sup.dstate == .faulted then s else enterFaulted path (logErr .deviceFault s)).sup.dstate = true := by
  split
  · exact tabled_refl _
  · rename_i h
    rw [enterFaulted_dstate]
    cases hd : s.sup.dstate <;> simp_all [tabled]

/-- The one change beside the table: an image run without a task starts and ends in one step (log 47). -/
theorem imageMoves_tabled {a b : DState} (h : b = a ∨ ((a = .draining ∨ a = .ready) ∧ imageMoves a b)) :
    tabled a b = true ∨ (a = .ready ∧ b = .draining) := by
  rcases h with rfl | ⟨rfl | rfl, rfl | ⟨⟨⟩, -⟩ | rfl | rfl⟩
  · exact .inl (tabled_refl _)
  · exact .inl rfl
  · exact .inl rfl
  · exact .inl rfl
  · exact .inl rfl
  · exact .inl rfl
  · exact .inr ⟨rfl, rfl⟩

/-! ### Every row -/

/-- A row whose answer drains at the most. -/
theorem tabled_of_mayDrain {s u t : State} (ht : (Outcome.next u : Outcome State Fault Refusal) = .next t) (h : mayDrain s u) :
    tabled s.sup.dstate t.sup.dstate = true :=
  Outcome.next.inj ht ▸ h.tabled

/-- A row whose answer keeps the device state. -/
theorem tabled_of_dstate {s u t : State} (ht : (Outcome.next u : Outcome State Fault Refusal) = .next t)
    (h : u.sup.dstate = s.sup.dstate := by rfl) : tabled s.sup.dstate t.sup.dstate = true :=
  tabled_of_mayDrain ht (.inl h)

theorem tabled_of_offMoves {s u t : State} (ht : (Outcome.next u : Outcome State Fault Refusal) = .next t) (h : offMoves s u) :
    tabled s.sup.dstate t.sup.dstate = true :=
  Outcome.next.inj ht ▸ h.tabled

theorem tabled_of_fenceMoves {s u t : State} (ht : (Outcome.next u : Outcome State Fault Refusal) = .next t)
    (h : fenceMoves s.sup.dstate u.sup.dstate) : tabled s.sup.dstate t.sup.dstate = true :=
  Outcome.next.inj ht ▸ h.tabled

theorem offMoves_ite {p : Prop} [Decidable p] {s a : State} (h : offMoves s a) : offMoves s (if p then a else s) := by
  split
  · exact h
  · exact .inl rfl

theorem fenceMoves_ite {p : Prop} [Decidable p] {s a : State} (h : fenceMoves s.sup.dstate a.sup.dstate) :
    fenceMoves s.sup.dstate (if p then a else s).sup.dstate := by
  split
  · exact h
  · exact .inl rfl

theorem stage_tabled {n : Nat} {s a t : State}
    (ht : (Outcome.next (if inStage n s then a else s) : Outcome State Fault Refusal) = .next t)
    (h : inStage n s = true → tabled s.sup.dstate a.sup.dstate = true) : tabled s.sup.dstate t.sup.dstate = true := by
  obtain rfl := Outcome.next.inj ht
  split
  · exact h ‹_›
  · exact tabled_refl _

/-! ### Rows with an answer of several cases -/

theorem exec_tmb_mayDrain (v : Word) (s : State) : mayDrain s (if reachable s then writeTmbCtrl v s else s) := by
  unfold writeTmbCtrl
  exact mayDrain_if (mayDrain_ite (.inl rfl) (.inl rfl))

theorem exec_timeLoadApply_mayDrain {s t : State} (h : exec .timeLoadApply s = .next t) : mayDrain s t := by
  obtain rfl := Outcome.next.inj h
  refine mayDrain_if (mayDrain_trans (advanceTo_mayDrain (beatUp (nowNat s)) s) (.inl ?_))
  exact setCount_dstate ..

theorem clearCounter_mayDrain (a : Nat) (v : Word) (s : State) : mayDrain s (clearCounter a v s) := by
  unfold clearCounter
  dsimp only
  split <;> exact .inl rfl

theorem idle_mayDrain (s : State) : mayDrain s (idle s) := by
  unfold idle
  exact mayDrain_ite (mayDrain_refl s) (mayDrain_ite (.inl rfl) (mayDrain_ite (.inl rfl) (.inl rfl)))

theorem exec_completionRecordWrite_mayDrain {q : BitVec 20} {c : CmdRef} {s t : State}
    (h : exec (.completionRecordWrite q c) s = .next t) : mayDrain s t := by
  obtain rfl := Outcome.next.inj h
  split
  · exact mayDrain_refl s
  · refine mayDrain_if ?_
    have hset := fun (x : Queue) (a : Nat) (l : List Byte) => setQ_mayDrain (.hw q) x (putComp a l s)
    exact mayDrain_ite (mayDrain_trans (hset ..).from (recordIrq_mayDrain ..)) (hset ..).from

theorem exec_irqModerationExpiry_mayDrain {q : BitVec 20} {s t : State} (h : exec (.irqModerationExpiry q) s = .next t) :
    mayDrain s t := by
  obtain rfl := Outcome.next.inj h
  split
  · exact mayDrain_trans (mayDrain_trans (advanceTo_mayDrain ..) (setQ_mayDrain ..)) (sendIrq_mayDrain ..)
  · exact mayDrain_refl s

theorem exec_collectiveTimeout_mayDrain {c : CmdRef} {s t : State} (h : exec (.collectiveTimeout c) s = .next t) :
    mayDrain s t := by
  obtain rfl := Outcome.next.inj h
  split
  · exact mayDrain_trans (advanceTo_mayDrain ..) (endColl_mayDrain ..)
  split
  · exact mayDrain_if (mayDrain_trans (advanceTo_mayDrain ..) (expireHeld_mayDrain ..))
  · exact mayDrain_refl s

theorem exec_collectiveRelease_mayDrain {c : CmdRef} {s t : State} (h : exec (.collectiveRelease c) s = .next t) :
    mayDrain s t := by
  obtain rfl := Outcome.next.inj h
  split
  · exact mayDrain_if (mayDrain_trans (advanceTo_mayDrain ..) (modCmd_mayDrain ..))
  · exact mayDrain_refl s

theorem exec_bePlacementTimeout_mayDrain {c : CmdRef} {s t : State} (h : exec (.bePlacementTimeout c) s = .next t) :
    mayDrain s t := by
  obtain rfl := Outcome.next.inj h
  split
  · exact mayDrain_refl s
  dsimp only
  split
  · exact mayDrain_if (modTask_mayDrain ..)
  · exact mayDrain_refl s

theorem exec_beResume_mayDrain {c : CmdRef} {s t : State} (h : exec (.beResume c) s = .next t) : mayDrain s t := by
  obtain rfl := Outcome.next.inj h
  split
  · exact mayDrain_refl s
  dsimp only
  split
  · exact mayDrain_ite (mayDrain_refl s) (modCmd_mayDrain ..)
  · exact mayDrain_refl s

theorem exec_quantumGrant_mayDrain {c : CmdRef} {k : EClass} {n : Nat} {hops : Route} {b : Bool} {d : Fin 25} {s t : State}
    (h : exec (.quantumGrant c k n hops b d) s = .next t) : mayDrain s t := by
  obtain rfl := Outcome.next.inj h
  split
  · exact mayDrain_refl s
  refine mayDrain_if ?_
  split
  · exact mayDrain_refl s
  · exact mayDrain_trans (modCmd_mayDrain ..) (offer_mayDrain ..)

theorem exec_taskRelease_tabled {n : Nat} {s t : State} (h : exec (.taskRelease n) s = .next t) :
    tabled s.sup.dstate t.sup.dstate = true := by
  obtain rfl := Outcome.next.inj h
  split
  · exact tabled_refl _
  split
  · exact tabled_refl _
  split
  · exact withImage_dstate (R := fun a b => tabled a b = true) (fun s t h => h.tabled)
      (fun r t => (releaseTask_mayDrain r _ _ t).tabled) ..
  · exact tabled_refl _

theorem exec_runMsExpiry_mayDrain {s t : State} (h : exec .runMsExpiry s = .next t) : mayDrain s t := by
  obtain rfl := Outcome.next.inj h
  split
  · exact mayDrain_if (runMsExpiry_mayDrain ..)
  · exact mayDrain_refl s

theorem exec_mirrorCopyEnd_mayDrain {s t : State} (h : exec .chrysalisMirrorCopyEnd s = .next t) : mayDrain s t := by
  obtain rfl := Outcome.next.inj h
  split
  · exact mayDrain_refl s
  · exact mayDrain_ite (mayDrain_refl s) (mirrorEnd_mayDrain ..)

theorem exec_passThroughGrant_mayDrain {d : Fin 4} {s t : State} (h : exec (.passThroughGrant d) s = .next t) : mayDrain s t := by
  obtain rfl := Outcome.next.inj h
  split
  · exact mayDrain_refl s
  · exact mayDrain_if (.inl rfl)

theorem exec_lockGroupPictureStart_mayDrain {n : Nat} {s t : State} (h : exec (.lockGroupPictureStart n) s = .next t) :
    mayDrain s t := by
  obtain rfl := Outcome.next.inj h
  split
  · exact mayDrain_trans (regroup_mayDrain ..) (startPicture_mayDrain ..)
  · exact regroup_mayDrain ..

theorem exec_heartbeatSend_mayDrain {d : Side} {s t : State} (h : exec (.heartbeatSend d) s = .next t) : mayDrain s t := by
  obtain rfl := Outcome.next.inj h
  refine mayDrain_if ?_
  cases d <;> exact .inl rfl

theorem exec_bottomTreeReady_mayDrain {d : Side} {s t : State} (h : exec (.bottomTreeReady d) s = .next t) : mayDrain s t := by
  obtain rfl := Outcome.next.inj h
  refine mayDrain_if ?_
  cases d <;> exact .inl rfl

theorem readSensors_mayDrain (l : List (List (BitVec 12))) (s : State) : mayDrain s (readSensors l s) :=
  (advanceTo_mayDrain ..).from

theorem exec_modResetNAssert_moves {s t : State} (h : exec .modResetNAssert s = .next t) : offMoves s t := by
  obtain rfl := Outcome.next.inj h
  exact offMoves_ite (.inr rfl)

theorem exec_smbusAlertResponse_mayDrain {s t : State} (h : exec .smbusAlertResponse s = .next t) : mayDrain s t := by
  obtain rfl := Outcome.next.inj h
  exact mayDrain_ite (.inl rfl) (.inl rfl)

theorem smbAnswer_mayDrain {a : BitVec 7} {code : Byte} {l : List Byte} {s t : State} (h : smbAnswer a code l s = .next t) :
    mayDrain s t := by
  obtain rfl := Outcome.next.inj h
  exact .inl rfl

theorem loadTap_mayDrain {d : Fin 5} {x : Tap} {s t : State} (h : loadTap d x s = .next t) : mayDrain s t := by
  obtain rfl := Outcome.next.inj h
  exact mayDrain_ite (mayDrain_refl s) (.inl rfl)

theorem exec_queueRow_tabled {i : Instr} {r : Nat × Family × CmdRef × Circ} (h : queueRow i = some r) {s t : State}
    (ht : exec i s = .next t) : tabled s.sup.dstate t.sup.dstate = true := by
  obtain ⟨op, f, c, e⟩ := r
  rcases exec_queueRow_moves h ht with h | h | h
  · exact h.tabled
  · exact h.tabled
  · exact h.tabled

/-! ### The step -/

/-- Every row: the queue rows by their works, the events by what each of them does to the device state. -/
theorem exec_tabled {i : Instr} {s t : State} (hp : PowerOk s) (ht : exec i s = .next t) :
    tabled s.sup.dstate t.sup.dstate = true ∨ (i = .imageRunStart ∧ s.sup.dstate = .ready ∧ t.sup.dstate = .draining) := by
  by_cases hi : i = .imageRunStart
  · subst hi
    exact (imageMoves_tabled (exec_imageRunStart_moves ht)).imp_right fun h => ⟨rfl, h⟩
  refine .inl ?_
  cases hq : queueRow i with
  | some r => exact exec_queueRow_tabled hq ht
  | none =>
  cases i with
  | medEnc c e => exact (exec_medEnc_mayDrain ht).tabled
  -- queues and their interrupt messages
  | commandDoorbell l v => exact tabled_of_mayDrain ht (commandDoorbell_mayDrain ..)
  | completionDoorbell v => exact tabled_of_mayDrain ht (mayDrain_if (doorbell_mayDrain ..))
  | slotFetch q => exact tabled_of_mayDrain ht (mayDrain_if (fetchSlot_mayDrain ..))
  | completionRecordWrite q c => exact (exec_completionRecordWrite_mayDrain ht).tabled
  | irqModerationExpiry q => exact (exec_irqModerationExpiry_mayDrain ht).tabled
  | queueDrainComplete q => exact tabled_of_mayDrain ht (mayDrain_if (setQ_mayDrain ..))
  -- scheduling, runs and images
  | bePlacementTimeout c => exact (exec_bePlacementTimeout_mayDrain ht).tabled
  | beYield c n => exact (exec_beYield_mayDrain ht).tabled
  | beResume c => exact (exec_beResume_mayDrain ht).tabled
  | quantumGrant c k n hops b d => exact (exec_quantumGrant_mayDrain ht).tabled
  | runMsExpiry => exact (exec_runMsExpiry_mayDrain ht).tabled
  | crossingDrainEnd => exact (exec_crossingDrainEnd_mayDrain ht).tabled
  | crossingPendingActions e => exact (exec_crossingPendingActions_moves ht).tabled
  | nextRunStart => exact Outcome.next.inj ht ▸ nextRun_tabled s
  | serviceRunEnd => exact tabled_of_mayDrain ht (mayDrain_if
      (mayDrain_trans (advanceTo_mayDrain (beatUp s.time.now.toNat) s) (mayDrain.from (beginCrossing_mayDrain ..))))
  | taskRelease n => exact exec_taskRelease_tabled ht
  | abortReceive p k x => exact tabled_of_mayDrain ht (mayDrain_if (receiveAbort_mayDrain ..))
  | collectiveRelease c => exact (exec_collectiveRelease_mayDrain ht).tabled
  -- the time base
  | tmbLoad v => exact tabled_of_mayDrain ht (exec_tmb_mayDrain v s)
  | timeLoadApply => exact (exec_timeLoadApply_mayDrain ht).tabled
  | tmbPpsEnable v => exact tabled_of_mayDrain ht (exec_tmb_mayDrain v s)
  | tmbSourceSelect v => exact tabled_of_mayDrain ht (exec_tmb_mayDrain v s)
  | tmbNowLoRead => exact tabled_of_mayDrain ht (mayDrain_ite (.inl rfl) (.inl rfl))
  | refclkLoss => exact tabled_of_mayDrain ht (mayDrain_ite (mayDrain.from (devIrq_mayDrain ..)) (.inl rfl))
  | refclkRestore => exact tabled_of_mayDrain ht (mayDrain_ite (mayDrain.from (devIrq_mayDrain ..)) (.inl rfl))
  | ppsEdge n => exact tabled_of_mayDrain ht (mayDrain_ite (mayDrain_refl s)
      (mayDrain_trans (advanceTo_mayDrain ..) (mayDrain.from (alignPps_mayDrain ..))))
  | ppsLoss => exact tabled_of_dstate ht
  -- registers
  | registerWrite a v => exact tabled_of_mayDrain ht (mayDrain_ite (mayDrain_refl s)
      (mayDrain_ite (.inl rfl) (writeReg_mayDrain ..)))
  | counterClearWrite a v => exact tabled_of_mayDrain ht (mayDrain_if (clearCounter_mayDrain ..))
  | companionReservedAccess w a n v => exact tabled_of_mayDrain ht (mayDrain_ite (companionAccess_mayDrain ..)
      (mayDrain_ite (mayDrain_refl s) (.inl rfl)))
  | errMemLastLoRead => exact tabled_of_mayDrain ht (mayDrain_ite (.inl rfl) (.inl rfl))
  | controlQueueOpen v => exact tabled_of_mayDrain ht (mayDrain_if (openWrite_mayDrain ..))
  | controlRingConfigWrite o v => exact tabled_of_mayDrain ht (mayDrain_if (ringWrite_mayDrain ..))
  | qtbBaseWrite b v => exact tabled_of_mayDrain ht (mayDrain_ite (mayDrain_refl s)
      (mayDrain_ite (setRegs_mayDrain ..) (ignoreWrite_mayDrain ..)))
  -- domains and collectives
  | domainForm l => exact tabled_of_mayDrain ht (mayDrain_if (startForm_mayDrain ..))
  | domainLeave => exact tabled_of_mayDrain ht (mayDrain_if (leave_mayDrain ..))
  | helloReceive h => exact tabled_of_mayDrain ht (mayDrain_if (takeHello_mayDrain ..))
  | formationTimeout => exact tabled_of_mayDrain ht (mayDrain_if (mayDrain_trans
      (mayDrain_if (advanceTo_mayDrain ..)) (failForm_mayDrain ..)))
  | timeMasterAdopt n => exact tabled_of_mayDrain ht (mayDrain_if (advanceTo_mayDrain (beatUp (nowNat s)) s).from)
  | timeMessage => exact tabled_of_mayDrain ht (mayDrain_if (advanceTo_mayDrain ((nowNat s / 65536 + 1) * 65536) s).from)
  | timeMessageTimeout => exact tabled_of_mayDrain ht (mayDrain_if (.inl rfl))
  | viaductLinkDown p => exact tabled_of_mayDrain ht (mayDrain_if (linkDown_mayDrain ..))
  | collectiveDataArrival m => exact tabled_of_mayDrain ht (mayDrain_if (deliver_mayDrain ..))
  | collectiveTimeout c => exact (exec_collectiveTimeout_mayDrain ht).tabled
  | chrysalisMirrorCopyEnd => exact (exec_mirrorCopyEnd_mayDrain ht).tabled
  -- supervisors
  | heartbeatSend d => exact (exec_heartbeatSend_mayDrain ht).tabled
  | heartbeatReceive d a b => exact tabled_of_fenceMoves ht (fenceMoves_ite (receiveBeat_moves ..))
  | heartbeatTimeout d =>
    exact tabled_of_fenceMoves ht (fenceMoves_ite (fenceMoves_trans (.inl (setPaths_dstate ..)) (fence_moves ..)))
  | leaderSilenceTimeout => exact tabled_of_mayDrain ht (mayDrain_if (.inl rfl))
  | supervisorCrossCheck b => exact tabled_of_fenceMoves ht (fenceMoves_ite (crossCheck_moves ..))
  | bottomTreeReady d => exact (exec_bottomTreeReady_mayDrain ht).tabled
  | deviceFault b => exact Outcome.next.inj ht ▸ enterFaulted_tabled b s
  -- power and start-up
  | inputApplied => exact tabled_of_mayDrain ht (mayDrain.from (tryPrecharge_mayDrain ..))
  | modEnRise n => exact tabled_of_mayDrain ht (mayDrain_ite (mayDrain_refl s) (mayDrain.from (tryPrecharge_mayDrain ..)))
  | prechargeEnd => exact tabled_of_mayDrain ht (mayDrain_if (.inl rfl))
  | prechargeTimeout => exact tabled_of_offMoves ht (offMoves_ite (openSwitch_moves ..))
  | railsInRegulation => exact tabled_of_powered (exec_railsInRegulation_moves hp ht)
  | modResetNAssert => exact (exec_modResetNAssert_moves ht).tabled
  | modResetNRelease r => exact tabled_of_powered (exec_modResetNRelease_moves hp ht)
  | instar0Complete b => exact stage_tabled ht fun h => (endInstar0_moves b s).tabled (dstate_of_inStage h)
  | instar1Complete x => exact stage_tabled ht fun h => (endInstar1_moves x s).tabled (dstate_of_inStage h)
  | instar2Complete p => exact stage_tabled ht fun h => endInstar2_tabled p.toNat (dstate_of_inStage h)
  | inputOvervoltage => exact tabled_of_offMoves ht (openSwitch_moves 2 true (setPower _ s))
  | inputUndervoltage => exact tabled_of_offMoves ht (openSwitch_moves 1 true (setPower _ s))
  | lowToleranceTimeout => exact tabled_of_offMoves ht (offMoves_ite (openSwitch_moves 1 true (setPower _ s)))
  | breakerTrip => exact tabled_of_offMoves ht (openSwitch_moves ..)
  | railFault => exact tabled_of_offMoves ht (openSwitch_moves ..)
  | modEnFall => exact tabled_of_offMoves ht (openSwitch_moves 6 false (setPower _ s))
  | inputRemoval => exact tabled_of_offMoves ht (openSwitch_moves 1 true s)
  | thermalTrip => exact tabled_of_offMoves ht (offMoves_ite (openSwitch_moves 4 true s))
  | budgetWindowEnd l p => exact tabled_of_mayDrain ht (mayDrain_if (mayDrain_trans (endWindow_mayDrain ..) (offerAgain_mayDrain ..)))
  | powerSample v n => exact tabled_of_mayDrain ht (powerSample_mayDrain ..)
  | brakeEngage => exact tabled_of_mayDrain ht (mayDrain_if (mayDrain.from (devIrq_mayDrain ..)))
  | brakeDisengage => exact tabled_of_mayDrain ht (mayDrain_if (.inl rfl))
  | thermalSensorRead l => exact tabled_of_mayDrain ht (mayDrain_ite (mayDrain_if (.inl rfl)) (readSensors_mayDrain ..))
  | thermalLimitRelax => exact tabled_of_mayDrain ht (mayDrain_if (advanceTo_mayDrain (s.sup.readyTick + 10000000).toNat s).from)
  -- memory and link
  | scrubRead u r => exact tabled_of_mayDrain ht (mayDrain_if (scrubUnit_mayDrain ..))
  | lowerTierTimeout l w => exact tabled_of_mayDrain ht (mayDrain_if (lateRequest_mayDrain ..))
  | stackRetrainEnd k b => exact tabled_of_mayDrain ht (mayDrain_if (endRetrain_mayDrain ..))
  | recoveryScrubEnd b u l => exact tabled_of_mayDrain ht (mayDrain_if (endScrub_mayDrain ..))
  | gatherRowArrival c n => exact tabled_of_mayDrain ht (mayDrain_if (rowArrived_mayDrain ..))
  | passThroughGrant d => exact (exec_passThroughGrant_mayDrain ht).tabled
  | emciaLinkDown => exact tabled_of_mayDrain ht (mayDrain_if (.inl rfl))
  | emciaLinkUp g l => exact tabled_of_mayDrain ht (mayDrain_if (mayDrain_ite
      (mayDrain_trans (trainLink_mayDrain ..) (linkReturns_mayDrain _)) (trainLink_mayDrain ..)))
  | lockGroupPictureStart n => exact (exec_lockGroupPictureStart_mayDrain ht).tabled
  -- sideband and test access
  | modId a => exact (smbAnswer_mayDrain ht).tabled
  | stepping a => exact (smbAnswer_mayDrain ht).tabled
  | dstate a => exact (smbAnswer_mayDrain ht).tabled
  | status a => exact (smbAnswer_mayDrain ht).tabled
  | vin a => exact (smbAnswer_mayDrain ht).tabled
  | iin a => exact (smbAnswer_mayDrain ht).tabled
  | power a => exact (smbAnswer_mayDrain ht).tabled
  | tempMax a => exact (smbAnswer_mayDrain ht).tabled
  | lastOff a => exact (smbAnswer_mayDrain ht).tabled
  | bootFail a => exact (smbAnswer_mayDrain ht).tabled
  | serial a => exact (smbAnswer_mayDrain ht).tabled
  | smbusAlertResponse => exact (exec_smbusAlertResponse_mayDrain ht).tabled
  | smbusReject => exact tabled_of_dstate ht
  | smbusTimeout => exact tabled_of_dstate ht
  | bypass d => exact (loadTap_mayDrain ht).tabled
  | idcode d => exact (loadTap_mayDrain ht).tabled
  | samplePreload d => exact (loadTap_mayDrain ht).tabled
  | extest d => exact (loadTap_mayDrain ht).tabled
  | clamp d => exact (loadTap_mayDrain ht).tabled
  | highz d => exact (loadTap_mayDrain ht).tabled
  | imageRunStart => exact absurd rfl hi
  | _ => cases hq

/-- Settles O7: an empty queue keeps the device state, and every row changes it as `exec_tabled` says. -/
theorem deviceStateChangesAsTabled : Obligations.DeviceStateChangesAsTabled := by
  unfold Obligations.DeviceStateChangesAsTabled
  intro s t hp ht
  unfold step at ht
  cases hpend : s.pending with
  | nil =>
    rw [hpend] at ht
    exact .inl (tabled_of_mayDrain ht (idle_mayDrain s))
  | cons i rest =>
    rw [hpend] at ht
    have hp' : PowerOk { s with pending := rest } := hp
    exact (exec_tabled hp' ht).imp_right fun ⟨hi, h⟩ => ⟨congrArg some hi, h⟩

end Sys2Proof.Machine
end

section
/-!
PROOFS. The row of a command that may start, and of one that works by pieces: its family's work, and its completion (R343 to R350).
-/
namespace Sys2Proof.Machine
open Host

/-! ### The command at the end of its plan -/

theorem markCore_sameCmds (x : Ctx) (s : State) : SameCmds s (markCore x s) := by
  have hmark : SameCmds s { s with cores := { s.cores with marked := insNat x.core s.cores.marked } } := sameCmds_of_eq rfl rfl
  unfold markCore
  dsimp only
  split
  · exact sameCmds_trans (sameCmds_trans hmark (modTask_sameCmds _ _ _ _)) (beginCrossing_sameCmds _)
  · exact sameCmds_trans hmark (modTask_sameCmds _ _ _ _)

theorem markAbt_sameCmds (die : Nat) (s : State) : SameCmds s (markAbt die s) := by
  unfold markAbt
  dsimp only
  split
  · exact sameCmds_trans (sameCmds_of_eq rfl rfl) (beginCrossing_sameCmds _)
  · exact sameCmds_of_eq rfl rfl

theorem Plan.Ends.mark_sameCmds {p : Plan} {x : Ctx} (hp : p.Ends x) (s : State) : SameCmds s (p.mark s) := by
  rcases hp.mark s with h | h | ⟨die, h⟩ <;> rw [h]
  · exact sameCmds_refl s
  · exact markCore_sameCmds x s
  · exact markAbt_sameCmds die s

theorem Plan.Ends.post_cmdOf {p : Plan} {x : Ctx} (hp : p.Ends x) (r : Res) (s : State) (c : CmdRef) :
    cmdOf (p.post r s) c = cmdOf s c := by
  obtain ⟨l, m, h⟩ := hp.post r s
  rw [h]
  rfl

theorem complete_ph {c : CmdRef} {s u : State} (h : (cmdOf s c).isSome) (hu : cmdOf u c = cmdOf s c) (o : Out) :
    ∃ k, cmdOf (complete c o u) c = some k ∧ k.ph = .done := by
  obtain ⟨k, hk⟩ := Option.isSome_iff_exists.1 (hu ▸ h)
  obtain ⟨code, hdone⟩ := cmdOf_complete (o := o) hk
  exact ⟨_, hdone, rfl⟩

/-- A command that has run its plan is done. -/
theorem execPlan_done {p : Plan} {x : Ctx} {s : State} (hp : p.Ends x) (h : (cmdOf s x.c).isSome) :
    ∃ k, cmdOf (execPlan p x s) x.c = some k ∧ k.ph = .done := by
  obtain ⟨ps, hk⟩ := kept_eq p x s
  have hrun : ∀ mixed qs rf, cmdOf (leaveEngines x (runPieces mixed x.o x.e x.core qs
      (Plan.enter { p with pieces := ps } x rf s)).1) x.c = cmdOf s x.c := fun mixed qs rf =>
    (lineWork_trans (planEnter_lineWork { p with pieces := ps } x rf s) (runPieces_lineWork mixed x.o x.e x.core qs _)).cmdOf x.c
  unfold execPlan
  rw [hk]
  dsimp only
  split
  · rw [hp.post_cmdOf]
    exact complete_ph h (((hp.mark_sameCmds _).cmdOf x.c).trans (hrun ..)) _
  · rw [hp.post_cmdOf]
    exact complete_ph h (hrun ..) _

/-! ### The row of a command that may start -/

/-- A command of row requests that is done after its row, with no row on its way before it, drops what has arrived (R14, R131). -/
theorem runRows_of_done {op : Nat} {f : Family} {reads : Ctx → State → Nat × (Nat → List (Nat × Nat))} {c : CmdRef} {e : Circ}
    {s t : State} {k : Cmd} (hin : rowOut? s c e = false) (hrun : runCmd op f c (withLate c e s) s = t) (hk : cmdOf t c = some k)
    (hdone : k.ph = .done) : runRows op f reads c e s = dropRows c t := by
  simp [runRows, hin, hrun, hk, hdone]

theorem planOf_of_rowOps {i : Instr} {op : Nat} {f : Family} {c : CmdRef} {e : Circ} (h : queueRow i = some (op, f, c, e))
    (hop : op ∈ rowOps) : ∃ plan, planOf i = some plan := by
  cases i with
  | movGather c e => exact ⟨_, rfl⟩
  | vecRun c e => exact ⟨_, rfl⟩
  | attFwd c e => exact ⟨_, rfl⟩
  | attBwd c e => exact ⟨_, rfl⟩
  | kvAppend c e => exact ⟨_, rfl⟩
  | kvMap c e => exact ⟨_, rfl⟩
  | _ =>
    cases h <;> exact absurd hop (by decide)

/-- The row of a command of row requests that is done after it. -/
theorem exec_rows_of_done {i : Instr} {op : Nat} {f : Family} {c : CmdRef} {e : Circ} {s t : State} {k : Cmd}
    (hrow : queueRow i = some (op, f, c, e)) (hop : op ∈ rowOps) (hin : rowsIn op c e s = true)
    (hrun : runCmd op f c (circOf op c e s) s = t) (hk : cmdOf t c = some k) (hdone : k.ph = .done) :
    exec i s = .next (dropRows c t) := by
  obtain ⟨plan, hplan⟩ := planOf_of_rowOps hrow hop
  rcases (worksBy hrow hplan).row s with ⟨hno, -⟩ | ⟨-, reads, hexec⟩
  · exact absurd hop hno
  · rw [circOf, if_pos hop] at hrun
    have hout : rowOut? s c e = false := by simpa [rowsIn, hop] using hin
    rw [hexec, runRows_of_done hout hrun hk hdone]

/-- A command that works by a plan runs it, when it may start. -/
theorem exec_plan {i : Instr} {op : Nat} {f : Family} {c : CmdRef} {e : Circ} {plan : Ctx → State → Plan} {s s1 : State} {x : Ctx}
    (hrow : queueRow i = some (op, f, c, e)) (hplan : planOf i = some plan) (h : startOf op f c e s = some (x, s1)) :
    exec i s = .next (if op ∈ rowOps then dropRows c (execPlan (plan x s1) x s1) else execPlan (plan x s1) x s1) := by
  have hw := worksBy hrow hplan
  have hrun : runCmd op f c (circOf op c e s) s = execPlan (plan x s1) x s1 := (runCmd_start h).trans (hw.work x s1)
  rcases hw.row s with ⟨hop, hexec⟩ | ⟨hop, -⟩
  · rw [circOf, if_neg hop] at hrun
    rw [if_neg hop, hexec, hrun]
  · obtain ⟨hc, -, ⟨k, hk⟩, hin, -, -⟩ := startOf_ctx h
    subst hc
    obtain ⟨k', hk', hdone⟩ := execPlan_done (planOf_ends hplan x s1) (by rw [hk]; rfl)
    rw [if_pos hop, exec_rows_of_done hrow hop hin hrun hk' hdone]

/-- Settles O9: a command without row requests by `runCmd_start`; one with row requests works by a plan, and is done after it. -/
theorem queueCommandsStartTheirWork : Obligations.QueueCommandsStartTheirWork := by
  unfold Obligations.QueueCommandsStartTheirWork
  intro i op f c e s s1 x hrow hstart himg
  by_cases hop : op ∈ rowOps
  · obtain ⟨plan, hplan⟩ := planOf_of_rowOps hrow hop
    rw [(worksBy hrow hplan).work]
    exact exec_plan hrow hplan hstart
  · have hrun := runCmd_start hstart
    rw [circOf, if_neg hop] at hrun
    rw [if_neg hop, exec_queueRow hrow hop himg, hrun]

/-! ### The completion of a command that meets no failure -/

theorem decPlan_status (x : Ctx) (s : State) : ((decPlan x s).out {}).status = stOk := by
  unfold decPlan decRun
  dsimp only
  split <;> rfl

/-- A plan that meets no failure ends with ST_OK; SYN.WAIT ends as the object's FAILED gives (R350). -/
theorem planOf_status {i : Instr} {op : Nat} {f : Family} {c : CmdRef} {e : Circ} {plan : Ctx → State → Plan}
    (hrow : queueRow i = some (op, f, c, e)) (hplan : planOf i = some plan) (hop : op ≠ 0x0802) (x : Ctx) (s : State) :
    ((plan x s).out {}).status = stOk := by
  cases i with
  | medDec =>
    cases hplan
    exact decPlan_status x s
  | synWait =>
    cases hrow
    exact absurd rfl hop
  | _ => cases hplan <;> rfl

/-- What a settled plan leaves as its pieces left it. -/
theorem Plan.Ends.settled {p : Plan} {x : Ctx} (hp : p.Ends x) (r : Res) (o : Out) (u : State) :
    let t := p.post r (complete x.c o (leaveEngines x u))
    t.mem.dev = u.mem.dev ∧ t.mem.ob = u.mem.ob ∧ t.mem.poison = u.mem.poison ∧ t.cocoons = u.cocoons := by
  obtain ⟨l, m, hpost⟩ := hp.post r (complete x.c o (leaveEngines x u))
  obtain ⟨_, _, _, _, _, _, _, _, _, _, _, _, _, _, hdone⟩ := complete_completionWork x.c o (leaveEngines x u)
  dsimp only
  rw [hpost, hdone]
  exact ⟨rfl, rfl, rfl, rfl⟩

/-- Settles O10: without a checksum mismatch the plan runs once (`execPlan_once`), completes, and settles. -/
theorem dataCommandsComplete : Obligations.DataCommandsComplete := by
  unfold Obligations.DataCommandsComplete
  intro i op f c e s s1 x plan hrow hplan hstart hmis hfault hfail
  obtain ⟨hc, -, ⟨k, hk⟩, -, -, hkept⟩ := startOf_ctx hstart
  subst hc
  have hp := planOf_ends hplan x s1
  have hexec := exec_plan hrow hplan hstart
  rw [execPlan_once _ _ _ hmis, kept_none hkept] at hexec
  dsimp only at hexec ⊢
  rw [hfault, hfail] at hexec
  generalize hu : (runPieces (plan x s1).mixed x.o x.e x.core (plan x s1).pieces ((plan x s1).enter x none s1)).1 = u at hexec ⊢
  have hku : cmdOf (leaveEngines x u) x.c = some k := by
    have hline := lineWork_trans (planEnter_lineWork (plan x s1) x none s1)
      (runPieces_lineWork (plan x s1).mixed x.o x.e x.core (plan x s1).pieces _)
    exact hu ▸ (hline.cmdOf x.c).trans hk
  obtain ⟨code, hdone⟩ := cmdOf_complete (o := (plan x s1).out {}) hku
  obtain ⟨hdev, hob, hpoison, hcocoons⟩ := hp.settled {} ((plan x s1).out {}) u
  have hreply : ∀ r, ((plan x s1).out {}).reply = some r →
      (((plan x s1).out {}).settle x.c k (leaveEngines x u)).reply.getD 0 = r := fun r hr => by
    rw [settle_reply _ _ _ hr]
    rfl
  have hstatus := settle_status ((plan x s1).out {}) x.c k (leaveEngines x u)
  refine ⟨_, k.completed (((plan x s1).out {}).settle x.c k (leaveEngines x u)) code, hexec, ?_, rfl, hstatus,
    fun hop => hstatus.trans (planOf_status hrow hplan hop x s1), hreply, ?_⟩
  · split
    · exact (hp.post_cmdOf _ _ x.c).trans hdone
    · exact (hp.post_cmdOf _ _ x.c).trans hdone
  · split
    · exact ⟨hdev, hob, hpoison, hcocoons⟩
    · exact ⟨hdev, hob, hpoison, hcocoons⟩

/-! ### A failed dependency (R345) -/

theorem admission_dep {op : Nat} {f : Family} {c : CmdRef} {e : Circ} {k : Cmd} {s : State} {root : Nat}
    (hdep : depsOf s c k = .fail root) (hstate : s.sup.dstate ≠ .faulted) : admission op f c e k s = .dep root := by
  unfold admission
  rw [if_neg hstate, hdep]

theorem runCmd_dep {op : Nat} {f : Family} {c : CmdRef} {e : Circ} {k : Cmd} {s : State} {root : Nat} (hk : cmdOf s c = some k)
    (hin : k.entered = true) (hop : hOpcode k.hdr = op) (hph : k.ph = .waiting) (hdep : depsOf s c k = .fail root)
    (hstate : s.sup.dstate ≠ .faulted) : runCmd op f c e s = f.onFail (mkCtx s c e k) root s := by
  simp [runCmd, hk, hin, hop, hph, admission_dep hdep hstate]

/-- Only SYN.SIGNAL writes when a dependency failed (R349). -/
theorem queueRow_onFail {i : Instr} {op : Nat} {f : Family} {c : CmdRef} {e : Circ} (h : queueRow i = some (op, f, c, e))
    (hop : op ≠ 0x0801) (x : Ctx) (root : Nat) (s : State) :
    f.onFail x root s = complete x.c { status := stRefusedDep, reply := root } s := by
  cases i with
  | synSignal =>
    cases h
    exact absurd rfl hop
  | _ => cases h <;> rfl

/-- Settles O35: the row completes the command with the root; a completion leaves memory. -/
theorem failedDependency : Obligations.FailedDependency := by
  unfold Obligations.FailedDependency
  intro i op f c e s k root hrow hop hk hin hopcode hph hdep hstate hrows himg
  have hrun : runCmd op f c (circOf op c e s) s = complete c { status := stRefusedDep, reply := root } s :=
    (runCmd_dep hk hin hopcode hph hdep hstate).trans (queueRow_onFail hrow hop _ root s)
  obtain ⟨k', hk', hdone, hstatus, hreply⟩ := complete_done (o := { status := stRefusedDep, reply := some root }) hk rfl
  obtain ⟨_, _, _, _, _, _, _, _, _, _, _, _, _, _, hwork⟩ :=
    complete_completionWork c { status := stRefusedDep, reply := some root } s
  by_cases hrowop : op ∈ rowOps
  · refine ⟨_, k', exec_rows_of_done hrow hrowop hrows hrun hk' hdone, hk', hdone, hstatus, hreply, ?_⟩
    rw [hwork]
    exact ⟨rfl, rfl, rfl, rfl, rfl⟩
  · rw [circOf, if_neg hrowop] at hrun
    refine ⟨_, k', (exec_queueRow hrow hrowop himg).trans (congrArg _ hrun), hk', hdone, hstatus, hreply, ?_⟩
    rw [hwork]
    exact ⟨rfl, rfl, rfl, rfl, rfl⟩

end Sys2Proof.Machine
end

section
/-!
PROOFS. SYN.SIGNAL, SYN.WAIT and SYN.FENCE (R349 to R351): what the start of a command without a core, draws and step record leaves
as it is, and the queues under a completion.
-/
namespace Sys2Proof.Machine
open Host

/-! ### What a start changes -/

/-- What the start of a command that draws nothing and has no step record may change. -/
def StartWork (s t : State) : Prop :=
  ∃ (q : List (Nat × Queue)) (i : Img) (g : Tollgate) (n : Cores) (m : Media) (a b d : Word),
    t = { s with queues := { s.queues with qs := q }, img := i, tgl := g, cores := n, media := m
                 regs := { s.regs with slips := a, slipMax := b, slipTag := d } }

theorem StartWork.refl (s : State) : StartWork s s := ⟨_, _, _, _, _, _, _, _, rfl⟩

theorem StartWork.trans {s t u : State} (h : StartWork s t) (g : StartWork t u) : StartWork s u := by
  obtain ⟨_, _, _, _, _, _, _, _, rfl⟩ := h
  obtain ⟨_, _, _, _, _, _, _, _, rfl⟩ := g
  exact ⟨_, _, _, _, _, _, _, _, rfl⟩

theorem setQ_startWork (r : QRef) (q : Queue) (s : State) : StartWork s (setQ r q s) := by
  cases r <;> exact ⟨_, _, _, _, _, _, _, _, rfl⟩

theorem modCmd_startWork (c : CmdRef) (f : Cmd → Cmd) (s : State) : StartWork s (modCmd c f s) := setQ_startWork ..

theorem modTask_startWork (r : QRef) (t : Nat) (f : Task → Task) (s : State) : StartWork s (modTask r t f s) := setQ_startWork ..

theorem startSlip_startWork (r : QRef) (k : Cmd) (s : State) : StartWork s (startSlip r k s) := by
  unfold startSlip
  split
  · exact .refl s
  split
  · exact .refl s
  split
  · exact .refl s
  dsimp only
  split
  · exact modTask_startWork ..
  · exact (modTask_startWork ..).trans ⟨_, _, _, _, _, _, _, _, rfl⟩

theorem enterPipe_startWork (k : Cmd) (p : Option Nat) (s : State) : StartWork s (enterPipe k p s) := by
  cases p <;> exact ⟨_, _, _, _, _, _, _, _, rfl⟩

theorem readLuna_undrawn {f : Family} {x : Ctx} (hdraws : f.draws x.par = false) (s : State) : ∃ g : Cmd → Cmd,
    (∀ k, (g k).idx = k.idx ∧ (g k).task = k.task) ∧ readLuna f x s = modCmd x.c g s := by
  unfold readLuna
  rw [hdraws]
  dsimp only
  split
  · refine ⟨_, ?_, rfl⟩
    exact fun _ => ⟨rfl, rfl⟩
  · refine ⟨_, ?_, rfl⟩
    exact fun _ => ⟨rfl, rfl⟩

/-- The rows of a start, for a command that draws nothing, works by no step record and takes no core. -/
theorem beginCmd_startWork {f : Family} {x : Ctx} (hdraws : f.draws x.par = false) (hstep : f.step x.par = none) (s : State) :
    StartWork s (beginCmd f x none s) := by
  unfold beginCmd
  extract_lets now th s1 s2 s3 s4
  have h1 : StartWork s s1 := by
    obtain ⟨g, -, hluna⟩ := readLuna_undrawn hdraws s
    simp only [s1, readStep_none hstep, hluna]
    exact (modCmd_startWork ..).trans (modCmd_startWork ..)
  have h3 : StartWork s s3 :=
    ((h1.trans (modTask_startWork ..)).trans (startSlip_startWork ..)).trans ⟨_, _, _, _, _, _, _, _, rfl⟩
  exact h3.trans (enterPipe_startWork ..)

/-- One queue's commands, tasks and records that wait may change; nothing else of it, and no other queue. -/
structure Runs (r : QRef) (s t : State) : Prop where
  others : ∀ r', r' ≠ r → getQ t r' = getQ s r'
  far : ∀ n, 2 ^ 20 ≤ n → queueOf t n = queueOf s n
  own : ∃ cmds tasks recs, getQ t r = { getQ s r with cmds := cmds, tasks := tasks, recs := recs }

theorem runs_of_eq {r : QRef} {s t : State} (h : t.queues.qs = s.queues.qs) (g : t.img = s.img) : Runs r s t :=
  ⟨fun r' _ => getQ_of_eq h g r', fun n _ => by rw [queueOf, h, ← queueOf], _, _, _, getQ_of_eq h g r⟩

theorem Runs.refl (r : QRef) (s : State) : Runs r s s := runs_of_eq rfl rfl

theorem Runs.trans {r : QRef} {s t u : State} (h : Runs r s t) (g : Runs r t u) : Runs r s u := by
  obtain ⟨_, _, _, hr⟩ := h.own
  obtain ⟨_, _, _, gr⟩ := g.own
  exact ⟨fun r' hne => (g.others r' hne).trans (h.others r' hne), fun n hn => (g.far n hn).trans (h.far n hn),
    _, _, _, by rw [gr, hr]⟩

theorem Runs.failed {r : QRef} {s t : State} (h : Runs r s t) (r' : QRef) : (getQ t r').failed = (getQ s r').failed := by
  obtain ⟨_, _, _, hr⟩ := h.own
  by_cases hne : r' = r
  · rw [hne, hr]
  · rw [h.others r' hne]

theorem queueOf_setQ_far (r : QRef) (q : Queue) (s : State) {n : Nat} (hn : 2 ^ 20 ≤ n) : queueOf (setQ r q s) n = queueOf s n := by
  cases r with
  | hw m =>
    have hne : n ≠ m.toNat := (m.isLt.trans_le hn).ne'
    simp [queueOf, setQ, look_put, hne]
  | img => rfl

theorem setQ_runs {r : QRef} {q : Queue} {s : State}
    (h : ∃ cmds tasks recs, q = { getQ s r with cmds := cmds, tasks := tasks, recs := recs }) : Runs r s (setQ r q s) := by
  refine ⟨fun r' hne => getQ_setQ_ne q s hne, fun n hn => queueOf_setQ_far r q s hn, ?_⟩
  obtain ⟨cmds, tasks, recs, hq⟩ := h
  rcases getQ_setQ_self r q s with hself | ⟨rfl, hnone⟩
  · exact ⟨cmds, tasks, recs, hself.trans hq⟩
  · refine ⟨(getQ s .img).cmds, (getQ s .img).tasks, (getQ s .img).recs, ?_⟩
    simp [getQ, setQ, hnone]

theorem modCmd_runs (c : CmdRef) (f : Cmd → Cmd) (s : State) : Runs c.q s (modCmd c f s) := setQ_runs ⟨_, _, _, rfl⟩

theorem modTask_runs (r : QRef) (t : Nat) (f : Task → Task) (s : State) : Runs r s (modTask r t f s) := setQ_runs ⟨_, _, _, rfl⟩

theorem startSlip_runs (r : QRef) (k : Cmd) (s : State) : Runs r s (startSlip r k s) := by
  unfold startSlip
  split
  · exact .refl r s
  split
  · exact .refl r s
  split
  · exact .refl r s
  dsimp only
  split
  · exact modTask_runs ..
  · exact (modTask_runs ..).trans (runs_of_eq rfl rfl)

theorem enterPipe_runs (k : Cmd) (p : Option Nat) (r : QRef) (s : State) : Runs r s (enterPipe k p s) := by
  cases p <;> exact runs_of_eq rfl rfl

theorem beginCmd_runs {f : Family} {x : Ctx} (hdraws : f.draws x.par = false) (hstep : f.step x.par = none) (s : State) :
    Runs x.c.q s (beginCmd f x none s) := by
  unfold beginCmd
  extract_lets now th s1 s2 s3 s4
  have h1 : Runs x.c.q s s1 := by
    obtain ⟨g, -, hluna⟩ := readLuna_undrawn hdraws s
    simp only [s1, readStep_none hstep, hluna]
    exact (modCmd_runs ..).trans (modCmd_runs ..)
  have h3 : Runs x.c.q s s3 :=
    ((h1.trans (modTask_runs ..)).trans (startSlip_runs ..)).trans (runs_of_eq rfl rfl)
  exact h3.trans (enterPipe_runs ..)

/-- The start of such a command, from the state in which its row stands: the miscorrected reads of the step come first. -/
theorem startOf_runs {op : Nat} {f : Family} {c : CmdRef} {e : Circ} {s s1 : State} {x : Ctx}
    (h : startOf op f c e s = some (x, s1)) (hcore : ∀ v, f.core v = false) (hdraws : ∀ v, f.draws v = false)
    (hstep : ∀ v, f.step v = none) :
    StartWork (miscorrect (circOf op c e s) s) s1 ∧ Runs c.q s s1 := by
  obtain ⟨k, core, -, hgo, rfl, -⟩ := startOf_admitted h
  obtain rfl := admission_go_none (hcore _) hgo
  exact ⟨beginCmd_startWork (hdraws _) (hstep _) _,
    (runs_of_eq (miscorrect_lineWork ..).qs (miscorrect_lineWork ..).img).trans
      (beginCmd_runs (x := mkCtx (miscorrect (circOf op c e s) s) c (circOf op c e s) k) (hdraws _) (hstep _) _)⟩

/-- Such a command keeps its task. -/
theorem beginCmd_task {f : Family} {x : Ctx} (hdraws : f.draws x.par = false) (hstep : f.step x.par = none) {s : State} {k : Cmd}
    (hk : cmdOf s x.c = some k) : ∃ k', cmdOf (beginCmd f x none s) x.c = some k' ∧ k'.task = k.task := by
  unfold beginCmd
  extract_lets now th s1 s2 s3 s4
  have h4 : cmdOf s4 x.c = cmdOf s1 x.c := by simp [s4, s3, s2]
  obtain ⟨g, hg, hluna⟩ := readLuna_undrawn hdraws s
  have h1 : ∃ k', cmdOf s1 x.c = some k' ∧ k'.task = k.task := by
    simp only [s1, readStep_none hstep, hluna]
    rw [cmdOf_modCmd, cmdOf_modCmd _ _ fun k => (hg k).1, hk]
    · exact ⟨_, rfl, (hg k).2⟩
    · intro k; rfl
  rw [← h4] at h1
  exact h1

theorem miscorrect_keeps {α : Type} (p : State → α) (h : ∀ a bs s, p (putRaw a bs s) = p s) (e : Circ) (s : State) :
    p (miscorrect e s) = p s := by
  refine foldl_keeps p (fun t x => ?_) _ s
  split
  · split
    · refine foldl_keeps p (fun u y => ?_) _ t
      split
      · exact h ..
      · rfl
    · rfl
  · rfl

theorem miscorrect_ob (e : Circ) (s : State) : (miscorrect e s).mem.ob = s.mem.ob := miscorrect_keeps (·.mem.ob) (fun _ _ _ => rfl) e s
theorem miscorrect_sup (e : Circ) (s : State) : (miscorrect e s).sup = s.sup := miscorrect_keeps (·.sup) (fun _ _ _ => rfl) e s
theorem miscorrect_time (e : Circ) (s : State) : (miscorrect e s).time = s.time := miscorrect_keeps (·.time) (fun _ _ _ => rfl) e s

theorem StartWork.mem {s t : State} (h : StartWork s t) : t.mem = s.mem := by obtain ⟨_, _, _, _, _, _, _, _, rfl⟩ := h; rfl
theorem StartWork.sup {s t : State} (h : StartWork s t) : t.sup = s.sup := by obtain ⟨_, _, _, _, _, _, _, _, rfl⟩ := h; rfl
theorem StartWork.time {s t : State} (h : StartWork s t) : t.time = s.time := by obtain ⟨_, _, _, _, _, _, _, _, rfl⟩ := h; rfl

/-- A task reads after such a start what it read before it. -/
theorem StartWork.readNat {s t : State} (h : StartWork s t) (o : Owner) (a n : Nat) : readNat t o a n = readNat s o a n := by
  obtain ⟨_, _, _, _, _, _, _, _, rfl⟩ := h
  rfl

theorem StartWork.readFault {s t : State} (h : StartWork s t) (o : Owner) (e : Circ) (a n : Nat) :
    readFault t o e a n = readFault s o e a n := by
  obtain ⟨_, _, _, _, _, _, _, _, rfl⟩ := h
  rfl

/-! ### The admission of a command that starts -/

theorem startOf_opcode {op : Nat} {f : Family} {c : CmdRef} {e : Circ} {s s1 : State} {x : Ctx}
    (h : startOf op f c e s = some (x, s1)) : hOpcode x.cmd.hdr = op := by
  obtain ⟨k, core, hk, -, hs1, rfl⟩ := startOf_admitted h
  obtain ⟨k', hk', hhdr, -⟩ := beginCmd_cmdOf (f := f) (core := core)
    (x := mkCtx (miscorrect (circOf op c e s) s) c (circOf op c e s) k)
    (((miscorrect_lineWork (circOf op c e s) s).cmdOf c).trans hk)
  have hnow : cmdOf s1 c = some k' := hs1 ▸ hk'
  have hcmd : (ctxNow c (circOf op c e s) k s1).cmd = k' := by
    rw [ctxNow, hnow]
    rfl
  rw [hcmd, hhdr]
  unfold startOf at h
  dsimp only at h
  rw [hk] at h
  dsimp only at h
  split at h
  · rename_i hc
    simp only [Bool.and_eq_true, beq_iff_eq] at hc
    exact hc.1.1.1.1.2
  · cases h

/-- A command that is admitted to start passes stage 3 and is ready (R344). -/
theorem checks_of_admission {op : Nat} {f : Family} {c : CmdRef} {e : Circ} {k : Cmd} {s : State} {core : Option Nat}
    (h : admission op f c e k s = .go core) :
    stage3 op f (mkCtx s c e k) s = none ∧ f.ready (mkCtx s c e k) s = true := by
  unfold admission at h
  dsimp only at h
  cases hstage : stage3 op f (mkCtx s c e k) s with
  | some o =>
    simp only [hstage] at h
    repeat' split at h
    all_goals cases h
  | none =>
    refine ⟨rfl, ?_⟩
    cases hready : f.ready (mkCtx s c e k) s with
    | true => rfl
    | false =>
      simp only [hstage, hready, Bool.not_false, if_true] at h
      repeat' split at h
      all_goals cases h

/-! ### The failures that a queue counts, under a completion -/

/-- Every queue counts the same failures for its next SYN.FENCE (R351). -/
def SameFailed (s t : State) : Prop := ∀ r, (getQ t r).failed = (getQ s r).failed

theorem SameFailed.refl (s : State) : SameFailed s s := fun _ => rfl

theorem SameFailed.trans {s t u : State} (h : SameFailed s t) (g : SameFailed t u) : SameFailed s u := fun r => (g r).trans (h r)

theorem sameFailed_of_getQ {s t : State} (h : ∀ r, getQ t r = getQ s r) : SameFailed s t := fun r => congrArg (·.failed) (h r)

theorem mapQueues_markReplay_sameFailed (s : State) : SameFailed s (mapQueues markReplay s) := by
  intro r
  cases r with
  | hw n =>
    simp only [getQ, queueOf, mapQueues, look_mapVal]
    cases look s.queues.qs n.toNat <;> rfl
  | img =>
    simp only [getQ, mapQueues]
    cases s.img.run <;> rfl

theorem setDState_getQ (d : DState) (s : State) (r : QRef) : getQ (setDState d s) r = getQ s r := by
  unfold setDState
  split
  · rfl
  · exact getQ_of_eq (devIrq_lineWork 0 { s with sup := { s.sup with dstate := d } }).qs
      (devIrq_lineWork 0 { s with sup := { s.sup with dstate := d } }).img r

theorem beginCrossing_sameFailed (s : State) : SameFailed s (beginCrossing s) := by
  unfold beginCrossing beginDrain
  split
  · exact (mapQueues_markReplay_sameFailed s).trans (sameFailed_of_getQ fun r => (setDState_getQ _ _ r).trans (getQ_of_eq rfl rfl r))
  · exact .refl s

theorem releaseBanks_runs (r : QRef) (t : Nat) (s : State) : Runs r s (releaseBanks r t s) := runs_of_eq (by simp) (by simp)

theorem finishTask_runs (r : QRef) (k : Cmd) (o : Out) (s : State) : Runs r s (finishTask r k o s) := by
  have hend : Runs r s (if hLast k.hdr then modTask r k.task (fun t => { t with finished := !t.rerun }) s else s) := by
    split
    · exact modTask_runs ..
    · exact .refl r s
  unfold finishTask
  split
  · exact modTask_runs ..
  split
  · exact .refl r s
  extract_lets s1
  split
  · exact Runs.trans (t := s1) hend (releaseBanks_runs ..)
  · exact hend

theorem pushRec_runs (n : BitVec 20) (x : Rec) (s : State) : Runs (.hw n) s (pushRec n.toNat x s) := by
  unfold pushRec
  rw [BitVec.ofNat_toNat, BitVec.setWidth_eq]
  exact setQ_runs ⟨_, _, _, rfl⟩

theorem countClasses_runs (b : Bool) (k : Cmd) (r : QRef) (s : State) : Runs r s (if b then countClasses k s else s) := by
  split
  · exact runs_of_eq rfl rfl
  · exact .refl r s

/-- A completion without a failure, up to what the end of an image command does to its run. -/
theorem complete_ok {c : CmdRef} {o : Out} {s : State} {k : Cmd} (hk : cmdOf s c = some k) (ho : o.status = stOk) :
    ∃ (n : BitVec 20) (u v : State) (o' : Out), n.toNat = ringOf s c.q ∧ o'.status = stOk ∧ Runs c.q s u ∧ Runs (.hw n) u v ∧
      ∃ w, Runs c.q v w ∧ complete c o s = afterImage c k o' w := by
  have hstatus : (o.settle c k s).status = stOk := (settle_status ..).trans ho
  have hring : (BitVec.ofNat 20 (ringOf s c.q)).toNat = ringOf s c.q := Nat.mod_eq_of_lt (ringOf_lt s c.q)
  unfold complete
  rw [hk]
  dsimp only
  have hadd : ∀ t, addFailed c (o.settle c k s) t = t := fun t => if_pos hstatus
  rw [hadd, show ringOf (dropQuanta c s) c.q = (BitVec.ofNat 20 (ringOf s c.q)).toNat from hring.symm]
  exact ⟨_, _, _, _, hring, hstatus, Runs.trans (t := dropQuanta c s) (runs_of_eq rfl rfl) (modCmd_runs c _ _),
    pushRec_runs .., _, (countClasses_runs ..).trans (finishTask_runs ..), rfl⟩

theorem afterImage_ok_sameFailed {c : CmdRef} {k : Cmd} {o : Out} (ho : o.status = stOk) (s : State) :
    SameFailed s (afterImage c k o s) := by
  unfold afterImage
  split
  · exact .refl s
  · rw [if_pos ho]
    split
    · exact beginCrossing_sameFailed s
    · exact .refl s

theorem complete_sameFailed {c : CmdRef} {o : Out} {s : State} {k : Cmd} (hk : cmdOf s c = some k) (ho : o.status = stOk) :
    SameFailed s (complete c o s) := by
  obtain ⟨n, u, v, o', -, ho', hu, hv, w, hw, hdone⟩ := complete_ok (o := o) hk ho
  rw [hdone]
  exact fun r => (afterImage_ok_sameFailed ho' w r).trans ((hw.failed r).trans ((hv.failed r).trans (hu.failed r)))

/-- A command of a hardware queue that completes without a failure changes its own queue alone. -/
theorem complete_runs {n : BitVec 20} {i : Nat} {o : Out} {s : State} {k : Cmd} (hk : cmdOf s ⟨.hw n, i⟩ = some k)
    (ho : o.status = stOk) : Runs (.hw n) s (complete ⟨.hw n, i⟩ o s) := by
  obtain ⟨m, u, v, o', hm, -, hu, hv, w, hw, hdone⟩ := complete_ok (o := o) hk ho
  obtain rfl : m = n := BitVec.eq_of_toNat_eq hm
  rw [hdone]
  exact (hu.trans hv).trans hw

/-- A command whose map has no field without a value replies 0 when it has no reply of its own (log 16). -/
theorem complete_silent {c : CmdRef} {o : Out} {s : State} {k : Cmd} (hk : cmdOf s c = some k) (hr : o.reply = none)
    (hrest : restReply c k s = (0, 0)) : endsAs (complete c o s) c o.status 0 := by
  obtain ⟨code, hc⟩ := cmdOf_complete (o := o) hk
  refine ⟨_, hc, rfl, settle_status o c k s, ?_⟩
  simp [Cmd.completed, Out.settle, hr, hrest]

/-! ### SYN.SIGNAL and SYN.WAIT -/

theorem restReply_sync {c : CmdRef} {k : Cmd} (h : hOpcode k.hdr = 0x0801 ∨ hOpcode k.hdr = 0x0802) (s : State) :
    restReply c k s = (0, 0) := by
  rcases h with h | h <;> simp only [restReply, h]

/-- The pieces of SYN.SIGNAL store VALUE. -/
theorem signalPlan_runs {x : Ctx} {s : State} (hh : healthy s x.e) (hc : cocoonOf s x.o = none)
    (hspan : spanKs (synObj x.par) 32 = true) :
    runPieces false x.o x.e x.core (signalPlan x s).pieces s =
      (s.setDev (stored s.mem.dev [(synObj x.par, leBytes 8 (synSet x.par))]), none) :=
  runPieces_storePiece (reads := []) (ws := [(synObj x.par, leBytes 8 (synSet x.par))]) x.core hh hc (fun _ h => nomatch h)
    fun w hw => by
      obtain rfl := List.mem_singleton.1 hw
      exact spanMem_of_spanKs hspan le_rfl (by simp [leBytes_length]) (by simp [leBytes_length])

theorem exec_synSignal {c : CmdRef} {e : Circ} {s s1 : State} {x : Ctx} (h : startOf 0x0801 signalFamily c e s = some (x, s1))
    (hh : healthy s1 e) (hc : cocoonOf s1 x.o = none) (hspan : spanKs (synObj x.par) 32 = true) :
    ∃ t, exec (.synSignal c e) s = .next t ∧ endsAs t c stOk 0 ∧
      t.mem.dev = stored s1.mem.dev [(synObj x.par, leBytes 8 (synSet x.par))] ∧ t.mem.ob = s1.mem.ob := by
  obtain ⟨rfl, hxe, -, -, -, hkept⟩ := startOf_ctx h
  obtain rfl : x.e = e := hxe
  have hexec : exec (.synSignal x.c x.e) s = .next (execPlan (signalPlan x s1) x s1) := congrArg Outcome.next (runCmd_start h)
  rw [execPlan_unchecked rfl rfl hkept] at hexec
  dsimp only at hexec
  rw [show (signalPlan x s1).mixed = false from rfl, signalPlan_runs hh hc hspan] at hexec
  generalize hu : leaveEngines x (s1.setDev (stored s1.mem.dev [(synObj x.par, leBytes 8 (synSet x.par))])) = u at hexec
  have hcmd : cmdOf u x.c = some x.cmd := hu ▸ (startOf_cmd h).1
  have hwork := complete_completionWork x.c {} u
  refine ⟨_, hexec, complete_silent hcmd rfl (restReply_sync (.inl (startOf_opcode h)) u), hwork.dev.trans ?_, hwork.ob.trans ?_⟩
  · rw [← hu]
    rfl
  · rw [← hu]
    rfl

/-- What the admission of a command that starts has seen: its parameters and its task are those of the command at work. -/
theorem startOf_ready {op : Nat} {f : Family} {c : CmdRef} {e : Circ} {s s1 : State} {x : Ctx}
    (h : startOf op f c e s = some (x, s1)) (hcore : ∀ v, f.core v = false) (hdraws : ∀ v, f.draws v = false)
    (hstep : ∀ v, f.step v = none) :
    ∃ y : Ctx, y.c = c ∧ y.e = circOf op c e s ∧ y.par = x.par ∧ y.o = x.o ∧ stage3 op f y s = none ∧ f.ready y s = true := by
  obtain ⟨k, core, hk, hgo, hs1, hx⟩ := startOf_admitted h
  obtain ⟨hstage, hready⟩ := checks_of_admission hgo
  obtain rfl := admission_go_none (hcore _) hgo
  have hk0 := ((miscorrect_lineWork (circOf op c e s) s).cmdOf c).trans hk
  let y := mkCtx (miscorrect (circOf op c e s) s) c (circOf op c e s) k
  obtain ⟨k', hk', -, hpar, -⟩ := beginCmd_cmdOf (f := f) (core := none) (x := y) hk0
  obtain ⟨k2, hk2, htask⟩ := beginCmd_task (f := f) (x := y) (hdraws _) (hstep _) hk0
  obtain rfl : k2 = k' := Option.some.inj (hk2.symm.trans hk')
  have hnow : cmdOf s1 c = some k2 := hs1 ▸ hk'
  refine ⟨_, rfl, rfl, ?_, ?_, hstage, hready⟩
  · rw [hx, ctxNow, hnow]
    exact hpar.symm
  · rw [hx, ctxNow, hnow]
    exact congrArg (fun n => some (c.q, n)) htask.symm

theorem noteRead_ob (o : Owner) (e : Circ) (s : State) (a : Nat) : (noteRead o e s a).mem.ob = s.mem.ob := by
  unfold noteRead
  split
  · rfl
  dsimp only
  split
  · rfl
  split
  · exact noteUncorr_ob ..
  split
  · rfl
  split <;> rfl

theorem noteReads_ob (o : Owner) (e : Circ) (l : List (Nat × Nat)) (s : State) : (noteReads o e l s).mem.ob = s.mem.ob := by
  unfold noteReads
  split
  · rfl
  · exact foldl_keeps (·.mem.ob) (fun _ _ => noteRead_ob ..) _ s

/-- The one piece of SYN.WAIT reads the object, and leaves the notes of its reads. -/
theorem waitPlan_runs {x : Ctx} {s : State} (hfault : readFault s x.o x.e (synObj x.par) 32 = none) :
    runPieces false x.o x.e x.core (waitPlan x s).pieces s = (noteReads x.o x.e [(synObj x.par, 32)] s, none) := by
  have hfirst : firstFault s x.o x.e (waitPlan x s).pieces = none := by
    simp [waitPlan, firstFault, Piece.faultOf, hfault]
  unfold runPieces
  rw [hfirst]
  simp [waitPlan, putPieces, putWrs, notePieces, noteArrived]

theorem exec_synWait {c : CmdRef} {e : Circ} {s s1 : State} {x : Ctx} (h : startOf 0x0802 waitFamily c e s = some (x, s1))
    (hfault : readFault s1 x.o e (synObj x.par) 32 = none) :
    ∃ t, exec (.synWait c e) s = .next t ∧ t.mem.dev = s1.mem.dev ∧ t.mem.ob = s1.mem.ob ∧
      ((synRead x s1).2.1 = true → endsAs t c stRefusedDep (synRead x s1).2.2) ∧
      ((synRead x s1).2.1 = false → endsAs t c stOk 0) := by
  obtain ⟨rfl, hxe, -, -, -, hkept⟩ := startOf_ctx h
  obtain rfl : x.e = e := hxe
  have hexec : exec (.synWait x.c x.e) s = .next (execPlan (waitPlan x s1) x s1) := congrArg Outcome.next (runCmd_start h)
  rw [execPlan_unchecked rfl rfl hkept] at hexec
  dsimp only at hexec
  rw [show (waitPlan x s1).mixed = false from rfl, waitPlan_runs hfault] at hexec
  generalize hu : leaveEngines x (noteReads x.o x.e [(synObj x.par, 32)] s1) = u at hexec
  have hcmd : cmdOf u x.c = some x.cmd := hu ▸ ((noteReads_lineWork ..).cmdOf x.c).trans (startOf_cmd h).1
  have hwork := complete_completionWork x.c ((waitPlan x s1).out {}) u
  refine ⟨_, hexec, hwork.dev.trans ?_, hwork.ob.trans ?_, fun hz => ?_, fun hz => ?_⟩
  · rw [← hu]
    exact noteReads_dev ..
  · rw [← hu]
    exact noteReads_ob ..
  · have hout : (waitPlan x s1).out {} = { status := stRefusedDep, reply := some (synRead x s1).2.2 } := by simp [waitPlan, hz]
    dsimp only [waitPlan] at hout ⊢
    rw [hout]
    exact complete_done hcmd rfl
  · have hout : (waitPlan x s1).out {} = {} := by simp [waitPlan, hz]
    dsimp only [waitPlan] at hout ⊢
    rw [hout]
    exact complete_silent hcmd rfl (restReply_sync (.inr (startOf_opcode h)) u)

/-! ### SYN.FENCE -/

/-- What a ready SYN.FENCE finds: earlier commands done, with their records written (R351). -/
theorem fenceReady_spec {x : Ctx} {s : State} (h : fenceReady x s = true) :
    (∀ k ∈ (getQ s x.c.q).cmds, k.idx < x.c.idx → k.ph = .done) ∧
      ∀ r ∈ (queueOf s (ringOf s x.c.q)).recs, r.c.q = x.c.q → x.c.idx ≤ r.c.idx := by
  simp only [fenceReady, recsBefore, Bool.and_eq_true, List.all_eq_true, Bool.or_eq_true, Bool.not_eq_true',
    decide_eq_false_iff_not, beq_iff_eq, List.any_eq_false, decide_eq_true_eq, not_and] at h
  obtain ⟨hdone, hrecs⟩ := h
  exact ⟨fun k hk hlt => (hdone k hk).resolve_left (not_not_intro hlt), fun r hr hq => not_lt.1 (hrecs r hr hq)⟩

/-- The queue of a command that stands in one is read as it was set. -/
theorem getQ_setQ_of_cmd {c : CmdRef} {k : Cmd} {s : State} (hk : cmdOf s c = some k) (q : Queue) : getQ (setQ c.q q s) c.q = q := by
  rcases getQ_setQ_self c.q q s with h | ⟨hq, hnone⟩
  · exact h
  · simp [cmdOf, hq, getQ, hnone] at hk

/-- The reply and the count that SYN.FENCE leaves. -/
theorem fenceWork_spec {x : Ctx} {s : State} {k : Cmd} (hk : cmdOf s x.c = some k) :
    endsAs (fenceWork x s) x.c stOk (((getQ s x.c.q).failed.filter fun i => decide (i < x.c.idx)).eraseDups.length % 2 ^ 32) ∧
      (∀ i ∈ (getQ (fenceWork x s) x.c.q).failed, x.c.idx ≤ i) ∧
      (fenceWork x s).mem.dev = s.mem.dev ∧ (fenceWork x s).mem.ob = s.mem.ob := by
  unfold fenceWork
  extract_lets q mine
  generalize hu : setQ x.c.q { q with failed := q.failed.filter fun i => !decide (i < x.c.idx) } s = u
  have hcmd : cmdOf u x.c = some k := by
    rw [← hk, ← hu]
    exact (setQ_sameCmds x.c.q { q with failed := q.failed.filter fun i => !decide (i < x.c.idx) } s rfl).cmdOf x.c
  have hwork := complete_completionWork x.c { reply := some (mine.eraseDups.length % 2 ^ 32) } u
  refine ⟨complete_done hcmd rfl, fun i hi => ?_, hwork.dev.trans ?_, hwork.ob.trans ?_⟩
  · rw [complete_sameFailed hcmd rfl, ← hu, getQ_setQ_of_cmd hk] at hi
    simpa using (List.mem_filter.1 hi).2
  · rw [← hu]
    simp
  · rw [← hu]
    simp

/-! ### The obligation -/

/-- Settles O16: the store of SYN.SIGNAL, the read of SYN.WAIT, and the count of SYN.FENCE. -/
theorem synchronisation : Obligations.Synchronisation := by
  unfold Obligations.Synchronisation
  refine ⟨?_, ?_, ?_⟩
  · intro c e s s1 x h hmis hh hwf hc hspan halign
    have ⟨_, _, _, herrs, _⟩ := hh
    obtain ⟨t, hexec, hends, hdev, hob⟩ := exec_synSignal h hh hc hspan
    have hmem : s1.mem = s.mem := by
      have := (startOf_runs h (fun _ => rfl) (fun _ => rfl) fun _ => rfl).1.mem
      rwa [show circOf 0x0801 c e s = e from rfl, miscorrect_clean _ s herrs] at this
    have hwfd : Memory.wfOf 0 s1.mem.dev = true := (memOk_iff.1 hwf).1
    refine ⟨t, hexec, hends, ?_, fun a ha => ?_, hob.trans (by rw [hmem])⟩
    · rw [hdev]
      exact memRead_stored (w := (synObj x.par, leBytes 8 (synSet x.par))) hwfd (List.pairwise_singleton ..) (List.mem_singleton.2 rfl)
    · rw [hdev, memGet_stored_outside hwfd, hmem]
      intro w hw
      obtain rfl := List.mem_singleton.1 hw
      exact ha
  · intro c e s s1 x h herrs hfault
    have hstart := (startOf_runs h (fun _ => rfl) (fun _ => rfl) fun _ => rfl).1
    rw [show circOf 0x0802 c e s = e from rfl, miscorrect_clean _ s herrs] at hstart
    have hread : synRead x s1 = synRead x s := by
      unfold synRead
      rw [hstart.readNat]
    obtain ⟨y, -, hye, hpar, ho, -, hready⟩ := startOf_ready h (fun _ => rfl) (fun _ => rfl) fun _ => rfl
    have hyread : synRead y s = synRead x s := by
      unfold synRead
      rw [ho, hpar]
    obtain ⟨t, hexec, hdev, hob, hfailed, hreached⟩ := exec_synWait h ((hstart.readFault ..).trans hfault)
    rw [hread] at hfailed hreached
    refine ⟨?_, t, hexec, hdev.trans (by rw [hstart.mem]), hob.trans (by rw [hstart.mem]), hfailed, hreached⟩
    have hy : readFault s y.o y.e (synObj x.par) 32 = none := by
      rw [ho, hye]
      exact hfault
    simpa [waitFamily, hyread, hy, hpar] using hready
  · intro c e s s1 x h
    obtain ⟨hstart, hruns⟩ := startOf_runs h (fun _ => rfl) (fun _ => rfl) fun _ => rfl
    obtain ⟨y, hyc, -, -, -, -, hready⟩ := startOf_ready h (fun _ => rfl) (fun _ => rfl) fun _ => rfl
    obtain ⟨hdone, hrecs⟩ := fenceReady_spec (x := y) hready
    rw [hyc] at hdone hrecs
    obtain ⟨rfl, -⟩ := startOf_ctx h
    obtain ⟨hends, hleft, hdev, hob⟩ := fenceWork_spec (startOf_cmd h).1
    rw [hruns.failed] at hends
    exact ⟨hdone, hrecs, _, congrArg Outcome.next (runCmd_start h), hends, hleft, hdev,
      hob.trans ((congrArg (·.ob) hstart.mem).trans (miscorrect_ob ..))⟩

end Sys2Proof.Machine
end

section
/-!
PROOFS. SUP.QUEUE changes the state of the queue it names as the table of R354 says.
-/
namespace Sys2Proof.Machine
open Host

/-! ### Admission of a control command -/

/-- A control command that passes stage 3 stands in the control queue, and its family does not refuse it (R344). -/
theorem stage3_control {op : Nat} {f : Family} {x : Ctx} {s : State} (hop : isControl op = true) (hne : op ≠ 0x0901)
    (h : stage3 op f x s = none) : x.c.q = .hw 0 ∧ f.refuse x s = none := by
  unfold stage3 at h
  dsimp only at h
  repeat' split at h
  case isFalse.isFalse.isFalse.isFalse.isFalse.isTrue hbegin =>
    simp [hne] at hbegin
  case isFalse.isFalse.isFalse.isFalse.isFalse.isFalse.isFalse.isFalse hq _ _ _ _ =>
    exact ⟨by simpa [hop] using hq, h⟩
  all_goals cases h

/-! ### The table of R354 -/

theorem QueueOp.qid_lt (v : Nat) : (QueueOp.parse v).qid < 2 ^ 20 := fld_lt v 35 16

/-- What each operation needs, and the state that it leads to. -/
theorem QueueOp.next_spec {p : QueueOp} {q : Queue} {st : QState} (h : p.next q = .inl st) :
    (p.op = 0 → q.state = .closed ∧ st = .opened) ∧ (p.op = 1 → q.state = .opened ∧ st = .paused) ∧
      (p.op = 2 → q.state = .paused ∧ st = .opened) ∧ (p.op = 3 → (q.state = .opened ∨ q.state = .paused) ∧ st = .draining) ∧
      (p.op = 4 → (q.state = .opened ∨ q.state = .paused) ∧ q.idle = true ∧ st = .closed) ∧ (p.op = 5 → st = q.state) := by
  have hidle : ∀ {b : Bool} {x : Nat}, (if b then Sum.inl QState.closed else Sum.inr x) = Sum.inl st → b = true ∧ st = .closed := by
    intro b x hb
    cases b with
    | false => cases hb
    | true => exact ⟨rfl, (Sum.inl.inj hb).symm⟩
  unfold QueueOp.next at h
  split at h
  case h_6 hop hq => simp [hop, hq, hidle h]
  case h_7 hop hq => simp [hop, hq, hidle h]
  case h_8 hop =>
    obtain rfl := Sum.inl.inj h
    simp [hop]
  case h_9 => cases h
  all_goals
    rename_i hop hq
    obtain rfl := Sum.inl.inj h
    simp [hop, hq]

/-! ### The work of SUP.QUEUE -/

/-- The completion of a command of a hardware queue ends no run. -/
theorem complete_sup {n : BitVec 20} {i : Nat} (o : Out) (s : State) : (complete ⟨.hw n, i⟩ o s).sup = s.sup := by
  unfold complete
  split
  · rfl
  · rename_i k hk
    dsimp only [afterImage]
    rw [finishTask_sup]
    split
    · simp [addFailed_sup]
    · simp [addFailed_sup]

/-- The queue that an operation leaves. -/
def QueueOp.after (p : QueueOp) (q : Queue) (st : QState) : Queue := if p.op = 0 then p.openQ q else { q with state := st }

theorem queueWork_eq {x : Ctx} {s : State} {st : QState}
    (h : (QueueOp.parse x.par).next (queueOf s (QueueOp.parse x.par).qid) = .inl st) :
    queueFamily.work x s =
      let p := QueueOp.parse x.par
      let q1 := p.after (queueOf s p.qid) st
      complete x.c { reply := some (queueReply q1) } (setQ (.hw (BitVec.ofNat 20 p.qid)) q1 s) := by
  simp only [queueFamily, h]
  rfl

theorem getQ_hw {n : Nat} (hn : n < 2 ^ 20) (s : State) : getQ s (.hw (BitVec.ofNat 20 n)) = queueOf s n := by
  simp only [getQ, BitVec.toNat_ofNat, Nat.mod_eq_of_lt hn]

theorem Runs.queueOf {r : QRef} {s t : State} (h : Runs r s t) {n : Nat} (hn : n < 2 ^ 20) (hne : QRef.hw (BitVec.ofNat 20 n) ≠ r) :
    queueOf t n = queueOf s n := by
  have := h.others _ hne
  rwa [getQ_hw hn, getQ_hw hn] at this

theorem hw_ne_zero {n : Nat} (hn : n < 2 ^ 20) (h0 : n ≠ 0) : QRef.hw (BitVec.ofNat 20 n) ≠ .hw 0 := fun h => h0 (by
  have := congrArg BitVec.toNat (QRef.hw.inj h)
  rwa [BitVec.toNat_ofNat, Nat.mod_eq_of_lt hn] at this)


/-- Settles O23: the operation leads from the state of the queue it names; its own completion changes the control queue alone. -/
theorem queueCommands : Obligations.QueueCommands := by
  unfold Obligations.QueueCommands
  intro c e s s1 x h
  extract_lets p q
  intro hqid
  have hlt : p.qid < 2 ^ 20 := QueueOp.qid_lt x.par
  obtain ⟨hstart, hruns⟩ := startOf_runs h (fun _ => rfl) (fun _ => rfl) fun _ => rfl
  obtain ⟨y, hyc, -, hpar, -, hstage, -⟩ := startOf_ready h (fun _ => rfl) (fun _ => rfl) fun _ => rfl
  obtain ⟨hcq, hrefuse⟩ := stage3_control rfl (by decide) hstage
  rw [hyc] at hcq
  -- the operation is one of the table
  have hnext : ∃ st, p.next q = .inl st := by
    simp only [queueFamily, hpar] at hrefuse
    split at hrefuse
    · cases hrefuse
    · split at hrefuse
      · exact ⟨_, ‹_›⟩
      · cases hrefuse
  obtain ⟨st, hnext⟩ := hnext
  -- the work, and the queues around it
  obtain ⟨hxc, -⟩ := startOf_ctx h
  obtain ⟨⟨r, i⟩, rfl⟩ : ∃ z, z = c := ⟨c, rfl⟩
  obtain rfl : r = .hw 0 := hcq
  have hexec := congrArg (Outcome.next (φ := Fault) (ρ := Refusal)) (runCmd_start h)
  have hq1 : queueOf s1 p.qid = q := hruns.queueOf hlt (hw_ne_zero hlt hqid)
  rw [queueWork_eq (hq1.symm ▸ hnext)] at hexec
  dsimp only at hexec
  rw [hq1, hxc] at hexec
  generalize hu : setQ (.hw (BitVec.ofNat 20 p.qid)) (p.after q st) s1 = u at hexec
  have hne := hw_ne_zero hlt hqid
  have hcmd : cmdOf u ⟨.hw 0, i⟩ = some x.cmd := by
    rw [← (startOf_cmd h).1, ← hu]
    unfold cmdOf
    rw [getQ_setQ_ne _ _ hne.symm]
  have hdone := complete_runs (o := { reply := some (queueReply (p.after q st)) }) hcmd rfl
  generalize ht : complete ⟨.hw 0, i⟩ { reply := some (queueReply (p.after q st)) } u = t at hexec hdone
  have htq : queueOf t p.qid = p.after q st := by
    rw [hdone.queueOf hlt hne, ← hu, ← getQ_hw hlt]
    exact (getQ_setQ_self ..).resolve_right fun h => nomatch h.1
  have hends : endsAs t ⟨.hw 0, i⟩ stOk (queueReply (queueOf t p.qid)) := by
    rw [htq, ← ht]
    exact complete_done hcmd rfl
  obtain ⟨h0, h1, h2, h3, h4, h5⟩ := QueueOp.next_spec hnext
  have hopen : p.op ≠ 0 → queueOf t p.qid = { q with state := st } := fun hop => htq.trans (if_neg hop)
  refine ⟨t, hexec, hends, fun hop => ⟨(h0 hop).1, ?_⟩, fun hop => ⟨(h1 hop).1, ?_⟩, fun hop => ⟨(h2 hop).1, ?_⟩,
    fun hop => ⟨(h3 hop).1, ?_⟩, fun hop => ⟨(h4 hop).1, (h4 hop).2.1, ?_⟩, fun hop => ?_, fun n hn hn0 => ?_, ?_, ?_, ?_, ?_⟩
  · rw [htq, QueueOp.after, if_pos hop]
    exact ⟨rfl, rfl, rfl, rfl, rfl, rfl, rfl, rfl, rfl, rfl, rfl, rfl, rfl, rfl, rfl, rfl, rfl⟩
  · rw [hopen (by omega), (h1 hop).2]
  · rw [hopen (by omega), (h2 hop).2]
  · rw [hopen (by omega), (h3 hop).2]
  · rw [hopen (by omega), (h4 hop).2.2]
  · rw [hopen (by omega), h5 hop]
  · rcases lt_or_ge n (2 ^ 20) with hlt' | hfar
    · have hnq : QRef.hw (BitVec.ofNat 20 n) ≠ .hw (BitVec.ofNat 20 p.qid) := fun heq => hn (by
        have := congrArg BitVec.toNat (QRef.hw.inj heq)
        rwa [BitVec.toNat_ofNat, BitVec.toNat_ofNat, Nat.mod_eq_of_lt hlt', Nat.mod_eq_of_lt hlt] at this)
      rw [hdone.queueOf hlt' (hw_ne_zero hlt' hn0), ← hu, ← getQ_hw hlt', getQ_setQ_ne _ _ hnq, getQ_hw hlt',
        hruns.queueOf hlt' (hw_ne_zero hlt' hn0)]
    · rw [hdone.far n hfar, ← hu, queueOf_setQ_far _ _ _ hfar, hruns.far n hfar]
  · rw [← ht, (complete_completionWork ..).dev, ← hu]
    rfl
  · rw [← ht, (complete_completionWork ..).ob, ← hu]
    exact (congrArg (·.ob) hstart.mem).trans (miscorrect_ob ..)
  · rw [← ht, complete_sup, ← hu]
    exact hstart.sup.trans (miscorrect_sup ..)
  · rw [← ht, (complete_completionWork ..).time, ← hu]
    exact hstart.time.trans (miscorrect_time ..)

end Sys2Proof.Machine
end

section
/-!
PROOFS. The control queue and the queue table (R334, R335, R358).
-/
namespace Sys2Proof.Machine
open Host

/-! ### SUP_CQ_CFG -/

theorem openWrite_opens {s : State} {v : Word} (hstate : s.sup.dstate = .ready) (hclosed : cqOpen s = false)
    (htable : spanBorug s.regs.qtbBase.toNat 0x4000000 = true) (hlo : 4 ≤ fld v.toNat 4 0) (hhi : fld v.toNat 4 0 ≤ 16) :
    openWrite v s = openControl (cqStore v s) := by
  have hok : cqCfgOk v s = true := by simp [cqCfgOk, within, inReady, hstate, hclosed, hlo, hhi]
  simp [openWrite, hok, hclosed, inReady, hstate, htable]

theorem openControl_queue (s : State) : queueOf (openControl s) 0 =
    { state := .opened, lc := true, nl := 3, gen := 3, log2 := s.regs.cqLog2, irqEn := s.regs.cqIrqEn, job := 0
      cmdAddr := s.regs.cqCmd.toNat, cplAddr := s.regs.cqCpl.toNat, serial := (queueOf s 0).serial } := by
  simp [openControl, setQ, queueOf, look_put]

theorem queueOf_setQ_ne {n : BitVec 20} {m : Nat} (h : m ≠ n.toNat) (q : Queue) (s : State) :
    queueOf (setQ (.hw n) q s) m = queueOf s m := by
  simp [setQ, queueOf, look_put, h]

theorem queueOf_setQ (n : BitVec 20) (q : Queue) (s : State) : queueOf (setQ (.hw n) q s) n.toNat = q := by
  simp [setQ, queueOf, look_put]

theorem exec_controlQueueOpen {s : State} (h : reachable s = true) (v : Word) :
    exec (.controlQueueOpen v) s = .next (openWrite v s) := congrArg Outcome.next (if_pos h)

/-- The offsets of SUP_CQ_CMD, SUP_CQ_CPL and SUP_CQ_CFG. -/
theorem exec_controlRingConfigWrite {s : State} (h : reachable s = true) {o : BitVec 16}
    (ho : o ∈ [0x10#16, 0x14#16, 0x18#16, 0x1C#16, 0x20#16]) (v : Word) :
    exec (.controlRingConfigWrite o v) s = .next (ringWrite o.toNat v s) := by
  have hoff : (o.toNat == 0x10 || o.toNat == 0x14 || o.toNat == 0x18 || o.toNat == 0x1C || o.toNat == 0x20) = true := by
    simp only [List.mem_cons, List.not_mem_nil, or_false] at ho
    rcases ho with rfl | rfl | rfl | rfl | rfl <;> rfl
  exact congrArg Outcome.next (if_pos (by rw [h, hoff]; rfl))

theorem ringWrite_open {v : Word} (h : bit v.toNat 5 = true) (s : State) : ringWrite 0x20 v s = openWrite v s := by
  simp [ringWrite, h]

/-! ### The ring addresses and QTB_BASE -/

theorem halfWrite_low_keeps (a : BitVec 48) (v : Word) (n : Nat) : (halfWrite a false v n).toNat / 2 ^ 32 = a.toNat / 2 ^ 32 := by
  have ha := a.isLt
  have hv : v.toNat / 2 ^ n * 2 ^ n < 2 ^ 32 := (Nat.div_mul_le_self ..).trans_lt v.isLt
  simp only [halfWrite, Bool.false_eq_true, if_false, BitVec.toNat_ofNat]
  omega

theorem halfWrite_high_keeps (a : BitVec 48) (v : Word) (n : Nat) : (halfWrite a true v n).toNat % 2 ^ 32 = a.toNat % 2 ^ 32 := by
  simp only [halfWrite, if_true, BitVec.toNat_ofNat]
  omega

/-- The ring addresses with a half written at its offset. -/
def ringRegs (o : Nat) (v : Word) (r : Regs) : Regs :=
  match o with
  | 0x10 => { r with cqCmd := halfWrite r.cqCmd false v 12 }
  | 0x14 => { r with cqCmd := halfWrite r.cqCmd true v 0 }
  | 0x18 => { r with cqCpl := halfWrite r.cqCpl false v 12 }
  | 0x1C => { r with cqCpl := halfWrite r.cqCpl true v 0 }
  | _ => r

def ringOffsets : List (BitVec 16) := [0x10#16, 0x14#16, 0x18#16, 0x1C#16]

theorem ringWrite_ready {s : State} (hstate : s.sup.dstate = .ready) (hclosed : cqOpen s = false) {o : BitVec 16}
    (ho : o ∈ ringOffsets) (v : Word) : ringWrite o.toNat v s = setRegs s (ringRegs o.toNat v s.regs) := by
  simp only [ringOffsets, List.mem_cons, List.not_mem_nil, or_false] at ho
  rcases ho with rfl | rfl | rfl | rfl <;> simp [ringWrite, ringRegs, inReady, hstate, hclosed]

theorem ringWrite_held {s : State} {off : Nat} (h : (!inReady s || cqOpen s) = true) (hcfg : off ≠ 0x20) (v : Word) :
    ringWrite off v s = ignoreWrite (0x0F0000000000 + off) s := by
  unfold ringWrite
  rw [if_neg hcfg, if_pos h]

theorem ringOffset_ne {o : BitVec 16} (ho : o ∈ ringOffsets) : o.toNat ≠ 0x20 := by
  simp only [ringOffsets, List.mem_cons, List.not_mem_nil, or_false] at ho
  rcases ho with rfl | rfl | rfl | rfl <;> decide

theorem ringWrite_ignored {s : State} (h : s.sup.dstate ≠ .ready ∨ cqOpen s = true) {o : BitVec 16} (ho : o ∈ ringOffsets)
    (v : Word) : ringWrite o.toNat v s = ignoreWrite (0x0F0000000000 + o.toNat) s :=
  ringWrite_held (by rcases h with h | h <;> simp [inReady, h]) (ringOffset_ne ho) v

theorem ringRegs_frame {o : BitVec 16} (ho : o ∈ ringOffsets) (v : Word) (r : Regs) :
    ringRegs o.toNat v r = { r with cqCmd := (ringRegs o.toNat v r).cqCmd, cqCpl := (ringRegs o.toNat v r).cqCpl } := by
  simp only [ringOffsets, List.mem_cons, List.not_mem_nil, or_false] at ho
  rcases ho with rfl | rfl | rfl | rfl <;> simp [ringRegs]

theorem exec_qtbBaseWrite {s : State} (h : reachable s = true) (hi : Bool) (v : Word) :
    exec (.qtbBaseWrite hi v) s = .next (if inReady s && allClosed s then
        setRegs s { s.regs with qtbBase := halfWrite s.regs.qtbBase hi v (if hi then 0 else 26) }
      else ignoreWrite (if hi then 0x0F0000010014 else 0x0F0000010010) s) :=
  congrArg Outcome.next (if_neg (by simp [h]))

theorem regRead_cqCmdLo (s : State) : regRead s 0x0F0000000010 = some (s.regs.cqCmd.toNat % 2 ^ 32) := rfl
theorem regRead_cqCmdHi (s : State) : regRead s 0x0F0000000014 = some (s.regs.cqCmd.toNat / 2 ^ 32) := rfl
theorem regRead_cqCplLo (s : State) : regRead s 0x0F0000000018 = some (s.regs.cqCpl.toNat % 2 ^ 32) := rfl
theorem regRead_cqCplHi (s : State) : regRead s 0x0F000000001C = some (s.regs.cqCpl.toNat / 2 ^ 32) := rfl

/-! ### The obligation -/

/-- Settles O31: OPEN, the four halves of the ring addresses, and the two of QTB_BASE. -/
theorem controlQueue : Obligations.ControlQueue := by
  unfold Obligations.ControlQueue
  refine ⟨fun s v hreach hstate hclosed htable hlo hhi hopen => ?_, fun s v hreach => ⟨fun hstate hclosed => ?_, fun h o ho => ?_⟩,
    fun s hi v hreach => ⟨fun hstate hclosed => ?_, fun h => ?_⟩⟩
  · have hopens := openWrite_opens hstate hclosed htable hlo hhi
    have hring : exec (.controlRingConfigWrite 0x20 v) s = .next (openWrite v s) :=
      (exec_controlRingConfigWrite hreach (by simp) v).trans (congrArg _ (ringWrite_open hopen s))
    refine ⟨_, exec_controlQueueOpen hreach v, hring, ?_⟩
    rw [hopens]
    have hq := openControl_queue (cqStore v s)
    refine ⟨?_, fun n hn => queueOf_setQ_ne (n := 0) hn _ _, rfl, rfl, rfl, rfl⟩
    rw [hq]
    exact ⟨rfl, rfl, rfl, rfl, rfl, rfl, rfl, rfl, rfl, rfl, rfl, rfl, rfl, rfl⟩
  · refine ⟨fun o => setRegs s (ringRegs o.toNat v s.regs), fun o ho => ⟨?_, ?_⟩, ?_, ?_, ?_, ?_⟩
    · rw [exec_controlRingConfigWrite hreach (List.mem_append_left [0x20#16] ho), ringWrite_ready hstate hclosed ho]
    · exact congrArg (setRegs s) (ringRegs_frame ho v s.regs)
    · exact (regRead_cqCmdLo _).trans (congrArg some (halfWrite_low ..))
    · exact (regRead_cqCmdHi _).trans (congrArg some (halfWrite_high _ _ 0))
    · exact (regRead_cqCplLo _).trans (congrArg some (halfWrite_low ..))
    · exact (regRead_cqCplHi _).trans (congrArg some (halfWrite_high _ _ 0))
  · rw [exec_controlRingConfigWrite hreach (List.mem_append_left [0x20#16] ho), ringWrite_ignored h ho]
    rfl
  · refine ⟨_, exec_qtbBaseWrite hreach hi v, ?_⟩
    rw [if_pos (by simp [inReady, hstate, hclosed])]
    refine ⟨rfl, ?_⟩
    cases hi with
    | true => exact ⟨congrArg some (halfWrite_high _ _ 0), congrArg some (halfWrite_high_keeps _ _ 0)⟩
    | false => exact ⟨congrArg some (halfWrite_low ..), congrArg some (halfWrite_low_keeps _ _ 26)⟩
  · rw [exec_qtbBaseWrite hreach, if_neg]
    · rfl
    · rcases h with h | h <;> simp [inReady, h]

end Sys2Proof.Machine
end

section
/-!
PROOFS. Doorbells (R338), held interrupt messages (R360) and the end of a drain (R354).
-/
namespace Sys2Proof.Machine
open Host

/-! ### Doorbells -/

theorem doorbell_fails {v : DWord} {s : State}
    (h : doorbellOk (queueOf s (fld v.toNat 19 0)) (bit v.toNat 20) (fld v.toNat 63 32) = false) :
    doorbell v s = badDoorbell (fld v.toNat 19 0) s := by
  simp [doorbell, h]

theorem doorbell_command {v : DWord} {s : State} (hkind : bit v.toNat 20 = false)
    (h : doorbellOk (queueOf s (fld v.toNat 19 0)) false (fld v.toNat 63 32) = true) :
    doorbell v s = setQ (.hw (BitVec.ofNat 20 (fld v.toNat 19 0)))
      { queueOf s (fld v.toNat 19 0) with tail := BitVec.ofNat 32 (fld v.toNat 63 32) } s := by
  simp [doorbell, hkind, h]

theorem doorbell_completion {v : DWord} {s : State} (hkind : bit v.toNat 20 = true)
    (h : doorbellOk (queueOf s (fld v.toNat 19 0)) true (fld v.toNat 63 32) = true) :
    doorbell v s = setQ (.hw (BitVec.ofNat 20 (fld v.toNat 19 0)))
      { queueOf s (fld v.toNat 19 0) with cplHead := BitVec.ofNat 32 (fld v.toNat 63 32) } s := by
  simp [doorbell, hkind, h]

/-- A row that sets one queue, as the statements say it. -/
theorem setQ_frame {n : Nat} (hn : n < 2 ^ 20) (q : Queue) (s : State) :
    let t := setQ (.hw (BitVec.ofNat 20 n)) q s
    queueOf t n = q ∧ (∀ m, m ≠ n → queueOf t m = queueOf s m) ∧ t = { s with queues := { s.queues with qs := t.queues.qs } } := by
  have hnat : (BitVec.ofNat 20 n).toNat = n := Nat.mod_eq_of_lt hn
  refine ⟨?_, fun m hm => queueOf_setQ_ne (hnat.symm ▸ hm) q s, rfl⟩
  have := queueOf_setQ (BitVec.ofNat 20 n) q s
  rwa [hnat] at this

theorem exec_commandDoorbell {s : State} (h : reachable s = true) (v : DWord) :
    exec (.commandDoorbell [] v) s = .next (doorbell v s) := congrArg Outcome.next (if_pos h)

theorem exec_completionDoorbell {s : State} (h : reachable s = true) (v : DWord) :
    exec (.completionDoorbell v) s = .next (doorbell v s) := congrArg Outcome.next (if_pos h)

/-- A doorbell changes queues and the two registers of R338 alone. -/
theorem doorbell_spec (v : DWord) (s : State) : ∃ q r, doorbell v s = { s with queues := q, regs := r } := by
  unfold doorbell
  dsimp only
  split
  · exact ⟨_, _, rfl⟩
  · exact ⟨_, _, rfl⟩

theorem doorbells {s : State} {v : DWord} (hreach : reachable s = true) :
    (let qid := fld v.toNat 19 0
     let n := fld v.toNat 63 32
     let q := queueOf s qid
     exec (.completionDoorbell v) s = exec (.commandDoorbell [] v) s ∧
     ((bit v.toNat 20 = false ∧ (q.state = .opened ∨ q.state = .paused) ∧ diff32 n q.fetched ≤ 2 ^ q.log2 ∧
         diff32 n q.tail.toNat ≤ 2 ^ q.log2 →
       ∃ t, exec (.commandDoorbell [] v) s = .next t ∧ queueOf t qid = { q with tail := BitVec.ofNat 32 n } ∧
         (∀ m, m ≠ qid → queueOf t m = queueOf s m) ∧ t = { s with queues := { s.queues with qs := t.queues.qs } }) ∧
      (bit v.toNat 20 = true ∧ q.state ≠ .closed ∧ diff32 n q.cplHead.toNat ≤ diff32 q.written q.cplHead.toNat →
       ∃ t, exec (.completionDoorbell v) s = .next t ∧ queueOf t qid = { q with cplHead := BitVec.ofNat 32 n } ∧
         (∀ m, m ≠ qid → queueOf t m = queueOf s m) ∧ t = { s with queues := { s.queues with qs := t.queues.qs } }) ∧
      ((bit v.toNat 20 = false ∧ (q.state = .closed ∨ q.state = .draining ∨ 2 ^ q.log2 < diff32 n q.fetched ∨
          2 ^ q.log2 < diff32 n q.tail.toNat)) ∨
        (bit v.toNat 20 = true ∧ (q.state = .closed ∨ diff32 q.written q.cplHead.toNat < diff32 n q.cplHead.toNat)) →
       exec (.commandDoorbell [] v) s = .next { s with regs := { s.regs with
         badDb := BitVec.ofNat 32 (min (2 ^ 32 - 1) (s.regs.badDb.toNat + 1)), badQid := BitVec.ofNat 20 qid } }))) := by
  extract_lets qid n q
  have hqid : qid < 2 ^ 20 := fld_lt v.toNat 19 0
  refine ⟨rfl, fun ⟨hkind, hstate, hfetched, htail⟩ => ?_, fun ⟨hkind, hstate, hhead⟩ => ?_, fun h => ?_⟩
  · have hok : doorbellOk q false n = true := by
      rcases hstate with hstate | hstate <;> simp [doorbellOk, hstate, hfetched, htail]
    exact ⟨_, (exec_commandDoorbell hreach v).trans (congrArg _ (doorbell_command hkind hok)), setQ_frame hqid _ s⟩
  · have hok : doorbellOk q true n = true := by simp [doorbellOk, hstate, hhead]
    exact ⟨_, (exec_completionDoorbell hreach v).trans (congrArg _ (doorbell_completion hkind hok)), setQ_frame hqid _ s⟩
  · have hbad : doorbellOk q (bit v.toNat 20) n = false := by
      rcases h with ⟨hkind, h⟩ | ⟨hkind, h⟩
      · rcases h with h | h | h | h <;> simp [doorbellOk, hkind, h]
      · rcases h with h | h <;> simp [doorbellOk, hkind, h]
    exact (exec_commandDoorbell hreach v).trans (congrArg _ (doorbell_fails hbad))

/-! ### Held messages and drains -/

/-- The row of a held message: its queue notes the instant, at which the message is sent. -/
theorem exec_irqModerationExpiry {s : State} {qid : BitVec 20} {m : Int} (hdue : (queueOf s qid.toNat).irqDue = true)
    (hlast : (queueOf s qid.toNat).lastMsg = some m) (hon : s.sup.dstate ≠ .off) :
    let q := queueOf s qid.toNat
    let at1 := (m + 1000 * (q.irqMod : Int)).toNat
    s.time.now.toNat ≤ at1 → at1 < 2 ^ 64 → ∃ u : State, exec (.irqModerationExpiry qid) s = .next (sendIrq q.irqVec qid.toNat u) ∧
      u = { s with time := u.time, queues := u.queues } ∧ u.time.now.toNat = at1 ∧
      queueOf u qid.toNat = { q with irqDue := false, lastMsg := some (at1 : Int) } := by
  intro q at1 hle hlt
  have hnow : (advanceTo at1 s).time.now.toNat = at1 := advanceTo_now_of_lt hon hle hlt
  refine ⟨setQ (.hw qid) { q with irqDue := false, lastMsg := some ((advanceTo at1 s).time.now.toNat : Int) } (advanceTo at1 s),
    congrArg Outcome.next ?_, ?_, hnow, ?_⟩
  · rw [hdue, hlast]
  · rw [advanceTo_eq at1 s]
    rfl
  · rw [queueOf_setQ, hnow]

/-- Such a message stands in its slot, with the count of its instant (R359). -/
theorem sendIrq_later {s u : State} {v q : Nat} (hu : u = { s with time := u.time, queues := u.queues })
    (hen : s.regs.irqEn = true) (hup : s.link.up = true) (hwin : spanWin s.regs.irqAddr.toNat 0x10000 = true) :
    sendIrq v q u = putComp (irqSlot s v) (irqBytes u v q) u := by
  have hregs : u.regs = s.regs := by rw [hu]
  have hlink : u.link = s.link := by rw [hu]
  rw [sendIrq_slot _ _ (hregs ▸ hen) (hlink ▸ hup) (hregs ▸ hwin)]
  simp only [irqSlot, compAddr, hregs]

theorem memRead_irq {v q : Nat} {s u : State} (hwf : Memory.wfOf 0 u.mem.comp = true) :
    memRead 0 (putComp (irqSlot s v) (irqBytes u v q) u).mem.comp (irqSlot s v) 16 = irqBytes u v q := by
  have := memRead_in (bs := irqBytes u v q) (a := irqSlot s v) hwf
  rwa [irqBytes_length] at this

/-- Settles O32: doorbells (`doorbells`), the stores of a command doorbell's row, a held message, the end of a drain. -/
theorem doorbellsAndQueueEvents : Obligations.DoorbellsAndQueueEvents := by
  unfold Obligations.DoorbellsAndQueueEvents
  refine ⟨fun s v hreach => doorbells hreach, fun s l v => ?_, fun s qid m => ?_, fun s qid hstate hidle => ?_⟩
  · refine ⟨_, rfl, ?_⟩
    split
    · obtain ⟨q, r, h⟩ := doorbell_spec v (companionStores l s)
      rw [h]
      exact ⟨rfl, rfl, rfl, rfl, rfl⟩
    · exact ⟨rfl, rfl, rfl, rfl, rfl⟩
  · extract_lets q at1
    intro hdue hlast hen hup hon hwf hwin hle hlt
    obtain ⟨u, hexec, hu, hnow, hq⟩ := exec_irqModerationExpiry hdue hlast hon hle hlt
    rw [sendIrq_later hu hen hup hwin] at hexec
    have hmem : u.mem = s.mem := by rw [hu]
    have hread := memRead_irq (v := q.irqVec) (q := qid.toNat) (s := s) (hmem.symm ▸ (memOk_iff.1 hwf).2.1)
    generalize ht : putComp (irqSlot s q.irqVec) (irqBytes u q.irqVec qid.toNat) u = t at hexec hread
    have htime : t.time = u.time := by rw [← ht, putComp_time]
    have hqueues : t.queues = u.queues := by rw [← ht, putComp_queues]
    have htmem : t.mem = { u.mem with comp := t.mem.comp } := by rw [← ht]; rfl
    rw [irqBytes, hnow] at hread
    refine ⟨t, hexec, ?_, ?_, hread, ?_, ?_, ?_, ?_⟩
    · rw [htime]
      exact hnow
    · rw [queueOf, hqueues, ← queueOf]
      exact hq
    · rw [htmem, hmem]
    · rw [htmem, hmem]
    · rw [← ht, putComp_sup, hu]
    · rw [← ht, putComp_regs, hu]
  · refine ⟨setQ (.hw qid) { queueOf s qid.toNat with state := .closed } s, congrArg Outcome.next (if_pos ?_), queueOf_setQ ..,
      fun n hn => queueOf_setQ_ne hn _ _, rfl⟩
    simp [hstate, hidle]

end Sys2Proof.Machine
end

section
/-!
PROOFS. A completion record in its ring (R346), and its interrupt message (R359, R360).
-/
namespace Sys2Proof.Machine
open Host

/-! ### The message of a record -/

/-- A record's message is enabled. -/
def msgOn (irq : Bool) (qid : Nat) (q : Queue) (s : State) : Prop :=
  irq = true ∧ s.regs.irqEn = true ∧
    (if decide (qid = 0) = true then s.regs.cqIrqEn = true ∧ s.regs.evEn.getLsbD 6 = true else q.irqEn = true)

/-- A message of the queue went less than its interval ago. -/
def msgSoon (qid : Nat) (q : Queue) (s : State) : Prop :=
  decide (qid = 0) = false ∧ ∃ t0, q.lastMsg = some t0 ∧ (s.time.now.toNat : Int) < t0 + 1000 * (q.irqMod : Int)

/-- What a record with IRQ does, as the row says it. -/
def recordMsg (irq : Bool) (qid : Nat) (s : State) : State := if irq then recordIrq qid s else s

theorem recordMsg_off {irq : Bool} {qid : Nat} {s : State} (h : ¬ msgOn irq qid (queueOf s qid) s) : recordMsg irq qid s = s := by
  unfold recordMsg
  split
  · rename_i hirq
    unfold recordIrq
    dsimp only
    split
    · rename_i hctl
      split
      · rename_i hcq
        unfold devIrq
        split
        · rename_i hev
          refine sendIrq_disabled _ _ (Bool.eq_false_iff.2 fun hen => h ⟨hirq, hen, ?_⟩)
          simp [hctl, hcq, hev]
        · rfl
      · rfl
    · rename_i hctl
      refine if_pos ?_
      by_contra hno
      simp only [Bool.or_eq_true, Bool.not_eq_true', not_or, Bool.not_eq_false] at hno
      exact h ⟨hirq, hno.2, by simp [hctl, hno.1]⟩
  · rfl

theorem recordMsg_soon {irq : Bool} {n : BitVec 20} {s : State} (hon : msgOn irq n.toNat (queueOf s n.toNat) s)
    (hsoon : msgSoon n.toNat (queueOf s n.toNat) s) :
    recordMsg irq n.toNat s = setQ (.hw n) { queueOf s n.toNat with irqDue := true } s := by
  obtain ⟨hirq, hen, hq⟩ := hon
  obtain ⟨hctl, t0, hlast, hlt⟩ := hsoon
  rw [hctl] at hq
  have hq : (queueOf s n.toNat).irqEn = true := hq
  simp [recordMsg, recordIrq, hirq, hen, hq, of_decide_eq_false hctl, hlast, hlt]

/-- Where the message of a record comes from: the control queue notes no instant (R359). -/
def msgNoted (n : BitVec 20) (s : State) : State :=
  if n.toNat = 0 then s else setQ (.hw n) { queueOf s n.toNat with lastMsg := some (s.time.now.toNat : Int) } s

theorem recordMsg_sends {irq : Bool} {n : BitVec 20} {s : State} (hon : msgOn irq n.toNat (queueOf s n.toNat) s)
    (hsoon : ¬ msgSoon n.toNat (queueOf s n.toNat) s) :
    recordMsg irq n.toNat s = sendIrq (if decide (n.toNat = 0) = true then 6 else (queueOf s n.toNat).irqVec)
      (if decide (n.toNat = 0) = true then 0 else n.toNat) (msgNoted n s) := by
  obtain ⟨hirq, hen, hq⟩ := hon
  by_cases hctl : n.toNat = 0
  · simp only [hctl, decide_true, if_true] at hq
    simp [recordMsg, recordIrq, devIrq, msgNoted, hirq, hq, hctl]
  · have hq : (queueOf s n.toNat).irqEn = true := by simpa [hctl] using hq
    have hlast : ∀ t0, (queueOf s n.toNat).lastMsg = some t0 →
        ¬ (s.time.now.toNat : Int) < t0 + 1000 * ((queueOf s n.toNat).irqMod : Int) :=
      fun t0 h hlt => hsoon ⟨decide_eq_false hctl, t0, h, hlt⟩
    cases hmsg : (queueOf s n.toNat).lastMsg with
    | none => simp [recordMsg, recordIrq, msgNoted, hirq, hen, hq, hctl, hmsg]
    | some t0 =>
      have hlate := hlast t0 hmsg
      simp [recordMsg, recordIrq, msgNoted, hirq, hen, hq, hctl, hmsg, hlate]

/-! ### The record -/

/-- The state with a record written to its slot. -/
def recordWritten (qid : BitVec 20) (l m : List Rec) (r : Rec) (s : State) : State :=
  let q := queueOf s qid.toNat
  setQ (.hw qid) { q with recs := l ++ m, written := q.written + 1 }
    (putComp (compAddr s (q.cplAddr + 32 * (q.written % 2 ^ q.log2))) (leBytes 32 (recordBits r (1 - q.written / 2 ^ q.log2 % 2))) s)

theorem exec_completionRecordWrite {s : State} {qid : BitVec 20} {c : CmdRef} {l m : List Rec} {r : Rec}
    (hsplit : splitRec c (queueOf s qid.toNat).recs = some (l, r, m)) (hreach : reachable s = true)
    (hrings : ringsOk (queueOf s qid.toNat) = true)
    (hroom : diff32 (queueOf s qid.toNat).written (queueOf s qid.toNat).cplHead.toNat < 2 ^ (queueOf s qid.toNat).log2)
    (hbefore : (l.any fun x => r.after.contains x.c) = false) (hwaits : r.waits.all (recorded s m) = true) :
    exec (.completionRecordWrite qid c) s = .next (recordMsg r.irq qid.toNat (recordWritten qid l m r s)) := by
  refine congrArg Outcome.next ?_
  rw [hsplit]
  refine if_pos ?_
  rw [hreach, hrings, hbefore, hwaits, decide_eq_true hroom]
  rfl

/-- A state with a record written, as far as the message is concerned. -/
structure Written (qid : BitVec 20) (a : Nat) (bits : List Byte) (q1 : Queue) (s u : State) : Prop where
  queue : queueOf u qid.toNat = q1
  others : ∀ n, n ≠ qid.toNat → queueOf u n = queueOf s n
  comp : u.mem.comp = memWrite 0 s.mem.comp a bits
  dev : u.mem.dev = s.mem.dev
  ob : u.mem.ob = s.mem.ob
  regs : u.regs = s.regs
  link : u.link = s.link
  sup : u.sup = s.sup
  time : u.time = s.time

theorem putComp_setQ_written (qid : BitVec 20) (a : Nat) (bits : List Byte) (q1 : Queue) (s : State) :
    Written qid a bits q1 s (setQ (.hw qid) q1 (putComp a bits s)) :=
  ⟨queueOf_setQ .., fun _ hn => queueOf_setQ_ne hn _ _, rfl, rfl, rfl, rfl, rfl, rfl, rfl⟩

theorem recordWritten_written (qid : BitVec 20) (l m : List Rec) (r : Rec) (s : State) :
    let q := queueOf s qid.toNat
    Written qid (compAddr s (q.cplAddr + 32 * (q.written % 2 ^ q.log2)))
      (leBytes 32 (recordBits r (1 - q.written / 2 ^ q.log2 % 2))) { q with recs := l ++ m, written := q.written + 1 } s
      (recordWritten qid l m r s) :=
  putComp_setQ_written ..

theorem Written.setQ {qid : BitVec 20} {a : Nat} {bits : List Byte} {q1 : Queue} {s u : State} (h : Written qid a bits q1 s u)
    (q2 : Queue) : Written qid a bits q2 s (setQ (.hw qid) q2 u) :=
  ⟨queueOf_setQ .., fun n hn => (queueOf_setQ_ne hn _ _).trans (h.others n hn), h.comp, h.dev, h.ob, h.regs, h.link, h.sup, h.time⟩

theorem msgNoted_written {qid : BitVec 20} {a : Nat} {bits : List Byte} {q1 : Queue} {s u : State} (h : Written qid a bits q1 s u) :
    Written qid a bits (if decide (qid.toNat = 0) = true then q1 else { q1 with lastMsg := some (s.time.now.toNat : Int) }) s
      (msgNoted qid u) := by
  unfold msgNoted
  by_cases hctl : qid.toNat = 0
  · simp only [hctl, decide_true, if_true]
    exact h
  · simp only [hctl, decide_false, if_false, Bool.false_eq_true]
    rw [h.queue, h.time]
    exact h.setQ _

theorem Written.read {qid : BitVec 20} {a : Nat} {bits : List Byte} {q1 : Queue} {s u : State} (h : Written qid a bits q1 s u)
    (hwf : Memory.wfOf 0 s.mem.comp = true) (hlen : bits.length = 32) :
    memRead 0 u.mem.comp a 32 = bits ∧ ∀ b, b < a ∨ a + 32 ≤ b → memGet 0 u.mem.comp b = memGet 0 s.mem.comp b := by
  rw [h.comp, ← hlen]
  refine ⟨memRead_in hwf, fun b hb => ?_⟩
  rw [memGet_memWrite _ _ _ hwf, if_neg (by omega)]

theorem Written.msgOn_iff {qid : BitVec 20} {a n : Nat} {bits : List Byte} {l : List Rec} {q : Queue} {s u : State}
    (h : Written qid a bits { q with recs := l, written := n } s u) (irq : Bool) :
    msgOn irq qid.toNat (queueOf u qid.toNat) u ↔ msgOn irq qid.toNat q s := by
  simp only [msgOn, h.queue, h.regs]

theorem Written.msgSoon_iff {qid : BitVec 20} {a n : Nat} {bits : List Byte} {l : List Rec} {q : Queue} {s u : State}
    (h : Written qid a bits { q with recs := l, written := n } s u) :
    msgSoon qid.toNat (queueOf u qid.toNat) u ↔ msgSoon qid.toNat q s := by
  simp only [msgSoon, h.queue, h.time]

theorem Written.irqSlot_eq {qid : BitVec 20} {a : Nat} {bits : List Byte} {q1 : Queue} {s u : State} (h : Written qid a bits q1 s u)
    (v : Nat) : irqSlot u v = irqSlot s v := by
  rw [irqSlot, irqSlot, compAddr, compAddr, h.regs]

theorem Written.irqBytes_eq {qid : BitVec 20} {a : Nat} {bits : List Byte} {q1 : Queue} {s u : State} (h : Written qid a bits q1 s u)
    (v n : Nat) : irqBytes u v n = irqBytes s v n := by
  rw [irqBytes, irqBytes, h.time]

/-- Companion memory apart, such a state is as it was. -/
theorem Written.putComp_frame {qid : BitVec 20} {a : Nat} {bits : List Byte} {q1 : Queue} {s u : State} (h : Written qid a bits q1 s u)
    (slot : Nat) (msg : List Byte) :
    let t := putComp slot msg u
    queueOf t qid.toNat = q1 ∧ (∀ n, n ≠ qid.toNat → queueOf t n = queueOf s n) ∧ t.mem.dev = s.mem.dev ∧ t.mem.ob = s.mem.ob ∧
      t.regs = s.regs ∧ t.sup = s.sup ∧ t.time = s.time :=
  ⟨h.queue, h.others, h.dev, h.ob, h.regs, h.sup, h.time⟩

/-- A state with a record written, and then a message in its slot. -/
theorem Written.message {qid : BitVec 20} {a : Nat} {bits : List Byte} {q1 : Queue} {s u : State} (h : Written qid a bits q1 s u)
    (hwf : Memory.wfOf 0 s.mem.comp = true) (hlen : bits.length = 32) (slot : Nat) {msg : List Byte} (hmsg : msg.length = 16) :
    memRead 0 (putComp slot msg u).mem.comp slot 16 = msg ∧
      (slot + 16 ≤ a ∨ a + 32 ≤ slot → memRead 0 (putComp slot msg u).mem.comp a 32 = bits) ∧
      ∀ b, b < a ∨ a + 32 ≤ b → b < slot ∨ slot + 16 ≤ b →
        memGet 0 (putComp slot msg u).mem.comp b = memGet 0 s.mem.comp b := by
  have hwfu : Memory.wfOf 0 u.mem.comp = true := h.comp ▸ memWrite_wf _ _ hwf
  have hcomp : (putComp slot msg u).mem.comp = memWrite 0 u.mem.comp slot msg := rfl
  obtain ⟨hread, hrest⟩ := h.read hwf hlen
  rw [hcomp]
  refine ⟨?_, fun hapart => ?_, fun b hb hslot => ?_⟩
  · rw [← hmsg]
    exact memRead_in hwfu
  · rw [memRead_out hwfu (by omega), hread]
  · rw [memGet_memWrite _ _ _ hwfu, if_neg (by omega), hrest b hb]

/-- Settles O34: the record (`recordWritten_written`), then its message: none, a held one, one in its slot, a dropped one. -/
theorem recordWrite : Obligations.RecordWrite := by
  unfold Obligations.RecordWrite
  intro s qid c l m r
  extract_lets q a bits q1 now ctl vec slot on soon
  intro hsplit hreach hrings hwf hroom hbefore hwaits
  have hwf : Memory.wfOf 0 s.mem.comp = true := (memOk_iff.1 hwf).2.1
  have hlen : bits.length = 32 := leBytes_length ..
  have hslot : irqSlot s vec = slot := rfl
  have hup : s.link.up = true := by
    simp only [reachable, Bool.and_eq_true] at hreach
    exact hreach.1.1
  have hw : Written qid a bits q1 s (recordWritten qid l m r s) := recordWritten_written ..
  have hexec := exec_completionRecordWrite hsplit hreach hrings hroom hbefore hwaits
  generalize recordWritten qid l m r s = u at hw hexec
  have hon : msgOn r.irq qid.toNat (queueOf u qid.toNat) u ↔ on := hw.msgOn_iff r.irq
  have hsoon : msgSoon qid.toNat (queueOf u qid.toNat) u ↔ soon := hw.msgSoon_iff
  clear_value bits a
  by_cases h1 : on
  · by_cases h2 : soon
    · rw [recordMsg_soon (hon.2 h1) (hsoon.2 h2), hw.queue] at hexec
      have hw := hw.setQ { q1 with irqDue := true }
      obtain ⟨hread, hrest⟩ := hw.read hwf hlen
      exact ⟨_, hexec, fun _ => ⟨hread, hrest, hw.regs⟩, fun h => absurd h1 h, fun _ _ => hw.queue, fun _ h => absurd h2 h,
        hw.others, hw.dev, hw.ob, hw.sup, hw.time⟩
    · rw [recordMsg_sends (hon.2 h1) (mt hsoon.1 h2), hw.queue] at hexec
      have hw := msgNoted_written hw
      generalize msgNoted qid u = u at hw hexec
      have hen : u.regs.irqEn = true := hw.regs ▸ h1.2.1
      have hupu : u.link.up = true := hw.link ▸ hup
      have hno : ¬ (¬ on ∨ soon) := fun h => h.elim (absurd h1) h2
      have hvec : (if decide (qid.toNat = 0) = true then 6 else q1.irqVec) = vec := rfl
      have hmsg : irqBytes s vec (if decide (qid.toNat = 0) = true then 0 else qid.toNat) =
        leBytes 8 (vec + (if ctl = true then 0 else qid.toNat) <<< 16) ++ leBytes 8 s.time.now.toNat := rfl
      rw [hvec] at hexec
      clear_value slot vec
      cases hwin : spanWin s.regs.irqAddr.toNat 0x10000 with
      | true =>
        rw [sendIrq_slot _ _ hen hupu (hw.regs ▸ hwin), hw.irqSlot_eq, hw.irqBytes_eq, hslot, hmsg] at hexec
        generalize leBytes 8 (vec + (if ctl = true then 0 else qid.toNat) <<< 16) ++ leBytes 8 s.time.now.toNat = msg at hexec hmsg ⊢
        have hread := hw.message hwf hlen slot (hmsg ▸ irqBytes_length s vec _)
        have hframe := hw.putComp_frame slot msg
        generalize putComp slot msg u = t at hexec hread hframe
        obtain ⟨hqueue, hothers, hdev, hob, hregs, hsup, htime⟩ := hframe
        exact ⟨t, hexec, fun h => absurd h hno, fun h => absurd h1 h, fun _ h => absurd h h2,
          fun _ _ => ⟨hqueue, fun _ => ⟨hregs, hread⟩, fun h => Bool.noConfusion h⟩, hothers, hdev, hob, hsup, htime⟩
      | false =>
        rw [sendIrq_dropped _ _ hen hupu (hw.regs ▸ hwin), logErr, hw.regs] at hexec
        obtain ⟨hread, hrest⟩ := hw.read hwf hlen
        exact ⟨_, hexec, fun h => absurd h hno, fun h => absurd h1 h, fun _ h => absurd h h2,
          fun _ _ => ⟨hw.queue, fun h => Bool.noConfusion h, fun _ => ⟨hread, hrest, rfl⟩⟩, hw.others, hw.dev, hw.ob, hw.sup, hw.time⟩
  · rw [recordMsg_off (mt hon.1 h1)] at hexec
    obtain ⟨hread, hrest⟩ := hw.read hwf hlen
    exact ⟨_, hexec, fun _ => ⟨hread, hrest, hw.regs⟩, fun _ => hw.queue, fun h => absurd h h1, fun h => absurd h h1,
      hw.others, hw.dev, hw.ob, hw.sup, hw.time⟩

end Sys2Proof.Machine
end

section
/-!
PROOFS. The fetch of a slot (R339 to R344). O33 takes every state, so also one whose list of queues holds a QID twice: the queue is
read from the first entry, but the failure of a lock group's picture (R317) looks through all of them, finds a member's command in
the second and completes the command of that name, which is the slot just refused.
-/
namespace Sys2Proof.Machine
open Host

theorem exec_slotFetch {s : State} {qid : BitVec 20} (hreach : reachable s = true) (hopen : (queueOf s qid.toNat).state ≠ .closed)
    (hrings : ringsOk (queueOf s qid.toNat) = true)
    (htail : (queueOf s qid.toNat).fetched % 2 ^ 32 ≠ (queueOf s qid.toNat).tail.toNat) :
    exec (.slotFetch qid) s = .next (fetchSlot qid.toNat s) := by
  refine congrArg Outcome.next (if_pos ?_)
  simp only [hreach, hrings, Bool.and_eq_true, bne_iff_ne, decide_eq_true_eq]
  exact ⟨⟨⟨trivial, hopen⟩, trivial⟩, htail⟩

/-- An open queue with one announced slot, at the start of the companion window. -/
def announced : Queue := { state := .opened, cmdAddr := winBase, cplAddr := winBase, tail := 1 }

/-- A queue with a waiting ENCODE of context 5, in slot 0. -/
def waitingMember : Queue := { state := .opened, cmds := [{ idx := 0, hdr := 0x0702, par := 1 + 5 <<< 256 }] }

/-- A part whose list of queues holds QID 1 twice, with contexts 0 and 5 in a lock group: the slot at the window's start holds an
ENCODE of context 0 with GEN 0. -/
def queuedTwice : State := { State.reset with
  link := { State.reset.link with up := true }
  sup := { State.reset.sup with dstate := .ready }
  queues := { State.reset.queues with qs := [(1, announced), (1, waitingMember)] }
  mem := { State.reset.mem with comp := [(0, 0x02), (1, 0x07), (20, 1), (64, 1)] }
  media := { State.reset.media with groups := [⟨[0, 5], [], false, none, [], []⟩] } }

/-- The slot's command is completed for the other entry's member (R317). -/
theorem fetchSlot_queuedTwice : (cmdOf (fetchSlot 1 queuedTwice) ⟨.hw 1, 0⟩).map (·.status) = some stMedia := by decide +kernel

theorem stage1_of_gen_ne {gen nl hdr par : Nat} {image hdrOk : Bool} {s : State} (h : hGen hdr ≠ gen) :
    stage1 gen nl image hdrOk hdr par s = stRefusedVersion := if_pos (.inl h)

/-- Refutes O33: with QID 1 twice in the list of queues (`queuedTwice`) a slot that fails stage 1 with ST_REFUSED_VERSION is
completed a second time, with ST_MEDIA. -/
theorem not_slotFetch : ¬ Obligations.SlotFetch := by
  unfold Obligations.SlotFetch
  intro h
  have hqueue : queueOf queuedTwice (1 : BitVec 20).toNat = announced := rfl
  have hreach : reachable queuedTwice = true := by decide +kernel
  have hrings : ringsOk announced = true := by decide +kernel
  have hgen : hGen (compNat queuedTwice (announced.cmdAddr + 1024 * (announced.fetched % 2 ^ announced.log2)) 64) ≠ announced.gen := by
    decide +kernel
  have hslot := h queuedTwice 1
  rw [hqueue] at hslot
  obtain ⟨t, k, hexec, hk, -, -, -, -, hfail, -⟩ := hslot hreach (by decide) hrings (by decide) (by decide)
  rw [exec_slotFetch hreach (by rw [hqueue]; decide) (by rwa [hqueue]) (by rw [hqueue]; decide)] at hexec
  obtain rfl := Outcome.next.inj hexec
  have hmedia : some k.status = some stMedia := by
    rw [← fetchSlot_queuedTwice, show cmdOf (fetchSlot 1 queuedTwice) ⟨.hw 1, 0⟩ = some k from hk]
    rfl
  rw [stage1_of_gen_ne hgen] at hfail
  have hversion : k.status = stRefusedVersion := (hfail (by decide)).2
  rw [hversion] at hmedia
  cases hmedia

end Sys2Proof.Machine
end

section
/-!
PROOFS. A device fault (R352, R353): with a control path every command of a queue completes, one after the other.
-/
namespace Sys2Proof.Machine
open Host

/-! ### What a completion leaves as it is -/

/-- Beside its own command's fields, a completion leaves the commands of every queue. -/
theorem complete_cmdOf {c : CmdRef} {o : Out} {s : State} {k : Cmd} (h : cmdOf s c = some k) (d : CmdRef) :
    cmdOf (complete c o s) d =
      cmdOf (modCmd c (Cmd.completed (o.settle c k s) (recordOf c k (o.settle c k s) (dropQuanta c s)).code) (dropQuanta c s)) d := by
  have hclasses : ∀ (b : Bool) (t : State), cmdOf (if b then countClasses k t else t) d = cmdOf t d := by
    intro b t
    split <;> rfl
  unfold complete
  rw [h]
  dsimp only
  rw [(afterImage_sameCmds _ _ _ _).cmdOf, (finishTask_sameCmds _ _ _ _).cmdOf, hclasses,
    (pushRec_sameCmds (ringOf_lt _ _) _ _).cmdOf, (addFailed_sameCmds _ _ _).cmdOf]

theorem complete_cmdOf_ne {c d : CmdRef} (hd : d ≠ c) (o : Out) (s : State) : cmdOf (complete c o s) d = cmdOf s d := by
  cases h : cmdOf s c with
  | none => rw [complete, h]
  | some k =>
    rw [complete_cmdOf h, cmdOf_modCmd_ne hd]
    rfl

/-- A command that is refused reports the refusal's code (R346). -/
theorem complete_refused {c : CmdRef} {s : State} {k : Cmd} (h : cmdOf s c = some k) (code : Nat) :
    refusedAs (complete c (refuse code) s) c code := by
  have hstatus : ((refuse code).settle c k s).status = stRefusedState := settle_status ..
  have hcode : (recordOf c k ((refuse code).settle c k s) (dropQuanta c s)).code = code := by
    dsimp only [recordOf, stateCode]
    rw [if_pos (.inl hstatus), settle_code]
    rfl
  refine ⟨k.completed ((refuse code).settle c k s) code, ?_, rfl, hstatus, rfl⟩
  rw [complete_cmdOf h, hcode, cmdOf_modCmd c (Cmd.completed _ code) (fun _ => rfl),
    show cmdOf (dropQuanta c s) c = some k from h]
  rfl

theorem finishTask_hw_img (n : BitVec 20) (k : Cmd) (o : Out) (s : State) : (finishTask (.hw n) k o s).img = s.img := by
  have hend : (if hLast k.hdr then modTask (.hw n) k.task (fun t => { t with finished := !t.rerun }) s else s).img = s.img := by
    split <;> rfl
  unfold finishTask
  split
  · rfl
  split
  · rfl
  extract_lets s1
  split
  · exact (releaseBanks_img ..).trans hend
  · exact hend

/-- The completion of a command of a hardware queue leaves the image section. -/
theorem complete_hw_img (n : BitVec 20) (i : Nat) (o : Out) (s : State) : (complete ⟨.hw n, i⟩ o s).img = s.img := by
  unfold complete
  split
  · rfl
  · rename_i k hk
    have hadd : ∀ t, (addFailed ⟨.hw n, i⟩ (o.settle ⟨.hw n, i⟩ k s) t).img = t.img := by
      intro t
      unfold addFailed
      split <;> rfl
    dsimp only [afterImage]
    rw [finishTask_hw_img]
    split <;> exact hadd _

/-! ### One command at the entry into FAULTED -/

theorem stopWork_cmdOf (c : CmdRef) (k : Cmd) (s : State) (d : CmdRef) : cmdOf (stopWork c k s) d = cmdOf s d := by
  unfold stopWork
  split <;> rfl

theorem stopWork_img (c : CmdRef) (k : Cmd) (s : State) : (stopWork c k s).img = s.img := by
  unfold stopWork
  split <;> rfl

theorem stopWork_aside (c : CmdRef) (k : Cmd) (s : State) : Aside s (stopWork c k s) := by
  unfold stopWork
  split
  · exact .refl s
  · exact ⟨rfl, rfl, rfl, rfl⟩

/-- The command is done already, or it completes; a started one stops its work first. -/
inductive FaultStep (s : State) (c : CmdRef) : State → Prop
  | skip : FaultStep s c s
  | waits (o : Out) : FaultStep s c (complete c o s)
  | stops (k : Cmd) (o : Out) (hk : cmdOf s c = some k) (hbegun : (isRunning k || isYielded k) = true) :
      FaultStep s c (complete c o (stopWork c k s))

theorem faultCmd_step (s : State) (x : CmdRef × Nat) : FaultStep s x.1 (faultCmd s x) := by
  unfold faultCmd
  split
  · exact .skip
  rename_i k hk
  split
  · exact .skip
  split
  · exact .waits _
  split
  · exact .stops k _ hk ‹_›
  split
  · exact .waits _
  · exact .skip

theorem faultCmd_of_done {s : State} {x : CmdRef × Nat} {k : Cmd} (hk : cmdOf s x.1 = some k) (hdone : k.ph = .done) :
    faultCmd s x = s := by
  simp [faultCmd, hk, hdone]

/-- A command of a hardware queue that has not started. -/
def Unstarted (k : Cmd) : Prop := k.ph ≠ .done ∧ isRunning k = false ∧ isYielded k = false

/-- Without an image run, no command stands in the image section. -/
theorem hw_of_cmdOf {c : CmdRef} {k : Cmd} {s : State} (hrun : s.img.run = none) (h : cmdOf s c = some k) : ∃ n, c.q = .hw n := by
  cases hq : c.q with
  | hw n => exact ⟨n, rfl⟩
  | img => simp [cmdOf, hq, getQ, hrun] at h

/-- It is refused; an SCH.RUN counts as unstarted while no image runs. -/
theorem faultCmd_unstarted {s : State} {x : CmdRef × Nat} {k : Cmd} (hk : cmdOf s x.1 = some k) (h : Unstarted k)
    (hrun : s.img.run = none) : faultCmd s x = complete x.1 (refuse 0x17) s := by
  obtain ⟨hdone, hrunning, hyielded⟩ := h
  obtain ⟨n, hq⟩ := hw_of_cmdOf hrun hk
  simp [faultCmd, hk, hdone, hrun, hrunning, hyielded, hq]

theorem FaultStep.cmdOf_ne {s t : State} {c d : CmdRef} (h : FaultStep s c t) (hd : d ≠ c) : cmdOf t d = cmdOf s d := by
  cases h with
  | skip => rfl
  | waits o => exact complete_cmdOf_ne hd o s
  | stops k o => rw [complete_cmdOf_ne hd, stopWork_cmdOf]

theorem FaultStep.aside {s t : State} {c : CmdRef} (h : FaultStep s c t) : Aside s t := by
  cases h with
  | skip => exact .refl s
  | waits o => exact (complete_completionWork c o s).aside
  | stops k o => exact (stopWork_aside c k s).trans (complete_completionWork ..).aside

theorem complete_noRun {s : State} (h : s.img.run = none) (c : CmdRef) (o : Out) : (complete c o s).img.run = none := by
  obtain ⟨r, i⟩ := c
  cases r with
  | hw n => rw [complete_hw_img, h]
  | img =>
    have hnone : cmdOf s ⟨.img, i⟩ = none := by simp [cmdOf, getQ, h]
    rw [complete, hnone]
    exact h

theorem FaultStep.noRun {s t : State} {c : CmdRef} (h : FaultStep s c t) (hrun : s.img.run = none) : t.img.run = none := by
  cases h with
  | skip => exact hrun
  | waits o => exact complete_noRun hrun c o
  | stops k o => exact complete_noRun ((congrArg (·.run) (stopWork_img c k s)).trans hrun) c o

/-! ### All commands -/

theorem foldl_faultCmd_noRun (l : List (CmdRef × Nat)) {s : State} (h : s.img.run = none) : (l.foldl faultCmd s).img.run = none := by
  induction l generalizing s with
  | nil => exact h
  | cons x l ih => exact ih ((faultCmd_step s x).noRun h)

theorem refusedAs_of_cmdOf_eq {s t : State} {c : CmdRef} {code : Nat} (h : cmdOf t c = cmdOf s c) (hs : refusedAs s c code) :
    refusedAs t c code := by
  rwa [refusedAs, h]

theorem faultCmd_keepsRefused {s : State} {c : CmdRef} {code : Nat} (h : refusedAs s c code) (x : CmdRef × Nat) :
    refusedAs (faultCmd s x) c code := by
  by_cases hx : c = x.1
  · have ⟨k, hk, hdone, _⟩ := h
    rwa [faultCmd_of_done (hx ▸ hk) hdone]
  · exact refusedAs_of_cmdOf_eq ((faultCmd_step s x).cmdOf_ne hx) h

theorem foldl_faultCmd_keepsRefused (l : List (CmdRef × Nat)) {s : State} {c : CmdRef} {code : Nat} (h : refusedAs s c code) :
    refusedAs (l.foldl faultCmd s) c code := by
  induction l generalizing s with
  | nil => exact h
  | cons x l ih => exact ih (faultCmd_keepsRefused h x)

theorem foldl_faultCmd_refuses {l : List (CmdRef × Nat)} {s : State} {c : CmdRef} {k : Cmd} (hrun : s.img.run = none)
    (hk : cmdOf s c = some k) (h : Unstarted k) (hmem : ∃ x ∈ l, x.1 = c) : refusedAs (l.foldl faultCmd s) c 0x17 := by
  induction l generalizing s with
  | nil => simp at hmem
  | cons x l ih =>
    by_cases hx : x.1 = c
    · refine foldl_faultCmd_keepsRefused l ?_
      rw [faultCmd_unstarted (hx ▸ hk) h hrun, ← hx]
      exact complete_refused (hx ▸ hk) 0x17
    · obtain ⟨y, hy, hyc⟩ := hmem
      have hyl : y ∈ l := (List.mem_cons.1 hy).resolve_left fun e => hx (e ▸ hyc)
      exact ih ((faultCmd_step s x).noRun hrun) (((faultCmd_step s x).cmdOf_ne (Ne.symm hx)).trans hk) ⟨y, hyl, hyc⟩

/-- No command is at work. -/
def NoneStarted (s : State) : Prop := ∀ c k, cmdOf s c = some k → isRunning k = false ∧ isYielded k = false

theorem complete_noneStarted {s : State} (h : NoneStarted s) (c : CmdRef) (o : Out) : NoneStarted (complete c o s) := by
  intro d j hj
  by_cases hd : d = c
  · subst hd
    cases hk : cmdOf s d with
    | none =>
      rw [complete, hk] at hj
      exact h d j hj
    | some k =>
      obtain ⟨code, hc⟩ := cmdOf_complete (o := o) hk
      obtain rfl := Option.some.inj (hc.symm.trans hj)
      exact ⟨rfl, rfl⟩
  · rw [complete_cmdOf_ne hd] at hj
    exact h d j hj

/-- Without started commands, what completes them leaves memory. -/
theorem foldl_faultCmd_settled (l : List (CmdRef × Nat)) {s : State} (h : NoneStarted s) : Settled s (l.foldl faultCmd s) := by
  induction l generalizing s with
  | nil => exact .refl s
  | cons x l ih =>
    rw [List.foldl_cons]
    have hstep : Settled s (faultCmd s x) ∧ NoneStarted (faultCmd s x) := by
      have hx := faultCmd_step s x
      generalize faultCmd s x = t at hx
      cases hx with
      | skip => exact ⟨.refl s, h⟩
      | waits o => exact ⟨(complete_completionWork ..).settled, complete_noneStarted h _ o⟩
      | stops k o hk hbegun =>
        obtain ⟨hrunning, hyielded⟩ := h _ k hk
        simp [hrunning, hyielded] at hbegun
    exact hstep.1.trans (ih hstep.2)

theorem mem_of_look {α : Type} {l : List (Nat × α)} {n : Nat} {a : α} (h : look l n = some a) : (n, a) ∈ l := by
  induction l with
  | nil => cases h
  | cons y l ih =>
    obtain ⟨j, b⟩ := y
    rw [look] at h
    split at h
    · rename_i hj
      rw [hj, Option.some.inj h]
      exact List.mem_cons_self ..
    · exact List.mem_cons_of_mem _ (ih h)

/-- A command's queue is among those with commands. -/
theorem mem_allQueues_of_cmdOf {s : State} {c : CmdRef} {k : Cmd} (h : cmdOf s c = some k) :
    ∃ q, (c.q, q) ∈ allQueues s ∧ k ∈ q.cmds ∧ k.idx = c.idx := by
  have hidx : k.idx = c.idx := by simpa using List.find?_some h
  have hmem : k ∈ (getQ s c.q).cmds := List.mem_of_find?_eq_some h
  cases hq : c.q with
  | hw n =>
    rw [hq, getQ, queueOf] at hmem
    cases hlook : look s.queues.qs n.toNat with
    | none => simp [hlook] at hmem
    | some q =>
      refine ⟨q, List.mem_append_left _ (List.mem_map.2 ⟨_, mem_of_look hlook, ?_⟩), by simpa [hlook] using hmem, hidx⟩
      rw [BitVec.ofNat_toNat, BitVec.setWidth_eq]
  | img =>
    rw [hq] at hmem
    cases hrun : s.img.run with
    | none => simp [getQ, hrun] at hmem
    | some r => exact ⟨r.q, by simp [allQueues, hrun], by simpa [getQ, hrun] using hmem, hidx⟩

/-! ### The entry into FAULTED -/

/-- The commands that complete, in their order. -/
def toFault (s : State) : List (CmdRef × Nat) := (allQueues s).flatMap fun x => x.2.cmds.map fun k => (⟨x.1, k.idx⟩, k.idx)

theorem faultAbort_dom (s : State) : ∃ d, faultAbort s = { s with dom := d } := by
  unfold faultAbort
  split
  · exact ⟨_, rfl⟩
  · exact ⟨_, rfl⟩

theorem completeAll_eq (s : State) : ∃ d : Dom, completeAll s =
    { (toFault s).foldl faultCmd s with dom := d, img := { ((toFault s).foldl faultCmd s).img with run := none } } := by
  generalize hs1 : (toFault s).foldl faultCmd s = s1
  obtain ⟨d, h⟩ := faultAbort_dom { s1 with dom := { s1.dom with out := s.dom.out, cols := [] } }
  refine ⟨d, ?_⟩
  rw [← hs1] at h ⊢
  exact congrArg (fun u : State => { u with img := { u.img with run := none } }) h

theorem completeAll_cmdOf {s : State} (hrun : s.img.run = none) (c : CmdRef) :
    cmdOf (completeAll s) c = cmdOf ((toFault s).foldl faultCmd s) c := by
  obtain ⟨d, h⟩ := completeAll_eq s
  have hnone := foldl_faultCmd_noRun (toFault s) hrun
  rw [h]
  obtain ⟨r, i⟩ := c
  cases r with
  | hw n => rfl
  | img => simp [cmdOf, getQ, hnone]

theorem completeAll_refuses {s : State} {c : CmdRef} {k : Cmd} (hrun : s.img.run = none) (hk : cmdOf s c = some k)
    (h : Unstarted k) : refusedAs (completeAll s) c 0x17 := by
  obtain ⟨q, hq, hmem, hidx⟩ := mem_allQueues_of_cmdOf hk
  refine refusedAs_of_cmdOf_eq (completeAll_cmdOf hrun c) (foldl_faultCmd_refuses hrun hk h ⟨(c, c.idx), ?_, rfl⟩)
  exact List.mem_flatMap.2 ⟨_, hq, List.mem_map.2 ⟨k, hmem, by rw [hidx]⟩⟩

theorem completeAll_aside (s : State) : Aside s (completeAll s) := by
  obtain ⟨d, h⟩ := completeAll_eq s
  rw [h]
  exact (foldl_aside (fun s x => (faultCmd_step s x).aside) (toFault s) s).trans ⟨rfl, rfl, rfl, rfl⟩

theorem completeAll_settled {s : State} (h : NoneStarted s) : Settled s (completeAll s) := by
  obtain ⟨d, hall⟩ := completeAll_eq s
  rw [hall]
  exact (foldl_faultCmd_settled (toFault s) h).trans ⟨⟨rfl, rfl, rfl, rfl⟩, rfl, rfl⟩

/-- The state in which the commands complete. -/
def faultedAt (s : State) : State := setDState .faulted { s with sup := { s.sup with ctlPath := true } }

theorem faultedAt_cmdOf (s : State) (c : CmdRef) : cmdOf (faultedAt s) c = cmdOf s c := by
  rw [faultedAt, (setDState_sameCmds _ _).cmdOf]
  rfl

theorem faultedAt_settled (s : State) : Settled s (faultedAt s) :=
  Settled.trans (t := { s with sup := { s.sup with ctlPath := true } }) ⟨⟨rfl, rfl, rfl, rfl⟩, rfl, rfl⟩
    (setDState_completionWork ..).settled

theorem setDState_img (d : DState) (s : State) : (setDState d s).img = s.img := by
  unfold setDState
  split
  · rfl
  · exact (devIrq_lineWork 0 { s with sup := { s.sup with dstate := d } }).img

/-- FAULTED is entered: neither a run nor a crossing is left, nor anything that the supervisors were to do. -/
def withoutRun (s : State) : State := { s with sup := { s.sup with
  run := none, cross := none, pend := [], runReq := false, runTest := false, runMs := 0, stopReq := none } }

theorem enterFaulted_eq (s : State) : enterFaulted true s = withoutRun (completeAll (faultedAt s)) := by
  simp only [enterFaulted, if_true]
  rfl

theorem withoutRun_refusedAs {s : State} {c : CmdRef} {code : Nat} (h : refusedAs s c code) : refusedAs (withoutRun s) c code :=
  refusedAs_of_cmdOf_eq ((sameCmds_of_eq rfl rfl : SameCmds s (withoutRun s)).cmdOf c) h

theorem faultedAt_img (s : State) : (faultedAt s).img = s.img := setDState_img ..

theorem exec_deviceFault {s : State} (path : Bool) (hoff : s.sup.dstate ≠ .off) (hfaulted : s.sup.dstate ≠ .faulted) :
    exec (.deviceFault path) s = .next (enterFaulted path (logErr .deviceFault s)) := by
  refine congrArg Outcome.next (if_neg ?_)
  simp [hoff, hfaulted]

theorem statusByte_faulted {s : State} (h : s.sup.dstate = .faulted) : (statusByte s).testBit 2 = true := by
  have hbits : ∀ a b d e f : Bool,
      (ofBool a + 2 * ofBool b + 4 * ofBool true + 8 * ofBool d + 16 * ofBool e + 32 * ofBool f).testBit 2 = true := by decide
  rw [statusByte, h]
  exact hbits ..

/-- Settles O51: the commands complete in turn (`completeAll_refuses`), and without a control path none does. -/
theorem deviceFaults : Obligations.DeviceFaults := by
  unfold Obligations.DeviceFaults
  refine ⟨fun s hoff hfaulted hrun => ?_, fun s hoff hfaulted => ?_⟩
  · have hstate : (enterFaulted true (logErr .deviceFault s)).sup.dstate = .faulted := enterFaulted_dstate ..
    have hexec := exec_deviceFault true hoff hfaulted
    have hlog : Settled s (logErr .deviceFault s) := ⟨⟨rfl, rfl, rfl, rfl⟩, rfl, rfl⟩
    have hfrom : ∀ c, cmdOf (faultedAt (logErr .deviceFault s)) c = cmdOf s c := fun c => (faultedAt_cmdOf _ c).trans rfl
    have hnone : (faultedAt (logErr .deviceFault s)).img.run = none := by
      rw [faultedAt_img, logErr_img, hrun]
    have hquiet : (∀ y ∈ allQueues s, ∀ k ∈ y.2.cmds, isRunning k = false ∧ isYielded k = false) →
        NoneStarted (faultedAt (logErr .deviceFault s)) := by
      intro h c k hk
      obtain ⟨q, hq, hmem, -⟩ := mem_allQueues_of_cmdOf ((hfrom c).symm.trans hk)
      exact h _ hq k hmem
    have haside := (hlog.trans (faultedAt_settled _)).aside.trans (completeAll_aside _)
    have hsettled := fun h => (hlog.trans (faultedAt_settled _)).trans (completeAll_settled (hquiet h))
    have hrefused := fun c k (hk : cmdOf s c = some k) => completeAll_refuses hnone ((hfrom c).trans hk)
    rw [enterFaulted_eq] at hstate hexec
    generalize completeAll (faultedAt (logErr .deviceFault s)) = u at *
    exact ⟨_, hexec, hstate, rfl, rfl, statusByte_faulted hstate,
      fun c k hk hdone hrunning hyielded => withoutRun_refusedAs (hrefused c k hk ⟨hdone, hrunning, hyielded⟩),
      fun h => ⟨(hsettled h).dev, (hsettled h).ob⟩, haside.flash, haside.time⟩
  · refine ⟨_, exec_deviceFault false hoff hfaulted, rfl, ?_, sameCmds_of_eq rfl rfl, rfl, rfl, rfl⟩
    simp [reachable, enterFaulted, refreshAlert]

end Sys2Proof.Machine
end

section
/-!
PROOFS. The end of a budget window (R386, R387, R389, R394, R395): the account that begins, the factors that learn, and the
quanta that are offered again.
-/
namespace Sys2Proof.Machine
open Host

/-! ### Learned factors (R389) -/

/-- A factor of R389 lies between one half and two. -/
def FactorOk (x : Nat) : Prop := 512 ≤ x ∧ x ≤ 2048

theorem learn_factorOk (m e c f : Nat) : FactorOk (learn m e c f) :=
  ⟨Nat.le_min.2 ⟨by decide, Nat.le_max_left ..⟩, Nat.min_le_left ..⟩

theorem set_factorOk {fs : List Nat} (h : ∀ x ∈ fs, FactorOk x) (i : Nat) {v : Nat} (hv : FactorOk v) :
    ∀ x ∈ fs.set i v, FactorOk x := fun x hx => by
  rcases List.mem_or_eq_of_mem_set hx with hx | rfl
  · exact h x hx
  · exact hv

theorem foldl_factorOk {α : Type} {f : List Nat → α → List Nat} (hf : ∀ fs a, (∀ x ∈ fs, FactorOk x) → ∀ x ∈ f fs a, FactorOk x)
    (l : List α) {fs : List Nat} (h : ∀ x ∈ fs, FactorOk x) : ∀ x ∈ l.foldl f fs, FactorOk x := by
  induction l generalizing fs with
  | nil => exact h
  | cons a r ih => exact ih (hf fs a h)

theorem learnAll_factorOk (dies : List (Nat × Nat)) (ran : List (Nat × Nat × Nat)) {fs : List Nat} (h : ∀ x ∈ fs, FactorOk x) :
    ∀ x ∈ learnAll dies ran fs, FactorOk x := by
  refine foldl_factorOk (fun fs d hfs => ?_) _ h
  dsimp only
  split
  · exact hfs
  · exact foldl_factorOk (fun fs y hfs => set_factorOk hfs _ (learn_factorOk ..)) _ hfs

/-- The quotient of the update over a common denominator is the rule's. -/
theorem learn_quotient {e : Nat} (he : 0 < e) (m c f : Nat) :
    (f : ℚ) * (8192 + ((m : ℚ) / e - 1) * ((c : ℚ) / e) * 1024) / 8192 =
      (((f : Int) * (8192 * (e * e : Nat) + ((m : Int) - e) * c * 1024) : Int) : ℚ) / ((8192 * (e * e) : Nat) : ℚ) := by
  have he' : (e : ℚ) ≠ 0 := Nat.cast_ne_zero.2 he.ne'
  push_cast
  field_simp

/-- A quotient held between the bounds, before or after it is taken as a natural number. -/
theorem clamp_toNat (v : Int) : ((min 2048 (max 512 v.toNat) : Nat) : Int) = max 512 (min 2048 v) := by omega

theorem learn_eq_floor {e : Nat} (he : 0 < e) (m c f : Nat) : (learn m e c f : Int) =
    max 512 (min 2048 (Int.floor ((f : ℚ) * (8192 + ((m : ℚ) / e - 1) * ((c : ℚ) / e) * 1024) / 8192))) := by
  rw [learn_quotient he, Rat.floor_intCast_div_natCast, ← clamp_toNat]
  rfl

/-! ### The account that begins (R386, R394, R395) -/

theorem tollgateOn_of_ready {s : State} (hoff : s.sup.dstate ≠ .off) (hinstar : s.sup.dstate ≠ .instar) : tollgateOn s = true := by
  simp [tollgateOn, hoff, hinstar]

theorem exec_budgetWindowEnd {s : State} (hoff : s.sup.dstate ≠ .off) (hinstar : s.sup.dstate ≠ .instar) (dies : List (Nat × Nat))
    (p : BitVec 12) : exec (.budgetWindowEnd dies p) s = .next (offerAgain (endWindow dies p s)) :=
  congrArg Outcome.next (if_pos (tollgateOn_of_ready hoff hinstar))

/-- The end of a window changes the time and the Tollgate alone. -/
theorem endWindow_eq (dies : List (Nat × Nat)) (p : BitVec 12) (s : State) :
    endWindow dies p s = { s with time := (endWindow dies p s).time, tgl := (endWindow dies p s).tgl } := by
  unfold endWindow
  rw [advanceTo_eq]

theorem endWindow_tgl {dies : List (Nat × Nat)} {p : BitVec 12} {s : State} {n : Nat}
    (hnow : (endWindow dies p s).time.now.toNat = n) : (endWindow dies p s).tgl = { s.tgl with
      factors := learnAll dies s.tgl.ran s.tgl.factors
      pBase := if s.tgl.granted = 0 then baseWatts p.toNat else s.tgl.pBase
      powerW := min 4095 (s.tgl.measured / 1000000)
      lcUsed := if s.tgl.granted = 0 then 0 else 100 * s.tgl.grantedLc / s.tgl.granted
      ipeak := min 255 (s.tgl.peakNow / 10)
      diePower := (List.range 25).map fun d => min 4095 ((dies.getD d (0, 0)).1 / 1000000)
      limit := s.tgl.limitSet, lcPct := s.tgl.lcPctSet, releaseUs := s.tgl.releaseSet, brakeA := s.tgl.brakeSet
      window := n / 1000000
      granted := 0, grantedLc := 0, drawn := 0, blockN := 0, blockS := 0, dieGrant := List.replicate 16 0
      measured := 0, samples := 0, peakNow := 0, ran := [], hold := false } := by
  subst hnow
  unfold endWindow
  dsimp only
  rw [advanceTo_tgl]

theorem regRead_tglWin (s : State) :
    regRead s 0x0F0000020010 = some (s.tgl.powerW + s.tgl.lcUsed <<< 12 + s.tgl.ipeak <<< 19) := rfl

/-- The range of R5, its bounds in either order. -/
theorem baseWatts_eq (w : Nat) : baseWatts w = max 560 (min w 720) := by
  unfold baseWatts
  omega

/-! ### Offers leave the settings and what the window showed -/

/-- The grants of a window may differ, its account, blocks and quanta; nothing else. -/
def OffersWork (s t : State) : Prop :=
  ∃ (g lc d n m : Nat) (l : List Nat) (o : List Quantum) (w : List Offer),
    t = { s with tgl := { s.tgl with
      granted := g, grantedLc := lc, drawn := d, blockN := n, blockS := m, dieGrant := l, openE := o, waiting := w } }

theorem OffersWork.refl (s : State) : OffersWork s s := ⟨_, _, _, _, _, _, _, _, rfl⟩

theorem OffersWork.trans {s t u : State} (h : OffersWork s t) (g : OffersWork t u) : OffersWork s u := by
  obtain ⟨_, _, _, _, _, _, _, _, rfl⟩ := h
  obtain ⟨_, _, _, _, _, _, _, _, rfl⟩ := g
  exact ⟨_, _, _, _, _, _, _, _, rfl⟩

theorem offer_offersWork (o : Offer) (s : State) : OffersWork s (offer o s) := by
  rcases offer_cases o s with h | ⟨lc, -, h⟩ | h <;> rw [h]
  · exact .refl s
  · exact ⟨_, _, _, _, _, _, _, _, rfl⟩
  · exact ⟨_, _, _, _, _, _, _, _, rfl⟩

theorem foldl_offer_offersWork (l : List Offer) (s : State) : OffersWork s (l.foldl (fun t o => offer o t) s) := by
  induction l generalizing s with
  | nil => exact .refl s
  | cons o r ih => exact (offer_offersWork o s).trans (ih _)

theorem OffersWork.cmdOf {s t : State} (h : OffersWork s t) (c : CmdRef) : cmdOf t c = cmdOf s c := by
  obtain ⟨_, _, _, _, _, _, _, _, rfl⟩ := h
  obtain ⟨q, i⟩ := c
  cases q <;> rfl

/-! ### Quanta that are offered again (R387) -/

/-- Nothing waits any more. -/
def noneWaiting (s : State) : State := { s with tgl := { s.tgl with waiting := [] } }

theorem offerAgain_eq (s : State) :
    offerAgain s = (s.tgl.waiting.foldr (insOffer s) []).foldl (fun t o => offer o t) (noneWaiting s) := rfl

theorem offerAgain_offersWork (s : State) : OffersWork s (offerAgain s) :=
  OffersWork.trans (t := noneWaiting s) ⟨_, _, _, _, _, _, _, _, rfl⟩ (foldl_offer_offersWork _ _)

theorem mem_insOffer {s : State} {x o : Offer} {l : List Offer} : o ∈ insOffer s x l ↔ o = x ∨ o ∈ l := by
  induction l with
  | nil => simp [insOffer]
  | cons y r ih =>
    unfold insOffer
    split
    · rw [List.mem_cons, ih, List.mem_cons, or_left_comm]
    · rw [List.mem_cons]

theorem mem_sortedOffers {s : State} {o : Offer} {l : List Offer} : o ∈ l.foldr (insOffer s) [] ↔ o ∈ l := by
  induction l with
  | nil => rfl
  | cons x r ih => rw [List.foldr_cons, mem_insOffer, ih, List.mem_cons]

/-- A quantum is granted or waits (R387). -/
def GrantedOrWaits (t : State) (o : Offer) : Prop := granted t o.c = true ∨ o ∈ t.tgl.waiting

theorem grant_openE (q : Quantum) (lc : Bool) (s : State) : (grant q lc s).tgl.openE = q :: s.tgl.openE := by simp only [grant]

theorem grant_waiting (q : Quantum) (lc : Bool) (s : State) : (grant q lc s).tgl.waiting = s.tgl.waiting := by simp only [grant]

/-- A further grant takes none away. -/
theorem granted_grant_of_granted {s : State} {c : CmdRef} (h : granted s c = true) (q : Quantum) (lc : Bool) :
    granted (grant q lc s) c = true := by
  rw [granted, grant_openE, List.any_cons, ← granted, h, Bool.or_true]

theorem offer_keepsGrantedOrWaits {s : State} {o : Offer} (h : GrantedOrWaits s o) (x : Offer) : GrantedOrWaits (offer x s) o := by
  rcases offer_cases x s with hx | ⟨lc, -, hx⟩ | hx <;> rw [hx]
  · exact h
  · exact h.imp (granted_grant_of_granted · _ lc) fun hw => (grant_waiting (quantumOf s x) lc s).symm ▸ hw
  · exact h.imp id (List.mem_append_left _)

theorem offer_settles {s : State} {o : Offer} {k : Cmd} (hk : cmdOf s o.c = some k) (hd : k.ph ≠ .done) : GrantedOrWaits (offer o s) o := by
  by_cases hg : grantable s (lcOf s o.c k) (quantumOf s o).e o.die = true
  · rw [offer_eq_grant hk hd hg]
    exact .inl (granted_grant (quantumOf s o) _ s)
  · rw [offer_eq_wait hk hd hg]
    exact .inr (List.mem_append_right _ List.mem_cons_self)

theorem foldl_offer_keepsGrantedOrWaits {s : State} {o : Offer} (h : GrantedOrWaits s o) (l : List Offer) :
    GrantedOrWaits (l.foldl (fun t x => offer x t) s) o := by
  induction l generalizing s with
  | nil => exact h
  | cons x r ih => exact ih (offer_keepsGrantedOrWaits h x)

theorem foldl_offer_settles {s : State} {o : Offer} {k : Cmd} (hk : cmdOf s o.c = some k) (hd : k.ph ≠ .done) {l : List Offer}
    (h : o ∈ l) : GrantedOrWaits (l.foldl (fun t x => offer x t) s) o := by
  induction l generalizing s with
  | nil => cases h
  | cons x r ih =>
    rcases List.mem_cons.1 h with rfl | h
    · exact foldl_offer_keepsGrantedOrWaits (offer_settles hk hd) r
    · exact ih (((offer_offersWork x s).cmdOf o.c).trans hk) h

theorem offerAgain_settles {s : State} {o : Offer} {k : Cmd} (h : o ∈ s.tgl.waiting) (hk : cmdOf s o.c = some k) (hd : k.ph ≠ .done) :
    GrantedOrWaits (offerAgain s) o := by
  refine foldl_offer_settles (s := noneWaiting s) ?_ hd (mem_sortedOffers.2 h)
  rw [← hk]
  exact OffersWork.cmdOf ⟨_, _, _, _, _, _, _, _, rfl⟩ o.c

/-- What a prediction and a bound read of the Tollgate, no offer changes (R384, R387, R390). -/
theorem OffersWork.bounds {s t : State} (h : OffersWork s t) : budget t = budget s ∧ reservation t = reservation s ∧
    windowLeft t = windowLeft s ∧ t.tgl.releaseUs = s.tgl.releaseUs ∧ (∀ d, dieCap t d = dieCap s d) ∧
    (∀ d, isHot t d = isHot s d) ∧ (∀ o : Offer, (quantumOf t o).e = (quantumOf s o).e) := by
  obtain ⟨_, _, _, _, _, _, _, _, rfl⟩ := h
  exact ⟨rfl, rfl, rfl, rfl, fun _ => rfl, fun _ => rfl, fun _ => rfl⟩

theorem OffersWork.lcOf {s t : State} (h : OffersWork s t) (c : CmdRef) (k : Cmd) : lcOf t c k = lcOf s c k := by
  obtain ⟨_, _, _, _, _, _, _, _, rfl⟩ := h
  obtain ⟨q, i⟩ := c
  cases q <;> rfl

/-- A new account: nothing granted, no HOLD (R386). -/
structure NewAccount (t : Tollgate) : Prop where
  granted : t.granted = 0
  grantedLc : t.grantedLc = 0
  dieGrant : t.dieGrant = List.replicate 16 0
  hold : t.hold = false

/-- A quantum that waits alone at the beginning of a window is granted where it fits (R387, R390). -/
theorem offerAgain_alone {s t : State} {o : Offer} {k : Cmd} (hnew : NewAccount s.tgl) (hw : s.tgl.waiting = [o])
    (hk : cmdOf s o.c = some k) (hd : k.ph ≠ .done) (ht : offerAgain s = t)
    (hdie : o.die < 16 → (quantumOf t o).e ≤ dieCap t o.die)
    (hclass : if lcOf s o.c k = true then (quantumOf t o).e ≤ budget t
      else (o.die < 16 → isHot t o.die = false) ∧ (quantumOf t o).e ≤
        (if windowLeft t ≤ t.tgl.releaseUs * 1000 then budget t else budget t - reservation t)) :
    granted t o.c = true ∧ t.tgl.granted = (quantumOf t o).e ∧ t.tgl.waiting = [] := by
  obtain ⟨hzero, hzeroLc, hzeroDie, hopen⟩ := hnew
  obtain ⟨hbudget, hres, hleft, hrelease, hcap, hhot, he⟩ := (ht ▸ offerAgain_offersWork s : OffersWork s t).bounds
  have hnone : OffersWork s (noneWaiting s) := ⟨_, _, _, _, _, _, _, _, rfl⟩
  have hcmd : cmdOf (noneWaiting s) o.c = some k := (hnone.cmdOf o.c).trans hk
  rw [hcap, he] at hdie
  rw [hbudget, hres, hleft, hrelease, hhot, he] at hclass
  have hgrant : grantable (noneWaiting s) (lcOf (noneWaiting s) o.c k) (quantumOf (noneWaiting s) o).e o.die = true := by
    refine grantable_of_fits hopen (fun h16 => ?_) ?_
    · have hfree : (noneWaiting s).tgl.dieGrant.getD o.die 0 = 0 := by
        rw [show (noneWaiting s).tgl.dieGrant = List.replicate 16 0 from hzeroDie]
        exact List.getD_replicate _ h16
      rw [hfree, Nat.zero_add]
      exact hdie h16
    · have hsum : (noneWaiting s).tgl.granted + (quantumOf (noneWaiting s) o).e = (quantumOf s o).e := by
        rw [show (noneWaiting s).tgl.granted = 0 from hzero, Nat.zero_add]
        rfl
      have hlc : (noneWaiting s).tgl.grantedLc = 0 := hzeroLc
      rw [hsum, hlc, hnone.lcOf, Nat.sub_zero]
      exact hclass
  have hoffer : t = grant (quantumOf (noneWaiting s) o) (lcOf (noneWaiting s) o.c k) (noneWaiting s) := by
    rw [← ht, offerAgain_eq, hw]
    exact offer_eq_grant hcmd hd hgrant
  have hsum : (noneWaiting s).tgl.granted + (quantumOf (noneWaiting s) o).e = (quantumOf t o).e := by
    rw [show (noneWaiting s).tgl.granted = 0 from hzero, Nat.zero_add, he]
    rfl
  rw [← hsum, hoffer]
  exact ⟨granted_grant (quantumOf (noneWaiting s) o) _ _, rfl, rfl⟩

/-! ### The obligation -/

theorem cmdOf_withWindow (s : State) (w : TimeBase) (g : Tollgate) (c : CmdRef) :
    cmdOf { s with time := w, tgl := g } c = cmdOf s c := by
  obtain ⟨q, i⟩ := c
  cases q <;> rfl

theorem lcOf_withWindow (s : State) (w : TimeBase) (g : Tollgate) (c : CmdRef) (k : Cmd) :
    lcOf { s with time := w, tgl := g } c k = lcOf s c k := by
  obtain ⟨q, i⟩ := c
  cases q <;> rfl

/-- Settles O38: the account of `endWindow_tgl`, which the offers of the waiting quanta leave but for their grants, and the
update of R389 by `learn_eq_floor`. -/
theorem budgetWindowEnds : Obligations.BudgetWindowEnds := by
  unfold Obligations.BudgetWindowEnds
  refine ⟨?_, fun m e c f he _ => learn_eq_floor he m c f⟩
  intro s dies p hoff hinstar hnow hlt hfactors
  have hclock : (endWindow dies p s).time.now.toNat = (s.tgl.window + 1) * 1000000 := advanceTo_now_of_lt hoff hnow hlt
  have htgl := endWindow_tgl hclock
  rw [Nat.mul_div_cancel _ (by decide : 0 < 1000000)] at htgl
  have hu := endWindow_eq dies p s
  have hexec := exec_budgetWindowEnd hoff hinstar dies p
  generalize endWindow dies p s = u at hclock htgl hu hexec
  have hcmd : ∀ c, cmdOf u c = cmdOf s c := fun c => by rw [hu, cmdOf_withWindow]
  have hlc : ∀ c k, lcOf u c k = lcOf s c k := fun c k => by rw [hu, lcOf_withWindow]
  have hwaiting : u.tgl.waiting = s.tgl.waiting := by rw [htgl]
  have hnew : NewAccount u.tgl := by
    rw [htgl]
    exact ⟨rfl, rfl, rfl, rfl⟩
  refine ⟨offerAgain u, hexec, ?_⟩
  generalize ht : offerAgain u = t at hexec
  obtain ⟨g, lc, d, n, m, l, q, w, hwork⟩ := ht ▸ offerAgain_offersWork u
  refine ⟨by rw [hwork, ← hclock], by rw [hwork, htgl], by rw [hwork, htgl], by rw [hwork, htgl], by rw [hwork, htgl],
    by rw [hwork, htgl], by rw [hwork, htgl], by rw [hwork, htgl], ?base, ?shown, ?factors, fun hempty => ?idle,
    fun o ho ⟨k, hk, hd⟩ => ?settle, fun o k ho hk hd hdie hclass => ?alone, by rw [hwork, hu]⟩
  case base =>
    rw [hwork, htgl, ← baseWatts_eq]
  case shown => rw [regRead_tglWin, hwork, htgl]
  case factors =>
    rw [hwork, htgl]
    exact learnAll_factorOk _ _ hfactors
  case idle =>
    have hnothing : t = noneWaiting u := by
      rw [← ht, offerAgain_eq, hwaiting, hempty]
      rfl
    rw [hnothing, noneWaiting, htgl]
    exact ⟨rfl, rfl, rfl, rfl, rfl⟩
  case settle => exact ht ▸ offerAgain_settles (hwaiting ▸ ho) ((hcmd o.c).trans hk) hd
  case alone =>
    rw [← hlc] at hclass
    exact offerAgain_alone hnew (hwaiting.trans ho) ((hcmd o.c).trans hk) hd ht hdie hclass

end Sys2Proof.Machine
end

section
/-!
PROOFS. Power samples and the hold of a window (R388), and the brake (R391).
-/
namespace Sys2Proof.Machine
open Host

/-! ### The hold of a window (R388) -/

theorem holdWindow_held {s : State} (h : s.tgl.hold = true) : holdWindow s = s := by
  simp [holdWindow, h]

/-- A window that was not held is held by the test of R388, and counted then. -/
theorem holdWindow_open {s : State} (h : s.tgl.hold = false) : holdWindow s =
    if mustHold s = true then { s with tgl := { s.tgl with hold := true, holds := sat32 s.tgl.holds 1 } } else s := by
  cases hm : mustHold s <;> simp [holdWindow, h, hm]

/-- The hold changes two fields of the account. -/
theorem holdWindow_eq (s : State) : holdWindow s =
    { s with tgl := { s.tgl with hold := (holdWindow s).tgl.hold, holds := (holdWindow s).tgl.holds } } := by
  unfold holdWindow
  split <;> rfl

theorem holdWindow_hold {s : State} (h : s.tgl.hold = false) : (holdWindow s).tgl.hold = mustHold s := by
  rw [holdWindow_open h]
  cases hm : mustHold s <;> simp [h]

theorem holdWindow_holds {s : State} (h : s.tgl.hold = false) : (holdWindow s).tgl.holds =
    if (holdWindow s).tgl.hold = true then BitVec.ofNat 32 (min (2 ^ 32 - 1) (s.tgl.holds.toNat + 1)) else s.tgl.holds := by
  rw [holdWindow_hold h, holdWindow_open h]
  cases mustHold s <;> rfl

/-! ### A sample (R388) -/

/-- The account after a sample, before the test of R388. -/
def sampled (v i : BitVec 13) (t : Tollgate) : Tollgate :=
  let held := t.brake && decide ((t.brakeA - 4) * 10 < i.toNat)
  { t with
    measured := t.measured + v.toNat * i.toNat, samples := t.samples + 1, peakNow := max t.peakNow i.toNat
    overUs := if t.brakeA * 10 < i.toNat then t.overUs + 1 else 0
    arrayHeld := held
    relaxUs := if held then 0 else t.relaxUs + 1 }

theorem samplePower_eq (v i : BitVec 13) (s : State) : samplePower v i s =
    holdWindow { advanceTo ((s.time.now.toNat / 1000 + 1) * 1000) s with tgl := sampled v i s.tgl } := by
  unfold samplePower
  dsimp only
  rw [advanceTo_tgl]
  rfl

/-- What the controller makes of a sample: its own view of the input. -/
theorem noteInput_spec (v i : BitVec 13) (s : State) : ∃ p, noteInput v i (noteRegion v (nextSample s)) = { s with power := p } ∧
    p.vin = v ∧ p.iin = i := ⟨_, rfl, rfl, rfl⟩

theorem exec_powerSample {s : State} (hoff : s.sup.dstate ≠ .off) (hinstar : s.sup.dstate ≠ .instar) (v i : BitVec 13) :
    exec (.powerSample v i) s = .next (samplePower v i (noteInput v i (noteRegion v (nextSample s)))) := by
  change Outcome.next (if s.sup.dstate = .off then _ else if tollgateOn s = true then _ else _) = _
  rw [if_neg hoff, if_pos (tollgateOn_of_ready hoff hinstar)]

theorem regRead_tglVin (s : State) : regRead s 0x0F000002001C = some (s.power.vin.toNat + s.power.iin.toNat <<< 13) := rfl

/-- A sample ends the microsecond in which it is taken. -/
theorem nextMicrosecond {n : Nat} : n < (n / 1000 + 1) * 1000 ∧ (n / 1000 + 1) * 1000 ≤ n + 1000 := by omega

theorem powerSample_spec {s : State} (hoff : s.sup.dstate ≠ .off) (hinstar : s.sup.dstate ≠ .instar)
    (hlt : s.time.now.toNat + 1000 < 2 ^ 64) (v i : BitVec 13) :
    ∃ u, exec (.powerSample v i) s = .next (holdWindow u) ∧ u.power.vin = v ∧ u.power.iin = i ∧ u.tgl = sampled v i s.tgl ∧
      u.time.now.toNat = (s.time.now.toNat / 1000 + 1) * 1000 ∧ u = { s with time := u.time, tgl := u.tgl, power := u.power } := by
  obtain ⟨p, hp, hvin, hiin⟩ := noteInput_spec v i s
  obtain ⟨hafter, hwithin⟩ := nextMicrosecond (n := s.time.now.toNat)
  have hnow := advanceTo_now_of_lt (s := { s with power := p }) hoff hafter.le (by omega)
  rw [exec_powerSample hoff hinstar, hp, samplePower_eq, advanceTo_eq]
  exact ⟨_, rfl, hvin, hiin, rfl, hnow, rfl⟩

/-! ### The brake (R391) -/

theorem tglStatus_brake (s : State) : (tglStatus s).testBit 2 = s.tgl.brake := by
  have hbits : ∀ a b c d : Bool, (ofBool a + 2 * ofBool b + 4 * ofBool c + 8 * ofBool d).testBit 2 = c := by decide
  exact hbits ..

theorem statusByte_brake (s : State) : (statusByte s).testBit 1 = s.tgl.brake := by
  have hbits : ∀ a b c d e f : Bool,
      (ofBool a + 2 * ofBool b + 4 * ofBool c + 8 * ofBool d + 16 * ofBool e + 32 * ofBool f).testBit 1 = b := by decide
  exact hbits ..

/-- The state in which the brake has engaged. -/
def braked (s : State) : State :=
  { s with tgl := { s.tgl with
      brake := true, relaxUs := 0, brakes := BitVec.ofNat 32 (min (2 ^ 32 - 1) (s.tgl.brakes.toNat + 1)) } }

theorem exec_brakeEngage {s : State} (hoff : s.sup.dstate ≠ .off) (hinstar : s.sup.dstate ≠ .instar) (hb : s.tgl.brake = false)
    (hover : 100 < s.tgl.overUs) : exec .brakeEngage s = .next (refreshAlert (devIrq 3 (braked s))) := by
  exact congrArg Outcome.next (if_pos (by simp [tollgateOn_of_ready hoff hinstar, hb, hover]))

theorem exec_brakeDisengage {s : State} (hb : s.tgl.brake = true) (hrelax : 100 ≤ s.tgl.relaxUs) :
    exec .brakeDisengage s = .next (refreshAlert { s with tgl := { s.tgl with brake := false, arrayHeld := false } }) :=
  congrArg Outcome.next (if_pos (by simp [hb, hrelax]))

/-! ### The obligation -/

/-- Settles O39: the test of R388 after each sample, and the two rows of the brake. -/
theorem powerAndBrake : Obligations.PowerAndBrake := by
  unfold Obligations.PowerAndBrake
  refine ⟨?sample, ?engage, ?disengage⟩
  case sample =>
    intro s v i hoff hinstar hlt
    obtain ⟨u, hexec, hvin, hiin, htgl, hnow, hu⟩ := powerSample_spec hoff hinstar hlt v i
    obtain ⟨hafter, -⟩ := nextMicrosecond (n := s.time.now.toNat)
    have hframe := holdWindow_eq u
    generalize hh : holdWindow u = t at hexec hframe
    have htime : t.time = u.time := by rw [hframe]
    have hmeasured : t.tgl.measured = u.tgl.measured := by rw [hframe]
    have hleft : windowLeft t = windowLeft u := by rw [hframe]; rfl
    have hcalm : u.tgl.hold = s.tgl.hold := by rw [htgl]; rfl
    have hcount : u.tgl.holds = s.tgl.holds := by rw [htgl]; rfl
    refine ⟨t, hexec, ?_, ?_, by rw [htime, hnow]; exact hafter, by rw [htime, hnow]; exact Nat.mul_mod_left .., ?_,
      fun hhold => ?_, fun hhold => ⟨?_, ?_⟩, ?_⟩
    · rw [regRead_tglVin, hframe, ← hvin, ← hiin]
    · rw [hmeasured, htgl]
      rfl
    · rw [hframe, htgl]
      rfl
    · rw [← hh, holdWindow_held (hcalm.trans hhold)]
      exact ⟨hcalm.trans hhold, hcount⟩
    · rw [hmeasured, hleft, ← hh, holdWindow_hold (hcalm.trans hhold), mustHold, decide_eq_true_iff, openEnergy, htgl]
      rfl
    · rw [← hcount, ← hh]
      exact holdWindow_holds (hcalm.trans hhold)
    · rw [hframe, hu]
  case engage =>
    intro s hoff hinstar hb hover
    obtain ⟨m, i, l, a, b, h⟩ := refreshAlert_devIrq 3 (braked s)
    refine ⟨_, exec_brakeEngage hoff hinstar hb hover, tglStatus_brake _ |>.trans ?_, statusByte_brake _ |>.trans ?_, ?_⟩
    all_goals rw [h]
    · rfl
    · rfl
    · exact ⟨rfl, rfl, rfl, rfl, rfl⟩
  case disengage =>
    intro s hb hrelax
    exact ⟨_, exec_brakeDisengage hb hrelax, tglStatus_brake _, statusByte_brake _, rfl, rfl⟩

end Sys2Proof.Machine
end

section
/-!
PROOFS. Temperatures (R390, R464): the thermal fraction of a die, reads of the sensors, the limits after start-up, and the trip.
-/
namespace Sys2Proof.Machine
open Host

/-! ### The thermal fraction (R390) -/

theorem theta_cold {tLo tHi t : Nat} (h : t ≤ 4 * tLo) : theta tLo tHi t = 128 := if_pos h

theorem theta_hot {tLo tHi t : Nat} (hlt : tLo < tHi) (h : 4 * tHi ≤ t) : theta tLo tHi t = 16 := by
  rw [theta, if_neg (by omega), if_pos h]

theorem theta_between {tLo tHi t : Nat} (hlo : 4 * tLo < t) (hhi : t < 4 * tHi) :
    theta tLo tHi t = 128 - 112 * (t - 4 * tLo) / (4 * tHi - 4 * tLo) := by
  rw [theta, if_neg (Nat.not_le.2 hlo), if_neg (Nat.not_le.2 hhi), ← Nat.mul_sub]

/-- Between the limits at most all 112 steps of the formula are taken away. -/
theorem thetaSteps_le {lo hi t : Nat} (h : t ≤ hi) : 112 * (t - lo) / (hi - lo) ≤ 112 :=
  Nat.div_le_of_le_mul (by rw [Nat.mul_comm]; exact Nat.mul_le_mul_right 112 (Nat.sub_le_sub_right h lo))

theorem theta_le (tLo tHi t : Nat) : theta tLo tHi t ≤ 128 := by
  unfold theta
  split
  · exact Nat.le_refl _
  · split
    · decide
    · exact Nat.sub_le _ _

theorem le_theta {tLo tHi : Nat} (hlt : tLo < tHi) (t : Nat) : 16 ≤ theta tLo tHi t := by
  rcases Nat.lt_or_ge (4 * tLo) t with hlo | hlo
  · rcases Nat.lt_or_ge t (4 * tHi) with hhi | hhi
    · have := thetaSteps_le (lo := 4 * tLo) hhi.le
      rw [theta_between hlo hhi]
      omega
    · rw [theta_hot hlt hhi]
  · rw [theta_cold hlo]
    decide

theorem theta_antitone {tLo tHi t u : Nat} (hlt : tLo < tHi) (h : t ≤ u) : theta tLo tHi u ≤ theta tLo tHi t := by
  rcases Nat.lt_or_ge (4 * tLo) t with hlo | hlo
  · rcases Nat.lt_or_ge u (4 * tHi) with hhi | hhi
    · rw [theta_between (by omega) hhi, theta_between hlo (by omega)]
      exact Nat.sub_le_sub_left (Nat.div_le_div_right (Nat.mul_le_mul_left _ (Nat.sub_le_sub_right h _))) _
    · rw [theta_hot hlt hhi]
      exact le_theta hlt t
  · rw [theta_cold hlo]
    exact theta_le ..

/-! ### What a read of the sensors sets (R390, R464) -/

/-- θ of a compute die is that of its temperature; of a die that has none, that of 0. -/
theorem dieThetas_getD (t : Tollgate) {d : Nat} (hd : d < 16) :
    (dieThetas t).getD d 128 = theta t.tLo t.tHi (t.dieTemp.getD d 0) := by
  simp only [dieThetas, List.getD_eq_getElem?_getD, List.getElem?_map, List.getElem?_zipIdx]
  cases t.dieTemp[d]? with
  | none => simp [theta]
  | some x => simp [hd]

theorem readSensors_dieTemp (temps : List (List (BitVec 12))) (s : State) {d : Nat} (hd : d < 25) :
    (readSensors temps s).tgl.dieTemp.getD d 0 = ((temps.getD d []).map BitVec.toNat).foldl max 0 := by
  simp [readSensors, refreshAlert, hd]

theorem readSensors_dieTheta (temps : List (List (BitVec 12))) (s : State) {d : Nat} (hd : d < 16) :
    (readSensors temps s).tgl.dieTheta.getD d 128 =
      theta s.tgl.tLo s.tgl.tHi (((temps.getD d []).map BitVec.toNat).foldl max 0) := by
  have htheta : (readSensors temps s).tgl.dieTheta = dieThetas (readSensors temps s).tgl := rfl
  have hlimits : (readSensors temps s).tgl.tLo = s.tgl.tLo ∧ (readSensors temps s).tgl.tHi = s.tgl.tHi := by
    simp [readSensors, refreshAlert, countTrips]
  rw [htheta, dieThetas_getD _ hd, readSensors_dieTemp temps s (by omega), hlimits.1, hlimits.2]

/-- A sensor's count of consecutive reads at 110 °C goes on or begins anew. -/
theorem readSensors_trips {temps : List (List (BitVec 12))} (s : State) {d i : Nat} {x : BitVec 12} (hd : d < 25)
    (hx : (temps.getD d [])[i]? = some x) :
    ((readSensors temps s).tgl.trips.getD d [])[i]? =
      some (if 440 ≤ x.toNat then (s.tgl.trips.getD d []).getD i 0 + 1 else 0) := by
  have htrips : (readSensors temps s).tgl.trips.getD d [] = (temps.getD d []).zipIdx.map fun x =>
      if 440 ≤ x.1.toNat then (s.tgl.trips.getD d []).getD x.2 0 + 1 else 0 := by
    simp [readSensors, refreshAlert, countTrips, hd]
  rw [htrips, List.getElem?_map, List.getElem?_zipIdx, hx]
  simp

theorem readSensors_frame (temps : List (List (BitVec 12))) (s : State) :
    (readSensors temps s).tgl.granted = s.tgl.granted ∧
      readSensors temps s = { s with
        time := (readSensors temps s).time, tgl := (readSensors temps s).tgl, power := (readSensors temps s).power } := by
  unfold readSensors
  rw [advanceTo_eq]
  exact ⟨rfl, rfl⟩

theorem exec_thermalSensorRead {s : State} (hon : s.sup.dstate ≠ .off) (temps : List (List (BitVec 12))) :
    exec (.thermalSensorRead temps) s = .next (readSensors temps s) :=
  congrArg Outcome.next (if_neg hon)

/-! ### The limits rise (R390) -/

/-- The state whose limits have risen 10 ms after READY. -/
def relaxed (s : State) : State :=
  let s1 := advanceTo (s.sup.readyTick + 10000000).toNat s
  let t := { s.tgl with therm := false, tLo := 95, tHi := 102 }
  refreshAlert { s1 with tgl := { t with dieTheta := dieThetas t } }

theorem exec_thermalLimitRelax {s : State} (hon : tollgateOn s = true) (ht : s.tgl.therm = true) :
    exec .thermalLimitRelax s = .next (relaxed s) := by
  change Outcome.next (if (tollgateOn s && s.tgl.therm) = true then _ else s) = _
  rw [hon, ht, relaxed, ← advanceTo_tgl (s.sup.readyTick + 10000000).toNat s]
  rfl

theorem relaxed_frame (s : State) :
    relaxed s = { s with time := (relaxed s).time, tgl := (relaxed s).tgl, power := (relaxed s).power } := by
  unfold relaxed
  rw [advanceTo_eq]
  rfl

/-! ### The trip (R464) -/

theorem tripSignalled_of_count {s : State} {d i : Nat} (h : 3 ≤ (s.tgl.trips.getD d []).getD i 0) : tripSignalled s = true := by
  simp only [List.getD_eq_getElem?_getD] at h
  cases hd : s.tgl.trips[d]? with
  | none => simp [hd] at h
  | some l =>
    cases hi : l[i]? with
    | none => simp [hd, hi] at h
    | some n =>
      simp only [hd, hi, Option.getD_some] at h
      exact List.any_eq_true.2 ⟨l, List.mem_of_getElem? hd,
        List.any_eq_true.2 ⟨n, List.mem_of_getElem? hi, decide_eq_true h⟩⟩

/-- A cause that finds the switch closed or closing opens it; the device is OFF by that cause (R446). -/
theorem openSwitch_offBy {s : State} (h : s.power.switchClosed = true ∨ s.power.precharging = true) (cause : BitVec 8) (latch : Bool) :
    OffBy s (openSwitch cause latch s) cause ∧ (openSwitch cause latch s).power.latched = (s.power.latched || latch) := by
  have hclosed : (s.power.switchClosed || s.power.precharging) = true := by simpa using h
  rw [openSwitch, if_pos hclosed]
  exact ⟨⟨⟨rfl, rfl, rfl, rfl, rfl, rfl, rfl, rfl, rfl, rfl, rfl, rfl, rfl, rfl, rfl⟩, rfl, rfl, rfl⟩, rfl⟩

theorem exec_thermalTrip {s : State} (h : tripSignalled s = true) : exec .thermalTrip s =
    .next (setPower { (openSwitch 4 true s).power with tripLatch := true, tripped := true } (openSwitch 4 true s)) := by
  change Outcome.next (if (tripSignalled s || s.power.tripDue) = true then _ else s) = _
  rw [h]
  rfl

/-! ### The obligation -/

/-- Settles O40: the fraction of R390 by its three ranges, then the rows of the sensors, of the limits, and of the trip. -/
theorem temperatures : Obligations.Temperatures := by
  unfold Obligations.Temperatures
  refine ⟨fun tLo tHi t u hlt => ⟨theta_cold, theta_hot hlt, theta_between, le_theta hlt t, theta_le tLo tHi t, theta_antitone hlt⟩,
    ?read, ?relax, ?trip⟩
  case read =>
    intro s temps d hon hd
    obtain ⟨hgranted, hframe⟩ := readSensors_frame temps s
    exact ⟨_, exec_thermalSensorRead hon temps, readSensors_dieTemp temps s (by omega), readSensors_dieTheta temps s hd,
      fun i x hx => readSensors_trips s (by omega) hx, hgranted, hframe⟩
  case relax =>
    intro s hoff hinstar htherm
    refine ⟨_, exec_thermalLimitRelax (tollgateOn_of_ready hoff hinstar) htherm, rfl, fun d hd => ?_, rfl, relaxed_frame s⟩
    exact dieThetas_getD { s.tgl with therm := false, tLo := 95, tHi := 102 } hd
  case trip =>
    intro s d i hpower hcount
    obtain ⟨⟨hkept, hopen, hpgood, hcause⟩, hlatched⟩ := openSwitch_offBy hpower 4 true
    exact ⟨_, exec_thermalTrip (tripSignalled_of_count hcount), ⟨hkept, hopen, hpgood, hcause⟩,
      hlatched.trans (Bool.or_true _), rfl⟩

end Sys2Proof.Machine
end

section
/-!
PROOFS. TGL.LIMIT and TGL.RESERVE (R386, R393, R394): the settings that they keep, and what their start and their completion do to
the Tollgate.
-/
namespace Sys2Proof.Machine
open Host

/-! ### The Tollgate under the start and the completion of a command -/

/-- The quanta granted to a command run when it starts; the rest of the account stays, and LC_BANKS (R389). -/
structure QuantaRun (s t : State) : Prop where
  account : t.tgl = { s.tgl with openE := t.tgl.openE, ran := t.tgl.ran }
  lcBanks : t.cores.lcBanks = s.cores.lcBanks

theorem QuantaRun.trans {s t u : State} (h : QuantaRun s t) (g : QuantaRun t u) : QuantaRun s u :=
  ⟨g.account.trans (by rw [h.account]), g.lcBanks.trans h.lcBanks⟩

theorem quantaRun_of_eq {s t : State} (h : t.tgl = s.tgl) (g : t.cores = s.cores) : QuantaRun s t :=
  ⟨by rw [h], by rw [g]⟩

theorem startSlip_quantaRun (r : QRef) (k : Cmd) (s : State) : QuantaRun s (startSlip r k s) := by
  unfold startSlip
  repeat' split
  all_goals exact quantaRun_of_eq (by simp) (by simp)

theorem enterPipe_quantaRun (k : Cmd) (p : Option Nat) (s : State) : QuantaRun s (enterPipe k p s) := by
  cases p <;> exact quantaRun_of_eq rfl rfl

theorem beginCmd_quantaRun {f : Family} {x : Ctx} (hdraws : f.draws x.par = false) (hstep : f.step x.par = none) (s : State) :
    QuantaRun s (beginCmd f x none s) := by
  unfold beginCmd
  extract_lets now th s1 s2 s3 s4
  have h2 : QuantaRun s s2 := by
    obtain ⟨g, -, hluna⟩ := readLuna_undrawn hdraws s
    simp only [s2, s1, readStep_none hstep, hluna]
    exact quantaRun_of_eq (by simp) (by simp)
  have h3 : QuantaRun s s3 := (h2.trans (startSlip_quantaRun ..)).trans ⟨rfl, rfl⟩
  exact h3.trans (enterPipe_quantaRun ..)

theorem startOf_quantaRun {op : Nat} {f : Family} {c : CmdRef} {e : Circ} {s s1 : State} {x : Ctx}
    (h : startOf op f c e s = some (x, s1)) (hcore : ∀ v, f.core v = false) (hdraws : ∀ v, f.draws v = false)
    (hstep : ∀ v, f.step v = none) : QuantaRun s s1 := by
  obtain ⟨k, core, -, hgo, rfl, -⟩ := startOf_admitted h
  obtain rfl := admission_go_none (hcore _) hgo
  exact (quantaRun_of_eq (miscorrect_lineWork ..).tgl (miscorrect_lineWork ..).cores).trans
    (beginCmd_quantaRun (x := mkCtx (miscorrect (circOf op c e s) s) c (circOf op c e s) k) (hdraws _) (hstep _) _)

/-- A completion counts classes and drops quanta, and may release banks; the rest of Tollgate and cores stays. -/
theorem CompletionWork.account {s t : State} (h : CompletionWork s t) :
    t.tgl = { s.tgl with counts := t.tgl.counts, openE := t.tgl.openE, waiting := t.tgl.waiting } ∧
      t.cores = { s.cores with banks := t.cores.banks } := by
  obtain ⟨_, _, _, _, _, _, _, _, _, _, _, _, _, _, rfl⟩ := h
  exact ⟨rfl, rfl⟩

/-! ### A control command of one step -/

/-- What the start of a control command of the Tollgate has left. -/
structure TollgateStart (c : CmdRef) (s s1 : State) (x : Ctx) : Prop where
  hw : ∃ n i, c = ⟨.hw n, i⟩
  place : x.c = c
  cmd : cmdOf s1 c = some x.cmd
  quanta : QuantaRun s s1
  ob : s1.mem.ob = s.mem.ob
  sup : s1.sup = s.sup
  time : s1.time = s.time

theorem startOf_tollgate {op : Nat} {f : Family} {c : CmdRef} {e : Circ} {s s1 : State} {x : Ctx} (hop : isControl op = true)
    (hne : op ≠ 0x0901) (hcore : ∀ v, f.core v = false) (hdraws : ∀ v, f.draws v = false) (hstep : ∀ v, f.step v = none)
    (h : startOf op f c e s = some (x, s1)) : TollgateStart c s s1 x := by
  obtain ⟨hwork, -⟩ := startOf_runs h hcore hdraws hstep
  obtain ⟨y, hyc, -, -, -, hstage, -⟩ := startOf_ready h hcore hdraws hstep
  obtain ⟨hq, -⟩ := stage3_control hop hne hstage
  rw [hyc] at hq
  exact ⟨⟨0, c.idx, by rw [← hq]⟩, (startOf_ctx h).1, (startOf_cmd h).1, startOf_quantaRun h hcore hdraws hstep,
    (congrArg (·.ob) hwork.mem).trans (miscorrect_ob ..), hwork.sup.trans (miscorrect_sup ..), hwork.time.trans (miscorrect_time ..)⟩

/-- The completion of such a command after a step that changes the Tollgate's settings, and LC_BANKS. -/
theorem TollgateStart.completes {c : CmdRef} {s s1 u : State} {x : Ctx} (h : TollgateStart c s s1 x) {g : Tollgate} {n : Cores}
    (hu : u = { s1 with tgl := g, cores := n }) :
    ∃ t, complete x.c { reply := some (nextWindow s1) } u = t ∧ endsAs t c stOk (nextWindow s) ∧
      t.tgl = { g with counts := t.tgl.counts, openE := t.tgl.openE, waiting := t.tgl.waiting } ∧
      t.cores.lcBanks = n.lcBanks ∧ t.cores.lcSet = n.lcSet ∧ t.mem.dev = s1.mem.dev ∧ t.mem.ob = s.mem.ob ∧ t.sup = s.sup ∧
      t.time = s.time := by
  obtain ⟨⟨q, i, rfl⟩, hplace, hcmd, -, hob, hsup, htime⟩ := h
  have hwindow : nextWindow s1 = nextWindow s := by rw [nextWindow, htime, nextWindow]
  have hcmdu : cmdOf u ⟨.hw q, i⟩ = some x.cmd := by rw [← hcmd, hu]; rfl
  have hwork := complete_completionWork ⟨.hw q, i⟩ { reply := some (nextWindow s) } u
  rw [hplace, hwindow]
  obtain ⟨htgl, hcores⟩ := hwork.account
  refine ⟨_, rfl, complete_done hcmdu rfl, ?_, ?_, ?_, hwork.dev.trans ?_, hwork.ob.trans ?_, (complete_sup ..).trans ?_, hwork.time.trans ?_⟩
  · rwa [show u.tgl = g by rw [hu]] at htgl
  · rw [hcores, hu]
  · rw [hcores, hu]
  · rw [hu]
  · rw [hu]
    exact hob
  · rw [hu]
    exact hsup
  · rw [hu]
    exact htime

/-- LC_BANKS takes effect at once at rest and in a crossing (R394). -/
theorem setLcBanks_lcBanks (n : Nat) (s : State) :
    (setLcBanks n s).cores.lcBanks = if atRest s = true ∨ s.sup.cross ≠ none then n else s.cores.lcBanks := by
  simp only [setLcBanks, Bool.or_eq_true, Option.isSome_iff_ne_none]

theorem atRest_congr {s t : State} (h : t.sup = s.sup) : atRest t = atRest s := by rw [atRest, h, atRest]

/-! ### The obligation -/

/-- Settles O21: each setting is kept for the next window, LC_BANKS for the next crossing unless the device is at one. -/
theorem tollgateSettings : Obligations.TollgateSettings := by
  unfold Obligations.TollgateSettings
  refine ⟨fun c e s s1 x h => ?limit, fun c e s s1 x h => ?reserve⟩
  case limit =>
    have hstart := startOf_tollgate rfl (by decide) (fun _ => rfl) (fun _ => rfl) (fun _ => rfl) h
    obtain ⟨t, ht, hends, htgl, hbanks, -, hframe⟩ := hstart.completes (n := s1.cores)
      (g := { s1.tgl with limitSet := fld x.par 11 0, brakeSet := fld x.par 19 12 }) rfl
    have hran : t.tgl.ran = s1.tgl.ran := by rw [htgl]
    refine ⟨t, congrArg Outcome.next ((runCmd_start h).trans ht), hends, htgl.trans ?_,
      hbanks.trans hstart.quanta.lcBanks, hframe⟩
    rw [hran, hstart.quanta.account]
  case reserve =>
    have hstart := startOf_tollgate rfl (by decide) (fun _ => rfl) (fun _ => rfl) (fun _ => rfl) h
    obtain ⟨t, ht, hends, htgl, hbanks, hset, hframe⟩ := hstart.completes (n := (setLcBanks (fld x.par 22 16) s1).cores)
      (g := { s1.tgl with lcPctSet := fld x.par 6 0, releaseSet := fld x.par 15 7 }) rfl
    have hran : t.tgl.ran = s1.tgl.ran := by rw [htgl]
    refine ⟨t, congrArg Outcome.next ((runCmd_start h).trans ht), hends, htgl.trans ?_, hset,
      hbanks.trans ((setLcBanks_lcBanks ..).trans ?_), hframe⟩
    · rw [hran, hstart.quanta.account]
    · rw [atRest_congr hstart.sup, hstart.sup, hstart.quanta.lcBanks]

end Sys2Proof.Machine
end

section
/-!
PROOFS. The tasks of the queues under the start and the completion of a command (R346, R356, R372): each keeps its state.
-/
namespace Sys2Proof.Machine
open Host

/-! ### Changes of tasks that keep their states -/

/-- Every queue holds the same tasks by serial number, in the same states. -/
structure SameTaskStates (s t : State) : Prop where
  states : ∀ r n, (taskOf t r n).map (·.state) = (taskOf s r n).map (·.state)

theorem SameTaskStates.refl (s : State) : SameTaskStates s s := ⟨fun _ _ => rfl⟩

theorem SameTaskStates.trans {s t u : State} (h : SameTaskStates s t) (g : SameTaskStates t u) : SameTaskStates s u :=
  ⟨fun r n => (g.states r n).trans (h.states r n)⟩

theorem sameTaskStates_of_getQ {s t : State} (h : ∀ r, (getQ t r).tasks = (getQ s r).tasks) : SameTaskStates s t :=
  ⟨fun r n => by rw [taskOf, h, ← taskOf]⟩

theorem sameTaskStates_of_eq {s t : State} (h : t.queues.qs = s.queues.qs) (g : t.img = s.img) : SameTaskStates s t :=
  sameTaskStates_of_getQ fun r => by rw [getQ_of_eq h g]

/-- A change of tasks that keeps serial numbers. -/
theorem find?_map_serial {f : Task → Task} (hf : ∀ t, (f t).serial = t.serial) (n : Nat) (l : List Task) :
    (l.map f).find? (fun t => decide (t.serial = n)) = (l.find? fun t => decide (t.serial = n)).map f := by
  rw [List.find?_map]
  simp only [Function.comp_def, hf]

/-- The tasks of one queue change, each in its own state. -/
theorem setQ_sameTaskStates {r : QRef} {q : Queue} {s : State} {f : Task → Task} (hq : q.tasks = (getQ s r).tasks.map f)
    (hf : ∀ t, (f t).serial = t.serial ∧ (f t).state = t.state) : SameTaskStates s (setQ r q s) := by
  refine ⟨fun r' n => ?_⟩
  by_cases hr : r' = r
  · subst hr
    rcases getQ_setQ_self r' q s with h | ⟨rfl, hnone⟩
    · rw [taskOf, h, hq, find?_map_serial fun t => (hf t).1, Option.map_map, taskOf]
      congr 1
      exact funext fun t => (hf t).2
    · simp [taskOf, getQ, setQ, hnone]
  · rw [taskOf, getQ_setQ_ne q s hr, ← taskOf]

theorem setQ_sameTasks {r : QRef} {q : Queue} {s : State} (hq : q.tasks = (getQ s r).tasks) : SameTaskStates s (setQ r q s) :=
  setQ_sameTaskStates (f := id) (by rw [hq, List.map_id]) fun _ => ⟨rfl, rfl⟩

theorem modCmd_sameTaskStates (c : CmdRef) (f : Cmd → Cmd) (s : State) : SameTaskStates s (modCmd c f s) := setQ_sameTasks rfl

theorem modTask_sameTaskStates (r : QRef) (n : Nat) {f : Task → Task} (hf : ∀ t, (f t).serial = t.serial ∧ (f t).state = t.state)
    (s : State) : SameTaskStates s (modTask r n f s) :=
  setQ_sameTaskStates (f := fun t => if t.serial = n then f t else t) rfl fun t => by
    split
    · exact hf t
    · exact ⟨rfl, rfl⟩

/-- A task that changes is found as changed. -/
theorem taskOf_modTask_self (r : QRef) (n : Nat) {f : Task → Task} (hf : ∀ t, (f t).serial = t.serial) (s : State) :
    taskOf (modTask r n f s) r n = (taskOf s r n).map f := by
  cases r with
  | hw q => exact taskOf_modTask rfl n f hf s
  | img =>
    cases hrun : s.img.run with
    | none => simp [taskOf, modTask, getQ, setQ, hrun]
    | some y =>
      simp only [taskOf, modTask, getQ, setQ, hrun, Option.map_some, Option.getD_some]
      rw [find?_map_serial fun t => by split <;> simp [hf]]
      cases ht : y.q.tasks.find? fun t => decide (t.serial = n) with
      | none => rfl
      | some t => simp [show t.serial = n by simpa using List.find?_some ht]

/-! ### A completion -/

theorem mapQueues_sameTaskStates {g : Queue → Queue} {f : Queue → Task → Task} (hg : ∀ q, (g q).tasks = q.tasks.map (f q))
    (hf : ∀ q t, (f q t).serial = t.serial ∧ (f q t).state = t.state) (s : State) :
    SameTaskStates s (mapQueues g s) := by
  have hkeep : ∀ q n, ((g q).tasks.find? fun t => decide (t.serial = n)).map (·.state) =
      (q.tasks.find? fun t => decide (t.serial = n)).map (·.state) := fun q n => by
    rw [hg, find?_map_serial fun t => (hf q t).1, Option.map_map]
    congr 1
    exact funext fun t => (hf q t).2
  refine ⟨fun r n => ?_⟩
  cases r with
  | hw m =>
    simp only [taskOf, getQ, queueOf, mapQueues, look_mapVal]
    cases look s.queues.qs m.toNat with
    | none => rfl
    | some q => exact hkeep q n
  | img =>
    simp only [taskOf, getQ, mapQueues]
    cases s.img.run with
    | none => rfl
    | some y => exact hkeep y.q n

theorem markReplay_sameTaskStates (s : State) : SameTaskStates s (mapQueues markReplay s) := by
  refine mapQueues_sameTaskStates (f := fun q t =>
      if (q.cmds.any fun k => decide (k.task = t.serial) && k.cored) && !t.finished && t.state != .discarded then
        { t with rerun := true } else t) (fun _ => rfl) (fun q t => ?_) s
  split <;> exact ⟨rfl, rfl⟩

theorem beginCrossing_sameTaskStates (s : State) : SameTaskStates s (beginCrossing s) := by
  unfold beginCrossing beginDrain
  split
  · exact (markReplay_sameTaskStates s).trans
      (sameTaskStates_of_getQ fun r => by rw [setDState_getQ]; exact congrArg (·.tasks) (getQ_of_eq rfl rfl r))
  · exact .refl s

theorem stopImage_sameTaskStates (x : Nat × Nat × Option Nat) (s : State) : SameTaskStates s (stopImage x s) := by
  unfold stopImage
  split
  · exact .refl s
  · rename_i y hy
    refine SameTaskStates.trans (sameTaskStates_of_getQ fun r => ?_) (beginCrossing_sameTaskStates _)
    cases r with
    | hw n => rfl
    | img => simp [getQ, hy]

theorem abortImage_sameTaskStates (k : Cmd) (status code : Nat) (s : State) : SameTaskStates s (abortImage k status code s) :=
  SameTaskStates.trans (t := sendDom (.abort s.dom.index (hTag k.hdr) s.dom.index status) s) (sameTaskStates_of_eq rfl rfl)
    (stopImage_sameTaskStates ..)

theorem afterImage_sameTaskStates (c : CmdRef) (k : Cmd) (o : Out) (s : State) : SameTaskStates s (afterImage c k o s) := by
  unfold afterImage
  repeat' split
  · exact .refl s
  · exact beginCrossing_sameTaskStates s
  · exact .refl s
  · exact beginCrossing_sameTaskStates s
  · exact abortImage_sameTaskStates ..

theorem releaseBanks_sameTaskStates (r : QRef) (n : Nat) (s : State) : SameTaskStates s (releaseBanks r n s) :=
  sameTaskStates_of_eq (by simp) (by simp)

/-- A completion finishes its task or marks it for a re-run; the task's state stays (R356). -/
theorem finishTask_sameTaskStates (r : QRef) (k : Cmd) (o : Out) (s : State) : SameTaskStates s (finishTask r k o s) := by
  have hend : SameTaskStates s (if hLast k.hdr then modTask r k.task (fun t => { t with finished := !t.rerun }) s else s) := by
    split
    · exact modTask_sameTaskStates r _ (fun _ => by exact ⟨rfl, rfl⟩) s
    · exact .refl s
  unfold finishTask
  split
  · exact modTask_sameTaskStates r _ (fun _ => by exact ⟨rfl, rfl⟩) s
  split
  · exact .refl s
  extract_lets s1
  split
  · exact SameTaskStates.trans (t := s1) hend (releaseBanks_sameTaskStates ..)
  · exact hend

theorem pushRec_sameTaskStates {n : Nat} (hn : n < 2 ^ 20) (x : Rec) (s : State) : SameTaskStates s (pushRec n x s) := by
  unfold pushRec
  exact setQ_sameTasks (by rw [getQ_hw hn])

theorem addFailed_sameTaskStates (c : CmdRef) (o : Out) (s : State) : SameTaskStates s (addFailed c o s) := by
  unfold addFailed
  split
  · exact .refl s
  · exact setQ_sameTasks rfl

theorem countClasses_sameTaskStates (b : Bool) (k : Cmd) (s : State) : SameTaskStates s (if b then countClasses k s else s) := by
  split
  · exact sameTaskStates_of_eq rfl rfl
  · exact .refl s

theorem complete_sameTaskStates (c : CmdRef) (o : Out) (s : State) : SameTaskStates s (complete c o s) := by
  unfold complete
  split
  · exact .refl s
  · dsimp only
    refine SameTaskStates.trans ?_ (afterImage_sameTaskStates ..)
    refine SameTaskStates.trans ?_ (finishTask_sameTaskStates ..)
    refine SameTaskStates.trans ?_ (countClasses_sameTaskStates ..)
    refine SameTaskStates.trans ?_ (pushRec_sameTaskStates (ringOf_lt ..) _ _)
    refine SameTaskStates.trans ?_ (addFailed_sameTaskStates ..)
    exact SameTaskStates.trans (t := dropQuanta c s) (sameTaskStates_of_eq rfl rfl) (modCmd_sameTaskStates ..)

/-! ### A start -/

theorem startSlip_sameTaskStates (r : QRef) (k : Cmd) (s : State) : SameTaskStates s (startSlip r k s) := by
  unfold startSlip
  split
  · exact .refl s
  split
  · exact .refl s
  split
  · exact .refl s
  dsimp only
  split
  · exact modTask_sameTaskStates r _ (fun _ => by exact ⟨rfl, rfl⟩) s
  · refine SameTaskStates.trans (modTask_sameTaskStates r k.task (f := fun t => { t with slipDue := none }) ?_ s)
      (sameTaskStates_of_eq (by simp) (by simp))
    exact fun _ => ⟨rfl, rfl⟩

theorem enterPipe_sameTaskStates (k : Cmd) (p : Option Nat) (s : State) : SameTaskStates s (enterPipe k p s) := by
  cases p <;> exact sameTaskStates_of_eq rfl rfl

theorem beginCmd_sameTaskStates {f : Family} {x : Ctx} (hdraws : f.draws x.par = false) (hstep : f.step x.par = none) (s : State) :
    SameTaskStates s (beginCmd f x none s) := by
  unfold beginCmd
  extract_lets now th s1 s2 s3 s4
  have h1 : SameTaskStates s s1 := by
    obtain ⟨g, -, hluna⟩ := readLuna_undrawn hdraws s
    simp only [s1, readStep_none hstep, hluna]
    exact (modCmd_sameTaskStates ..).trans (modCmd_sameTaskStates ..)
  have h2 : SameTaskStates s s2 := h1.trans (modTask_sameTaskStates _ _ (fun _ => by exact ⟨rfl, rfl⟩) s1)
  have h3 : SameTaskStates s s3 := (h2.trans (startSlip_sameTaskStates ..)).trans (sameTaskStates_of_eq rfl rfl)
  exact h3.trans (enterPipe_sameTaskStates ..)

theorem startOf_sameTaskStates {op : Nat} {f : Family} {c : CmdRef} {e : Circ} {s s1 : State} {x : Ctx}
    (h : startOf op f c e s = some (x, s1)) (hcore : ∀ v, f.core v = false) (hdraws : ∀ v, f.draws v = false)
    (hstep : ∀ v, f.step v = none) : SameTaskStates s s1 := by
  obtain ⟨k, core, -, hgo, rfl, -⟩ := startOf_admitted h
  obtain rfl := admission_go_none (hcore _) hgo
  exact (sameTaskStates_of_eq (miscorrect_lineWork ..).qs (miscorrect_lineWork ..).img).trans
    (beginCmd_sameTaskStates (x := mkCtx (miscorrect (circOf op c e s) s) c (circOf op c e s) k) (hdraws _) (hstep _) _)

/-- A task that is there is there in its state. -/
theorem SameTaskStates.found {s t : State} (h : SameTaskStates s t) {r : QRef} {n : Nat} {y : Task} (hy : taskOf s r n = some y) :
    ∃ z, taskOf t r n = some z ∧ z.state = y.state := by
  have hstate := h.states r n
  rw [hy, Option.map_some] at hstate
  exact Option.map_eq_some_iff.1 hstate

end Sys2Proof.Machine
end

section
/-!
PROOFS. TSK.BEGIN, TSK.COMMIT and TSK.DISCARD (R375 to R378, R382, R383): the Cocoon that a task gets, and what its publication and
its end leave.
-/
namespace Sys2Proof.Machine
open Host

/-! ### A Cocoon for a task (R382) -/

theorem freeCocoon_congr {s t : State} (h : t.cocoons = s.cocoons) : freeCocoon t = freeCocoon s := by
  rw [freeCocoon, h, freeCocoon]

theorem cocoonOf_congr {s t : State} (h : t.cocoons = s.cocoons) (o : Owner) : cocoonOf t o = cocoonOf s o := by
  cases o with
  | none => rfl
  | some y => rw [cocoonOf, h, cocoonOf]

/-- The lowest Cocoon number that is free (R382). -/
theorem freeCocoon_spec {s : State} {n : Nat} (h : freeCocoon s = some n) :
    n < 64 ∧ (∀ k ∈ s.cocoons, k.num ≠ n) ∧ ∀ m, m < n → ∃ k ∈ s.cocoons, k.num = m := by
  obtain ⟨hfree, hmem, hlow⟩ := List.find?_range_eq_some.1 h
  refine ⟨List.mem_range.1 hmem, fun k hk hnum => ?_, fun m hm => ?_⟩
  · have hused : s.cocoons.any (fun k => decide (k.num = n)) = true := List.any_eq_true.2 ⟨k, hk, decide_eq_true hnum⟩
    simp [hused] at hfree
  · simpa using hlow m hm

/-- The start of such a command keeps its mark of R346 for a second record. -/
theorem beginCmd_second {f : Family} {x : Ctx} (hdraws : f.draws x.par = false) (hstep : f.step x.par = none) {s : State} {k : Cmd}
    (hk : cmdOf s x.c = some k) :
    ∃ k', cmdOf (beginCmd f x none s) x.c = some k' ∧ k'.second = k.second ∧ k'.task = k.task := by
  have hluna : ∃ k', cmdOf (readLuna f x s) x.c = some k' ∧ k'.second = k.second ∧ k'.task = k.task := by
    have hread : ∀ a b, cmdOf (modCmd x.c (fun k => { k with luna := a, lunaBad := b }) s) x.c = some { k with luna := a, lunaBad := b } :=
      fun a b => by
        rw [cmdOf_modCmd x.c (fun k => { k with luna := a, lunaBad := b }) (fun _ => rfl), hk]
        rfl
    unfold readLuna
    rw [hdraws]
    dsimp only
    split <;> exact ⟨_, hread .., rfl, rfl⟩
  obtain ⟨k0, hk0, hsecond, htask⟩ := hluna
  unfold beginCmd
  extract_lets now th s1 s2 s3 s4
  have h4 : cmdOf s4 x.c = cmdOf s1 x.c := by simp [s4, s3, s2]
  have h1 : ∃ k', cmdOf s1 x.c = some k' ∧ k'.second = k.second ∧ k'.task = k.task := by
    simp only [s1, readStep_none hstep]
    rw [cmdOf_modCmd, hk0]
    · exact ⟨_, rfl, hsecond, htask⟩
    · intro k; rfl
  rw [← h4] at h1
  exact h1

/-- What the admission of such a command has seen, of its task and of its mark. -/
theorem startOf_stage3 {op : Nat} {f : Family} {c : CmdRef} {e : Circ} {s s1 : State} {x : Ctx}
    (h : startOf op f c e s = some (x, s1)) (hcore : ∀ v, f.core v = false) (hdraws : ∀ v, f.draws v = false)
    (hstep : ∀ v, f.step v = none) :
    ∃ y : Ctx, y.o = x.o ∧ y.cmd.second = x.cmd.second ∧ stage3 op f y s = none := by
  obtain ⟨k, core, hk, hgo, hs1, hx⟩ := startOf_admitted h
  obtain ⟨hstage, -⟩ := checks_of_admission hgo
  obtain rfl := admission_go_none (hcore _) hgo
  obtain ⟨k', hk', hsecond, htask⟩ := beginCmd_second (f := f) (x := mkCtx (miscorrect (circOf op c e s) s) c (circOf op c e s) k)
    (hdraws _) (hstep _) (((miscorrect_lineWork (circOf op c e s) s).cmdOf c).trans hk)
  have hnow : cmdOf s1 c = some k' := hs1 ▸ hk'
  refine ⟨_, ?_, ?_, hstage⟩
  · rw [hx, ctxNow, hnow]
    exact congrArg (fun n => some (c.q, n)) htask.symm
  · rw [hx, ctxNow, hnow]
    exact hsecond.symm

/-- A command that passes stage 3 is not refused by its family, but for a TSK.BEGIN that is marked. -/
theorem refuse_none_of_stage3 {op : Nat} {f : Family} {x : Ctx} {s : State} (h : stage3 op f x s = none)
    (hsecond : x.cmd.second = false) : f.refuse x s = none := by
  unfold stage3 at h
  dsimp only at h
  simp only [hsecond, Bool.and_false, Bool.false_and, Bool.false_eq_true, if_false] at h
  repeat' split at h
  case isFalse.isFalse.isFalse.isFalse.isFalse.isFalse.isFalse => exact h
  all_goals cases h

/-- The Cocoon that a TSK.BEGIN gives to its task (R382). -/
def newCocoon (x : Ctx) (n : Nat) : Cocoon :=
  let p := Pool.parse x.par
  { num := n, q := x.c.q, task := x.cmd.task, ks := p.ks, ksN := p.ksN, bg := p.bg, bgN := p.bgN }

theorem beginWork_eq {x : Ctx} {s : State} {n : Nat} (hnone : cocoonOf s x.o = none) (hn : freeCocoon s = some n) :
    beginWork x s =
      complete x.c { reply := some n } (modTask x.c.q x.cmd.task (fun t => { t with state := .speculative })
        { s with cocoons := s.cocoons ++ [newCocoon x n] }) := by
  rw [beginWork, hnone, hn]
  rfl

theorem CompletionWork.cocoons {s t : State} (h : CompletionWork s t) : t.cocoons = s.cocoons := by
  obtain ⟨_, _, _, _, _, _, _, _, _, _, _, _, _, _, rfl⟩ := h
  rfl

theorem StartWork.cocoons {s t : State} (h : StartWork s t) : t.cocoons = s.cocoons := by
  obtain ⟨_, _, _, _, _, _, _, _, rfl⟩ := h
  rfl

theorem miscorrect_cocoons (e : Circ) (s : State) : (miscorrect e s).cocoons = s.cocoons :=
  miscorrect_keeps (·.cocoons) (fun _ _ _ => rfl) e s

/-- What the start of a command on speculative tasks leaves: Cocoons, operand buffers and the states of tasks. -/
structure TaskStart (c : CmdRef) (s s1 : State) (x : Ctx) : Prop where
  place : x.c = c
  cmd : cmdOf s1 c = some x.cmd
  cocoons : s1.cocoons = s.cocoons
  ob : s1.mem.ob = s.mem.ob
  states : SameTaskStates s s1

theorem startOf_task {op : Nat} {f : Family} {c : CmdRef} {e : Circ} {s s1 : State} {x : Ctx} (hcore : ∀ v, f.core v = false)
    (hdraws : ∀ v, f.draws v = false) (hstep : ∀ v, f.step v = none) (h : startOf op f c e s = some (x, s1)) :
    TaskStart c s s1 x := by
  obtain ⟨hwork, -⟩ := startOf_runs h hcore hdraws hstep
  exact ⟨(startOf_ctx h).1, (startOf_cmd h).1, hwork.cocoons.trans (miscorrect_cocoons ..),
    (congrArg (·.ob) hwork.mem).trans (miscorrect_ob ..), startOf_sameTaskStates h hcore hdraws hstep⟩

/-! ### The end of a speculation (R377, R378) -/

/-- A completion behind a step that sets the state of a task. -/
theorem complete_modTask {c : CmdRef} {k : Cmd} {s : State} (hk : cmdOf s c = some k) (r : QRef) (n : Nat) (st : TState) (reply : Nat) :
    let t := complete c { reply := some reply } (modTask r n (fun t => { t with state := st }) s)
    endsAs t c stOk reply ∧ t.cocoons = s.cocoons ∧ t.mem.dev = s.mem.dev ∧ t.mem.ob = s.mem.ob ∧
      ((taskOf s r n).isSome = true → ∃ y, taskOf t r n = some y ∧ y.state = st) := by
  intro t
  have hwork := complete_completionWork c { reply := some reply } (modTask r n (fun t => { t with state := st }) s)
  refine ⟨complete_done ((cmdOf_modTask ..).trans hk) rfl, hwork.cocoons.trans (setQ_cocoons ..), hwork.dev.trans (by simp),
    hwork.ob.trans (by simp), fun hsome => ?_⟩
  obtain ⟨y, hy⟩ := Option.isSome_iff_exists.1 hsome
  have hset : taskOf (modTask r n (fun t => { t with state := st }) s) r n = some { y with state := st } := by
    rw [taskOf_modTask_self r n (f := fun t => { t with state := st }) (fun _ => rfl), hy]
    rfl
  exact (complete_sameTaskStates ..).found hset

/-- The target task stands in its queue. -/
theorem taskOf_target {x : Ctx} {s : State} {y : Task} (h : targetTask x s = some y) :
    (taskOf s (targetQ x s) y.serial).isSome = true := by
  have hmem : y ∈ (getQ s (targetQ x s)).tasks := (List.mem_filter.1 (List.mem_of_getLast? h)).1
  exact List.find?_isSome.2 ⟨y, hmem, decide_eq_true rfl⟩

theorem endSpec_eq {x : Ctx} {s : State} {y : Task} {k : Cocoon} (st : TState) (hy : targetTask x s = some y)
    (hk : targetCocoon x s = some k) :
    endSpec x st s = modTask (targetQ x s) y.serial (fun t => { t with state := st }) (dropCocoon k.num s) := by
  simp only [endSpec, hy, hk]
  cases targetQ x s <;> rfl

theorem complete_endSpec {x : Ctx} {s : State} {y : Task} {k : Cocoon} {j : Cmd} (st : TState) (reply : Nat)
    (hj : cmdOf s x.c = some j) (hy : targetTask x s = some y) (hk : targetCocoon x s = some k) :
    let t := complete x.c { reply := some reply } (endSpec x st s)
    endsAs t x.c stOk reply ∧ t.cocoons = s.cocoons.filter (fun i => decide (i.num ≠ k.num)) ∧
      (∃ z, taskOf t (targetQ x s) y.serial = some z ∧ z.state = st) ∧ t.mem.dev = s.mem.dev ∧ t.mem.ob = s.mem.ob := by
  have hdrop : cmdOf (dropCocoon k.num s) x.c = some j := hj
  obtain ⟨hends, hcocoons, hdev, hob, hstate⟩ := complete_modTask hdrop (targetQ x s) y.serial st reply
  rw [endSpec_eq st hy hk]
  exact ⟨hends, hcocoons, hstate (taskOf_target hy), hdev, hob⟩

/-! ### Granules in order -/

theorem insGranule_perm (g : Granule) (l : List Granule) : (insGranule g l).Perm (g :: l) := by
  induction l with
  | nil => exact .refl _
  | cons h r ih =>
    unfold insGranule
    split
    · exact .refl _
    · exact (ih.cons h).trans (.swap g h r)

theorem Cocoon.sorted_perm (k : Cocoon) : k.sorted.Perm k.granules := by
  unfold Cocoon.sorted
  induction k.granules with
  | nil => exact .refl _
  | cons g r ih => exact (insGranule_perm g _).trans (ih.cons g)

/-- Where no original is shadowed twice, each granule is the one that shadows its original. -/
theorem Cocoon.granule_of_mem {k : Cocoon} (hnodup : (k.granules.map (·.orig)).Nodup) {g : Granule} (hg : g ∈ k.granules) :
    k.granule g.orig = some g := by
  unfold Cocoon.granule
  generalize k.granules = l at hnodup hg
  induction l with
  | nil => cases hg
  | cons h r ih =>
    rw [List.map_cons, List.nodup_cons] at hnodup
    rcases List.mem_cons.1 hg with rfl | hg
    · simp
    · have hne : h.orig ≠ g.orig := fun heq => hnodup.1 (heq ▸ List.mem_map_of_mem hg)
      rw [List.find?_cons_of_neg (by simpa using hne)]
      exact ih hnodup.2 hg

/-! ### What a commit publishes (R377) -/

/-- The marked lines of a granule, as stores of their copies at their originals. -/
def markedStores (m : Mem) (g : Granule) : List (Nat × List Byte) :=
  ((List.range 64).filter fun i => g.marks.getLsbD i).map fun i =>
    (g.orig * 4096 + 64 * i, memRead 0 m (g.copy * 4096 + 64 * i) 64)

theorem mem_markedStores {m : Mem} {g : Granule} {w : Nat × List Byte} : w ∈ markedStores m g ↔
    ∃ i, i < 64 ∧ g.marks.getLsbD i = true ∧ w = (g.orig * 4096 + 64 * i, memRead 0 m (g.copy * 4096 + 64 * i) 64) := by
  simp only [markedStores, List.mem_map, List.mem_filter, List.mem_range, and_assoc, eq_comm]

theorem memRead_length (z : Byte) (m : Mem) (a n : Nat) : (memRead z m a n).length = n := by simp [memRead]

theorem granulePiece_stores (s : State) (g : Granule) : (granulePiece s g).stores = markedStores s.mem.dev g := by
  simp only [Piece.stores, granulePiece, markedStores, List.filterMap_map, Function.comp_def, Wr.store, List.filterMap_eq_map']

theorem granulePiece_plain {s : State} {g : Granule} (horig : spanMem (g.orig * 4096) 4096 = true)
    (hcopy : spanMem (g.copy * 4096) 4096 = true) : (granulePiece s g).Plain := by
  have hline : ∀ {a i : Nat}, spanMem (a * 4096) 4096 = true → i < 64 → spanMem (a * 4096 + 64 * i) 64 = true :=
    fun ha hi => spanMem_of_spanMem ha (by omega) (by omega) (by decide)
  refine ⟨rfl, rfl, fun y hy => ?_, fun w hw => ?_⟩
  · obtain ⟨i, hi, rfl⟩ := List.mem_map.1 hy
    exact hline hcopy (List.mem_range.1 (List.mem_filter.1 hi).1)
  · obtain ⟨i, hi, rfl⟩ := List.mem_map.1 hw
    refine ⟨_, rfl, ?_⟩
    rw [memRead_length]
    exact hline horig (List.mem_range.1 (List.mem_filter.1 hi).1)

/-- What a commit of a Cocoon publishes at an address: the byte of the copy that shadows it. -/
def Cocoon.published (k : Cocoon) (m : Mem) (a : Nat) : Byte :=
  ((k.granule (a / 4096)).map fun g => memGet 0 m (g.copy * 4096 + a % 4096)).getD 0

theorem Cocoon.published_of_mem {k : Cocoon} (hnodup : (k.granules.map (·.orig)).Nodup) {g : Granule} (hg : g ∈ k.granules) (m : Mem)
    {i : Nat} (hi : i < 4096) : k.published m (g.orig * 4096 + i) = memGet 0 m (g.copy * 4096 + i) := by
  have hdiv : (g.orig * 4096 + i) / 4096 = g.orig := by omega
  have hmod : (g.orig * 4096 + i) % 4096 = i := by omega
  rw [Cocoon.published, hdiv, hmod, Cocoon.granule_of_mem hnodup hg]
  rfl

/-- The stores of a commit. -/
def Cocoon.commits (k : Cocoon) (m : Mem) : List (Nat × List Byte) :=
  (k.sorted.filter fun g => g.marks != 0).flatMap (markedStores m)

theorem Cocoon.mem_commits {k : Cocoon} {m : Mem} {w : Nat × List Byte} : w ∈ k.commits m ↔
    ∃ g ∈ k.granules, ∃ i, i < 64 ∧ g.marks.getLsbD i = true ∧
      w = (g.orig * 4096 + 64 * i, memRead 0 m (g.copy * 4096 + 64 * i) 64) := by
  simp only [Cocoon.commits, List.mem_flatMap, List.mem_filter, mem_markedStores, k.sorted_perm.mem_iff, bne_iff_ne]
  constructor
  · rintro ⟨g, ⟨hg, -⟩, hw⟩
    exact ⟨g, hg, hw⟩
  · rintro ⟨g, hg, i, hi, hmark, hw⟩
    refine ⟨g, ⟨hg, fun hzero => ?_⟩, i, hi, hmark, hw⟩
    simp [hzero] at hmark

theorem Cocoon.commits_agree {k : Cocoon} (hnodup : (k.granules.map (·.orig)).Nodup) (m : Mem) :
    Agree (k.published m) (k.commits m) := by
  intro w hw
  obtain ⟨g, hg, i, hi, -, rfl⟩ := Cocoon.mem_commits.1 hw
  rw [memRead_length]
  refine List.map_congr_left fun j hj => ?_
  have := List.mem_range.1 hj
  rw [Nat.add_assoc, Nat.add_assoc, Cocoon.published_of_mem hnodup hg m (by omega)]

/-- After a commit a byte of a marked line is that of the copy, every other byte as before (R377). -/
theorem Cocoon.memGet_commits {k : Cocoon} (hnodup : (k.granules.map (·.orig)).Nodup) {m : Mem} (hm : Memory.wfOf 0 m = true)
    {g : Granule} (hg : g ∈ k.granules) {i : Nat} (hi : i < 4096) :
    memGet 0 (stored m (k.commits m)) (g.orig * 4096 + i) =
      memGet 0 m ((if g.marks.getLsbD (i / 64) = true then g.copy else g.orig) * 4096 + i) := by
  by_cases hmark : g.marks.getLsbD (i / 64) = true
  · rw [if_pos hmark, ← Cocoon.published_of_mem hnodup hg m hi]
    refine memGet_stored_agree hm (Cocoon.commits_agree hnodup m) (.inl ⟨_, Cocoon.mem_commits.2 ⟨g, hg, i / 64, by omega, hmark, rfl⟩, ?_⟩)
    rw [memRead_length]
    omega
  · rw [if_neg hmark]
    refine memGet_stored_outside hm fun w hw => ?_
    obtain ⟨h, hh, j, hj, hjmark, rfl⟩ := Cocoon.mem_commits.1 hw
    rw [memRead_length]
    by_cases horig : h.orig = g.orig
    · have heq : some h = some g := by
        rw [← Cocoon.granule_of_mem hnodup hh, horig, Cocoon.granule_of_mem hnodup hg]
      obtain rfl := Option.some.inj heq
      have hne : j ≠ i / 64 := fun hji => hmark (hji ▸ hjmark)
      omega
    · omega

theorem Cocoon.memGet_commits_outside {k : Cocoon} {m : Mem} (hm : Memory.wfOf 0 m = true) {a : Nat}
    (ha : ∀ g ∈ k.granules, g.orig ≠ a / 4096) : memGet 0 (stored m (k.commits m)) a = memGet 0 m a := by
  refine memGet_stored_outside hm fun w hw => ?_
  obtain ⟨g, hg, i, hi, -, rfl⟩ := Cocoon.mem_commits.1 hw
  have := ha g hg
  rw [memRead_length]
  omega

/-- In healthy memory a commit stores the marked lines, ends the speculation and replies with the granules published. -/
theorem commitWork_eq {x : Ctx} {s : State} {k : Cocoon} (hk : targetCocoon x s = some k) (hh : healthy s x.e)
    (hspan : ∀ g ∈ k.granules, spanMem (g.orig * 4096) 4096 = true ∧ spanMem (g.copy * 4096) 4096 = true) :
    commitWork x s = complete x.c { reply := some (k.granules.filter fun g => g.marks != 0).length }
      (endSpec x .committed (s.setDev (stored s.mem.dev (k.commits s.mem.dev)))) := by
  have hplain : ∀ p ∈ (k.sorted.filter fun g => g.marks != 0).map (granulePiece s), p.Plain := fun p hp => by
    obtain ⟨g, hg, rfl⟩ := List.mem_map.1 hp
    obtain ⟨horig, hcopy⟩ := hspan g (k.sorted_perm.mem_iff.1 (List.mem_filter.1 hg).1)
    exact granulePiece_plain horig hcopy
  have hnext : ∀ p ∈ ((k.sorted.filter fun g => g.marks != 0).map (granulePiece s)).getLast?, ∀ w ∈ p.writes, w.next = false :=
    fun p hp w hw => by
      obtain ⟨g, -, rfl⟩ := List.mem_map.1 (List.mem_of_getLast? hp)
      obtain ⟨i, -, rfl⟩ := List.mem_map.1 hw
      rfl
  have hstores : ((k.sorted.filter fun g => g.marks != 0).map (granulePiece s)).flatMap Piece.stores = k.commits s.mem.dev := by
    simp only [List.flatMap_map, granulePiece_stores, Cocoon.commits]
  have hcount : (k.sorted.filter fun g => g.marks != 0).length = (k.granules.filter fun g => g.marks != 0).length :=
    (k.sorted_perm.filter _).length_eq
  have hrun := runPieces_plain false x.core (o := none) hh rfl hplain hnext
  unfold commitWork
  simp only [hk, Option.map_some, Option.getD_some, hrun, hstores, hcount]

/-! ### The obligation -/

/-- Settles O17: the Cocoon of `freeCocoon_spec`, the stores of `Cocoon.commits`, and the end of a speculation. -/
theorem speculativeTasks : Obligations.SpeculativeTasks := by
  unfold Obligations.SpeculativeTasks
  refine ⟨?opens, ?commit, ?discard⟩
  case opens =>
    intro c e s s1 x h hnone hsecond
    obtain ⟨rfl, hcmd, hcocoons, hob, hstates⟩ := startOf_task (fun _ => rfl) (fun _ => rfl) (fun _ => rfl) h
    obtain ⟨y, hyo, hysecond, hstage⟩ := startOf_stage3 h (fun _ => rfl) (fun _ => rfl) (fun _ => rfl)
    have hrefuse := refuse_none_of_stage3 hstage (hysecond.trans hsecond)
    obtain ⟨n, hn⟩ : ∃ n, freeCocoon s = some n := by
      cases hfree : freeCocoon s with
      | none => simp [beginFamily, hyo, hnone, hfree] at hrefuse
      | some n => exact ⟨n, rfl⟩
    obtain ⟨hlt, hfree, hlow⟩ := freeCocoon_spec hn
    have hexec : exec (.tskBegin x.c e) s = .next (beginWork x s1) := congrArg Outcome.next (runCmd_start h)
    rw [beginWork_eq ((cocoonOf_congr hcocoons _).trans hnone) ((freeCocoon_congr hcocoons).trans hn)] at hexec
    obtain ⟨hends, htcocoons, hdev, htob, hstate⟩ := complete_modTask
      (s := { s1 with cocoons := s1.cocoons ++ [newCocoon x n] }) hcmd x.c.q x.cmd.task .speculative n
    refine ⟨_, n, hexec, hends, hlt, hfree, hlow, htcocoons.trans (by rw [hcocoons]; rfl), fun hsome => ?_, hdev, htob.trans hob⟩
    obtain ⟨z, hz⟩ := Option.isSome_iff_exists.1 hsome
    obtain ⟨z1, hz1, -⟩ := hstates.found hz
    exact hstate (Option.isSome_iff_exists.2 ⟨z1, hz1⟩)
  case commit =>
    intro c e s s1 x y k h hy hk hh hwf hnodup hspan
    obtain ⟨rfl, hcmd, hcocoons, hob, -⟩ := startOf_task (fun _ => rfl) (fun _ => rfl) (fun _ => rfl) h
    obtain ⟨-, hxe, -⟩ := startOf_ctx h
    obtain rfl : x.e = e := hxe
    have hdev0 : s1.mem.dev = s.mem.dev := startOf_dev h hh.2.2.2.1
    have hm : Memory.wfOf 0 s1.mem.dev = true := (memOk_iff.1 hwf).1
    have hexec : exec (.tskCommit x.c x.e) s = .next (commitWork x s1) := congrArg Outcome.next (runCmd_start h)
    rw [commitWork_eq hk hh hspan] at hexec
    obtain ⟨hends, htcocoons, hstate, hdev, htob⟩ := complete_endSpec .committed (k.granules.filter fun g => g.marks != 0).length
      (s := s1.setDev (stored s1.mem.dev (k.commits s1.mem.dev))) hcmd hy hk
    refine ⟨_, hexec, hends, htcocoons.trans (by rw [← hcocoons]; rfl), hstate, fun g hg i hi => ?_, fun a ha => ?_, htob.trans hob⟩
    · rw [hdev, setDev_dev, Cocoon.memGet_commits hnodup hm hg hi, hdev0]
    · rw [hdev, setDev_dev, Cocoon.memGet_commits_outside hm ha, hdev0]
  case discard =>
    intro c e s s1 x y k h hy hk
    obtain ⟨rfl, hcmd, hcocoons, hob, -⟩ := startOf_task (fun _ => rfl) (fun _ => rfl) (fun _ => rfl) h
    have hexec : exec (.tskDiscard x.c e) s = .next (discardWork x s1) := congrArg Outcome.next (runCmd_start h)
    simp only [discardWork, hk, Option.map_some, Option.getD_some] at hexec
    obtain ⟨hends, htcocoons, hstate, hdev, htob⟩ := complete_endSpec .discarded k.granules.length hcmd hy hk
    exact ⟨_, hexec, hends, htcocoons.trans (by rw [hcocoons]), hstate, hdev, htob.trans hob⟩

end Sys2Proof.Machine
end

section
/-!
PROOFS. A Cocoon is visible to its own task only (R376).
-/
namespace Sys2Proof.Machine

theorem readByte_mem {s : State} {a : Nat} (h : inWin a = false) (o : Owner) :
    readByte s o a = memGet 0 s.mem.dev (viewAddr s o a) := by
  rw [readByte, h]
  rfl

/-- Where no Cocoon of its own shadows the granule, a command finds the original (R376). -/
theorem viewAddr_original {s : State} {o : Owner} {a : Nat}
    (h : ∀ k ∈ s.cocoons, o = some (k.q, k.task) → k.granule (a / 4096) = none) : viewAddr s o a = a := by
  cases hk : cocoonOf s o with
  | none => exact viewAddr_plain hk a
  | some k =>
    cases o with
    | none => cases hk
    | some y =>
      obtain ⟨hq, ht⟩ := cocoonOf_task hk
      have hnone := h k (List.mem_of_find?_eq_some hk) (by rw [hq, ht])
      simp only [viewAddr, hk, hnone]

/-- Settles O59: a task's own reads go to the copy by `viewAddr_shadowed`, every other read to the original. -/
theorem cocoonsAreTheirTasksOwn : Obligations.CocoonsAreTheirTasksOwn := by
  unfold Obligations.CocoonsAreTheirTasksOwn
  refine fun s a hwin => ⟨fun q n k g hk hg => ?own, fun o ho => ?other⟩
  case own =>
    obtain ⟨hq, ht⟩ := cocoonOf_task hk
    exact ⟨hq, ht, by rw [readByte_mem hwin, viewAddr_shadowed hk (Option.map_eq_some_iff.2 ⟨g, hg, rfl⟩)]⟩
  case other => rw [readByte_mem hwin, viewAddr_original ho]

end Sys2Proof.Machine
end

section
/-!
PROOFS. FORM and LEAVE (R396, R398): a part without an image run empties its slots, and forms, fails or waits for hellos.
-/
namespace Sys2Proof.Machine
open Host

/-! ### The slots are emptied -/

/-- The state without a loaded image: the claims of CTX.RESTORE stay. -/
def slotsEmptied (s : State) : State :=
  { s with img := { s.img with slots := [], claims := s.img.claims.filter fun z => decide (z.2.2 = 4) } }

theorem unloadAll_idle {s : State} (h : s.img.run = none) : unloadAll s = slotsEmptied s := by
  have hend : endImage (stRefusedState, 0x84, none) s = s := by simp only [endImage, h]
  rw [unloadAll, hend]
  rfl

theorem mem_slotsEmptied_claims {s : State} {z : Nat × Nat × Nat} :
    z ∈ (slotsEmptied s).img.claims ↔ z ∈ s.img.claims ∧ z.2.2 = 4 := by
  simp [slotsEmptied]

/-! ### A formation fails, or a domain is formed -/

section
variable (code : Nat) (s : State)

@[simp] theorem failForm_dstate : (failForm code s).dom.dstate = 3 := rfl
@[simp] theorem failForm_fail : (failForm code s).dom.fail = code := rfl
@[simp] theorem failForm_size : (failForm code s).dom.size = 1 := rfl
@[simp] theorem failForm_index : (failForm code s).dom.index = 0 := rfl
@[simp] theorem failForm_mem : (failForm code s).mem = s.mem := rfl
@[simp] theorem failForm_queues : (failForm code s).queues = s.queues := rfl
@[simp] theorem failForm_sup : (failForm code s).sup = s.sup := rfl
@[simp] theorem failForm_cores : (failForm code s).cores = s.cores := rfl
@[simp] theorem failForm_img : (failForm code s).img = s.img := rfl

end

section
variable (hs : List Hello) (s : State)

@[simp] theorem formDomain_dstate : (formDomain hs s).dom.dstate = 2 := rfl
@[simp] theorem formDomain_fail : (formDomain hs s).dom.fail = 0 := rfl
@[simp] theorem formDomain_size : (formDomain hs s).dom.size = fld s.regs.domCfg.toNat 18 9 + 1 := rfl
@[simp] theorem formDomain_index : (formDomain hs s).dom.index =
    if fld s.regs.domCfg.toNat 18 9 + 1 = 1 then 0 else fld s.regs.domCfg.toNat 8 0 := rfl
@[simp] theorem formDomain_nlDom : (formDomain hs s).dom.nlDom = commonNl hs := rfl
@[simp] theorem formDomain_ifDom : (formDomain hs s).dom.ifDom = (commonFmts hs).foldl max 0 := rfl
@[simp] theorem formDomain_red : (formDomain hs s).dom.red = redLevel (fld s.regs.domCfg.toNat 18 9 + 1) hs := rfl
@[simp] theorem formDomain_members : (formDomain hs s).dom.members = s.dom.members := rfl
@[simp] theorem formDomain_source : (formDomain hs s).time.source = if bit s.regs.domCfg.toNat 19 then s.time.source else 1 := rfl

end

/-! ### A formation starts -/

/-- The trained ports of a formation: those that did not fail their loopback test (R423). -/
def formLinks (links : List (Nat × Nat)) (s : State) : List (Nat × Nat) :=
  links.filter fun l => decide (l.1 < 36) && !s.dom.excluded.contains l.1

/-- The state of a formation that has heard this part's own hello alone. -/
def forming (links : List (Nat × Nat)) (s : State) : State :=
  let s1 := goAlone (slotsEmptied s)
  { s1 with dom := { s1.dom with
    dstate := 1, fail := 0, formTick := (s.time.now.toNat : Int), down := [], hellos := [ownHello (formLinks links s) s]
    members := 1, inbox := [], ports := (formLinks links s).foldl (fun v l => setBit v l.1) 0 } }

theorem startForm_idle (links : List (Nat × Nat)) {s : State} (h : s.img.run = none) :
    startForm links s =
      let k := ownHello (formLinks links s) s
      if k.sizeM1 = 0 then
        if commonNl [k] = 0 ∨ commonFmts [k] = [] then failForm 2 (forming links s) else formDomain [k] (forming links s)
      else if k.sizeM1 < k.part then failForm 4 (sendDom (.hello k) (forming links s))
      else sendDom (.hello k) (forming links s) := by
  unfold startForm
  rw [unloadAll_idle h]
  rfl

theorem exec_domainForm {s : State} (links : List (Nat × Nat)) (hr : reachable s = true) (ha : atRest s = true)
    (hd : s.dom.dstate ≠ 1) : exec (.domainForm links) s = .next (startForm links s) := by
  have hcond : (reachable s && atRest s && s.dom.dstate != 1) = true := by simp [hr, ha, hd]
  exact congrArg Outcome.next (if_pos hcond)

/-- A part with every capability offers both levels and both formats. -/
theorem ownHello_all {links : List (Nat × Nat)} {s : State} (hcaps : s.sup.caps = 0xF) :
    commonNl [ownHello links s] = 3 ∧ commonFmts [ownHello links s] = [2, 3] := by
  simp [commonNl, commonFmts, ownHello, hcaps]

/-! ### LEAVE -/

theorem leave_idle {s : State} (h : s.dom.cols = []) : leave s = goAlone { s with dom := { s.dom with fail := 0 } } := by
  simp [leave, goAlone, h]

/-! ### The obligation -/

/-- Settles O46: the three ends of `startForm_idle`, and `leave_idle`. -/
theorem domainBegins : Obligations.DomainBegins := by
  unfold Obligations.DomainBegins
  refine ⟨fun s links hr ha hd hrun hsize hcaps hred => ?alone, fun s links hr ha hd hrun hsize => ⟨fun hindex => ?beyond, fun hindex => ?waits⟩,
    fun s hr hcols => ?leaves⟩
  case alone =>
    obtain ⟨hnl, hfmts⟩ := ownHello_all (links := formLinks links s) hcaps
    have hform : startForm links s = formDomain [ownHello (formLinks links s) s] (forming links s) := by
      rw [startForm_idle links hrun]
      simp [hnl, hfmts, show (ownHello (formLinks links s) s).sizeM1 = 0 from hsize]
    have hlevel : redLevel 1 [ownHello (formLinks links s) s] = 0 := by simp [redLevel, ownHello, hred]
    have hcfg : fld (forming links s).regs.domCfg.toNat 18 9 = 0 := hsize
    refine ⟨_, (exec_domainForm links hr ha hd).trans (congrArg Outcome.next hform), formDomain_dstate .., ?_, ?_, ?_, ?_, ?_,
      formDomain_fail .., rfl, fun z => mem_slotsEmptied_claims (s := s), rfl, rfl, rfl, rfl⟩
    · rw [formDomain_size, hcfg]
    · rw [formDomain_index, hcfg, if_pos rfl]
    · rw [formDomain_nlDom, hnl]
    · rw [formDomain_ifDom, hfmts]
      rfl
    · rw [formDomain_red, hcfg, hlevel]
  case beyond =>
    have hform : startForm links s = failForm 4 (sendDom (.hello (ownHello (formLinks links s) s)) (forming links s)) := by
      rw [startForm_idle links hrun]
      exact (if_neg hsize).trans (if_pos hindex)
    exact ⟨_, (exec_domainForm links hr ha hd).trans (congrArg Outcome.next hform), failForm_dstate .., failForm_fail ..,
      congrArg (·.slots) (failForm_img ..), failForm_sup ..⟩
  case waits =>
    have hform : startForm links s = sendDom (.hello (ownHello (formLinks links s) s)) (forming links s) := by
      rw [startForm_idle links hrun]
      exact (if_neg hsize).trans (if_neg (Nat.not_lt.2 hindex))
    exact ⟨_, _, (exec_domainForm links hr ha hd).trans (congrArg Outcome.next hform), rfl, rfl, rfl, rfl, rfl, rfl, rfl, rfl, rfl,
      rfl, fun z => mem_slotsEmptied_claims (s := s), rfl, rfl, rfl, rfl⟩
  case leaves =>
    have hleave : exec .domainLeave s = .next (leave s) := congrArg Outcome.next (if_pos hr)
    exact ⟨_, hleave.trans (congrArg Outcome.next (leave_idle hcols)), rfl, rfl, rfl, rfl, rfl, rfl, rfl⟩

end Sys2Proof.Machine
end

section
/-!
PROOFS. Hellos of other parts (R398, R399): what each decides in a formation, and the redundancy level of the domain.
-/
namespace Sys2Proof.Machine
open Host

/-! ### Maxima over a list -/

/-- A running maximum is at least its start and every member, and one of these. -/
theorem foldl_max_spec {α : Type} (f : α → Nat) (l : List α) (b : Nat) :
    let r := l.foldl (fun r x => max r (f x)) b
    b ≤ r ∧ (∀ x ∈ l, f x ≤ r) ∧ (r = b ∨ ∃ x ∈ l, r = f x) := by
  induction l generalizing b with
  | nil => exact ⟨Nat.le_refl b, fun _ h => (List.not_mem_nil h).elim, .inl rfl⟩
  | cons x l ih =>
    obtain ⟨hstart, hall, hone⟩ := ih (max b (f x))
    refine ⟨(Nat.le_max_left ..).trans hstart, fun y hy => ?_, ?_⟩
    · rcases List.mem_cons.1 hy with rfl | hy
      · exact (Nat.le_max_right ..).trans hstart
      · exact hall y hy
    · rcases hone with h | ⟨y, hy, h⟩
      · rcases max_choice b (f x) with g | g
        · exact .inl (h.trans g)
        · exact .inr ⟨x, List.mem_cons_self, h.trans g⟩
      · exact .inr ⟨y, List.mem_cons_of_mem _ hy, h⟩

/-- The largest of some numbers is one of them. -/
theorem foldl_max_mem {l : List Nat} (h : l ≠ []) : l.foldl max 0 ∈ l ∧ ∀ x ∈ l, x ≤ l.foldl max 0 := by
  obtain ⟨-, hall, hone⟩ := foldl_max_spec id l 0
  refine ⟨?_, hall⟩
  obtain ⟨y, hy⟩ := List.exists_mem_of_ne_nil l h
  rcases hone with hzero | ⟨x, hx, heq⟩
  · have hle : y ≤ 0 := hzero ▸ hall y hy
    have hy0 : y = l.foldl max 0 := (Nat.le_zero.1 hle).trans hzero.symm
    exact hy0 ▸ hy
  · exact heq ▸ hx

/-! ### What the hellos heard decide -/

section
variable {size : Nat} {hs : List Hello}

theorem verdict_masters (h : 1 < (hs.filter (·.master)).length) : verdict size hs = some 5 := if_pos h

theorem verdict_awaits (h : (hs.filter (·.master)).length ≤ 1) (hlen : hs.length < size) : verdict size hs = none := by
  simp [verdict, Nat.not_lt.2 h, hlen]

theorem verdict_masterless (h : (hs.filter (·.master)).length = 0) (hlen : size ≤ hs.length) : verdict size hs = some 5 := by
  simp [verdict, h, Nat.not_lt.2 hlen]

/-- With all hellos heard and one master, the common level and formats decide, then the diameter. -/
theorem verdict_all (h : (hs.filter (·.master)).length = 1) (hlen : size ≤ hs.length) :
    verdict size hs = if commonNl hs = 0 ∨ commonFmts hs = [] then some 2 else if tooWide hs then some 6 else some 0 := by
  simp [verdict, h, Nat.not_lt.2 hlen]

end

/-- The state that has heard the hellos `hs`. -/
def heard (hs : List Hello) (s : State) : State := { s with dom := { s.dom with hellos := hs, members := hs.length } }

/-- The size that SIZE_M1 of SUP_DOM_CFG gives the domain (R397). -/
def cfgSize (s : State) : Nat := fld s.regs.domCfg.toNat 18 9 + 1

theorem decide'_none {hs : List Hello} {s : State} (h : verdict (cfgSize s) hs = none) : decide' hs s = heard hs s := by
  rw [cfgSize] at h
  simp only [decide', h]
  rfl

theorem decide'_forms {hs : List Hello} {s : State} (h : verdict (cfgSize s) hs = some 0) :
    decide' hs s = formDomain hs (heard hs s) := by
  rw [cfgSize] at h
  simp only [decide', h]
  rfl

theorem decide'_fails {hs : List Hello} {s : State} {c : Nat} (h : verdict (cfgSize s) hs = some c) (hc : c ≠ 0) :
    decide' hs s = failForm c (heard hs s) := by
  rw [cfgSize] at h
  obtain ⟨c, rfl⟩ := Nat.exists_eq_succ_of_ne_zero hc
  simp only [decide', h]
  rfl

/-! ### A hello of another part -/

/-- Memory, queues, supervisors and cores stay as they are. -/
def KeepsWork (s t : State) : Prop := t.mem = s.mem ∧ t.queues = s.queues ∧ t.sup = s.sup ∧ t.cores = s.cores

theorem failForm_keepsWork (code : Nat) (s : State) : KeepsWork s (failForm code s) := ⟨rfl, rfl, rfl, rfl⟩

theorem decide'_keepsWork (hs : List Hello) (s : State) : KeepsWork s (decide' hs s) := by
  unfold decide'
  dsimp only
  split <;> exact ⟨rfl, rfl, rfl, rfl⟩

theorem takeHello_keepsWork (h : Hello) (s : State) : KeepsWork s (takeHello h s) := by
  unfold takeHello
  dsimp only
  split
  · exact ⟨rfl, rfl, rfl, rfl⟩
  split
  · exact failForm_keepsWork 4 { s with dom := { s.dom with members := (s.dom.hellos ++ [h]).length } }
  split
  · exact failForm_keepsWork ..
  · exact decide'_keepsWork ..

section
variable {s : State} {h : Hello} (hnew : h ∉ s.dom.hellos)
include hnew

theorem takeHello_disagrees
    (hbad : h.domId ≠ s.regs.domId ∨ h.sizeM1 ≠ fld s.regs.domCfg.toNat 18 9 ∨ h.sizeM1 < h.part) :
    takeHello h s = failForm 4 { s with dom := { s.dom with members := (s.dom.hellos ++ [h]).length } } := by
  have hheard : ¬ s.dom.hellos.contains h = true := by simpa using hnew
  exact (if_neg hheard).trans (if_pos hbad)

variable (hid : h.domId = s.regs.domId) (hsize : h.sizeM1 = fld s.regs.domCfg.toNat 18 9) (hpart : h.part ≤ h.sizeM1)
include hid hsize hpart

theorem takeHello_agrees :
    takeHello h s = if s.dom.hellos.any fun k => decide (k.part = h.part) then failForm 3 s else decide' (s.dom.hellos ++ [h]) s := by
  have hheard : ¬ s.dom.hellos.contains h = true := by simpa using hnew
  have hgood : ¬ (h.domId ≠ s.regs.domId ∨ h.sizeM1 ≠ fld s.regs.domCfg.toNat 18 9 ∨ h.sizeM1 < h.part) := by
    simp only [hid, hsize, ne_eq, not_true_eq_false, false_or, Nat.not_lt]
    exact hsize ▸ hpart
  exact (if_neg hheard).trans (if_neg hgood)

theorem takeHello_twice (hdup : ∃ k ∈ s.dom.hellos, k.part = h.part) : takeHello h s = failForm 3 s := by
  rw [takeHello_agrees hnew hid hsize hpart, if_pos]
  simpa using hdup

theorem takeHello_decides (hfresh : ∀ k ∈ s.dom.hellos, k.part ≠ h.part) :
    takeHello h s = decide' (s.dom.hellos ++ [h]) s := by
  rw [takeHello_agrees hnew hid hsize hpart, if_neg]
  simpa using hfresh

end

theorem exec_helloReceive {s : State} (h : Hello) (hd : s.dom.dstate = 1) (hon : s.sup.dstate ≠ .off) :
    exec (.helloReceive h) s = .next (takeHello h s) :=
  congrArg Outcome.next (if_pos (by simp [hd, hon]))

/-- Two seconds after FORM the formation fails; on the time master the count moves there. -/
theorem exec_formationTimeout {s : State} (hd : s.dom.dstate = 1) (hon : s.sup.dstate ≠ .off) :
    ∃ u, u = { s with time := u.time } ∧ exec .formationTimeout s = .next (failForm 1 u) := by
  refine ⟨_, ?_, congrArg Outcome.next (if_pos (by simp [hd, hon]))⟩
  split
  · exact advanceTo_eq ..
  · rfl

/-! ### The obligation -/

/-- Settles O47: a hello by what it disagrees in, else by the verdict over all that were heard; the maximum of R399. -/
theorem hellosFormTheDomain : Obligations.HellosFormTheDomain := by
  unfold Obligations.HellosFormTheDomain
  refine ⟨⟨fun s h hd hon hnew => ?hello, fun s hd hon => ?timeout⟩, fun size hs => foldl_max_spec (·.redMin) hs _⟩
  case hello =>
    extract_lets size hs
    obtain ⟨hmem, hqueues, hsup, hcores⟩ := takeHello_keepsWork h s
    refine ⟨_, exec_helloReceive h hd hon, hmem, hqueues, hsup, hcores, fun hbad => ?_, fun hid hsize hpart =>
      ⟨fun hdup => ?_, fun hfresh => ?_⟩⟩
    · rw [takeHello_disagrees hnew hbad]
      exact ⟨failForm_dstate .., failForm_fail ..⟩
    · rw [takeHello_twice hnew hid hsize hpart hdup]
      exact ⟨failForm_dstate .., failForm_fail ..⟩
    · rw [takeHello_decides hnew hid hsize hpart hfresh]
      have hfails : ∀ {c}, verdict size hs = some c → c ≠ 0 → (decide' hs s).dom.dstate = 3 ∧ (decide' hs s).dom.fail = c :=
        fun hv hc => by
          rw [decide'_fails hv hc]
          exact ⟨failForm_dstate .., failForm_fail ..⟩
      refine ⟨fun hm => hfails (verdict_masters hm) (by decide), fun hm hlen => hfails (verdict_masterless hm hlen) (by decide),
        fun hm hlen hcommon => hfails (c := 2) ?_ (by decide), fun hm hlen hnl hfmts hwide => hfails (c := 6) ?_ (by decide),
        fun hm hlen => ?_, fun hm hlen hnl hfmts hwide => ?_⟩
      · rw [verdict_all hm hlen, if_pos hcommon]
      · rw [verdict_all hm hlen, if_neg (not_or.2 ⟨hnl, hfmts⟩), if_pos hwide]
      · rw [decide'_none (verdict_awaits hm hlen)]
        exact ⟨hd, rfl, rfl⟩
      · have hv : verdict size hs = some 0 := by
          rw [verdict_all hm hlen, if_neg (not_or.2 ⟨hnl, hfmts⟩), if_neg (by simp [hwide])]
        rw [decide'_forms hv]
        obtain ⟨hmax, hle⟩ := foldl_max_mem hfmts
        refine ⟨formDomain_dstate .., formDomain_size .., formDomain_nlDom .., hmax, hle, formDomain_red .., rfl,
          formDomain_fail .., fun hone => (formDomain_index ..).trans (if_neg hone), fun hslave => ?_⟩
        exact (formDomain_source ..).trans (if_neg (by simpa [heard] using hslave))
  case timeout =>
    obtain ⟨u, hu, hexec⟩ := exec_formationTimeout hd hon
    rw [hu] at hexec
    exact ⟨_, hexec, rfl, rfl, rfl, rfl, failForm_mem .., failForm_queues .., failForm_sup .., failForm_cores ..⟩

end Sys2Proof.Machine
end

section
/-!
PROOFS. Heartbeats (R436), what fences a supervisor (R437, R438), and cross-checking (R399), for a part without an image run.
-/
namespace Sys2Proof.Machine
open Host

/-! ### What a fence leaves as it is -/

/-- Every command, device memory and the operand buffers are as before, and no image run has begun. -/
structure SameWork (s t : State) : Prop where
  cmds : SameCmds s t
  idle : s.img.run = none → t.img.run = none
  dev : t.mem.dev = s.mem.dev
  ob : t.mem.ob = s.mem.ob

theorem SameWork.trans {s t u : State} (h : SameWork s t) (g : SameWork t u) : SameWork s u :=
  ⟨sameCmds_trans h.cmds g.cmds, g.idle ∘ h.idle, g.dev.trans h.dev, g.ob.trans h.ob⟩

theorem sameWork_of_eq {s t : State} (hq : t.queues.qs = s.queues.qs) (hi : t.img = s.img) (hdev : t.mem.dev = s.mem.dev)
    (hob : t.mem.ob = s.mem.ob) : SameWork s t := ⟨sameCmds_of_eq hq hi, fun h => hi ▸ h, hdev, hob⟩

theorem devIrq_sameWork (v : Nat) (s : State) : SameWork s (devIrq v s) := by
  obtain ⟨m, i, l, h⟩ := devIrq_spec v s
  rw [h]
  exact sameWork_of_eq rfl rfl rfl rfl

theorem setDState_sameWork (d : DState) (s : State) : SameWork s (setDState d s) := by
  obtain ⟨m, i, l, a, b, h⟩ := setDState_spec d s
  refine ⟨setDState_sameCmds d s, fun hrun => ?_, ?_, ?_⟩ <;> rw [h]
  exact hrun

theorem beginDrain_sameWork (d : DState) (s : State) : SameWork s (beginDrain d s) :=
  ⟨beginDrain_sameCmds d s, fun hrun => (setDState_sameWork ..).idle (by simp [mapQueues, hrun]), (setDState_sameWork ..).dev,
    (setDState_sameWork ..).ob⟩

theorem setDState_sup (d : DState) (s : State) : (setDState d s).sup = { s.sup with dstate := d } := by
  obtain ⟨m, i, l, a, b, h⟩ := setDState_spec d s
  rw [h]

/-! ### A fence (R437) -/

/-- The state that a part enters which fences (R352). -/
def fencedState (d : DState) : DState := if d = .running ∨ d = .draining then .fenced else d

/-- A fence ends a run and enters FENCED from RUNNING and DRAINING. -/
theorem fenceDevice_spec (s : State) : SameWork s (fenceDevice s) ∧
    ∃ r x, (fenceDevice s).sup = { s.sup with dstate := fencedState s.sup.dstate, run := r, cross := x } := by
  unfold fenceDevice
  split
  · rename_i h
    refine ⟨beginDrain_sameWork .., none, some { began := s.time.now.toNat }, (setDState_sup ..).trans ?_⟩
    rw [h]
    rfl
  · rename_i h
    refine ⟨setDState_sameWork .., s.sup.run, s.sup.cross, (setDState_sup ..).trans ?_⟩
    rw [h]
    rfl
  · rename_i hrun hdrain
    refine ⟨sameWork_of_eq rfl rfl rfl rfl, s.sup.run, s.sup.cross, ?_⟩
    rw [fencedState, if_neg (not_or.2 ⟨hrun, hdrain⟩)]

/-- The state in which side `d` is fenced, with the cause of the first fence in SUP_FENCE. -/
def fenceMarked (d : Side) (cause : Nat) (s : State) : State :=
  setFenced d (if s.sup.fenceCause = 0 then { s with sup := { s.sup with fenceCause := cause, fenceSide := d } } else s)

theorem setFenced_sameWork (d : Side) (s : State) : SameWork s (setFenced d s) := by
  cases d <;> exact sameWork_of_eq rfl rfl rfl rfl

theorem setFenced_img (d : Side) (s : State) : (setFenced d s).img = s.img := by
  cases d <;> rfl

theorem fenceMarked_sameWork (d : Side) (cause : Nat) (s : State) : SameWork s (fenceMarked d cause s) := by
  refine SameWork.trans ?_ (setFenced_sameWork ..)
  split <;> exact sameWork_of_eq rfl rfl rfl rfl

theorem fenceMarked_img (d : Side) (cause : Nat) (s : State) : (fenceMarked d cause s).img = s.img := by
  refine (setFenced_img ..).trans ?_
  split <;> rfl

theorem fenceMarked_dstate (d : Side) (cause : Nat) (s : State) : (fenceMarked d cause s).sup.dstate = s.sup.dstate := by
  refine (setFenced_dstate ..).trans ?_
  split <;> rfl

/-- Without an image run the ABORT of a part that fences changes its outbox alone (R409). -/
theorem fenceImage_idle {s : State} (h : s.img.run = none) : ∃ d, fenceImage s = { s with dom := d } := by
  obtain ⟨d, habort⟩ := faultAbort_dom s
  refine ⟨d, ?_⟩
  rw [fenceImage, habort]
  simp only [h]

/-- A side fences: it is marked, the device drains from RUNNING and DRAINING, and the work stays. -/
theorem fence_spec {d : Side} {cause : Nat} {s : State} (hside : isFenced s d = false) (hrun : s.img.run = none) :
    SameWork s (fence d cause s) ∧ ∃ r x, (fence d cause s).sup =
      { (fenceMarked d cause s).sup with dstate := fencedState s.sup.dstate, run := r, cross := x } := by
  unfold fence
  rw [hside, if_neg Bool.false_ne_true]
  extract_lets first sup s1 s2
  have h1 : s1 = fenceMarked d cause s := by simp only [s1, first, sup, fenceMarked, beq_iff_eq]
  have h2 : SameWork s s2 ∧ s2.sup = (fenceMarked d cause s).sup ∧ s2.img = s.img := by
    have hirq := devIrq_sameWork 4 s1
    have hsup := devIrq_sup 4 s1
    have himg := (devIrq_lineWork 4 s1).img
    rw [h1] at hirq hsup himg
    simp only [s2, h1]
    split
    · exact ⟨((fenceMarked_sameWork d cause s).trans hirq).trans (sameWork_of_eq rfl rfl rfl rfl), hsup,
        himg.trans (fenceMarked_img ..)⟩
    · exact ⟨(fenceMarked_sameWork d cause s).trans (sameWork_of_eq rfl rfl rfl rfl), rfl, fenceMarked_img ..⟩
  obtain ⟨hwork, hsup, himg⟩ := h2
  obtain ⟨m, hm⟩ := fenceImage_idle (himg ▸ hrun : s2.img.run = none)
  have h3 : ∃ m, (if first then fenceImage s2 else s2) = { s2 with dom := m } := by
    cases first
    · exact ⟨s2.dom, rfl⟩
    · exact ⟨m, hm⟩
  obtain ⟨m, h3⟩ := h3
  obtain ⟨hdev, r, x, hdsup⟩ := fenceDevice_spec { s2 with dom := m }
  rw [h3]
  have hdom : SameWork s2 { s2 with dom := m } := sameWork_of_eq rfl rfl rfl rfl
  refine ⟨(hwork.trans hdom).trans hdev, r, x, ?_⟩
  rw [hdsup]
  dsimp only
  rw [hsup, fenceMarked_dstate]

theorem fenceMarked_other (d : Side) (cause : Nat) (s : State) :
    isFenced (fenceMarked d cause s) (otherSide d) = isFenced s (otherSide d) := by
  unfold fenceMarked
  split <;> cases d <;> rfl

/-- A fence of one side leaves the other as it is. -/
theorem fence_other {d : Side} (cause : Nat) {s : State} (hside : isFenced s d = false) (hrun : s.img.run = none) :
    isFenced (fence d cause s) (otherSide d) = isFenced s (otherSide d) := by
  obtain ⟨-, r, x, hsup⟩ := fence_spec (cause := cause) hside hrun
  rw [← fenceMarked_other d cause s]
  cases d <;> simp [isFenced, otherSide, hsup]

theorem statusByte_fenced {s : State} (h : fencedAny s = true) : (statusByte s).testBit 3 = true := by
  unfold statusByte
  rw [h]
  generalize narrowed s = a
  generalize s.tgl.brake = b
  generalize (s.sup.dstate == DState.faulted) = d
  generalize (decide (s.sup.stage = 3) && !s.time.refOk) = f
  generalize s.power.lowTol = g
  revert a b d f g
  decide

theorem fencedAny_of_isFenced {s : State} {d : Side} (h : isFenced s d = true) : fencedAny s = true := by
  cases d <;> simp_all [fencedAny, isFenced]

theorem isFenced_of_fencedAny {s : State} (h : fencedAny s = false) (d : Side) : isFenced s d = false := by
  rw [fencedAny, Bool.or_eq_false_iff] at h
  cases d
  · exact h.1
  · exact h.2

/-- The first fence of a part is recorded with its side and its cause. -/
theorem fence_first {d : Side} {cause : Nat} {s : State} (hnone : fencedAny s = false) (hcause : s.sup.fenceCause = 0)
    (hrun : s.img.run = none) : FencedFor s (fence d cause s) d cause := by
  obtain ⟨hwork, r, x, hsup⟩ := fence_spec (cause := cause) (isFenced_of_fencedAny hnone d) hrun
  have hfenced : isFenced (fence d cause s) d = true := by cases d <;> simp [isFenced, hsup, fenceMarked, setFenced]
  refine ⟨hfenced, ?_, ?_, statusByte_fenced (fencedAny_of_isFenced hfenced), by rw [hsup]; rfl, hwork.cmds, hwork.dev, hwork.ob, ?_, ?_⟩
  all_goals cases d <;> simp [hsup, fenceMarked, setFenced, hcause]

/-- The other side fences too: the record of the first fence stays, and so does the state that the device has entered. -/
theorem fence_second {d e : Side} {cause cause' : Nat} {s t : State} (h : FencedFor s t d cause) (hcause : cause ≠ 0)
    (hside : isFenced t e = false) (hrun : t.img.run = none) :
    FencedFor s (fence e cause' t) d cause ∧ isFenced (fence e cause' t) e = true := by
  obtain ⟨hd, hc, hds, -, hstate, hcmds, hdev, hob, hterm, hleader⟩ := h
  obtain ⟨hwork, r, x, hsup⟩ := fence_spec (cause := cause') hside hrun
  have hkept : t.sup.fenceCause ≠ 0 := hc ▸ hcause
  have hfirst : isFenced (fence e cause' t) d = true := by
    cases d <;> cases e <;> simp_all [isFenced, fenceMarked, setFenced]
  have hsecond : isFenced (fence e cause' t) e = true := by cases e <;> simp [isFenced, hsup, fenceMarked, setFenced]
  have hrecord : (fence e cause' t).sup.fenceCause = t.sup.fenceCause ∧ (fence e cause' t).sup.fenceSide = t.sup.fenceSide ∧
      (fence e cause' t).sup.term = t.sup.term ∧ (fence e cause' t).sup.leader = t.sup.leader := by
    rw [hsup]
    cases e <;> simp [fenceMarked, setFenced, hkept]
  obtain ⟨hfc, hfs, hft, hfl⟩ := hrecord
  refine ⟨⟨hfirst, hfc.trans hc, hfs.trans hds, statusByte_fenced (fencedAny_of_isFenced hfirst), ?_, sameCmds_trans hcmds hwork.cmds,
    hwork.dev.trans hdev, hwork.ob.trans hob, hft.trans hterm, hfl.trans hleader⟩, hsecond⟩
  rw [hsup]
  show fencedState t.sup.dstate = fencedState s.sup.dstate
  rw [hstate]
  show fencedState (fencedState s.sup.dstate) = _
  unfold fencedState
  split <;> simp_all

/-! ### Heartbeats (R436) -/

/-- The state in which a supervisor has sent a heartbeat. -/
def beatSent (d : Side) (b : Beat) (s : State) : State :=
  match d with
  | .north => { s with sup := { s.sup with nSeq := b.seq, nBeat := some b } }
  | .south => { s with sup := { s.sup with sSeq := b.seq, sBeat := some b } }

theorem exec_heartbeatSend {s : State} (d : Side) (h : beating s = true) :
    exec (.heartbeatSend d) s = .next (beatSent d (nextBeat d s) s) := by
  refine congrArg Outcome.next ((if_pos h).trans ?_)
  cases d <;> rfl

theorem exec_heartbeatReceive {s : State} (d : Side) (m n : Option Beat) (h : beating s = true) :
    exec (.heartbeatReceive d m n) s = .next (receiveBeat d m n s) := congrArg Outcome.next (if_pos h)

theorem exec_heartbeatTimeout {s : State} (d : Side) (h : beating s = true) :
    exec (.heartbeatTimeout d) s = .next (fence d 1 (setPaths (otherSide d) false false s)) := congrArg Outcome.next (if_pos h)

theorem exec_supervisorCrossCheck {s : State} (agree : Bool) (h : beating s = true) (hred : 2 ≤ s.dom.red) :
    exec (.supervisorCrossCheck agree) s = .next (crossCheck agree s) :=
  congrArg Outcome.next (if_pos (by simp [h, hred]))

/-- What a receiver notes of a heartbeat that has come before it looks at what the copies say: the paths, a missed copy, and that
a leader who sends is not silent. -/
def beatNoted (d : Side) (direct store : Bool) (s : State) : State :=
  let s1 := setPaths (otherSide d) direct store s
  let s2 := if direct && store then s1 else
    logErr (.heartbeatMissed (otherSide d)) { s1 with sup := { s1.sup with hbMiss := sat32 s1.sup.hbMiss 1 } }
  if otherSide d = s2.sup.leader then { s2 with sup := { s2.sup with silence := false } } else s2

theorem receiveBeat_some {d : Side} {m n : Option Beat} (s : State) (h : (m.isSome || n.isSome) = true) :
    receiveBeat d m n s = match beatCause (beatNoted d m.isSome n.isSome s) m n with
      | some c => fence d c (beatNoted d m.isSome n.isSome s)
      | none => beatNoted d m.isSome n.isSome s := by
  have hsome : ¬ (m.isNone && n.isNone) = true := by cases m <;> cases n <;> simp_all
  unfold receiveBeat
  exact if_neg hsome

/-- What the notes of a heartbeat leave: everything but the flags of SUP_FENCE, the counter and its log. -/
theorem beatNoted_spec (d : Side) (m n : Bool) (s : State) :
    let t := beatNoted d m n s
    t.sup.directUp = m ∧ (d = .south → t.sup.nPathUp = n ∧ t.sup.sPathUp = s.sup.sPathUp) ∧
      (d = .north → t.sup.sPathUp = n ∧ t.sup.nPathUp = s.sup.nPathUp) ∧
      t.sup.hbMiss = (if (m && n) = true then s.sup.hbMiss else sat32 s.sup.hbMiss 1) ∧
      t.sup.silence = (if s.sup.leader = d then s.sup.silence else false) ∧
      t = { s with sup := { s.sup with directUp := t.sup.directUp, nPathUp := t.sup.nPathUp, sPathUp := t.sup.sPathUp,
                                       hbMiss := t.sup.hbMiss, silence := t.sup.silence },
                   regs := { s.regs with errLog :=
                     if (m && n) = true then s.regs.errLog else .heartbeatMissed (otherSide d) :: s.regs.errLog } } := by
  cases hl : s.sup.leader <;> cases d <;> cases m <;> cases n <;>
    simp [beatNoted, setPaths, otherSide, logErr, hl]

/-- The notes of a heartbeat change nothing that a fence looks at. -/
structure Noted (s t : State) : Prop where
  work : SameWork s t
  img : t.img = s.img
  dstate : t.sup.dstate = s.sup.dstate
  cause : t.sup.fenceCause = s.sup.fenceCause
  fenced : fencedAny t = fencedAny s
  term : t.sup.term = s.sup.term
  leader : t.sup.leader = s.sup.leader

theorem beatNoted_noted (d : Side) (m n : Bool) (s : State) : Noted s (beatNoted d m n s) := by
  obtain ⟨-, -, -, -, -, h⟩ := beatNoted_spec d m n s
  rw [h]
  exact ⟨sameWork_of_eq rfl rfl rfl rfl, rfl, rfl, rfl, rfl, rfl, rfl⟩

theorem setPaths_noted (d : Side) (m n : Bool) (s : State) : Noted s (setPaths d m n s) := by
  cases d <;> exact ⟨sameWork_of_eq rfl rfl rfl rfl, rfl, rfl, rfl, rfl, rfl, rfl⟩

/-- A first fence after such notes is a first fence of the state before. -/
theorem Noted.fence_first {s t : State} {d : Side} {cause : Nat} (h : Noted s t) (hnone : fencedAny s = false)
    (hcause : s.sup.fenceCause = 0) (hrun : s.img.run = none) : FencedFor s (fence d cause t) d cause := by
  obtain ⟨hd, hc, hs, hbyte, hstate, hcmds, hdev, hob, hterm, hleader⟩ := Machine.fence_first (d := d) (cause := cause)
    (h.fenced.trans hnone) (h.cause.trans hcause) (h.img ▸ hrun)
  exact ⟨hd, hc, hs, hbyte, h.dstate ▸ hstate, sameCmds_trans h.work.cmds hcmds, hdev.trans h.work.dev, hob.trans h.work.ob,
    hterm.trans h.term, hleader.trans h.leader⟩

/-! ### What the copies of a heartbeat say -/

section
variable {s : State} {m n : Option Beat}

/-- The copies carry the receiver's term and leader. -/
def agrees (s : State) (b : Beat) : Prop := b.term = s.sup.term ∧ b.leader = s.sup.leader

theorem disagrees_iff : ((m.toList ++ n.toList).any fun b => decide (b.term ≠ s.sup.term) || decide (b.leader ≠ s.sup.leader)) = true ↔
    ∃ b ∈ m.toList ++ n.toList, ¬ agrees s b := by
  simp only [List.any_eq_true, Bool.or_eq_true, decide_eq_true_eq, agrees, not_and_or, ne_eq]

theorem beatCause_disagrees (h : ∃ b ∈ m.toList ++ n.toList, ¬ agrees s b) : beatCause s m n = some 2 :=
  if_pos (disagrees_iff.2 h)

variable (hown : ∀ b ∈ m.toList ++ n.toList, agrees s b)
include hown

theorem beatCause_agrees : beatCause s m n =
    if (decide (m ≠ n) && m.isSome && n.isSome) = true then some 3
    else if (m.toList ++ n.toList).any (·.fenced) = true then some 4 else none :=
  if_neg fun h => by
    obtain ⟨b, hb, hbad⟩ := disagrees_iff.1 h
    exact hbad (hown b hb)

theorem beatCause_differ (h : ∃ a b, m = some a ∧ n = some b ∧ a ≠ b) : beatCause s m n = some 3 := by
  obtain ⟨a, b, rfl, rfl, hne⟩ := h
  rw [beatCause_agrees hown, if_pos (by simpa using hne)]

variable (hsame : ∀ a b, m = some a → n = some b → a = b)
include hsame

theorem beatCause_same : beatCause s m n = if (m.toList ++ n.toList).any (·.fenced) = true then some 4 else none := by
  refine (beatCause_agrees hown).trans (if_neg ?_)
  cases m with
  | none => simp
  | some a => cases n with
    | none => simp
    | some b => simp [hsame a b rfl rfl]

theorem beatCause_fenced (h : ∃ b ∈ m.toList ++ n.toList, b.fenced = true) : beatCause s m n = some 4 :=
  (beatCause_same hown hsame).trans (if_pos (List.any_eq_true.2 h))

theorem beatCause_none (h : ∀ b ∈ m.toList ++ n.toList, b.fenced = false) : beatCause s m n = none :=
  (beatCause_same hown hsame).trans (if_neg fun hany => by
    obtain ⟨b, hb, hfenced⟩ := List.any_eq_true.1 hany
    exact Bool.false_ne_true ((h b hb).symm.trans hfenced))

end

theorem receiveBeat_fences {s : State} {d : Side} {m n : Option Beat} {cause : Nat} (hnone : fencedAny s = false)
    (hcause : s.sup.fenceCause = 0) (hrun : s.img.run = none) (h : beatCause (beatNoted d m.isSome n.isSome s) m n = some cause) :
    FencedFor s (receiveBeat d m n s) d cause := by
  have hsome : (m.isSome || n.isSome) = true := by
    cases m with
    | some a => rfl
    | none => cases n with
      | some b => rfl
      | none => cases h
  rw [receiveBeat_some s hsome, h]
  exact (beatNoted_noted ..).fence_first hnone hcause hrun

/-! ### Cross-checking (R399) -/

/-- A mismatch fences both sides, and the first of them is named. -/
theorem crossCheck_mismatch {s : State} (hnone : fencedAny s = false) (hcause : s.sup.fenceCause = 0) (hrun : s.img.run = none) :
    ∃ d, FencedFor s (crossCheck false s) d 5 ∧ (crossCheck false s).sup.nFenced = true ∧ (crossCheck false s).sup.sFenced = true := by
  unfold crossCheck
  rw [if_neg Bool.false_ne_true]
  generalize hs1 : advanceTo (beatUp s.time.now.toNat) s = s1
  extract_lets first
  have hnoted : Noted s { s1 with freeCtr := s1.freeCtr + 1 } := by
    subst hs1
    rw [advanceTo_eq]
    exact ⟨sameWork_of_eq rfl rfl rfl rfl, rfl, rfl, rfl, rfl, rfl, rfl⟩
  have hfirst := hnoted.fence_first (d := first) (cause := 5) hnone hcause hrun
  have hside := isFenced_of_fencedAny (hnoted.fenced.trans hnone)
  have hidle : ({ s1 with freeCtr := s1.freeCtr + 1 } : State).img.run = none := hnoted.img ▸ hrun
  have hother := (fence_other 5 (hside first) hidle).trans (hside (otherSide first))
  obtain ⟨hrecord, hsecond⟩ := fence_second (cause' := 5) hfirst (by decide) hother ((fence_spec (hside first) hidle).1.idle hidle)
  refine ⟨first, hrecord, ?_⟩
  have hboth := hrecord.1
  generalize first = side at hboth hsecond ⊢
  cases side
  · exact ⟨hboth, hsecond⟩
  · exact ⟨hsecond, hboth⟩

/-! ### The obligation -/

/-- Settles O50: what a heartbeat carries and what is noted of one, the causes of a fence one by one, and the silence of a leader. -/
theorem heartbeatsAndFences : Obligations.HeartbeatsAndFences := by
  unfold Obligations.HeartbeatsAndFences
  refine ⟨⟨fun s d hb => ?send, fun s d b m n hb hterm hleader hfenced hone => ?receive⟩,
    fun s d m n hb hnone hcause hrun => ?fences, fun s d hb hnone hcause hrun => ?timeout,
    fun s hb hred hnone hcause hrun hlt => ⟨?agree, ?mismatch⟩, fun s hb hany => ?silence⟩
  case send =>
    refine ⟨_, exec_heartbeatSend d hb, ?_⟩
    cases d <;> simp [beatSent, nextBeat, beatsSent, isFenced]
  case receive =>
    have hisSome : ∀ z : Bool, (if z then some b else none : Option Beat).isSome = z := fun z => by cases z <;> rfl
    have hmem : ∀ c ∈ (if m then some b else none : Option Beat).toList ++ (if n then some b else none : Option Beat).toList, c = b := by
      cases m <;> cases n <;> simp
    obtain ⟨hdirect, hsouth, hnorth, hmiss, hsilence, hrest⟩ := beatNoted_spec d m n s
    have hnoted := beatNoted_noted d m n s
    have hreceive : receiveBeat d (if m then some b else none) (if n then some b else none) s = beatNoted d m n s := by
      rw [receiveBeat_some s (by rwa [hisSome, hisSome]), hisSome, hisSome, beatCause_none]
      · intro c hc
        rw [hmem c hc]
        exact ⟨hterm.trans hnoted.term.symm, hleader.trans hnoted.leader.symm⟩
      · intro a c ha hc
        rw [hmem a (by simp [ha]), hmem c (by simp [hc])]
      · intro c hc
        rw [hmem c hc, hfenced]
    refine ⟨_, (exec_heartbeatReceive d _ _ hb).trans (congrArg Outcome.next hreceive), hdirect, hsouth, hnorth, ?_, hsilence, hrest⟩
    rw [hmiss]
    split
    · rfl
    · have := s.sup.hbMiss.isLt
      simp only [sat32, satAdd, BitVec.toNat_ofNat]
      omega
  case fences =>
    have hnoted := beatNoted_noted d m.isSome n.isSome s
    have hsame : ∀ b, agrees (beatNoted d m.isSome n.isSome s) b ↔ b.term = s.sup.term ∧ b.leader = s.sup.leader := fun b => by
      rw [agrees, hnoted.term, hnoted.leader]
    refine ⟨_, exec_heartbeatReceive d m n hb, fun ⟨c, hc, hbad⟩ => ?_, fun hown hdiffer => ?_, fun hown hone hfenced => ?_⟩
    · exact receiveBeat_fences hnone hcause hrun (beatCause_disagrees ⟨c, hc, fun h => hbad ((hsame c).1 h)⟩)
    · exact receiveBeat_fences hnone hcause hrun (beatCause_differ (fun c hc => (hsame c).2 (hown c hc)) hdiffer)
    · exact receiveBeat_fences hnone hcause hrun (beatCause_fenced (fun c hc => (hsame c).2 (hown c hc)) hone hfenced)
  case timeout =>
    have hnoted := setPaths_noted (otherSide d) false false s
    obtain ⟨-, r, x, hsup⟩ := fence_spec (cause := 1) (isFenced_of_fencedAny (hnoted.fenced.trans hnone) d) (hnoted.img ▸ hrun)
    refine ⟨_, exec_heartbeatTimeout d hb, hnoted.fence_first hnone hcause hrun, ?_⟩
    rw [hsup]
    cases d <;> simp [fenceMarked, setFenced, hcause, setPaths, otherSide]
  case agree =>
    have hon : s.sup.dstate ≠ .off := by
      rw [beating, Bool.and_eq_true, bne_iff_ne] at hb
      exact hb.2
    refine ⟨_, exec_supervisorCrossCheck true hb hred, ?_, advanceTo_eq ..⟩
    exact (congrArg (· % 1024) (advanceTo_beatUp_now hon hlt)).trans (beatUp_mod _)
  case mismatch =>
    obtain ⟨d, h⟩ := crossCheck_mismatch hnone hcause hrun
    exact ⟨_, d, exec_supervisorCrossCheck false hb hred, h⟩
  case silence =>
    exact congrArg Outcome.next (if_pos (by simp [hb, hany]))

end Sys2Proof.Machine
end

section
/-!
PROOFS. An ABORT of another member (R409), and the end of the copy of an automatic save to its mirror (R418).
-/
namespace Sys2Proof.Machine
open Host

/-! ### An ABORT is received (R409) -/

/-- The state in which the ABORT is recorded in ERR_DOM_ABORT, and the SCH.RUN in progress will complete as `x` says. -/
def abortNoted (part : Nat) (x : Nat × Nat × Option Nat) (s : State) : State :=
  { s with
    regs := { s.regs with abortPart := BitVec.ofNat 9 part, abortValid := true }
    img := { s.img with run := s.img.run.map fun r => { r with ended := r.ended <|> some x } } }

theorem abortNoted_sameCmds (part : Nat) (x : Nat × Nat × Option Nat) (s : State) : SameCmds s (abortNoted part x s) := fun r => by
  cases r with
  | hw n => rfl
  | img =>
    cases h : s.img.run <;> simp [getQ, abortNoted, h]

/-- In a run with no image, or with one in progress, an ABORT begins a crossing. -/
theorem receiveAbort_eq (part tag status : Nat) {s : State} (hst : s.sup.dstate = .running)
    (hactive : ∀ r, s.img.run = some r → r.active = true) :
    receiveAbort part tag status s = beginCrossing (abortNoted part (stRefusedDep, 0, some (rootField tag part status)) s) := by
  cases hrun : s.img.run with
  | none =>
    have himg : s.img = { s.img with run := none } := by rw [← hrun]
    simp only [receiveAbort, endImage, hrun, abortNoted, Option.map_none]
    rw [← himg]
  | some r =>
    have hdrained : ∀ u : State, u.sup.dstate = .running → beginCrossing (beginCrossing u) = beginCrossing u := fun u hu => by
      have hdrain : (beginCrossing u).sup.dstate ≠ .running := by
        rw [(beginCrossing_run hu).1]
        simp
      exact if_neg hdrain
    simp only [receiveAbort, endImage, stopImage, hrun, hactive r hrun, if_true, abortNoted, Option.map_some]
    exact hdrained _ hst

theorem exec_abortReceive {s : State} (part : BitVec 9) (tag : Word) (status : BitVec 8) (hd : s.dom.dstate = 2)
    (hst : s.sup.dstate = .running) :
    exec (.abortReceive part tag status) s = .next (receiveAbort part.toNat tag.toNat status.toNat s) :=
  congrArg Outcome.next (if_pos (by simp [formed, hd, hst]))

theorem regRead_domAbort (s : State) : regRead s 0x0F0000050310 = some (s.regs.abortPart.toNat + 512 * ofBool s.regs.abortValid) := rfl

/-! ### Lines of an aligned span -/

theorem cdiv_64 (n : Nat) : cdiv n 64 = (n + 63) / 64 := rfl

theorem pos_of_mem_linesOf {l a n : Nat} (h : l ∈ linesOf a n) : 0 < n :=
  Nat.pos_of_ne_zero fun hn => by simp [linesOf, hn] at h

/-- A span whose reads succeed has lines that can be read. -/
theorem readFault_of_lines {s : State} {o : Owner} {e : Circ} {a n b m : Nat} (h : readFault s o e a n = none)
    (hsub : ∀ l ∈ linesOf b m, l ∈ linesOf a n) : readFault s o e b m = none :=
  List.findSome?_eq_none_iff.2 fun l hl => List.findSome?_eq_none_iff.1 h l (hsub l hl)

/-- So does every span within it. -/
theorem readFault_within {s : State} {o : Owner} {e : Circ} {a n b m : Nat} (h : readFault s o e a n = none)
    (hlo : a ≤ b) (hhi : b + m ≤ a + n) : readFault s o e b m = none :=
  readFault_of_lines h fun l hl => by
    have hm := pos_of_mem_linesOf hl
    obtain ⟨hfirst, hlast⟩ := (mem_linesOf hm).1 hl
    exact (mem_linesOf (by omega)).2 ⟨by omega, by omega⟩

/-- An aligned span whose reads succeed has whole lines that can be read, its last one included. -/
theorem readFault_line {s : State} {o : Owner} {e : Circ} {a n i : Nat} (h : readFault s o e a n = none) (ha : a % 64 = 0)
    (hi : i < cdiv n 64) : readFault s o e (a + 64 * i) 64 = none :=
  readFault_of_lines h fun l hl => by
    rw [cdiv_64] at hi
    obtain ⟨hfirst, hlast⟩ := (mem_linesOf (by omega)).1 hl
    exact (mem_linesOf (by omega)).2 ⟨by omega, by omega⟩

/-! ### The copy of an automatic save (R418) -/

/-- A slot whose lines can all be read is copied whole. -/
theorem Copy.bytes_readable {k : Copy} {s : State} (ha : k.src % 64 = 0) (hread : readFault s none {} k.src k.len = none) :
    k.bytes s = readBytes s none k.src k.len := by
  have hall : (List.range (cdiv k.len 64)).findIdx (fun i => (readFault s none {} (k.src + 64 * i) 64).isSome) = cdiv k.len 64 := by
    refine (List.findIdx_eq_length.2 fun i hi => ?_).trans List.length_range
    rw [readFault_line hread ha (List.mem_range.1 hi)]
    rfl
  have hlen : min k.len (64 * cdiv k.len 64) = k.len := by
    rw [cdiv_64]
    omega
  rw [Copy.bytes, hall]
  exact congrArg _ hlen

theorem exec_chrysalisMirrorCopyEnd {s : State} {k : Copy} (hk : s.img.copy = some k) (hh : healthy s {}) :
    exec .chrysalisMirrorCopyEnd s = .next (mirrorEnd k s) := by
  simp only [exec, execChrysalisMirrorCopyEnd, hk, mustWait_healthy hh, Bool.false_eq_true, if_false]

/-- The state in which no mirror copy runs. -/
def withoutCopy (s : State) : State := { s with img := { s.img with copy := none } }

theorem mirrorEnd_buddy {s : State} {k : Copy} (hsize : s.dom.size ≠ 1) (hh : healthy s {}) :
    mirrorEnd k s = sendDom (.mirror k.b (k.bytes s)) (withoutCopy s) := by
  have hnote := noteReads_healthy (s := withoutCopy s) hh none [(k.src, k.len)]
  unfold mirrorEnd
  rw [if_neg hsize]
  exact congrArg (sendDom (.mirror k.b (k.bytes s))) hnote

theorem mirrorEnd_own {s : State} {k : Copy} (hsize : s.dom.size = 1) (hh : healthy s {})
    (hspan : spanMem (k.src + 2 * k.size) (k.bytes s).length = true) :
    mirrorEnd k s = putRaw (k.src + 2 * k.size) (k.bytes s) (withoutCopy s) := by
  have hnote := noteReads_healthy (s := withoutCopy s) hh none [(k.src, k.len)]
  unfold mirrorEnd
  rw [if_pos hsize]
  refine (congrArg (fun u => (putDev none {} (k.src + 2 * k.size) (k.bytes s) u).1) hnote).trans ?_
  rw [putDev_plain (s := withoutCopy s) hh rfl hspan]

/-! ### The obligation -/

/-- Settles O45: the crossing that begins with `abortNoted`, and the two ends of a mirror copy. -/
theorem imageAbortAndMirror : Obligations.ImageAbortAndMirror := by
  unfold Obligations.ImageAbortAndMirror
  refine ⟨fun s part tag status hd hst hactive => ?abort, fun s k hk hsize hh ha hread => ?buddy,
    fun s k hk hsize hwf hh ha hpos hspan hmirror => ?own⟩
  case abort =>
    generalize hx : (stRefusedDep, 0, some (rootField tag.toNat part.toNat status.toNat)) = x
    have hexec := (exec_abortReceive part tag status hd hst).trans (congrArg Outcome.next (receiveAbort_eq part.toNat tag.toNat status.toNat hst hactive))
    rw [hx] at hexec
    have hst' : (abortNoted part.toNat x s).sup.dstate = .running := hst
    obtain ⟨hsup, -, hdev, hob, hcores, hcoc⟩ := beginCrossing_run hst'
    obtain ⟨m, i, l, a, b, heq⟩ := beginCrossing_spec hst'
    refine ⟨_, hexec, ?_, by rw [hsup], by rw [hsup], sameCmds_trans (abortNoted_sameCmds part.toNat x s) (beginCrossing_sameCmds _), hdev, hob,
      hcores, hcoc, fun r hr hended => ?_⟩
    · rw [regRead_domAbort, heq]
      show some ((BitVec.ofNat 9 part.toNat).toNat + 512 * ofBool true) = some (part.toNat + 512)
      rw [BitVec.ofNat_toNat, BitVec.setWidth_eq]
      rfl
    · rw [heq]
      simp [mapQueues, abortNoted, hr, hended]
  case buddy =>
    refine ⟨_, (exec_chrysalisMirrorCopyEnd hk hh).trans (congrArg Outcome.next (mirrorEnd_buddy hsize hh)), rfl, ?_, rfl⟩
    rw [Copy.bytes_readable ha hread]
    rfl
  case own =>
    have hbytes : k.bytes s = memRead 0 s.mem.dev k.src k.len :=
      (Copy.bytes_readable ha (readFault_healthy hh hspan none)).trans (readBytes_plain rfl hspan)
    have hlen : (k.bytes s).length = k.len := by rw [hbytes, memRead_length]
    have hdev : Memory.wfOf 0 s.mem.dev = true := (memOk_iff.1 hwf).1
    refine ⟨_, (exec_chrysalisMirrorCopyEnd hk hh).trans (congrArg Outcome.next (mirrorEnd_own hsize hh (hlen ▸ hmirror))), rfl, ?_,
      fun x hx => ?_, rfl, rfl, rfl, rfl⟩
    · rw [← hbytes]
      have hin := memRead_in (bs := k.bytes s) (a := k.src + 2 * k.size) hdev
      rwa [hlen] at hin
    · refine (memGet_memWrite (k.bytes s) _ x hdev).trans (if_neg ?_)
      rw [hlen]
      omega

end Sys2Proof.Machine
end

section
/-!
PROOFS. The section of an image run (R403, R407): its packets and the releases of its tasks, under completions and other work, and
when its next task is released (R407, R413). Collectives of an image (R410, R412).
-/
namespace Sys2Proof.Machine
open Host

/-! ### What a section shows -/

/-- Place, header and parameters of a packet; serial number and release of a task. -/
def Cmd.packet (k : Cmd) : Nat × Nat × Nat := (k.idx, k.hdr, k.par)
def Task.mark (y : Task) : Nat × Bool × Bool := (y.serial, y.released, y.isOpen)

/-- The packets that have joined a queue, and the releases of its tasks. -/
def Queue.shown (q : Queue) : List (Nat × Nat × Nat) × List (Nat × Bool × Bool) := (q.cmds.map Cmd.packet, q.tasks.map Task.mark)

/-- The packets and releases of the image run, where there is one. -/
def sectionShown (s : State) : Option (List (Nat × Nat × Nat) × List (Nat × Bool × Bool)) := s.img.run.map fun r => r.q.shown

theorem sectionShown_congr {s t : State} (h : t.img.run = s.img.run) : sectionShown t = sectionShown s := by
  rw [sectionShown, h, sectionShown]

theorem sectionShown_setQ {r : QRef} {q : Queue} {s : State} (h : q.shown = (getQ s r).shown) :
    sectionShown (setQ r q s) = sectionShown s := by
  cases r with
  | hw n => rfl
  | img =>
    cases hrun : s.img.run with
    | none => simp [sectionShown, setQ, hrun]
    | some x => simp [sectionShown, setQ, hrun, h, getQ]

theorem sectionShown_modCmd {c : CmdRef} {f : Cmd → Cmd} (s : State) (hf : ∀ k, (f k).packet = k.packet) :
    sectionShown (modCmd c f s) = sectionShown s := by
  refine sectionShown_setQ (congrArg (fun l => (l, _)) ?_)
  rw [List.map_map]
  refine List.map_congr_left fun k _ => ?_
  rw [Function.comp_apply]
  split
  · exact hf k
  · rfl

theorem sectionShown_modTask {r : QRef} {n : Nat} {f : Task → Task} (s : State) (hf : ∀ y, (f y).mark = y.mark) :
    sectionShown (modTask r n f s) = sectionShown s := by
  refine sectionShown_setQ (congrArg (fun l => (_, l)) ?_)
  rw [List.map_map]
  refine List.map_congr_left fun y _ => ?_
  rw [Function.comp_apply]
  split
  · exact hf y
  · rfl

/-! ### A completion keeps it -/

theorem sectionShown_mapQueues {f : Queue → Queue} (s : State) (hf : ∀ q, (f q).shown = q.shown) :
    sectionShown (mapQueues f s) = sectionShown s := by
  cases hrun : s.img.run <;> simp [sectionShown, mapQueues, hrun, hf]

theorem sectionShown_setDState (d : DState) (s : State) : sectionShown (setDState d s) = sectionShown s := by
  obtain ⟨m, i, l, a, b, h⟩ := setDState_spec d s
  exact sectionShown_congr (by rw [h])

theorem markReplay_shown (q : Queue) : (markReplay q).shown = q.shown := by
  refine congrArg (fun l => (_, l)) ?_
  simp only [markReplay, List.map_map]
  refine List.map_congr_left fun y _ => ?_
  rw [Function.comp_apply]
  split <;> rfl

theorem sectionShown_beginCrossing (s : State) : sectionShown (beginCrossing s) = sectionShown s := by
  unfold beginCrossing
  split
  · exact (sectionShown_setDState ..).trans ((sectionShown_congr rfl).trans (sectionShown_mapQueues s markReplay_shown))
  · rfl

theorem sectionShown_stopImage (x : Nat × Nat × Option Nat) (s : State) : sectionShown (stopImage x s) = sectionShown s := by
  unfold stopImage
  split
  · rfl
  · rename_i r hrun
    exact (sectionShown_beginCrossing _).trans (by simp [sectionShown, hrun])

theorem sectionShown_afterImage (c : CmdRef) (k : Cmd) (o : Out) (s : State) :
    sectionShown (afterImage c k o s) = sectionShown s := by
  unfold afterImage
  split
  · rfl
  split
  · split
    · exact sectionShown_beginCrossing s
    · rfl
  split
  · exact sectionShown_beginCrossing s
  · exact (sectionShown_stopImage ..).trans (sectionShown_congr rfl)

theorem sectionShown_finishTask (r : QRef) (k : Cmd) (o : Out) (s : State) : sectionShown (finishTask r k o s) = sectionShown s := by
  unfold finishTask
  split
  · exact sectionShown_modTask s fun _ => rfl
  split
  · rfl
  extract_lets s1
  have hlast : sectionShown s1 = sectionShown s := by
    simp only [s1]
    split
    · exact sectionShown_modTask s fun _ => rfl
    · rfl
  split
  · exact (sectionShown_congr (by rw [releaseBanks_img])).trans hlast
  · exact hlast

theorem sectionShown_pushRec (n : Nat) (x : Rec) (s : State) : sectionShown (pushRec n x s) = sectionShown s := rfl

theorem sectionShown_addFailed (c : CmdRef) (o : Out) (s : State) : sectionShown (addFailed c o s) = sectionShown s := by
  unfold addFailed
  split
  · rfl
  · exact sectionShown_setQ rfl

theorem sectionShown_complete (c : CmdRef) (o : Out) (s : State) : sectionShown (complete c o s) = sectionShown s := by
  unfold complete
  split
  · rfl
  · extract_lets o' t x s1 s2
    have h1 : sectionShown s1 = sectionShown s :=
      (sectionShown_pushRec ..).trans ((sectionShown_addFailed ..).trans (sectionShown_modCmd t fun _ => rfl))
    have h2 : sectionShown s2 = sectionShown s1 := by
      simp only [s2]
      split <;> rfl
    exact (sectionShown_afterImage ..).trans ((sectionShown_finishTask ..).trans (h2.trans h1))

/-! ### The failure of a lock group keeps it (R317) -/

/-- Time, device memory and operand buffers are as before. -/
structure SameStore (s t : State) : Prop where
  time : t.time = s.time
  dev : t.mem.dev = s.mem.dev
  ob : t.mem.ob = s.mem.ob

theorem SameStore.refl (s : State) : SameStore s s := ⟨rfl, rfl, rfl⟩

theorem SameStore.trans {s t u : State} (h : SameStore s t) (g : SameStore t u) : SameStore s u :=
  ⟨g.time.trans h.time, g.dev.trans h.dev, g.ob.trans h.ob⟩

theorem CompletionWork.sameStore {s t : State} (h : CompletionWork s t) : SameStore s t := ⟨h.time, h.dev, h.ob⟩

/-- What the section shows stays, and so does the store. -/
structure SectionKept (s t : State) : Prop where
  shown : sectionShown t = sectionShown s
  store : SameStore s t

theorem SectionKept.refl (s : State) : SectionKept s s := ⟨rfl, .refl s⟩

theorem SectionKept.trans {s t u : State} (h : SectionKept s t) (g : SectionKept t u) : SectionKept s u :=
  ⟨g.shown.trans h.shown, h.store.trans g.store⟩

theorem complete_sectionKept (c : CmdRef) (o : Out) (s : State) : SectionKept s (complete c o s) :=
  ⟨sectionShown_complete c o s, (complete_completionWork c o s).sameStore⟩

theorem setGroup_sectionKept (a : Nat) (f : Group → Group) (s : State) : SectionKept s (setGroup a f s) :=
  ⟨sectionShown_congr rfl, rfl, rfl, rfl⟩

theorem failMember_sectionKept (parts : List Part) (s : State) (y : Nat × Nat) : SectionKept s (failMember parts s y) := by
  unfold failMember
  split
  · exact complete_sectionKept ..
  · exact setGroup_sectionKept ..

theorem foldl_sectionKept {α : Type} {f : State → α → State} (hf : ∀ s x, SectionKept s (f s x)) (l : List α) (s : State) :
    SectionKept s (l.foldl f s) := by
  induction l generalizing s with
  | nil => exact .refl s
  | cons x r ih => exact (hf s x).trans (ih _)

theorem failGroup_sectionKept (y : Nat × Nat) (s : State) : SectionKept s (failGroup y s) := by
  unfold failGroup
  split
  · exact .refl s
  split
  · exact setGroup_sectionKept ..
  · refine SectionKept.trans ?_ (foldl_sectionKept (failMember_sectionKept _) _ _)
    split
    · exact setGroup_sectionKept ..
    · exact .refl s

/-! ### Packets join the section -/

/-- A packet that joins shows behind the others, whether it passes stage 1 or not. -/
theorem addPacket_spec (task beat : Nat) (s : State) (x : Nat × (Nat × Nat × Nat)) :
    sectionShown (addPacket task beat s x) = (sectionShown s).map (fun v => (v.1 ++ [(x.1, x.2.1, x.2.2.1)], v.2)) ∧
      SameStore s (addPacket task beat s x) := by
  unfold addPacket
  extract_lets q h par named st due k s1 s2
  have hjoin : sectionShown s1 = (sectionShown s).map (fun v => (v.1 ++ [(x.1, x.2.1, x.2.2.1)], v.2)) := by
    cases hrun : s.img.run with
    | none => simp [s1, sectionShown, setQ, hrun]
    | some r => simp [s1, q, k, h, par, sectionShown, setQ, getQ, hrun, Queue.shown, Cmd.packet]
  have hstore : SameStore s s1 := ⟨rfl, rfl, rfl⟩
  have hcomplete := complete_sectionKept ⟨.img, x.1⟩ { status := st } s1
  split
  · exact ⟨hjoin, hstore⟩
  split
  · have hkept := hcomplete.trans (failGroup_sectionKept (shownAs par) _)
    exact ⟨hkept.shown.trans hjoin, hstore.trans hkept.store⟩
  · exact ⟨hcomplete.shown.trans hjoin, hstore.trans hcomplete.store⟩

theorem addPackets_spec (task beat : Nat) (l : List (Nat × (Nat × Nat × Nat))) (s : State) :
    sectionShown (l.foldl (addPacket task beat) s) =
        (sectionShown s).map (fun v => (v.1 ++ l.map (fun x => (x.1, x.2.1, x.2.2.1)), v.2)) ∧
      SameStore s (l.foldl (addPacket task beat) s) := by
  induction l generalizing s with
  | nil => exact ⟨by simp, .refl s⟩
  | cons x r ih =>
    obtain ⟨hfirst, hstore⟩ := addPacket_spec task beat s x
    obtain ⟨hrest, hrestStore⟩ := ih (addPacket task beat s x)
    refine ⟨?_, hstore.trans hrestStore⟩
    rw [List.foldl_cons, hrest, hfirst, Option.map_map]
    simp [Function.comp_def]

theorem markSlip_sectionKept (r : ImgRun) (task : Nat) (due : Int) (s : State) : SectionKept s (markSlip r task due s) := by
  unfold markSlip
  dsimp only
  split
  · exact .refl s
  split
  · exact ⟨sectionShown_modTask s fun _ => rfl, by rw [modTask, setQ_time], by rw [modTask_mem], by rw [modTask_mem]⟩
  · exact .refl s

/-! ### Reads of the image -/

theorem usedCirc_clean {e : Circ} (h : e.errs = []) (l : List (Nat × Nat)) : usedCirc e l = e := by
  rw [usedCirc, h, List.filter_nil, ← h]

/-- Where the image can be read, a run goes on with it. -/
theorem withImage_healthy {r : ImgRun} {s : State} {l : List (Nat × Nat)} (hrun : s.img.run = some r) (hh : healthy s r.e)
    (hread : ∀ x ∈ l, readFault s none r.e x.1 x.2 = none) (go : ImgRun → State → State) : withImage r l s go = go r s := by
  have ⟨_, _, _, herrs, _⟩ := hh
  have hcirc : ({ r with e := usedCirc r.e l } : ImgRun) = r := by rw [usedCirc_clean herrs]
  have hsame : ({ s with img := { s.img with run := some r } } : State) = s := by rw [← hrun]
  have hnone : l.findSome? (fun z => readFault s none r.e z.1 z.2) = none := List.findSome?_eq_none_iff.2 hread
  simp only [withImage, mustWait_healthy hh, Bool.false_eq_true, if_false, hcirc, hsame, noteReads_healthy hh, hnone]

/-! ### The next task is released (R407, R413) -/

/-- The first task that is not released. -/
theorem find?_unreleased {pre post : List Task} {y : Task} (hpre : ∀ x ∈ pre, x.released = true) (hy : y.released = false) :
    (pre ++ y :: post).zipIdx.find? (fun x => !x.1.released) = some (y, pre.length) := by
  have hnone : pre.zipIdx.find? (fun x => !x.1.released) = none := List.find?_eq_none.2 fun x hx => by
    have hmem : x.1 ∈ pre := by simpa using List.fst_mem_of_mem_zipIdx hx
    simp [hpre _ hmem]
  simp [List.zipIdx_append, List.zipIdx_cons, List.find?_append, hnone, hy]

section
variable {s : State} {r : ImgRun} {z : Slot} {pre post : List Task} {y : Task} (hrun : s.img.run = some r)
include hrun

theorem exec_taskRelease (hst : s.sup.dstate = .running) (hactive : r.active = true)
    (htasks : r.q.tasks = pre ++ y :: post) (hpre : ∀ x ∈ pre, x.released = true) (hy : y.released = false)
    (hslot : runSlot s r = some z) (hh : healthy s r.e)
    (hread : ∀ x ∈ taskSpans s z pre.length, readFault s none r.e x.1 x.2 = none) :
    exec (.taskRelease y.id) s = .next (releaseTask r pre.length y s) := by
  have hz : slotOf s r = z := by rw [slotOf, hslot, Option.getD_some]
  have hgo := withImage_healthy hrun hh hread fun r s => releaseTask r pre.length y s
  rw [← hgo]
  simp only [exec, execTaskRelease, hrun, htasks, find?_unreleased hpre hy, hactive, hst, hz, beq_self_eq_true, Bool.and_self, if_true]

/-- The packets of task `i` of a section with their places. -/
def sectionPackets (s : State) (z : Slot) (i : Nat) : List (Nat × (Nat × Nat × Nat)) :=
  let rd := imgRd s z.addr
  let sec := sectionOf rd (ImgHdr.parse (rd 0 128)) s.dom.index
  let recs := taskRecs rd sec
  ((((recs[i]?).map (taskPackets rd sec)).getD []).zipIdx).map fun x => (((recs.take i).map (·.n)).sum + x.2, x.1)

/-- A task is released: its packets join behind those of the section, and the count has come to its release, or has passed it. -/
theorem releaseTask_spec (hz : slotOf s r = z) (i : Nat) (y : Task) :
    let t := releaseTask r i y s
    sectionShown t = some (r.q.cmds.map Cmd.packet ++ (sectionPackets s z i).map (fun x => (x.1, x.2.1, x.2.2.1)),
        (r.q.tasks.map fun x => if x.serial = y.serial then { x with released := true, isOpen := false } else x).map Task.mark) ∧
      SameStore (advanceTo ((r.beat + y.beat) * beat).toNat s) t := by
  subst hz
  unfold releaseTask
  extract_lets due s1 late z rd sec recs base ps tag s2 s3
  have h2 : sectionShown s2 = some (r.q.cmds.map Cmd.packet,
      (r.q.tasks.map fun x => if x.serial = y.serial then { x with released := true, isOpen := false } else x).map Task.mark) := by
    simp [s2, s1, sectionShown, modTask, setQ, getQ, hrun, Queue.shown]
  have hstore2 : SameStore s1 s2 := ⟨rfl, rfl, rfl⟩
  have hslip : SectionKept s2 (if due < s1.time.now.toNat then recordSlip late (some tag) s2 else s2) := by
    split
    · exact ⟨sectionShown_congr rfl, rfl, rfl, rfl⟩
    · exact .refl s2
  obtain ⟨hjoin, hstore⟩ := addPackets_spec y.serial y.beat (ps.zipIdx.map fun x => (base + x.2, x.1))
    (if due < s1.time.now.toNat then recordSlip late (some tag) s2 else s2)
  have hmark := markSlip_sectionKept r y.serial due s3
  have hpackets : ps.zipIdx.map (fun x => (base + x.2, x.1)) = sectionPackets s z i := rfl
  refine ⟨hmark.shown.trans (hjoin.trans ?_), ((hstore2.trans hslip.store).trans hstore).trans hmark.store⟩
  rw [hslip.shown, h2, hpackets]
  rfl

end

/-! ### A collective of an image is released (R410, R412) -/

/-- The beat offset that a collective's parameters give it. -/
def collBeat (k : Cmd) : Nat := if hOpcode k.hdr = 0x0B03 then fld k.par 575 512 else fld k.par 191 128

/-- The collective with its release at `due`: its timeout runs from there, unless its task is released later. -/
def Cmd.releasedAt (due : Int) (k : Cmd) : Cmd := { k with released := true, dueAt := some (max due (k.dueAt.getD due)) }

theorem exec_collectiveRelease {s : State} {r : ImgRun} {i : Nat} {k : Cmd} (hrun : s.img.run = some r) (hactive : r.active = true)
    (hk : cmdOf s ⟨.img, i⟩ = some k) (hheld : k.released = false) :
    exec (.collectiveRelease ⟨.img, i⟩) s = .next (modCmd ⟨.img, i⟩ (Cmd.releasedAt ((r.beat + (collBeat k : Int)) * 1024))
      (advanceTo ((r.beat + (collBeat k : Int)) * 1024).toNat s)) := by
  simp only [exec, execCollectiveRelease, hrun, hk, hactive, hheld, Bool.not_false, and_self, if_true]
  rfl

/-! ### The obligation -/

/-- Settles O44: the packets of the released task by `releaseTask_spec`, and a collective of the image. -/
theorem imageReleases : Obligations.ImageReleases := by
  unfold Obligations.ImageReleases
  refine ⟨fun s r z pre post y hrun hst hactive htasks hpre hy hslot hh hread hlt => ?task,
    fun s r i k hrun hactive hk hheld _ _ => ?coll⟩
  case task =>
    extract_lets rd sec recs base ps
    have hz : slotOf s r = z := by rw [slotOf, hslot, Option.getD_some]
    obtain ⟨hshown, htime, hdev, hob⟩ := releaseTask_spec hrun hz pre.length y
    obtain ⟨u, hu, hq⟩ := Option.map_eq_some_iff.1 hshown
    obtain ⟨hcmds, hmarks⟩ := Prod.mk.inj hq
    refine ⟨_, u, exec_taskRelease hrun hst hactive htasks hpre hy hslot hh hread, hu, ?_, ?_, ?_, ?_, ?_⟩
    · have hmem : (y.serial, true, false) ∈ u.q.tasks.map Task.mark := by
        rw [hmarks, List.map_map, htasks]
        exact List.mem_map.2 ⟨y, by simp, by simp [Task.mark]⟩
      obtain ⟨x, hx, hmark⟩ := List.mem_map.1 hmem
      simp only [Task.mark, Prod.mk.injEq] at hmark
      exact ⟨x, hx, hmark⟩
    · refine Eq.trans hcmds ?_
      rw [sectionPackets, List.map_map]
      rfl
    · rw [htime]
      exact advanceTo_now_max (by simp [hst]) (by rw [beat]; omega)
    · exact hdev.trans (congrArg (·.dev) (advanceTo_mem ..))
    · exact hob.trans (congrArg (·.ob) (advanceTo_mem ..))
  case coll =>
    extract_lets due
    have hk' : cmdOf (advanceTo due.toNat s) ⟨.img, i⟩ = some k := ((advanceTo_sameCmds _ s).cmdOf _).trans hk
    refine ⟨_, exec_collectiveRelease hrun hactive hk hheld, ?_, ?_, ?_, ?_, ?_, fun hon hlt => ?_⟩
    · refine (cmdOf_modCmd ⟨.img, i⟩ (Cmd.releasedAt due) (fun _ => rfl) (advanceTo due.toNat s)).trans ?_
      rw [hk']
      rfl
    · rw [modCmd_mem, advanceTo_mem]
    · exact advanceTo_queues ..
    · rw [modCmd_regs, advanceTo_regs]
    · rw [modCmd_cores, advanceTo_cores]
    · rw [modCmd_time]
      exact advanceTo_now_max hon (show due.toNat < 2 ^ 64 by omega)

end Sys2Proof.Machine
end

section
/-!
PROOFS. The start of an image run (R406, R407): the map of logical cores, and what the run finds at its beat.
-/
namespace Sys2Proof.Machine
open Host

/-! ### The map of logical cores (R406) -/

theorem cdiv_two_le (c n : Nat) : cdiv c 2 ≤ n ↔ c ≤ 2 * n := by rw [cdiv]; omega

theorem map_getD_range_length (l : List Nat) : (List.range l.length).map (fun i => l.getD i 0) = l := by
  refine List.ext_getElem (by simp) fun i h _ => ?_
  have hi : i < l.length := by simpa using h
  simp [List.getElem?_eq_getElem hi]

/-- Two logical cores on each of the physical cores `v`. -/
theorem map_getD_half (v : List Nat) : (List.range (2 * v.length)).map (fun i => v.getD (i / 2) 0) = v.flatMap fun x => [x, x] := by
  induction v with
  | nil => rfl
  | cons x v ih =>
    have hrange : List.range (2 * (x :: v).length) = 0 :: 1 :: (List.range (2 * v.length)).map (· + 2) := by
      rw [List.length_cons, Nat.mul_add, List.range_succ_eq_map, List.range_succ_eq_map]
      simp [Function.comp_def]
    rw [hrange, List.flatMap_cons, ← ih]
    simp [Function.comp_def]

theorem count_pairs (p : Nat) (v : List Nat) : (v.flatMap fun x => [x, x]).count p = 2 * v.count p := by
  induction v with
  | nil => rfl
  | cons x v ih =>
    rw [List.flatMap_cons, List.count_append, ih]
    simp only [List.count_cons, List.count_nil]
    split <;> omega

/-- Between one and two logical cores for each physical core, the last `c - U` physical cores hold two. -/
theorem coreMap_folded {u : List Nat} {c : Nat} (hc : u.length < c) (h2 : c ≤ 2 * u.length) :
    coreMap u c = some (u.take (c - 2 * (c - u.length)) ++ (u.drop (c - 2 * (c - u.length))).flatMap (fun x => [x, x]),
      c - u.length) := by
  have hhalf : cdiv c 2 ≤ u.length := (cdiv_two_le c _).2 h2
  rw [coreMap, if_neg (by omega), if_pos hhalf]
  refine congrArg (fun m => some (m, c - u.length)) ?_
  set z := c - 2 * (c - u.length) with hz
  have hsplit : List.range c = List.range z ++ (List.range (2 * (c - u.length))).map (z + ·) := by
    rw [← List.range_add]
    exact congrArg List.range (by omega)
  have htake : (u.take z).length = z := by rw [List.length_take]; omega
  have hdrop : (u.drop z).length = c - u.length := by rw [List.length_drop]; omega
  rw [hsplit, List.map_append, List.map_map]
  congr 1
  · conv_rhs => rw [← map_getD_range_length (u.take z), htake]
    refine List.map_congr_left fun i hi => ?_
    have hlt : i < z := by simpa using hi
    simp [hlt]
  · rw [← map_getD_half, hdrop]
    refine List.map_congr_left fun i _ => ?_
    simp [List.getElem?_drop]

theorem coreMap_none {u : List Nat} {c : Nat} (h : 2 * u.length < c) : coreMap u c = none := by
  have hhalf : ¬ cdiv c 2 ≤ u.length := mt (cdiv_two_le c _).1 (by omega)
  rw [coreMap, if_neg (by omega), if_neg hhalf]

/-- Of distinct physical cores, none holds more than two logical cores, and each holds one. -/
theorem pairs_cover {u : List Nat} (hu : u.Nodup) (z : Nat) :
    let m := u.take z ++ (u.drop z).flatMap fun x => [x, x]
    (∀ p ∈ m, p ∈ u) ∧ ∀ p ∈ u, p ∈ m ∧ m.count p ≤ 2 := by
  intro m
  have hmem : ∀ p, p ∈ m ↔ p ∈ u := fun p => by
    conv_rhs => rw [← List.take_append_drop z u, List.mem_append]
    simp [m]
  have hcount : ∀ p, m.count p ≤ 2 * u.count p := fun p => by
    conv_rhs => rw [← List.take_append_drop z u, List.count_append]
    rw [List.count_append, count_pairs]
    omega
  refine ⟨fun p hp => (hmem p).1 hp, fun p hp => ⟨(hmem p).2 hp, ?_⟩⟩
  have hone := hcount p
  rw [List.count_eq_one_of_mem hu hp] at hone
  exact hone

/-! ### The state that a run finds (R407) -/

/-- The run of an image as it begins at a beat, on a map of cores and with the tasks of the section. -/
def ImgRun.begunAt (r : ImgRun) (map : List Nat) (b : Nat) (ts : List Task) : ImgRun :=
  { r with active := true, begun := true, again := false, map := map, beat := b, q := { r.q with cmds := [], tasks := ts, failed := [] } }

/-- The run with its tasks ready for their first commands. -/
def ImgRun.restarted (r : ImgRun) : ImgRun := { r with q := restartQueue r.q }

theorem sectionTasks_advanceTo (n : Nat) (s : State) (z : Slot) : sectionTasks (advanceTo n s) z = sectionTasks s z := by
  rw [advanceTo_eq]
  rfl

theorem nextService_retireCores {s t : State} (hsup : t.sup = s.sup) (hcores : t.cores = s.cores) :
    nextService (retireCores t) = nextService (retireCores s) := by
  obtain ⟨_, ht⟩ := retireCores_spec t
  obtain ⟨_, hs⟩ := retireCores_spec s
  rw [ht, hs, nextService, nextService, hsup, hcores]

theorem usable_retireCores {s t : State} (hcores : t.cores = s.cores) :
    (retireCores t).cores.usable = (retireCores s).cores.usable := by
  obtain ⟨_, ht⟩ := retireCores_spec t
  obtain ⟨_, hs⟩ := retireCores_spec s
  rw [ht, hs, hcores]

/-- No task that a crossing has not interrupted has a second record: only commands of hardware queues complete here. -/
theorem repeatFailed_img {s0 : State} {r : ImgRun} (hrun : s0.img.run = some r) (hcmds : r.q.cmds = []) (s : State) :
    (repeatFailed s0 s).img = s.img := by
  refine List.foldlRecOn (motive := fun t : State => t.img = s.img) _ _ rfl fun t ht x hx => ?_
  obtain ⟨q, hq, rfl⟩ | rfl : (∃ q ∈ s0.queues.qs, (QRef.hw (BitVec.ofNat 20 q.1), q.2) = x) ∨ x = (QRef.img, r.q) := by
    simpa [allQueues, hrun] using hx
  · exact List.foldlRecOn (motive := fun t : State => t.img = s.img) _ _ ht fun u hu k _ => (complete_hw_img ..).trans hu
  · simpa [hcmds] using ht

theorem startRun_img {kind : RunKind} {ms : Nat} {s : State} {r : ImgRun} (hrun : s.img.run = some r) (hcmds : r.q.cmds = []) :
    (startRun kind ms s).img = { s.img with run := some r.restarted } := by
  obtain ⟨bad, hret⟩ := retireCores_spec s
  obtain ⟨md, hre⟩ := rebind_spec (retireCores s)
  have himg : (rebind (retireCores s)).img = s.img := by rw [hre, hret]
  have hready : (readied s).img = (mapQueues restartQueue (rebind (retireCores s))).img :=
    repeatFailed_img (by rw [himg, hrun]) hcmds _
  rw [startRun_eq, setDState_img]
  exact hready.trans (by simp [mapQueues, himg, hrun, ImgRun.restarted])

/-- What a new run of the image finds when it starts, its own state apart. -/
structure ImageBegins (s : State) (r : ImgRun) (b : Nat) (t : State) : Prop where
  run : t.img.run = some r
  sup : t.sup = s.sup
  cores : t.cores = s.cores
  mem : t.mem = s.mem
  now : t.time.now.toNat = b

section
variable {s : State} {r : ImgRun} {z : Slot} (hagain : r.again = false) (hon : s.sup.dstate ≠ .off)
  (hlt : s.time.now.toNat + planned s r * 1024 + 2048 < 2 ^ 64)
include hagain hon hlt

/-- A run of the image starts at the first beat boundary at or after its planned beat. -/
theorem startImage_spec (map : List Nat) : ∃ (b : Nat) (s2 : State), b % 1024 = 0 ∧ planned s r * 1024 ≤ b ∧
    ImageBegins s (r.begunAt map (b / 1024) (sectionTasks s z)) b s2 ∧
    startImage r z map s = if imageDone (startRun .image 0 s2) then beginCrossing (startRun .image 0 s2) else startRun .image 0 s2 := by
  set b := beatUp (max s.time.now.toNat (planned s r * 1024)) with hb
  have hle : max s.time.now.toNat (planned s r * 1024) ≤ b := le_beatUp _
  have hnow : (advanceTo b s).time.now.toNat = b := advanceTo_now_of_lt hon (by omega)
    (Nat.lt_trans (beatUp_lt _) (by omega))
  refine ⟨b, _, beatUp_mod _, by omega, ?_, rfl⟩
  simp only [hagain, Bool.false_eq_true, if_false, sectionTasks_advanceTo]
  have hbegins : ∀ t : State, t.img.run = some (r.begunAt map (b / 1024) (sectionTasks s z)) → t.sup = s.sup → t.cores = s.cores →
      t.mem = s.mem → t.time = (advanceTo b s).time → ImageBegins s (r.begunAt map (b / 1024) (sectionTasks s z)) b t :=
    fun t h1 h2 h3 h4 h5 => ⟨h1, h2, h3, h4, h5 ▸ hnow⟩
  split
  all_goals
    refine hbegins _ ?_ (advanceTo_sup b s) (advanceTo_cores b s) (advanceTo_mem b s) rfl
    show some _ = some _
    rw [ImgRun.begunAt, ← hnow]
    rfl

end

/-! ### The obligation -/

theorem restartQueue_marks (q : Queue) :
    (restartQueue q).tasks.map (fun y => (y.serial, y.id, y.lcore, y.beat, y.released)) =
      q.tasks.map fun y => (y.serial, y.id, y.lcore, y.beat, y.released) := by
  simp only [restartQueue, List.map_map]
  refine List.map_congr_left fun y _ => ?_
  rw [Function.comp_apply]
  split
  · rfl
  split <;> rfl

theorem sectionTasks_marks (s : State) (z : Slot) :
    (sectionTasks s z).map (fun y => (y.serial, y.id, y.lcore, y.beat, y.released)) =
      (sectionTasks s z).map fun y => (y.serial, y.id, y.lcore, y.beat, false) := by
  refine List.map_congr_left fun y hy => ?_
  obtain ⟨x, -, rfl⟩ := List.mem_map.1 hy
  rfl

theorem imageDone_of_unreleased {s : State} {r : ImgRun} {y : Task} (hrun : s.img.run = some r) (hy : y ∈ r.q.tasks)
    (hheld : y.released = false) : imageDone s = false := by
  rw [imageDone, hrun]
  refine Bool.and_eq_false_iff.2 (.inl (Bool.and_eq_false_iff.2 (.inr ?_)))
  exact List.all_eq_false.2 ⟨y, hy, by simp [hheld]⟩

/-- A section with tasks is not done when its run starts. -/
theorem imageDone_startRun {s : State} {r : ImgRun} {kind : RunKind} {ms : Nat} (hrun : s.img.run = some r) (hcmds : r.q.cmds = [])
    {z : Slot} {s0 : State} (htasks : r.q.tasks = sectionTasks s0 z) (hne : sectionTasks s0 z ≠ []) :
    imageDone (startRun kind ms s) = false := by
  have hmarks := restartQueue_marks r.q
  rw [htasks, sectionTasks_marks] at hmarks
  obtain ⟨x, hx⟩ := List.exists_mem_of_ne_nil _ hne
  have hmem : (x.serial, x.id, x.lcore, x.beat, false) ∈
      (restartQueue r.q).tasks.map (fun y => (y.serial, y.id, y.lcore, y.beat, y.released)) := by
    rw [hmarks]
    exact List.mem_map.2 ⟨x, hx, rfl⟩
  obtain ⟨y, hy, heq⟩ := List.mem_map.1 hmem
  simp only [Prod.mk.injEq] at heq
  obtain ⟨-, -, -, -, hheld⟩ := heq
  refine imageDone_of_unreleased (r := r.restarted) ?_ hy hheld
  rw [startRun_img hrun hcmds]

theorem exec_imageRunStart {s : State} {r : ImgRun} {z : Slot} {m : List Nat × Nat} (hrun : s.img.run = some r)
    (hst : s.sup.dstate = .ready) (hfence : fencedAny s = false) (hdue : actionsDue s = false) (hactive : r.active = false)
    (hagain : r.again = false) (hended : r.ended = none) (hstop : s.sup.stopReq = none) (hneeds : needsService s r = false)
    (hslot : runSlot s r = some z) (hmap : coreMap (partCores (retireCores s)) z.lcores = some m) (hh : healthy s r.e)
    (hread : ∀ x ∈ headSpans s z, readFault s none r.e x.1 x.2 = none) :
    exec .imageRunStart s = .next (startImage r z m.1 s) := by
  have hgo := withImage_healthy hrun hh hread fun r s => startImage r z m.1 s
  rw [← hgo]
  simp [exec, execImageRunStart, hrun, hst, hfence, hdue, hactive, hagain, hended, hstop, hneeds, hslot, hmap]

/-- Settles O43: the map by its three ranges, and the start of a run from READY by `startImage_spec` and `startRun_spec`. -/
theorem imageRunStarts : Obligations.ImageRunStarts := by
  unfold Obligations.ImageRunStarts
  refine ⟨fun u c hu => ⟨fun hc => by rw [coreMap, if_pos hc], coreMap_none, fun hc h2 => ?fold⟩,
    fun s r z m hrun hst hfence hdue hactive hagain hended hstop hneeds hslot hmap htasks hh hread hlt => ?start⟩
  case fold =>
    obtain ⟨hsub, hcover⟩ := pairs_cover hu (c - 2 * (c - u.length))
    refine ⟨_, coreMap_folded hc h2, ?_, hsub, hcover, fun l hl => ?_⟩
    · simp
      omega
    · rw [List.getElem?_append_left (by rw [List.length_take]; omega), List.getElem?_take_of_lt hl]
  case start =>
    have hon : s.sup.dstate ≠ .off := by simp [hst]
    obtain ⟨b, s2, hmod, hplan, hbegins, heq⟩ := startImage_spec (z := z) hagain hon hlt m.1
    have himg := startRun_img (kind := .image) (ms := 0) hbegins.run rfl
    rw [imageDone_startRun hbegins.run rfl rfl htasks, if_neg Bool.false_ne_true] at heq
    obtain ⟨hsup, htime, husable, -, hdev, hob, -, -⟩ := startRun_spec (kind := .image) (ms := 0) (s := s2) rfl
    have hexec := exec_imageRunStart hrun hst hfence hdue hactive hagain hended hstop hneeds hslot hmap hh hread
    rw [heq] at hexec
    have hnow : (startRun .image 0 s2).time.now.toNat = b := by rw [htime, hbegins.now]
    refine ⟨_, (r.begunAt m.1 (b / 1024) (sectionTasks s z)).restarted, hexec,
      by rw [hsup], by rw [himg], rfl, rfl, rfl, ?_, ?_, rfl, ?_, ?_, ?_, ?_, ?_⟩
    · rw [hnow]
      show (b : Int) = ((b / 1024 : Nat) : Int) * 1024
      omega
    · show (planned s r : Int) ≤ ((b / 1024 : Nat) : Int)
      omega
    · exact (restartQueue_marks _).trans (sectionTasks_marks s z)
    · rw [hsup, ← nextService_retireCores hbegins.sup hbegins.cores, htime]
    · rw [hdev, hbegins.mem]
    · rw [hob, hbegins.mem]
    · rw [husable, usable_retireCores hbegins.cores]

end Sys2Proof.Machine
end

section
/-!
PROOFS. SCH.LOAD and SCH.RUN (R404 to R407): what a start, noted reads and a completion leave of the images, and what the three
operations do to them.
-/
namespace Sys2Proof.Machine
open Host

/-! ### The start of a command leaves the images -/

/-- The images are as before, but for the queue of the image run; so are the domain and the usable cores. -/
structure SameImage (s t : State) : Prop where
  img : ∃ q, t.img = { s.img with run := s.img.run.map fun r => { r with q := q } }
  dom : t.dom = s.dom
  usable : t.cores.usable = s.cores.usable

theorem sameImage_of_eq {s t : State} (himg : t.img = s.img) (hdom : t.dom = s.dom) (husable : t.cores.usable = s.cores.usable) :
    SameImage s t := by
  have hrun : s.img.run.map (fun r => { r with q := getQ s .img }) = s.img.run := by
    cases hrun : s.img.run <;> simp [getQ, hrun]
  exact ⟨⟨getQ s .img, by rw [hrun, himg]⟩, hdom, husable⟩

theorem SameImage.refl (s : State) : SameImage s s := sameImage_of_eq rfl rfl rfl

theorem SameImage.trans {s t u : State} (h : SameImage s t) (g : SameImage t u) : SameImage s u := by
  obtain ⟨q, hq⟩ := h.img
  obtain ⟨q', hq'⟩ := g.img
  refine ⟨⟨q', ?_⟩, g.dom.trans h.dom, g.usable.trans h.usable⟩
  rw [hq', hq, Option.map_map]
  rfl

theorem SameImage.slots {s t : State} (h : SameImage s t) : t.img.slots = s.img.slots := by
  obtain ⟨q, hq⟩ := h.img
  rw [hq]

theorem SameImage.claims {s t : State} (h : SameImage s t) : t.img.claims = s.img.claims := by
  obtain ⟨q, hq⟩ := h.img
  rw [hq]

theorem SameImage.runSlot {s t : State} (h : SameImage s t) : t.img.run.map (·.slot) = s.img.run.map (·.slot) := by
  obtain ⟨q, hq⟩ := h.img
  rw [hq, Option.map_map]
  rfl

theorem SameImage.partCores {s t : State} (h : SameImage s t) : partCores t = partCores s := by
  rw [Machine.partCores, h.dom, h.usable]
  rfl

theorem setQ_sameImage (r : QRef) (q : Queue) (s : State) : SameImage s (setQ r q s) := by
  cases r with
  | hw n => exact sameImage_of_eq rfl rfl rfl
  | img => exact ⟨⟨q, rfl⟩, rfl, rfl⟩

theorem modCmd_sameImage (c : CmdRef) (f : Cmd → Cmd) (s : State) : SameImage s (modCmd c f s) := setQ_sameImage ..
theorem modTask_sameImage (r : QRef) (n : Nat) (f : Task → Task) (s : State) : SameImage s (modTask r n f s) := setQ_sameImage ..

theorem startSlip_sameImage (r : QRef) (k : Cmd) (s : State) : SameImage s (startSlip r k s) := by
  unfold startSlip
  split
  · exact .refl s
  split
  · exact .refl s
  split
  · exact .refl s
  dsimp only
  split
  · exact modTask_sameImage ..
  · exact (modTask_sameImage ..).trans (sameImage_of_eq rfl rfl rfl)

theorem enterPipe_sameImage (k : Cmd) (p : Option Nat) (s : State) : SameImage s (enterPipe k p s) := by
  cases p <;> exact sameImage_of_eq rfl rfl rfl

theorem beginCmd_sameImage {f : Family} {x : Ctx} (hdraws : f.draws x.par = false) (hstep : f.step x.par = none) (s : State) :
    SameImage s (beginCmd f x none s) := by
  unfold beginCmd
  extract_lets now th s1 s2 s3 s4
  have h1 : SameImage s s1 := by
    obtain ⟨g, -, hluna⟩ := readLuna_undrawn hdraws s
    simp only [s1, readStep_none hstep, hluna]
    exact (modCmd_sameImage ..).trans (modCmd_sameImage ..)
  have h3 : SameImage s s3 :=
    ((h1.trans (modTask_sameImage ..)).trans (startSlip_sameImage ..)).trans (sameImage_of_eq rfl rfl rfl)
  exact h3.trans (enterPipe_sameImage ..)

theorem miscorrect_sameImage (e : Circ) (s : State) : SameImage s (miscorrect e s) :=
  sameImage_of_eq (miscorrect_lineWork ..).img (miscorrect_keeps (·.dom) (fun _ _ _ => rfl) e s)
    (miscorrect_keeps (·.cores.usable) (fun _ _ _ => rfl) e s)

theorem startOf_sameImage {op : Nat} {f : Family} {c : CmdRef} {e : Circ} {s s1 : State} {x : Ctx}
    (h : startOf op f c e s = some (x, s1)) (hcore : ∀ v, f.core v = false) (hdraws : ∀ v, f.draws v = false)
    (hstep : ∀ v, f.step v = none) : SameImage s s1 := by
  obtain ⟨k, core, -, hgo, rfl, -⟩ := startOf_admitted h
  obtain rfl := admission_go_none (hcore _) hgo
  exact (miscorrect_sameImage ..).trans (beginCmd_sameImage (hdraws _) (hstep _) _)

/-! ### Noted reads leave the Cocoons and the queue table -/

theorem noteRead_bases (o : Owner) (e : Circ) (s : State) (a : Nat) :
    ((noteRead o e s a).cocoons, (noteRead o e s a).regs.qtbBase) = (s.cocoons, s.regs.qtbBase) := by
  have huncorr : ∀ l, ((noteUncorr l s).cocoons, (noteUncorr l s).regs.qtbBase) = (s.cocoons, s.regs.qtbBase) := fun l => by
    obtain ⟨_, _, _, _, _, _, _, _, h⟩ := poisonLine_spec l { noteLast l 1 s with regs := { (noteLast l 1 s).regs with
      uncorr := BitVec.ofNat 16 (satAdd 16 1 (noteLast l 1 s).regs.uncorr.toNat) } }
    rw [noteUncorr, h]
    rfl
  unfold noteRead
  split
  · rfl
  dsimp only
  split
  · rfl
  split
  · exact huncorr _
  split
  · rfl
  split <;> rfl

theorem noteReads_bases (o : Owner) (e : Circ) (l : List (Nat × Nat)) (s : State) :
    ((noteReads o e l s).cocoons, (noteReads o e l s).regs.qtbBase) = (s.cocoons, s.regs.qtbBase) := by
  unfold noteReads
  split
  · rfl
  · exact foldl_keeps (fun t : State => (t.cocoons, t.regs.qtbBase)) (fun t x => noteRead_bases o e t (x * 64)) _ s

theorem touchesTable_noteReads (o : Owner) (e : Circ) (l : List (Nat × Nat)) (s : State) (z : List (Nat × Nat)) :
    touchesTable (noteReads o e l s) z = touchesTable s z := by
  rw [touchesTable, (Prod.mk.inj (noteReads_bases o e l s)).2]
  rfl

theorem touchesPool_noteReads (o : Owner) (e : Circ) (l : List (Nat × Nat)) (s : State) (z : List (Nat × Nat)) :
    touchesPool (noteReads o e l s) z = touchesPool s z := by
  rw [touchesPool, (Prod.mk.inj (noteReads_bases o e l s)).1]
  rfl

theorem LineWork.dom {s t : State} (h : LineWork s t) : t.dom = s.dom := by obtain ⟨_, _, _, _, _, _, _, rfl⟩ := h; rfl

theorem noteReads_sameImage (o : Owner) (e : Circ) (l : List (Nat × Nat)) (s : State) : SameImage s (noteReads o e l s) :=
  have h := noteReads_lineWork o e l s
  sameImage_of_eq h.img h.dom (congrArg (·.usable) h.cores)

/-! ### A completion leaves the images -/

/-- The images without the run of one. -/
def restImg (s : State) : Img := { s.img with run := none }

theorem setQ_restImg (r : QRef) (q : Queue) (s : State) : restImg (setQ r q s) = restImg s := by cases r <;> rfl

theorem beginCrossing_restImg (s : State) : restImg (beginCrossing s) = restImg s := by
  unfold beginCrossing
  split
  · rw [beginDrain, restImg, setDState_img]
    rfl
  · rfl

theorem stopImage_restImg (x : Nat × Nat × Option Nat) (s : State) : restImg (stopImage x s) = restImg s := by
  unfold stopImage
  split
  · rfl
  · exact beginCrossing_restImg _

theorem afterImage_restImg (c : CmdRef) (k : Cmd) (o : Out) (s : State) : restImg (afterImage c k o s) = restImg s := by
  unfold afterImage
  split
  · rfl
  split
  · split
    · exact beginCrossing_restImg s
    · rfl
  split
  · exact beginCrossing_restImg s
  · exact stopImage_restImg ..

theorem finishTask_restImg (r : QRef) (k : Cmd) (o : Out) (s : State) : restImg (finishTask r k o s) = restImg s := by
  unfold finishTask
  split
  · exact setQ_restImg ..
  split
  · rfl
  extract_lets s1
  have hlast : restImg s1 = restImg s := by
    simp only [s1]
    split
    · exact setQ_restImg ..
    · rfl
  split
  · exact Eq.trans (by rw [restImg, releaseBanks_img]; rfl) hlast
  · exact hlast

theorem addFailed_restImg (c : CmdRef) (o : Out) (s : State) : restImg (addFailed c o s) = restImg s := by
  unfold addFailed
  split
  · rfl
  · exact setQ_restImg ..

theorem complete_restImg (c : CmdRef) (o : Out) (s : State) : restImg (complete c o s) = restImg s := by
  unfold complete
  split
  · rfl
  · extract_lets o' t x s1 s2
    have h1 : restImg s1 = restImg s := (addFailed_restImg ..).trans (setQ_restImg ..)
    have h2 : restImg s2 = restImg s1 := by
      simp only [s2]
      split <;> rfl
    exact (afterImage_restImg ..).trans ((finishTask_restImg ..).trans (h2.trans h1))

theorem complete_slots (c : CmdRef) (o : Out) (s : State) : (complete c o s).img.slots = s.img.slots := by
  have h : (restImg (complete c o s)).slots = (restImg s).slots := by rw [complete_restImg]
  exact h

theorem complete_claims (c : CmdRef) (o : Out) (s : State) : (complete c o s).img.claims = s.img.claims := by
  have h : (restImg (complete c o s)).claims = (restImg s).claims := by rw [complete_restImg]
  exact h

/-! ### The slots -/

theorem look_dropKey {α : Type} (k j : Nat) (l : List (Nat × α)) : look (dropKey k l) j = if j = k then none else look l j := by
  induction l with
  | nil => simp [dropKey, look]
  | cons y r ih =>
    obtain ⟨i, y⟩ := y
    by_cases hi : i = k
    · rw [show dropKey k ((i, y) :: r) = dropKey k r by simp [dropKey, hi], ih, look]
      split
      · rfl
      · rw [if_neg (by omega)]
    · rw [show dropKey k ((i, y) :: r) = (i, y) :: dropKey k r by simp [dropKey, hi], look, look, ih]
      by_cases hij : i = j
      · rw [if_pos hij, if_pos hij, if_neg (by omega)]
      · rw [if_neg hij, if_neg hij]

/-- An image is registered in its slot with its claims; the other slots stay, and so do memory and buffers. -/
theorem complete_register {x : Ctx} {p : Load} {rd : ImgRd} {g : ImgHdr} {o : Out} {s : State} :
    let t := complete x.c o (register x p rd g s)
    (∃ z, look t.img.slots p.slot = some z ∧ z.addr = p.addr ∧ z.imgId = g.imgId ∧ z.job = x.job ∧ z.nl = g.nl ∧
      z.lcores = g.lcores ∧ z.period = g.period) ∧
    (∀ n, n ≠ p.slot → look t.img.slots n = look s.img.slots n) ∧
    (∀ i, i < g.ksCount → (g.ksFirst + i, x.job, p.slot) ∈ t.img.claims) ∧ t.mem.dev = s.mem.dev ∧ t.mem.ob = s.mem.ob := by
  intro t
  have hwork := complete_completionWork x.c o (register x p rd g s)
  refine ⟨?_, fun n hn => ?_, fun i hi => ?_, hwork.dev, hwork.ob⟩
  · rw [complete_slots]
    exact ⟨_, (look_put ..).trans (if_pos rfl), rfl, rfl, rfl, rfl, rfl, rfl⟩
  · rw [complete_slots]
    exact (look_put ..).trans (if_neg hn)
  · rw [complete_claims]
    exact List.mem_append_right _ (List.mem_map.2 ⟨i, List.mem_range.2 hi, rfl⟩)

/-- The slots and the claims hold no commands. -/
theorem cmdOf_withSlots (s : State) (l : List (Nat × Slot)) (z : List (Nat × Nat × Nat)) (c : CmdRef) :
    cmdOf { s with img := { s.img with slots := l, claims := z } } c = cmdOf s c := by
  obtain ⟨r, i⟩ := c
  cases r <;> rfl

theorem complete_unloaded {c : CmdRef} {n : Nat} {o : Out} {s : State} :
    let t := complete c o { s with img := { s.img with
      slots := dropKey n s.img.slots, claims := s.img.claims.filter fun z => decide (z.2.2 ≠ n) } }
    look t.img.slots n = none ∧ (∀ m, m ≠ n → look t.img.slots m = look s.img.slots m) ∧ (∀ z ∈ t.img.claims, z.2.2 ≠ n) ∧
      t.mem.dev = s.mem.dev ∧ t.mem.ob = s.mem.ob := by
  intro t
  have hwork := complete_completionWork c o { s with img := { s.img with
      slots := dropKey n s.img.slots, claims := s.img.claims.filter fun z => decide (z.2.2 ≠ n) } }
  refine ⟨?_, fun m hm => ?_, fun z hz => ?_, hwork.dev, hwork.ob⟩
  · rw [complete_slots]
    exact (look_dropKey ..).trans (if_pos rfl)
  · rw [complete_slots]
    exact (look_dropKey ..).trans (if_neg hm)
  · rw [complete_claims] at hz
    simpa using (List.mem_filter.1 hz).2

/-! ### What the three operations do -/

section
variable {x : Ctx} {s : State} {p : Load} {g : ImgHdr} {m : List Nat × Nat}

/-- An image that passes the checks of R404 is registered. -/
theorem loadImage_eq (hg : g = ImgHdr.parse (imgRd s p.addr 0 128)) (hread : readFault s x.o x.e p.addr 128 = none)
    (hfmt : fmtAccepted s g.fmt = true) (hmagic : g.magic = 0x4B5A494D) (hlen : 128 ≤ g.len) (hspan : spanMem p.addr g.len = true)
    (hall : readFault s x.o x.e p.addr g.len = none) (hbad : imageBad (imgRd s p.addr) p.addr = false) (hnl : g.nl = x.nl)
    (hdomnl : formed s = true → g.nl = s.dom.nlDom) (hstate : loadState x p g s = none)
    (htable : touchesTable s ((p.addr, g.len) :: regionSpans ((imgRegions (imgRd s p.addr) g).getD [])) = false)
    (hpool : touchesPool s [(p.addr, g.len)] = false) (hmap : coreMap (partCores s) g.lcores = some m) :
    loadImage x p s = complete x.c { reply := some (g.imgId + (g.lcores - m.2) <<< 32 + m.2 <<< 40) }
      (register x p (imgRd s p.addr) g (noteReads x.o x.e [(p.addr, g.len)] s)) := by
  have hsame := noteReads_sameImage x.o x.e [(p.addr, g.len)] s
  have hst : loadState x p g (noteReads x.o x.e [(p.addr, g.len)] s) = none := by
    rw [loadState, claimed, hsame.dom, hsame.partCores, hsame.slots, hsame.claims]
    exact hstate
  have hformed : formed (noteReads x.o x.e [(p.addr, g.len)] s) = formed s := by rw [formed, hsame.dom]; rfl
  have hnldom : ¬ (g.nl ≠ x.nl ∨ formed (noteReads x.o x.e [(p.addr, g.len)] s) = true ∧
      g.nl ≠ (noteReads x.o x.e [(p.addr, g.len)] s).dom.nlDom) := by
    rw [hformed, hsame.dom]
    rintro (h | ⟨h, h'⟩)
    · exact h hnl
    · exact h' (hdomnl h)
  have hrefused : ¬ (g.magic ≠ 0x4B5A494D ∨ g.len < 128 ∨ (!spanMem p.addr g.len) = true) := by
    simp [hmagic, hspan, hlen]
  unfold loadImage
  dsimp only
  rw [← hg, hread]
  dsimp only
  rw [if_neg (by simp [hfmt]), if_neg hrefused, hall]
  dsimp only
  rw [hbad, touchesTable_noteReads, htable, touchesPool_noteReads, hpool, Bool.or_false, if_neg Bool.false_ne_true, if_neg hnldom,
    if_neg Bool.false_ne_true, hst]
  dsimp only
  rw [hsame.partCores, hmap]
  rfl

theorem unloadImage_eq (hslot : (look s.img.slots p.slot).isSome = true) (hrun : s.img.run.map (·.slot) ≠ some p.slot)
    (hpending : ∀ y ∈ runsPending s, y.2 ≠ p.slot) :
    unloadImage x p s = complete x.c { reply := some 0 } { s with img := { s.img with
      slots := dropKey p.slot s.img.slots, claims := s.img.claims.filter fun z => decide (z.2.2 ≠ p.slot) } } := by
  have hwait : ((runsPending s).any fun y => decide (y.2 = p.slot)) = false := List.any_eq_false.2 fun y hy => by
    simpa using hpending y hy
  have hloaded : ¬ (look s.img.slots p.slot).isNone = true := by simpa using Option.isSome_iff_ne_none.1 hslot
  rw [unloadImage, if_neg hloaded, if_neg]
  simpa [hwait] using hrun

end

theorem modCmd_hw_img {c : CmdRef} {n : BitVec 20} (hc : c.q = .hw n) (f : Cmd → Cmd) (s : State) : (modCmd c f s).img = s.img := by
  obtain ⟨r, i⟩ := c
  obtain rfl : r = .hw n := hc
  rfl

/-- The run that an SCH.RUN waits for. -/
def waitingRun (x : Ctx) (s : State) : ImgRun :=
  let p := SchRun.parse x.par
  let z := (look s.img.slots p.slot).getD noSlot
  { c := x.c, slot := p.slot, count := p.count, startBeat := p.start, ckEn := p.ckEn, ckAddr := p.ckAddr, ckSlot := p.ckSlot
    job := x.job, lastSave := p.start, q := { state := .opened, nl := z.nl, gen := z.fmt, job := x.job }, e := x.e }

theorem schRunWork_spec {x : Ctx} {s : State} {n : BitVec 20} (hn : x.c.q = .hw n) {k : Cmd} (hk : cmdOf s x.c = some k) :
    let t := schRunWork x s
    t.img = { s.img with run := some (waitingRun x s), seqs := put x.job 0 s.img.seqs } ∧
      cmdOf t x.c = some { k with ph := .running 0 } ∧ t.mem = s.mem ∧ t.sup = s.sup ∧ t.time = s.time := by
  set u : State := { s with img := { s.img with run := some (waitingRun x s), seqs := put x.job 0 s.img.seqs } } with hu
  have hcmd : cmdOf u x.c = some k := by
    rw [← hk, cmdOf, cmdOf, hn]
    rfl
  refine ⟨modCmd_hw_img hn _ u, ?_, modCmd_mem .., modCmd_sup .., modCmd_time ..⟩
  exact (cmdOf_modCmd x.c (fun k => { k with ph := .running 0 }) (fun _ => rfl) u).trans (by rw [hcmd]; rfl)

/-! ### The obligation -/

/-- Settles O20: LOAD by `loadImage_eq`, UNLOAD by `unloadImage_eq`, and the SCH.RUN that waits for its first run. -/
theorem scheduleImages : Obligations.ScheduleImages := by
  unfold Obligations.ScheduleImages
  refine ⟨fun c e s s1 x m h => ?load, fun c e s s1 x h => ?unload, fun c e s s1 x h => ?run⟩
  case load =>
    intro p g hop hread hfmt hmagic hlen hspan hall hbad hnl hdomnl hstate htable hpool hmap
    obtain ⟨hwork, -⟩ := startOf_runs h (fun _ => rfl) (fun _ => rfl) fun _ => rfl
    have hsame := startOf_sameImage h (fun _ => rfl) (fun _ => rfl) fun _ => rfl
    obtain ⟨rfl, hxe, -⟩ := startOf_ctx h
    obtain ⟨hcmd, -⟩ := startOf_cmd h
    have he : x.e = e := hxe
    obtain rfl := he
    have hexec : exec (.schLoad x.c x.e) s = .next (loadImage x p s1) := by
      refine congrArg Outcome.next ((runCmd_start h).trans ?_)
      exact if_pos hop
    have hsup : s1.sup = s.sup := hwork.sup.trans (miscorrect_sup ..)
    have hformed : formed s1 = formed s := by rw [formed, hsame.dom]; rfl
    have hfmt1 : fmtAccepted s1 g.fmt = true := by rw [fmtAccepted, hformed, hsame.dom, hsup]; exact hfmt
    have hnl1 : formed s1 = true → g.nl = s1.dom.nlDom := by rw [hformed, hsame.dom]; exact hdomnl
    have hmap1 : coreMap (partCores s1) g.lcores = some m := by rw [hsame.partCores]; exact hmap
    rw [loadImage_eq rfl hread hfmt1 hmagic hlen hspan hall hbad hnl hnl1 hstate htable hpool hmap1] at hexec
    obtain ⟨⟨z, hz, haddr, hid, hjob, hznl, hcores, hperiod⟩, hothers, hclaims, hdev, hob⟩ :=
      complete_register (x := x) (p := p) (rd := imgRd s1 p.addr) (g := g)
        (o := { reply := some (g.imgId + (g.lcores - m.2) <<< 32 + m.2 <<< 40) }) (s := noteReads x.o x.e [(p.addr, g.len)] s1)
    have hcmd' : cmdOf (register x p (imgRd s1 p.addr) g (noteReads x.o x.e [(p.addr, g.len)] s1)) x.c = some x.cmd :=
      (cmdOf_withSlots ..).trans (((noteReads_lineWork ..).cmdOf x.c).trans hcmd)
    refine ⟨_, z, hexec, complete_done hcmd' rfl, hz, haddr, hid, hjob, hznl, hcores, hperiod,
      fun n hn => (hothers n hn).trans ?_, hclaims, hdev.trans (noteReads_dev ..),
      hob.trans ((noteReads_ob ..).trans ?_)⟩
    · rw [(noteReads_sameImage ..).slots, hsame.slots]
    · exact (congrArg (·.ob) hwork.mem).trans (miscorrect_ob ..)
  case unload =>
    intro p hop hslot hrun hpending
    obtain ⟨hwork, -⟩ := startOf_runs h (fun _ => rfl) (fun _ => rfl) fun _ => rfl
    have hsame := startOf_sameImage h (fun _ => rfl) (fun _ => rfl) fun _ => rfl
    obtain ⟨rfl, -⟩ := startOf_ctx h
    obtain ⟨hcmd, -⟩ := startOf_cmd h
    have hne : ¬ (Load.parse x.par).op = 0 := by rw [show (Load.parse x.par).op = 1 from hop]; decide
    have hexec : exec (.schLoad x.c e) s = .next (unloadImage x p s1) :=
      congrArg Outcome.next ((runCmd_start h).trans (if_neg hne))
    rw [unloadImage_eq (by rw [hsame.slots]; exact hslot) (by rw [hsame.runSlot]; exact hrun) hpending] at hexec
    obtain ⟨hnone, hothers, hclaims, hdev, hob⟩ := complete_unloaded (c := x.c) (n := p.slot) (o := { reply := some 0 }) (s := s1)
    refine ⟨_, hexec, complete_done ((cmdOf_withSlots ..).trans hcmd) rfl, hnone, fun n hn => (hothers n hn).trans ?_, hclaims, hdev,
      hob.trans ?_⟩
    · rw [hsame.slots]
    · exact (congrArg (·.ob) hwork.mem).trans (miscorrect_ob ..)
  case run =>
    intro p
    obtain ⟨hwork, -⟩ := startOf_runs h (fun _ => rfl) (fun _ => rfl) fun _ => rfl
    have hsame := startOf_sameImage h (fun _ => rfl) (fun _ => rfl) fun _ => rfl
    obtain ⟨y, -, -, -, -, -, hready⟩ := startOf_ready h (fun _ => rfl) (fun _ => rfl) fun _ => rfl
    obtain ⟨rfl, -⟩ := startOf_ctx h
    obtain ⟨hcmd, -⟩ := startOf_cmd h
    have hrun : s.img.run = none := Option.isNone_iff_eq_none.1 hready
    have hrun1 : s1.img.run = none := by
      obtain ⟨q, hq⟩ := hsame.img
      rw [hq, hrun]
      rfl
    obtain ⟨n, hn⟩ := hw_of_cmdOf hrun1 hcmd
    have hidle : ¬ (s.img.run.map (·.c)) = some x.c := by simp [hrun]
    have hexec : exec (.schRun x.c e) s = .next (schRunWork x s1) :=
      congrArg Outcome.next ((if_neg hidle).trans (runCmd_start h))
    obtain ⟨himg, hcmd', hmem, hsup, htime⟩ := schRunWork_spec hn hcmd
    refine ⟨_, _, waitingRun x s1, hexec, hrun, hcmd', rfl, by rw [himg], rfl, rfl, rfl, rfl, rfl, rfl, rfl, rfl, rfl, rfl, rfl, ?_, hmem,
      hsup.trans (hwork.sup.trans (miscorrect_sup ..)), htime.trans (hwork.time.trans (miscorrect_time ..))⟩
    rw [himg]
    exact (look_put ..).trans (if_pos rfl)

end Sys2Proof.Machine
end

section
/-!
PROOFS. Collectives (R410, R411): how one begins, and how a COL.SEND ends at its acknowledgement.
-/
namespace Sys2Proof.Machine
open Host

/-! ### A collective is registered -/

/-- The collective `x.c` has begun: its command is at work, it is registered with the next number of its key, and nothing but the
domain's collectives and counts and the queues has changed. -/
structure CollBegun (x : Ctx) (key : Nat × Nat × Nat) (s t : State) : Prop where
  cmd : ∃ k, cmdOf t x.c = some k ∧ k.ph = .running 0 ∧ k.par = x.cmd.par
  coll : ∃ y, collOf t x.c = some y ∧ y.k = collCount s key ∧ y.e = x.e
  count : collCount t key = collCount s key + 1
  out : t.dom.out = s.dom.out
  index : t.dom.index = s.dom.index
  inbox : t.dom.inbox = s.dom.inbox
  mem : t.mem = s.mem
  sup : t.sup = s.sup
  time : t.time = s.time

/-- A waiting command without a registered collective has none at all. -/
theorem no_coll_of_waiting {s : State} {c : CmdRef} {k : Cmd} (hk : cmdOf s c = some k) (hph : k.ph = .waiting)
    (hnone : collOf s c = none) : ∀ y ∈ s.dom.cols, y.c ≠ c := fun y hy hc => by
  have hlive : live s y = true := by simp [live, hc, hk, hph]
  have := List.find?_eq_none.1 hnone y hy
  simp [hc, hlive] at this

theorem beginColl_begun {x : Ctx} {kind peer channel : Nat} {s : State} (hk : cmdOf s x.c = some x.cmd)
    (hcols : ∀ y ∈ s.dom.cols, y.c ≠ x.c) : CollBegun x (kind, peer, channel) s (beginColl x kind peer channel s).1 := by
  unfold beginColl
  extract_lets n y s1
  set u : State := { s1 with dom := { s1.dom with cols := s1.dom.cols ++ [y] } } with hu
  have hcmd : cmdOf (modCmd x.c (fun k => { k with ph := .running 0 }) u) x.c = some { x.cmd with ph := .running 0 } := by
    refine (cmdOf_modCmd x.c (fun k => { k with ph := .running 0 }) (fun _ => rfl) u).trans ?_
    rw [hu, cmdOf_withDom, show cmdOf s1 x.c = some x.cmd from (cmdOf_withDom ..).trans hk]
    rfl
  have hdom : (modCmd x.c (fun k => { k with ph := .running 0 }) u).dom = u.dom := setQ_dom ..
  refine ⟨⟨_, hcmd, rfl, rfl⟩, ⟨y, ?_, rfl, rfl⟩, ?_, ?_, ?_, ?_, ?_, ?_, ?_⟩
  · have hlive : live (modCmd x.c (fun k => { k with ph := .running 0 }) u) y = true := by
      simp [live, show y.c = x.c from rfl, hcmd]
    have hrest : ∀ z ∈ s.dom.cols, ¬ (decide (z.c = x.c) &&
        live (modCmd x.c (fun k => { k with ph := .running 0 }) u) z) = true := fun z hz => by simp [hcols z hz]
    rw [collOf, hdom]
    show (s.dom.cols ++ [y]).find? _ = some y
    rw [List.find?_append, List.find?_eq_none.2 hrest, List.find?_singleton, hlive]
    simp [show y.c = x.c from rfl]
  · rw [collCount, hdom]
    exact collCount_bumpCount _ s
  · rw [hdom]; rfl
  · rw [hdom]; rfl
  · rw [hdom]; rfl
  · exact modCmd_mem ..
  · exact modCmd_sup ..
  · exact modCmd_time ..

/-- A command that starts has waited. -/
theorem startOf_waiting {op : Nat} {f : Family} {c : CmdRef} {e : Circ} {s s1 : State} {x : Ctx}
    (h : startOf op f c e s = some (x, s1)) : ∃ k, cmdOf s c = some k ∧ k.ph = .waiting := by
  unfold startOf at h
  dsimp only at h
  split at h
  · cases h
  · rename_i k hk
    split at h
    · rename_i hc
      simp only [Bool.and_eq_true, beq_iff_eq] at hc
      obtain ⟨⟨⟨⟨-, hph⟩, -⟩, -⟩, -⟩ := hc
      exact ⟨k, hk, hph⟩
    · cases h

section
variable {op : Nat} {f : Family} {c : CmdRef} {e : Circ} {s s1 : State} {x : Ctx} (h : startOf op f c e s = some (x, s1))
  (hcore : ∀ v, f.core v = false) (hdraws : ∀ v, f.draws v = false) (hstep : ∀ v, f.step v = none)
include h hcore hdraws hstep

/-- What the start of a collective that is not in progress finds. -/
theorem startOf_coll (hnone : collOf s c = none) :
    x.c = c ∧ x.e = circOf op c e s ∧ s1.dom = s.dom ∧ (∀ y ∈ s1.dom.cols, y.c ≠ x.c) ∧ inProgress x s1 = false ∧
      cmdOf s1 x.c = some x.cmd ∧ x.cmd.par = x.par := by
  obtain ⟨rfl, he, -⟩ := startOf_ctx h
  obtain ⟨hcmd, hpar⟩ := startOf_cmd h
  have hdom : s1.dom = s.dom := (startOf_sameImage h hcore hdraws hstep).dom
  obtain ⟨k, hk, hph⟩ := startOf_waiting h
  have hcols : ∀ y ∈ s1.dom.cols, y.c ≠ x.c := by
    rw [hdom]
    exact no_coll_of_waiting hk hph hnone
  refine ⟨rfl, he, hdom, hcols, ?_, hcmd, hpar⟩
  have hfind : collOf s1 x.c = none := List.find?_eq_none.2 fun y hy => by simp [hcols y hy]
  rw [inProgress, hfind]
  rfl

/-- Without errors in its circumstances, a start leaves memory to the work. -/
theorem startOf_clean (hop : op ∉ rowOps) (he : e.errs = []) : StartWork s s1 := by
  obtain ⟨hwork, -⟩ := startOf_runs h hcore hdraws hstep
  rwa [circOf, if_neg hop, miscorrect_clean _ s he] at hwork

end

/-! ### Lines of a COL.SEND, the vector of a COL.REDUCE -/

/-- A message leaves. -/
theorem CollBegun.sendDom {x : Ctx} {key : Nat × Nat × Nat} {s t : State} (h : CollBegun x key s t) (m : DomMsg) :
    (Machine.sendDom m t).dom.out = m :: s.dom.out ∧
      (∃ k, cmdOf (Machine.sendDom m t) x.c = some k ∧ k.ph = .running 0 ∧ k.par = x.cmd.par) ∧
      (∃ y, collOf (Machine.sendDom m t) x.c = some y ∧ y.k = collCount s key ∧ y.e = x.e) ∧
      collCount (Machine.sendDom m t) key = collCount s key + 1 := by
  refine ⟨congrArg (m :: ·) h.out, ?_, ?_, h.count⟩
  · rw [Machine.sendDom, cmdOf_withDom]
    exact h.cmd
  · have hcoll : collOf (Machine.sendDom m t) x.c = collOf t x.c := by
      simp only [collOf, live, Machine.sendDom, cmdOf_withDom]
    rw [hcoll]
    exact h.coll

/-- Where every line can be read, the lines leave in one message. -/
theorem sendWork_eq {x : Ctx} {s : State} {p : Xfer} (hp : Xfer.parse x.par = p) (hidle : inProgress x s = false)
    (hroute : hasRoute s p.peer = true) (hpeer : p.peer ≠ s.dom.index) (hh : healthy s x.e) (hspan : spanMem p.addr p.len = true)
    (hlen : p.len % 64 = 0) (hbegun : CollBegun x (0, p.peer, p.channel) s (beginColl x 0 p.peer p.channel s).1) :
    sendWork x s = sendDom (.data x.c p.peer p.channel (collCount s (0, p.peer, p.channel)) p.len 0 (readBytes s none p.addr p.len))
      (beginColl x 0 p.peer p.channel s).1 := by
  have hgood : (List.range (p.len / 64)).findSome?
      (fun i => (readFault s none x.e (p.addr + 64 * i) 64).map fun f => (i, f.1)) = none := by
    refine List.findSome?_eq_none_iff.2 fun i hi => ?_
    have hlt := List.mem_range.1 hi
    rw [readFault_healthy hh (spanMem_of_spanMem hspan (by omega) (by omega) (by decide))]
    rfl
  have hregs : (beginColl x 0 p.peer p.channel s).1.regs = s.regs := by
    unfold beginColl
    exact modCmd_regs ..
  have hclean : ∀ l, noteReads none x.e l (beginColl x 0 p.peer p.channel s).1 = (beginColl x 0 p.peer p.channel s).1 :=
    noteReads_healthy (by rw [healthy, hbegun.mem, hregs]; exact hh) none
  have hwhole : 64 * (p.len / 64) = p.len := by omega
  unfold sendWork
  dsimp only
  rw [hidle, hp, hgood, hroute]
  simp only [Bool.false_eq_true, if_false, Bool.not_true, Option.map_none, Option.getD_none, hclean, hwhole]
  rw [if_neg (hbegun.index ▸ hpeer)]
  rfl

theorem takeInbox_empty {s : State} (h : s.dom.inbox = []) (f : ColMsg → Bool) : takeInbox f s = s := by
  rw [takeInbox, h]
  show { s with dom := { s.dom with inbox := [] } } = s
  rw [← h]

/-- A reduction that has heard one rank of several waits. -/
theorem tryReduce_one {s : State} {c : CmdRef} {y : Coll} {r : Nat} {xs : List Word} (hcoll : collOf s c = some y)
    (hranks : y.ranks = [(r, Reduce.common (parOf s c), xs)]) (hn : 2 ≤ (Reduce.parse (parOf s c)).n) : tryReduce c s = s := by
  have hcount : ((List.range (Reduce.parse (parOf s c)).n).filterMap fun i =>
      (y.ranks.find? fun z => decide (z.1 = i)).map (·.2.2)).length ≤ 1 := by
    rw [List.length_filterMap_eq_countP, hranks]
    refine le_trans (le_of_eq ?_) (List.nodup_iff_count_le_one.1 (List.nodup_range (n := (Reduce.parse (parOf s c)).n)) r)
    refine List.countP_congr fun i _ => ?_
    by_cases hi : r = i
    · simp [hi]
    · simp [hi, Ne.symm hi]
  have hfew : ((List.range (Reduce.parse (parOf s c)).n).filterMap fun i =>
      (y.ranks.find? fun z => decide (z.1 = i)).map (·.2.2)).length ≠ (Reduce.parse (parOf s c)).n := by omega
  have hagree : (y.ranks.any fun z => decide (z.2.1 ≠ Reduce.common (parOf s c))) = false := by simp [hranks]
  unfold tryReduce
  rw [hcoll]
  dsimp only
  rw [hagree, if_neg Bool.false_ne_true, if_pos hfew]

/-- The vector that this part has of a reduction. -/
def Coll.heard (r : Nat × Nat × List Word) (y : Coll) : Coll := { y with ranks := [r] }

theorem cmdOf_modColl (c : CmdRef) (f : Coll → Coll) (s : State) (d : CmdRef) : cmdOf (modColl c f s) d = cmdOf s d :=
  cmdOf_withDom ..

theorem modColl_mem (c : CmdRef) (f : Coll → Coll) (s : State) : (modColl c f s).mem = s.mem := rfl
theorem modColl_sup (c : CmdRef) (f : Coll → Coll) (s : State) : (modColl c f s).sup = s.sup := rfl
theorem modColl_time (c : CmdRef) (f : Coll → Coll) (s : State) : (modColl c f s).time = s.time := rfl

/-- A vector that can be read leaves in one message, and the reduction waits for the other ranks. -/
theorem reduceWork_eq {x : Ctx} {s : State} {p : Reduce} (hp : Reduce.parse x.par = p) (hpar : x.cmd.par = x.par)
    (hidle : inProgress x s = false) (hn : 2 ≤ p.n) (hroute : ∀ i, i < p.n → hasRoute s (p.lo + i) = true) (hh : healthy s x.e)
    (hspan : spanMem p.src (4 * p.count) = true) (hinbox : s.dom.inbox = [])
    (hbegun : CollBegun x (2, 0, p.channel) s (beginColl x 2 0 p.channel s).1) :
    reduceWork x s = modColl x.c (Coll.heard (s.dom.index - p.lo, Reduce.common x.par, readWords s p.src p.count))
      (sendDom (.vec (s.dom.index - p.lo) p.channel (collCount s (2, 0, p.channel)) (Reduce.common x.par)
        (readWords s p.src p.count)) (beginColl x 2 0 p.channel s).1) := by
  have hroutes : (((List.range p.n).filter fun i => p.lo + i != s.dom.index).any fun i => !hasRoute s (p.lo + i)) = false :=
    List.any_eq_false.2 fun i hi => by simp [hroute i (List.mem_range.1 (List.mem_filter.1 hi).1)]
  have hothers : ((List.range p.n).filter fun i => p.lo + i != s.dom.index).isEmpty = false := by
    have hone : (p.lo + 0 != s.dom.index) = true ∨ (p.lo + 1 != s.dom.index) = true := by simp only [bne_iff_ne]; omega
    refine List.isEmpty_eq_false_iff_exists_mem.2 ?_
    rcases hone with h | h
    · exact ⟨0, List.mem_filter.2 ⟨List.mem_range.2 (by omega), h⟩⟩
    · exact ⟨1, List.mem_filter.2 ⟨List.mem_range.2 (by omega), h⟩⟩
  have hregs : (beginColl x 2 0 p.channel s).1.regs = s.regs := by
    unfold beginColl
    exact modCmd_regs ..
  have hclean : ∀ l, noteReads none x.e l (beginColl x 2 0 p.channel s).1 = (beginColl x 2 0 p.channel s).1 :=
    noteReads_healthy (by rw [healthy, hbegun.mem, hregs]; exact hh) none
  set m : DomMsg := .vec (s.dom.index - p.lo) p.channel (collCount s (2, 0, p.channel)) (Reduce.common x.par)
    (readWords s p.src p.count) with hm
  obtain ⟨-, ⟨k, hk, -, hkpar⟩, ⟨y, hy, -⟩, -⟩ := hbegun.sendDom m
  set t := modColl x.c (Coll.heard (s.dom.index - p.lo, Reduce.common x.par, readWords s p.src p.count))
    (sendDom m (beginColl x 2 0 p.channel s).1) with ht
  have hpart : parOf t x.c = x.par := (parOf_of_cmdOf ((cmdOf_modColl ..).trans hk)).trans (hkpar.trans hpar)
  have htcoll : collOf t x.c = some (Coll.heard (s.dom.index - p.lo, Reduce.common x.par, readWords s p.src p.count) y) :=
    (collOf_modColl _ (Coll.heard _) (fun _ => rfl) _).trans (congrArg _ hy)
  have hwaits : tryReduce x.c t = t := by
    refine tryReduce_one (r := s.dom.index - p.lo) (xs := readWords s p.src p.count) htcoll ?_ ?_
    · rw [hpart]
      rfl
    · rw [hpart, hp]
      exact hn
  have htin : t.dom.inbox = [] := hbegun.inbox.trans hinbox
  unfold reduceWork
  dsimp only
  rw [hidle, hp, hroutes, readFault_healthy hh hspan]
  simp only [Bool.false_eq_true, if_false, hothers, hclean]
  exact (congrArg _ hwaits).trans (takeInbox_empty htin _)

/-! ### The obligation -/

theorem StartWork.readBytes {s t : State} (h : StartWork s t) (o : Owner) (a n : Nat) : readBytes t o a n = readBytes s o a n := by
  obtain ⟨_, _, _, _, _, _, _, _, rfl⟩ := h
  rfl

theorem StartWork.readWords {s t : State} (h : StartWork s t) (a n : Nat) : readWords t a n = readWords s a n := by
  obtain ⟨_, _, _, _, _, _, _, _, rfl⟩ := h
  rfl

theorem collCount_of_dom {s t : State} (h : t.dom = s.dom) (key : Nat × Nat × Nat) : collCount t key = collCount s key := by
  rw [collCount, h]
  rfl

theorem hasRoute_of_dom {s t : State} (h : t.dom = s.dom) (p : Nat) : hasRoute t p = hasRoute s p := by
  rw [hasRoute, h]
  rfl

/-- Settles O19: a send, a receive and a reduction that begin, and a send whose last line is acknowledged. -/
theorem collectivesBegin : Obligations.CollectivesBegin := by
  unfold Obligations.CollectivesBegin
  refine ⟨fun c e s s1 x h => ?send, fun c e s s1 x h => ?recv, fun c e s s1 x h => ?reduce,
    fun s y peer channel lines hdom hon hfind ⟨k, hk, _⟩ => ?ack⟩
  case send =>
    intro p n hnone hpeer hroute hh hspan _ hlen
    obtain ⟨rfl, hxe, hdom, hcols, hidle, hcmd, -⟩ := startOf_coll h (fun _ => rfl) (fun _ => rfl) (fun _ => rfl) hnone
    obtain rfl : x.e = e := hxe
    have ⟨_, _, _, herrs, _⟩ := hh
    have hwork := startOf_clean h (fun _ => rfl) (fun _ => rfl) (fun _ => rfl) (by decide) herrs
    have hbegun := beginColl_begun (kind := 0) (peer := p.peer) (channel := p.channel) hcmd hcols
    obtain ⟨hout, ⟨k, hk, hph, -⟩, ⟨y, hy, hyk, -⟩, hcount⟩ := hbegun.sendDom (.data x.c p.peer p.channel
      (collCount s1 (0, p.peer, p.channel)) p.len 0 (readBytes s1 none p.addr p.len))
    have hexec := (runCmd_start h).trans (sendWork_eq rfl hidle (by rw [hasRoute_of_dom hdom]; exact hroute)
      (by rw [hdom]; exact hpeer) hh hspan hlen hbegun)
    refine ⟨_, k, y, congrArg Outcome.next hexec, hk, hph, hy, hyk.trans (collCount_of_dom hdom _), ?_,
      hcount.trans (congrArg (· + 1) (collCount_of_dom hdom _)), hbegun.mem.trans hwork.mem, hbegun.sup.trans hwork.sup,
      hbegun.time.trans hwork.time⟩
    rw [hout, collCount_of_dom hdom, hwork.readBytes, hdom]
  case recv =>
    intro p n hnone hroute hinbox
    obtain ⟨rfl, -, hdom, hcols, hidle, hcmd, -⟩ := startOf_coll h (fun _ => rfl) (fun _ => rfl) (fun _ => rfl) hnone
    obtain ⟨hwork, -⟩ := startOf_runs h (fun _ => rfl) (fun _ => rfl) fun _ => rfl
    have hbegun := beginColl_begun (kind := 1) (peer := p.peer) (channel := p.channel) hcmd hcols
    obtain ⟨k, hk, hph, -⟩ := hbegun.cmd
    obtain ⟨y, hy, hyk, -⟩ := hbegun.coll
    have hrecv : recvWork x s1 = (beginColl x 1 p.peer p.channel s1).1 := by
      unfold recvWork
      dsimp only
      rw [hidle, if_neg Bool.false_ne_true, hasRoute_of_dom hdom, show hasRoute s (Xfer.parse x.par).peer = true from hroute]
      exact takeInbox_empty (hbegun.inbox.trans (by rw [hdom]; exact hinbox)) _
    refine ⟨_, k, y, congrArg Outcome.next ((runCmd_start h).trans hrecv), hk, hph, hy, hyk.trans (collCount_of_dom hdom _), ?_,
      hbegun.count.trans (congrArg (· + 1) (collCount_of_dom hdom _)), hbegun.mem,
      hbegun.sup.trans (hwork.sup.trans (miscorrect_sup ..)), hbegun.time.trans (hwork.time.trans (miscorrect_time ..))⟩
    rw [hbegun.out, hdom]
  case reduce =>
    intro p n hnone hn hroute hh hspan hinbox
    obtain ⟨rfl, hxe, hdom, hcols, hidle, hcmd, hpar⟩ := startOf_coll h (fun _ => rfl) (fun _ => rfl) (fun _ => rfl) hnone
    obtain rfl : x.e = e := hxe
    have ⟨_, _, _, herrs, _⟩ := hh
    have hwork := startOf_clean h (fun _ => rfl) (fun _ => rfl) (fun _ => rfl) (by decide) herrs
    have hbegun := beginColl_begun (kind := 2) (peer := 0) (channel := p.channel) hcmd hcols
    obtain ⟨hout, ⟨k, hk, hph, -⟩, ⟨y, hy, hyk, -⟩, hcount⟩ := hbegun.sendDom (.vec (s1.dom.index - p.lo) p.channel
      (collCount s1 (2, 0, p.channel)) (Reduce.common x.par) (readWords s1 p.src p.count))
    have hexec := (runCmd_start h).trans (reduceWork_eq rfl hpar hidle hn
      (fun i hi => by rw [hasRoute_of_dom hdom]; exact hroute i hi) hh hspan (by rw [hdom]; exact hinbox) hbegun)
    refine ⟨_, k, _, congrArg Outcome.next hexec, (cmdOf_modColl ..).trans hk, hph,
      (collOf_modColl _ (Coll.heard _) (fun _ => rfl) _).trans (congrArg _ hy), hyk.trans (collCount_of_dom hdom _), ?_,
      hcount.trans (congrArg (· + 1) (collCount_of_dom hdom _)), ?_, ?_, ?_⟩
    · refine hout.trans ?_
      rw [collCount_of_dom hdom, hwork.readWords, hdom]
    · rw [modColl_mem]
      exact hbegun.mem.trans hwork.mem
    · rw [modColl_sup]
      exact hbegun.sup.trans hwork.sup
    · rw [modColl_time]
      exact hbegun.time.trans hwork.time
  case ack =>
    intro p hlines
    have hexec : exec (.collectiveDataArrival (.ack peer channel y.k p.len lines)) s =
        .next (endColl y.c { reply := some (p.len / 64) } s) := by
      rw [exec_collectiveDataArrival hdom hon]
      refine congrArg Outcome.next ?_
      show deliverAck .. = _
      unfold deliverAck
      rw [hfind]
      exact (if_neg (not_not.2 rfl)).trans (if_pos hlines)
    have hwork := endColl_completionWork y.c { reply := some (p.len / 64) } s
    exact ⟨_, hexec, endColl_done hk rfl, collOf_endColl .., hwork.dev, hwork.ob⟩

end Sys2Proof.Machine
end

section
/-!
PROOFS. CTX.SAVE and CTX.RESTORE (R415 to R417): where a Chrysalis is written, and what comes back from one.
-/
namespace Sys2Proof.Machine
open Host

/-! ### Canonical memories that read alike are the same -/

theorem memGet_cons {z : Byte} {k : Nat} {b : Byte} {r : Mem} (h : Memory.wfOf z ((k, b) :: r) = true) (a : Nat) :
    memGet z ((k, b) :: r) a = if a = k then b else memGet z r a := by
  obtain ⟨-, habove, -⟩ := wfOf_cons.1 h
  rw [memGet]
  split
  · rfl
  split
  · exact (memGet_below fun x hx => by have := habove x hx; omega).symm
  · rfl

theorem eq_of_memGet {z : Byte} {m n : Mem} (hm : Memory.wfOf z m = true) (hn : Memory.wfOf z n = true)
    (h : ∀ a, memGet z m a = memGet z n a) : m = n := by
  induction m generalizing n with
  | nil =>
    cases n with
    | nil => rfl
    | cons y r =>
      obtain ⟨k, b⟩ := y
      have hk := h k
      rw [memGet_cons hn, if_pos rfl] at hk
      exact absurd hk.symm (wfOf_cons.1 hn).1
  | cons x l ih =>
    obtain ⟨k, b⟩ := x
    obtain ⟨hb, habove, hl⟩ := wfOf_cons.1 hm
    cases n with
    | nil =>
      have hk := h k
      rw [memGet_cons hm, if_pos rfl] at hk
      exact absurd hk hb
    | cons y r =>
      obtain ⟨j, c⟩ := y
      obtain ⟨hc, habove', hr⟩ := wfOf_cons.1 hn
      have hkj : k = j := by
        rcases Nat.lt_trichotomy k j with hlt | heq | hlt
        · have hk := h k
          rw [memGet_cons hm, if_pos rfl, memGet_cons hn, if_neg (by omega),
            memGet_below fun y hy => by have := habove' y hy; omega] at hk
          exact absurd hk hb
        · exact heq
        · have hj := h j
          rw [memGet_cons hn, if_pos rfl, memGet_cons hm, if_neg (by omega),
            memGet_below fun y hy => by have := habove y hy; omega] at hj
          exact absurd hj.symm hc
      subst hkj
      have hbc : b = c := by
        have hk := h k
        rwa [memGet_cons hm, if_pos rfl, memGet_cons hn, if_pos rfl] at hk
      rw [hbc, ih hl hr fun a => ?_]
      by_cases ha : a = k
      · rw [ha, memGet_below habove, memGet_below habove']
      · have hrest := h a
        rwa [memGet_cons hm, if_neg ha, memGet_cons hn, if_neg ha] at hrest

/-- Work that writes no operand buffer leaves them as they were. -/
theorem WritesIn.ob {o : Owner} {D : Set Nat} {s t : State} (h : WritesIn o D ∅ s t) (hm : s.memOk) (hc : cocoonOf s o = none) :
    t.mem.ob = s.mem.ob := by
  obtain ⟨ht, -, -, hob⟩ := h.frame hm hc
  exact eq_of_memGet (memOk_iff.1 ht).2.2 (memOk_iff.1 hm).2.2 fun a => hob a (Set.notMem_empty a)

/-! ### The layout of a Chrysalis (R415) -/

theorem le_chryHead (n : Nat) : 128 + 16 * n ≤ chryHead n := by
  unfold chryHead roundUp cdiv
  omega

theorem chryHead_mod (n : Nat) : chryHead n % 64 = 0 := by
  unfold chryHead roundUp
  omega

theorem Chry.head_length (k : Chry) : k.head.length = chryHead k.regions.length := by
  have hentry : ∀ r : Nat × Nat, (regionEntry r).length = 16 := fun r => leBytes_length ..
  have hentries : (k.regions.flatMap regionEntry).length = 16 * k.regions.length := by
    simp [List.length_flatMap, hentry, Nat.mul_comm]
  have hle := le_chryHead k.regions.length
  unfold Chry.head
  simp only [List.length_append, leBytes_length, hentries, List.length_replicate]
  omega

/-- The addresses of the lines of regions, in order. -/
def regionLines (l : List (Nat × Nat)) : List Nat := l.flatMap fun r => (List.range (64 * r.2)).map fun i => r.1 + 64 * i

theorem regionLines_length (l : List (Nat × Nat)) : (regionLines l).length = 64 * (l.map (·.2)).sum := by
  induction l with
  | nil => rfl
  | cons r l ih =>
    rw [regionLines, List.flatMap_cons, List.length_append, show (l.flatMap _).length = _ from ih]
    simp [Nat.mul_add]

/-- A line of the Chrysalis lies behind its head and within it; its source is a line of a region. -/
theorem mem_chryLines {l : List (Nat × Nat)} {y : Nat × Nat} (h : y ∈ chryLines l) :
    chryHead l.length ≤ y.2 ∧ y.2 + 64 ≤ chryLen l ∧ y.2 % 64 = 0 ∧ ∃ r ∈ l, ∃ i < 64 * r.2, y.1 = r.1 + 64 * i := by
  obtain ⟨x, hx, rfl⟩ := List.mem_map.1 h
  have hmem : x.1 ∈ regionLines l := List.fst_mem_of_mem_zipIdx hx
  have hlt : x.2 < 64 * (l.map (·.2)).sum := by
    have := List.snd_lt_of_mem_zipIdx hx
    rwa [show (l.flatMap fun r => (List.range (64 * r.2)).map fun i => r.1 + 64 * i).length = _ from regionLines_length l,
      Nat.add_zero] at this
  have hhead := chryHead_mod l.length
  obtain ⟨r, hr, hi⟩ := List.mem_flatMap.1 hmem
  obtain ⟨i, hi, haddr⟩ := List.mem_map.1 hi
  refine ⟨by omega, ?_, by omega, r, hr, i, List.mem_range.1 hi, haddr.symm⟩
  unfold chryLen
  omega

/-! ### CTX.SAVE (R416) -/

/-- A save writes within its destination. -/
theorem saveTo_writesIn (o : Owner) (e : Circ) {dst len : Nat} {k : Chry} (hlen : chryLen k.regions ≤ len) (s : State) :
    WritesIn o {a | dst ≤ a ∧ a < dst + len} ∅ s (saveTo o e dst k s).1 := by
  have hhead : chryHead k.regions.length ≤ chryLen k.regions := Nat.le_add_right ..
  have hmin := le_chryHead k.regions.length
  have hcrc : ∀ v s, WritesIn o {a | dst ≤ a ∧ a < dst + len} ∅ s (putDev o e (dst + 44) (leBytes 4 v) s).1 := fun v s =>
    putSpan_writesIn e (pieces_subset fun i hi => by
      rw [leBytes_length] at hi
      exact ⟨by omega, by omega⟩) s
  unfold saveTo
  extract_lets lines ps
  have hrun : WritesIn o {a | dst ≤ a ∧ a < dst + len} ∅ s (runPieces true o e 0 ps s).1 := by
    refine runPieces_writesIn true e (fun p hp w hw => ?_) s
    rcases List.mem_cons.1 hp with rfl | hp
    · obtain rfl := List.mem_singleton.1 hw
      intro i hi
      rw [Chry.head_length] at hi
      exact ⟨by omega, by omega⟩
    · obtain ⟨x, hx, rfl⟩ := List.mem_map.1 hp
      obtain rfl := List.mem_singleton.1 hw
      obtain ⟨-, hend, -⟩ := mem_chryLines hx
      intro i hi
      rw [readBytes_length] at hi
      exact ⟨by omega, by omega⟩
  split
  · rename_i s1 f h
    rwa [h] at hrun
  · rename_i s1 h
    rw [h] at hrun
    have hput := hcrc (crc32 (k.head ++ lines.flatMap fun x => readBytes s o x.1 64)) s1
    split
    · rename_i s2 h2
      rw [h2] at hput
      exact hrun.trans hput
    · rename_i s2 f h2
      rw [h2] at hput
      exact hrun.trans hput

theorem SameImage.seqs {s t : State} (h : SameImage s t) : t.img.seqs = s.img.seqs := by
  obtain ⟨q, hq⟩ := h.img
  rw [hq]

theorem complete_seqs (c : CmdRef) (o : Out) (s : State) : (complete c o s).img.seqs = s.img.seqs := by
  have h : (restImg (complete c o s)).seqs = (restImg s).seqs := by rw [complete_restImg]
  exact h

theorem chryNow_lineWork {s t : State} (h : LineWork s t) (job nl : Nat) (l : List (Nat × Nat)) :
    chryNow t job nl l = chryNow s job nl l := by
  obtain ⟨_, _, _, _, _, _, _, rfl⟩ := h
  rfl

/-- The state in which a save has read its region list. -/
def listRead (x : Ctx) (s : State) : State :=
  let p := Save.parse x.par
  if p.n = 0 then s else noteReads x.o x.e [(p.rgn, 16 * p.n)] s

theorem listRead_lineWork (x : Ctx) (s : State) : LineWork s (listRead x s) := by
  unfold listRead
  dsimp only
  split
  · exact lineWork_refl s
  · exact noteReads_lineWork ..

theorem listRead_writesIn {D B : Set Nat} (x : Ctx) (s : State) : WritesIn x.o D B s (listRead x s) := by
  unfold listRead
  dsimp only
  split
  · exact .refl s
  · exact noteReads_writesIn ..

theorem touches_listRead (x : Ctx) (s : State) (l : List (Nat × Nat)) :
    touchesTable (listRead x s) l = touchesTable s l ∧ touchesPool (listRead x s) l = touchesPool s l := by
  unfold listRead
  dsimp only
  split
  · exact ⟨rfl, rfl⟩
  · exact ⟨touchesTable_noteReads .., touchesPool_noteReads ..⟩

/-- Regions that fit the destination and do not meet it are saved, and the save is counted. -/
theorem saveWork_eq {x : Ctx} {s s2 : State} {p : Save} {l : List (Nat × Nat)} (hp : Save.parse x.par = p)
    (hregions : p.regions x s = some l) (hread : p.n ≠ 0 → readFault s x.o x.e p.rgn (16 * p.n) = none)
    (hfits : chryLen l ≤ 4096 * p.len4k) (hmeets : ∀ r ∈ l, overlap p.dst (4096 * p.len4k) r.1 (4096 * r.2) = false)
    (htable : touchesTable s (regionSpans l) = false) (hpool : touchesPool s (regionSpans l) = false)
    (hsave : saveTo x.o x.e p.dst (chryNow s x.job x.nl l) (listRead x s) = (s2, 0)) :
    saveWork x s = complete x.c { reply := some (chryLen l / 4096 + (chryNow s x.job x.nl l).seq <<< 32) } (countSave x.job s2) := by
  have hnone : (if p.n = 0 then none else readFault s x.o x.e p.rgn (16 * p.n)) = none := by
    split
    · rfl
    · rename_i hn
      exact hread hn
  have hlist : (if p.n = 0 then s else noteReads x.o x.e [(p.rgn, 16 * p.n)] s) = listRead x s := by rw [listRead, hp]
  obtain ⟨htable', hpool'⟩ := touches_listRead x s (regionSpans l)
  have hany : (l.any fun r => overlap p.dst (4096 * p.len4k) r.1 (4096 * r.2)) = false :=
    List.any_eq_false.2 fun r hr => by simp [hmeets r hr]
  have hok : ¬ (4096 * p.len4k < chryLen l ∨ (l.any fun r => overlap p.dst (4096 * p.len4k) r.1 (4096 * r.2)) = true ∨
      touchesTable (listRead x s) (regionSpans l) = true) := by
    rw [hany, htable', htable]
    simpa using hfits
  unfold saveWork
  dsimp only
  rw [hp, hnone]
  dsimp only
  rw [hregions, hlist]
  dsimp only
  rw [if_neg hok, hpool', hpool, if_neg Bool.false_ne_true, chryNow_lineWork (listRead_lineWork x s), hsave]
  rfl

/-! ### Reads of a Chrysalis (R417) -/

/-- A read that fails names a status other than ST_OK. -/
theorem readFault_status_ne {s : State} {o : Owner} {e : Circ} {a n : Nat} {f : Nat × Nat} (h : readFault s o e a n = some f) :
    f.1 ≠ 0 := by
  obtain ⟨l, -, hl⟩ := List.exists_of_findSome?_eq_some h
  dsimp only at hl
  split at hl
  · cases hl
  · rename_i hst
    obtain rfl := Option.some.inj hl
    exact hst

section
variable {p : Restore} {x : Ctx} {s : State}

/-- Of a Chrysalis in this part's memory, what can be read. -/
theorem Restore.readFault_near (hfar : p.far s = false) {off n : Nat} (h : p.fault x s off n = 0) :
    readFault s x.o x.e (p.src + off) n = none := by
  rw [Restore.fault, hfar, if_neg Bool.false_ne_true] at h
  cases hf : readFault s x.o x.e (p.src + off) n with
  | none => rfl
  | some f =>
    rw [hf] at h
    exact absurd h (readFault_status_ne hf)

/-- Of a Chrysalis in another part's memory, what has come. -/
theorem Restore.remote_length (hfar : p.far s = true) {off n : Nat} (h : p.fault x s off n = 0) : off + n ≤ x.e.remote.length := by
  rw [Restore.fault, hfar, if_pos rfl] at h
  split at h
  · cases h
  · omega

/-- What lies within bytes that can be read can be read. -/
theorem Restore.fault_within {len off n : Nat} (h : p.fault x s 0 len = 0) (hin : off + n ≤ len) : p.fault x s off n = 0 := by
  cases hfar : p.far s with
  | false =>
    have hwhole := readFault_near hfar h
    rw [Restore.fault, hfar, if_neg Bool.false_ne_true, readFault_within hwhole (by omega) (by omega)]
    rfl
  | true =>
    have hlen := remote_length hfar h
    rw [Restore.fault, hfar, if_pos rfl, if_neg (by omega)]

theorem Restore.bytes_length {len : Nat} (h : p.fault x s 0 len = 0) : (p.bytes x s 0 len).length = len := by
  cases hfar : p.far s with
  | false => rw [Restore.bytes, hfar, if_neg Bool.false_ne_true, readBytes_length]
  | true =>
    have hlen := remote_length hfar h
    rw [Restore.bytes, hfar, if_pos rfl, List.length_take, List.length_drop]
    omega

theorem Restore.note_healthy (hh : healthy s x.e) (off n : Nat) : p.note x off n s = s := by
  rw [Restore.note, noteReads_healthy hh, ite_self]

end

/-! ### Work by pieces whose reads succeed -/

/-- A piece without its reads. -/
def Piece.unread (p : Piece) : Piece := { p with reads := [] }

theorem putPieces_unread (o : Owner) (e : Circ) (core stop : Nat) (l : List (Piece × Nat)) (s : State) :
    putPieces o e core stop (l.map (Prod.map Piece.unread id)) s = putPieces o e core stop l s := by
  induction l generalizing s with
  | nil => rfl
  | cons y r ih =>
    obtain ⟨p, i⟩ := y
    simp only [List.map_cons, Prod.map, id, putPieces, ih]
    rfl

/-- In healthy memory pieces that meet no fault leave their stores, wherever they read. -/
theorem runPieces_readable (mixed : Bool) {o : Owner} {e : Circ} (core : Nat) {ps : List Piece} {s : State} (hh : healthy s e)
    (hc : cocoonOf s o = none) (hfault : ∀ p ∈ ps, p.faultOf s o e = none) (hp : ∀ p ∈ ps, p.unread.Plain)
    (hnext : ∀ p ∈ ps, ∀ w ∈ p.writes, w.next = false) :
    runPieces mixed o e core ps s = (s.setDev (stored s.mem.dev (ps.flatMap Piece.stores)), none) := by
  have hnone : firstFault s o e ps = none := List.findSome?_eq_none_iff.2 fun y hy => by
    have hmem : y.1 ∈ ps := by simpa using List.fst_mem_of_mem_zipIdx hy
    simp [hfault y.1 hmem]
  have hnote : notePieces o e (if mixed = true then ps else ps.take (ps.length + 1)) s = s := by
    have hlate : ps.filter (·.arrived) = [] :=
      List.filter_eq_nil_iff.2 fun p hmem => by simp [show p.arrived = false from (hp p hmem).arrived]
    rw [List.take_of_length_le (Nat.le_succ _), ite_self, notePieces, hlate, noteReads_healthy hh]
    rfl
  have hput := putPieces_plain core 0 (ps := ps.map Piece.unread) hh hc (fun q hq => by
    obtain ⟨p, hmem, rfl⟩ := List.mem_map.1 hq
    exact hp p hmem) (fun q hq w hw => by
    obtain ⟨p, hmem, rfl⟩ := List.mem_map.1 (List.mem_of_getLast? hq)
    exact hnext p hmem w hw)
  rw [List.zipIdx_map, putPieces_unread, List.length_map, Nat.zero_add, List.flatMap_map] at hput
  simp only [runPieces, hnone, Option.map_none, Option.getD_none, hnote, hput]
  rfl

/-- Of stores that do not meet, in whatever order, each stands as it was written. -/
theorem memRead_stored_apart {ws : List (Nat × List Byte)} {m : Mem} (h : Memory.wfOf 0 m = true)
    (hp : ws.Pairwise fun v w => v.1 + v.2.length ≤ w.1 ∨ w.1 + w.2.length ≤ v.1) {w : Nat × List Byte} (hw : w ∈ ws) :
    memRead 0 (stored m ws) w.1 w.2.length = w.2 := by
  induction ws generalizing m with
  | nil => cases hw
  | cons v r ih =>
    obtain ⟨hv, hr⟩ := List.pairwise_cons.1 hp
    rw [stored_cons]
    rcases List.mem_cons.1 hw with rfl | hw
    · refine Eq.trans (List.map_congr_left fun i hi => ?_) (memRead_in (bs := w.2) (a := w.1) h)
      have hi' := List.mem_range.1 hi
      exact memGet_stored_outside (memWrite_wf _ _ h) fun y hy => by have := hv y hy; omega
    · exact ih (memWrite_wf _ _ h) hr hw

/-! ### CTX.RESTORE (R417) -/

theorem mem_of_mapM {α β : Type} {f : α → Option β} {l : List α} {r : List β} (h : l.mapM f = some r) :
    ∀ y ∈ r, ∃ x ∈ l, f x = some y := by
  induction l generalizing r with
  | nil =>
    obtain rfl : [] = r := by simpa using h
    intro y hy
    cases hy
  | cons a l ih =>
    rw [List.mapM_cons] at h
    obtain ⟨b, hb, h⟩ := Option.bind_eq_some_iff.1 h
    obtain ⟨t, ht, h⟩ := Option.bind_eq_some_iff.1 h
    obtain rfl := Option.some.inj h
    intro y hy
    rcases List.mem_cons.1 hy with rfl | hy
    · exact ⟨a, List.mem_cons_self, hb⟩
    · obtain ⟨z, hz, hzy⟩ := ih ht y hy
      exact ⟨z, List.mem_cons_of_mem _ hz, hzy⟩

/-- A region of a Chrysalis lies in device memory, at a granule's boundary. -/
theorem region_of_regionsOf {bs : List Byte} {n : Nat} {l : List (Nat × Nat)} (h : regionsOf bs n = some l) {r : Nat × Nat}
    (hr : r ∈ l) :
    r.1 % 4096 = 0 ∧ spanMem r.1 (4096 * r.2) = true := by
  obtain ⟨i, -, hi⟩ := mem_of_mapM h r hr
  unfold regionOf at hi
  dsimp only at hi
  split at hi
  · rename_i hok
    obtain rfl := Option.some.inj hi
    simp only [divides, Bool.and_eq_true, decide_eq_true_eq] at hok
    obtain ⟨⟨⟨hmod, -⟩, -⟩, hspan⟩ := hok
    exact ⟨hmod, hspan⟩
  · cases hi

/-- Its lines are lines of device memory. -/
theorem chryLines_span {bs : List Byte} {n : Nat} {l : List (Nat × Nat)} (h : regionsOf bs n = some l) {y : Nat × Nat}
    (hy : y ∈ chryLines l) : y.1 % 64 = 0 ∧ spanMem y.1 64 = true := by
  obtain ⟨-, -, -, r, hr, i, hi, haddr⟩ := mem_chryLines hy
  obtain ⟨hmod, hspan⟩ := region_of_regionsOf h hr
  exact ⟨by omega, spanMem_of_spanMem hspan (by omega) (by omega) (by decide)⟩

/-- The pieces by which a Chrysalis comes back, one for each line. -/
def restorePiece (p : Restore) (x : Ctx) (s : State) (data : List Byte) (y : Nat × Nat) : Piece :=
  { fault := let f := p.fault x s y.2 64
             if f = 0 then none else some (f, 0)
    reads := if p.far s then [] else [(p.src + y.2, 64)]
    writes := [{ d := .dev y.1, bytes := (data.drop y.2).take 64 }] }

/-- The stores that these pieces make. -/
def chryStores (data : List Byte) (l : List (Nat × Nat)) : List (Nat × List Byte) :=
  (chryLines l).map fun y => (y.1, (data.drop y.2).take 64)

theorem restorePieces_stores (p : Restore) (x : Ctx) (s : State) (data : List Byte) (l : List (Nat × Nat)) :
    ((chryLines l).map (restorePiece p x s data)).flatMap Piece.stores = chryStores data l := by
  rw [List.flatMap_map, chryStores, List.map_eq_flatMap]
  rfl

/-- The state in which a Chrysalis has come back: its stores, the bound Luna record of the job (R415) and the cause of a RECOVERY
run. -/
def restored (h : Nat) (l : List (Nat × Nat)) (x : Ctx) (data : List Byte) (s : State) : State :=
  let a := fld h 239 192
  { s.setDev (stored s.mem.dev (chryStores data l)) with
    luna := if a = 0 then s.luna.filter fun y => decide (y.1 ≠ x.job) else put x.job a s.luna
    sup := { s.sup with recoveryDue := true } }

section
variable {p : Restore} {x : Ctx} {s : State} {l : List (Nat × Nat)} {h : Nat} {bs : List Byte} {m : Nat}
  (hregions : regionsOf bs m = some l) (hread : p.fault x s 0 (chryLen l) = 0)

theorem chryLine_length (hread : p.fault x s 0 (chryLen l) = 0) {y : Nat × Nat} (hy : y ∈ chryLines l) :
    (((p.bytes x s 0 (chryLen l)).drop y.2).take 64).length = 64 := by
  obtain ⟨-, hend, -⟩ := mem_chryLines hy
  rw [List.length_take, List.length_drop, Restore.bytes_length hread]
  omega

include hregions hread

theorem restoreRegions_eq (hcrc : crc32 ((p.bytes x s 0 (chryLen l)).take 44 ++ List.replicate 4 0 ++
      (p.bytes x s 0 (chryLen l)).drop 48) = fld h 383 352) (hh : healthy s x.e) (hc : cocoonOf s x.o = none) :
    restoreRegions h l p x s = complete x.c { reply := some (fld h 127 96 + fld h 191 160 <<< 32) }
      (restoreClaims x.job l (restored h l x (p.bytes x s 0 (chryLen l)) s)) := by
  have hpieces := runPieces_readable true (o := x.o) 0
    (ps := (chryLines l).map (restorePiece p x s (p.bytes x s 0 (chryLen l)))) hh hc (fun q hq => ?fault) (fun q hq => ?plain)
    (fun q hq w hw => ?next)
  case fault =>
    obtain ⟨y, hy, rfl⟩ := List.mem_map.1 hq
    obtain ⟨-, hend, -⟩ := mem_chryLines hy
    have hline := Restore.fault_within hread hend
    obtain ⟨-, -, -, -, -, hparity, -⟩ := hh
    have hreads : (restorePiece p x s (p.bytes x s 0 (chryLen l)) y).reads.findSome? (fun z => readFault s x.o x.e z.1 z.2) = none := by
      cases hfar : p.far s with
      | false => simp [restorePiece, hfar, Restore.readFault_near hfar hline]
      | true => simp [restorePiece, hfar]
    simp only [Piece.faultOf, hparity]
    simp only [restorePiece] at hreads ⊢
    simp [hline, hreads]
  case plain =>
    obtain ⟨y, hy, rfl⟩ := List.mem_map.1 hq
    obtain ⟨-, hend, -⟩ := mem_chryLines hy
    refine ⟨?_, rfl, fun z hz => absurd hz List.not_mem_nil, fun w hw => ?_⟩
    · exact if_pos (Restore.fault_within hread hend)
    · obtain rfl := List.mem_singleton.1 hw
      exact ⟨y.1, rfl, by rw [chryLine_length hread hy]; exact (chryLines_span hregions hy).2⟩
  case next =>
    obtain ⟨y, -, rfl⟩ := List.mem_map.1 hq
    obtain rfl := List.mem_singleton.1 hw
    rfl
  rw [restorePieces_stores] at hpieces
  unfold restoreRegions
  extract_lets len data ps
  have hgood : (decide (p.fault x s 0 len = 0) &&
      crc32 (data.take 44 ++ List.replicate 4 0 ++ data.drop 48) != fld h 383 352) = false := by
    rw [show crc32 (data.take 44 ++ List.replicate 4 0 ++ data.drop 48) = fld h 383 352 from hcrc, bne_self_eq_false, Bool.and_false]
  rw [hgood, if_neg Bool.false_ne_true, show runPieces true x.o x.e 0 ps s = _ from hpieces]
  rfl

/-- The regions hold the lines of the Chrysalis, and no other byte has changed. -/
theorem restored_dev (hm : s.mem.wf = true) (hnodup : ((chryLines l).map (·.1)).Nodup) :
    let t := restored h l x (p.bytes x s 0 (chryLen l)) s
    (∀ y ∈ chryLines l, memRead 0 t.mem.dev y.1 64 = ((p.bytes x s 0 (chryLen l)).drop y.2).take 64) ∧
      ∀ a, (∀ y ∈ chryLines l, a < y.1 ∨ y.1 + 64 ≤ a) → memGet 0 t.mem.dev a = memGet 0 s.mem.dev a := by
  have hwf : Memory.wfOf 0 s.mem.dev = true := (memOk_iff.1 hm).1
  refine ⟨fun y hy => ?_, fun a ha => memGet_stored_outside hwf fun w hw => ?_⟩
  · have happart : (chryStores (p.bytes x s 0 (chryLen l)) l).Pairwise
        fun v w => v.1 + v.2.length ≤ w.1 ∨ w.1 + w.2.length ≤ v.1 := by
      refine List.pairwise_map.2 ((List.pairwise_map.1 hnodup).imp_of_mem fun {v w} hv hw hne => ?_)
      obtain ⟨hvmod, -⟩ := chryLines_span hregions hv
      obtain ⟨hwmod, -⟩ := chryLines_span hregions hw
      simp only [chryLine_length hread hv, chryLine_length hread hw]
      omega
    have hstore := memRead_stored_apart hwf happart (List.mem_map_of_mem hy)
    rwa [chryLine_length hread hy] at hstore
  · obtain ⟨y, hy, rfl⟩ := List.mem_map.1 hw
    rw [chryLine_length hread hy]
    exact ha y hy

end

/-- A Chrysalis that passes its checks comes back. -/
theorem restoreWork_eq {x : Ctx} {s : State} {p : Restore} {l : List (Nat × Nat)} {h : Nat} (hp : Restore.parse x.par = p)
    (hpart : p.remote = true → p.part < s.dom.size) (hhead : p.fault x s 0 128 = 0) (hh : leNat (p.bytes x s 0 128) = h)
    (hn : fld h 90 80 ≤ 1024) (hfits : chryHead (fld h 90 80) ≤ 4096 * p.len4k) (hlist : p.fault x s 0 (chryHead (fld h 90 80)) = 0)
    (hregions : regionsOf (p.bytes x s 128 (16 * fld h 90 80)) (fld h 90 80) = some l)
    (hcheck : Restore.check h (some l) p x s = none) (hhealthy : healthy s x.e) :
    restoreWork x s = restoreRegions h l p x s := by
  have hmember : (p.remote && decide (s.dom.size ≤ p.part)) = false := by
    cases hr : p.remote with
    | false => rfl
    | true => simpa using hpart hr
  have hsize : ¬ (1024 < fld h 90 80 ∨ 4096 * p.len4k < chryHead (fld h 90 80)) := by omega
  unfold restoreWork
  dsimp only
  rw [hp, hmember, if_neg Bool.false_ne_true, if_neg (not_not.2 hhead), hh, if_neg hsize, if_neg (not_not.2 hlist), hregions,
    Restore.note_healthy hhealthy, hcheck]
  rfl

/-! ### The obligation -/

theorem CompletionWork.luna {s t : State} (h : CompletionWork s t) : t.luna = s.luna := by
  obtain ⟨_, _, _, _, _, _, _, _, _, _, _, _, _, _, rfl⟩ := h
  rfl

theorem CompletionWork.recoveryDue {s t : State} (h : CompletionWork s t) : t.sup.recoveryDue = s.sup.recoveryDue := by
  obtain ⟨_, _, _, _, _, _, _, _, _, _, _, _, _, _, rfl⟩ := h
  rfl

theorem cmdOf_countSave (job : Nat) (s : State) (c : CmdRef) : cmdOf (countSave job s) c = cmdOf s c := by
  obtain ⟨r, i⟩ := c
  cases r <;> rfl

theorem cmdOf_restored (h job : Nat) (l : List (Nat × Nat)) (x : Ctx) (data : List Byte) (s : State) (c : CmdRef) :
    cmdOf (restoreClaims job l (restored h l x data s)) c = cmdOf s c := by
  obtain ⟨r, i⟩ := c
  cases r <;> rfl

/-- The Luna record that a restore binds: none where its address is 0 (log 39). -/
theorem look_restored_luna (h : Nat) (l : List (Nat × Nat)) (x : Ctx) (data : List Byte) (s : State) :
    look (restored h l x data s).luna x.job = if fld h 239 192 = 0 then none else some (fld h 239 192) := by
  unfold restored
  dsimp only
  split
  · exact (look_dropKey ..).trans (if_pos rfl)
  · exact (look_put ..).trans (if_pos rfl)

/-- Settles O18: a save by `saveWork_eq` and `saveTo_writesIn`, a restore by `restoreRegions_eq` and `restored_dev`. -/
theorem contexts : Obligations.Contexts := by
  unfold Obligations.Contexts
  refine ⟨fun c e s s1 s2 x l h => ?save, fun c e s s1 x l h => ?restore⟩
  case save =>
    intro p seq s0 hregions hread hfits hmeets htable hpool hsave hm hc
    have hsame := startOf_sameImage h (fun _ => rfl) (fun _ => rfl) fun _ => rfl
    obtain ⟨hwork, -⟩ := startOf_runs h (fun _ => rfl) (fun _ => rfl) fun _ => rfl
    obtain ⟨rfl, hxe, -⟩ := startOf_ctx h
    obtain ⟨hcmd, -⟩ := startOf_cmd h
    obtain rfl : x.e = e := hxe
    have hexec := congrArg (Outcome.next (φ := Fault) (ρ := Refusal))
      ((runCmd_start h).trans (saveWork_eq rfl hregions hread hfits hmeets htable hpool hsave))
    have hseq : (chryNow s1 x.job x.nl l).seq = seq := by
      show (look s1.img.seqs x.job).getD 0 + 1 = _
      rw [hsame.seqs]
    have hlines : LineWork s1 s2 := by
      have := lineWork_trans (listRead_lineWork x s1) (saveTo_lineWork x.o x.e p.dst (chryNow s1 x.job x.nl l) (listRead x s1))
      rwa [show saveTo x.o x.e p.dst (chryNow s1 x.job x.nl l) (listRead x s1) = (s2, 0) from hsave] at this
    have hwrites : WritesIn x.o {a | p.dst ≤ a ∧ a < p.dst + 4096 * p.len4k} ∅ s1 s2 := by
      have := (listRead_writesIn x s1).trans (saveTo_writesIn x.o x.e (k := chryNow s1 x.job x.nl l) (dst := p.dst) hfits (listRead x s1))
      rwa [show saveTo x.o x.e p.dst (chryNow s1 x.job x.nl l) (listRead x s1) = (s2, 0) from hsave] at this
    obtain ⟨-, -, hdev, -⟩ := hwrites.frame hm hc
    have hdone := complete_completionWork x.c { reply := some (chryLen l / 4096 + (chryNow s1 x.job x.nl l).seq <<< 32) }
      (countSave x.job s2)
    refine ⟨_, hexec, ?_, ?_, hdone.dev, hdone.ob.trans ((hwrites.ob hm hc).trans ?_), fun a ha => ?_⟩
    · rw [← hseq]
      exact complete_done ((cmdOf_countSave ..).trans ((hlines.cmdOf x.c).trans hcmd)) rfl
    · rw [complete_seqs]
      refine (look_put ..).trans ((if_pos rfl).trans ?_)
      rw [hlines.img, hsame.seqs]
    · exact (congrArg (·.ob) hwork.mem).trans (miscorrect_ob ..)
    · rw [hdone.dev]
      exact hdev a fun hin => by
        obtain ⟨hlo, hhi⟩ := hin
        omega
  case restore =>
    intro p h0 n data hpart hhead hn hfits hlist hregions hcheck hread hcrc hh hm hc hnodup
    obtain ⟨rfl, hxe, -⟩ := startOf_ctx h
    obtain ⟨hcmd, -⟩ := startOf_cmd h
    obtain rfl : x.e = e := hxe
    have ⟨_, _, _, herrs, _⟩ := hh
    have hwork := startOf_clean h (fun _ => rfl) (fun _ => rfl) (fun _ => rfl) (by decide) herrs
    have hsame := startOf_sameImage h (fun _ => rfl) (fun _ => rfl) fun _ => rfl
    have hpart1 : p.remote = true → p.part < s1.dom.size := by rw [hsame.dom]; exact hpart
    have hexec := congrArg (Outcome.next (φ := Fault) (ρ := Refusal)) ((runCmd_start h).trans
      ((restoreWork_eq (p := p) (h := h0) rfl hpart1 hhead rfl hn hfits hlist hregions hcheck hh).trans
        (restoreRegions_eq hregions hread hcrc hh hc)))
    have hdone := complete_completionWork x.c { reply := some (fld h0 127 96 + fld h0 191 160 <<< 32) }
      (restoreClaims x.job l (restored h0 l x data s1))
    obtain ⟨hin, hout⟩ := restored_dev (h := h0) hregions hread hm hnodup
    refine ⟨_, hexec, complete_done ((cmdOf_restored ..).trans hcmd) rfl, fun y hy => ?_, fun a ha => ?_, ?_, ?_, ?_⟩
    · rw [hdone.dev]
      exact hin y hy
    · rw [hdone.dev, ← hwork.mem]
      exact hout a ha
    · rw [hdone.luna]
      exact look_restored_luna h0 l x data s1
    · rw [hdone.recoveryDue]
      rfl
    · rw [hdone.ob, ← hwork.mem]
      rfl

end Sys2Proof.Machine
end

section
/-!
PROOFS. Control commands at work (R344, R353): what the start of a command of the supervisors and its completion leave, and
elections (R439).
-/
namespace Sys2Proof.Machine
open Host

/-! ### The start and the completion of a control command -/

/-- What a control command finds when its work begins in `s1`: its place in the control queue, its row's circumstances, its
family's consent; supervisors, time, buffers, image and domain are those that its row found. -/
structure ControlStart (f : Family) (c : CmdRef) (e : Circ) (s s1 : State) (x : Ctx) : Prop where
  ctx : x.c = c
  circ : x.e = e
  queue : ∃ i, c = ⟨.hw 0, i⟩
  cmd : cmdOf s1 c = some x.cmd
  consent : ∃ y : Ctx, y.par = x.par ∧ f.refuse y s = none
  sup : s1.sup = s.sup
  time : s1.time = s.time
  ob : s1.mem.ob = s.mem.ob
  same : SameImage s s1

theorem startOf_control {op : Nat} {f : Family} {c : CmdRef} {e : Circ} {s s1 : State} {x : Ctx}
    (h : startOf op f c e s = some (x, s1)) (hop : isControl op = true) (hrows : op ∉ rowOps) (hne : op ≠ 0x0901)
    (hcore : ∀ v, f.core v = false) (hdraws : ∀ v, f.draws v = false) (hstep : ∀ v, f.step v = none) :
    ControlStart f c e s s1 x := by
  obtain ⟨hstart, -⟩ := startOf_runs h hcore hdraws hstep
  obtain ⟨y, hyc, -, hpar, -, hstage, -⟩ := startOf_ready h hcore hdraws hstep
  obtain ⟨hq, hrefuse⟩ := stage3_control hop hne hstage
  obtain ⟨hxc, hxe, -⟩ := startOf_ctx h
  rw [circOf, if_neg hrows] at hxe hstart
  obtain ⟨r, i⟩ := c
  rw [hyc] at hq
  exact {
    ctx := hxc
    circ := hxe
    queue := ⟨i, congrArg (CmdRef.mk · i) hq⟩
    cmd := (startOf_cmd h).1
    consent := ⟨y, hpar, hrefuse⟩
    sup := hstart.sup.trans (miscorrect_sup ..)
    time := hstart.time.trans (miscorrect_time ..)
    ob := (congrArg (·.ob) hstart.mem).trans (miscorrect_ob ..)
    same := startOf_sameImage h hcore hdraws hstep }

/-- The completion of a control command leaves the supervisors, time, device memory, buffers and images to its work. -/
structure Completed (t u : State) : Prop where
  sup : u.sup = t.sup
  time : u.time = t.time
  dev : u.mem.dev = t.mem.dev
  ob : u.mem.ob = t.mem.ob
  img : u.img = t.img

theorem complete_completed (i : Nat) (o : Out) (t : State) : Completed t (complete ⟨.hw 0, i⟩ o t) :=
  have h := complete_completionWork ⟨.hw 0, i⟩ o t
  ⟨complete_sup o t, h.time, h.dev, h.ob, complete_hw_img ..⟩

/-- A command that completes with ST_REFUSED_STATE and a reply reports the code and the reply (R346). -/
theorem complete_refusedWith {c : CmdRef} {s : State} {k : Cmd} (h : cmdOf s c = some k) (code r : Nat) :
    ∃ k', cmdOf (complete c { status := stRefusedState, code := code, reply := some r } s) c = some k' ∧ k'.ph = .done ∧
      k'.status = stRefusedState ∧ k'.code = code ∧ k'.reply = r := by
  refine ⟨k.completed { status := stRefusedState, code := code, reply := some r } code, ?_, rfl, rfl, rfl, rfl⟩
  rw [complete_cmdOf h, cmdOf_modCmd c (Cmd.completed _ _) (fun _ => rfl), show cmdOf (dropQuanta c s) c = some k from h]
  rfl

/-! ### SUP.ELECT (R439) -/

theorem leadOk_sup {s t : State} (h : t.sup = s.sup) (d : Side) : leadOk t d = leadOk s d := by
  cases d <;> simp only [leadOk, h]

/-- FAVOUR names the leader, AUTO prefers North (R439). -/
theorem electChoice_eq (v : Nat) (s : State) :
    electChoice v s = if fld v 33 32 = 1 then .north else if fld v 33 32 = 2 then .south
      else if s.sup.nLeadOk = true then .north else .south := by
  unfold electChoice
  split
  · rename_i h
    rw [if_pos h]
  · rename_i h
    rw [h]
    rfl
  · rename_i h1 h2
    rw [if_neg h1, if_neg h2]

/-- Time, device memory and buffers are as before, and every command of a hardware queue still has its place. -/
structure KeepsPlaces (s t : State) : Prop extends SameStore s t where
  cmd : ∀ n i, (cmdOf s ⟨.hw n, i⟩).isSome → (cmdOf t ⟨.hw n, i⟩).isSome

theorem KeepsPlaces.trans {s t u : State} (h : KeepsPlaces s t) (g : KeepsPlaces t u) : KeepsPlaces s u :=
  ⟨h.toSameStore.trans g.toSameStore, fun n i hk => g.cmd n i (h.cmd n i hk)⟩

theorem keepsPlaces_of_eq {s t : State} (hstore : SameStore s t) (hq : t.queues.qs = s.queues.qs) : KeepsPlaces s t := by
  refine ⟨hstore, fun n i hk => ?_⟩
  simp only [cmdOf, getQ, queueOf, hq] at hk ⊢
  exact hk

theorem withSup_keepsPlaces (v : Sup) (s : State) : KeepsPlaces s { s with sup := v } := keepsPlaces_of_eq ⟨rfl, rfl, rfl⟩ rfl

theorem refreshAlert_keepsPlaces (s : State) : KeepsPlaces s (refreshAlert s) := keepsPlaces_of_eq ⟨rfl, rfl, rfl⟩ rfl

theorem devIrq_keepsPlaces (v : Nat) (s : State) : KeepsPlaces s (devIrq v s) := by
  obtain ⟨m, i, l, h⟩ := devIrq_spec v s
  rw [h]
  exact keepsPlaces_of_eq ⟨rfl, rfl, rfl⟩ rfl

theorem setDState_keepsPlaces (d : DState) (s : State) : KeepsPlaces s (setDState d s) := by
  obtain ⟨m, i, l, a, b, h⟩ := setDState_spec d s
  rw [h]
  exact keepsPlaces_of_eq ⟨rfl, rfl, rfl⟩ rfl

/-- The supervisors after the election of `side` for a term (R439). -/
structure Elected (n : Word) (side : Side) (s t : State) : Prop extends KeepsPlaces s t where
  term : t.sup.term = n
  store : t.sup.storeTerm = List.replicate 4 n
  leader : t.sup.leader = side
  unfenced : fencedAny t = false
  cause : t.sup.fenceCause = 0
  recovery : t.sup.recoveryDue = true
  dstate : t.sup.dstate = if s.sup.dstate = .fenced then .ready else s.sup.dstate

/-- The part under its new leader, before the change is signalled (R437, R439). -/
def ledBy (n : Word) (side : Side) (s : State) : State :=
  { s with sup := { s.sup with
    term := n, storeTerm := List.replicate 4 n, leader := side, recoveryDue := true
    fenceCause := 0, fenceSide := .north, nFenced := false, sFenced := false, silence := false } }

theorem takeLead_eq (n : Word) (side : Side) (s : State) :
    takeLead n side s =
      let u := devIrq 4 (refreshAlert (ledBy n side s))
      if u.sup.dstate = .fenced then
        setDState .ready { u with sup := { u.sup with cross := none, runReq := false, runTest := false, runMs := 0, stopReq := none } }
      else u := rfl

theorem takeLead_elected (n : Word) (side : Side) (s : State) : Elected n side s (takeLead n side s) := by
  have hsup : (devIrq 4 (refreshAlert (ledBy n side s))).sup = (ledBy n side s).sup := devIrq_sup ..
  have hkeep : KeepsPlaces s (devIrq 4 (refreshAlert (ledBy n side s))) :=
    ((withSup_keepsPlaces (ledBy n side s).sup s).trans (refreshAlert_keepsPlaces _)).trans (devIrq_keepsPlaces ..)
  rw [takeLead_eq]
  generalize devIrq 4 (refreshAlert (ledBy n side s)) = u at hsup hkeep
  have hstate : u.sup.dstate = s.sup.dstate := by rw [hsup]; rfl
  by_cases hfenced : s.sup.dstate = .fenced
  · simp only [hstate, hfenced, if_true]
    refine ⟨hkeep.trans ((withSup_keepsPlaces _ u).trans (setDState_keepsPlaces ..)), ?_, ?_, ?_, ?_, ?_, ?_, ?_⟩ <;>
      simp [fencedAny, setDState_sup, hsup, ledBy, hfenced]
  · simp only [hstate, hfenced, if_false]
    refine ⟨hkeep, ?_, ?_, ?_, ?_, ?_, ?_, ?_⟩ <;> simp [fencedAny, hsup, ledBy, hfenced]

/-- What SUP.ELECT does, case by case (R439). -/
theorem electWork_eq (x : Ctx) (s : State) :
    let term := fld x.par 31 0
    let side := electChoice x.par s
    (term ≤ s.sup.term.toNat → electWork x s = complete x.c (refuse 0x90) s) ∧
    (s.sup.term.toNat < term → leadOk s side = false → electWork x s = complete x.c (refuse 0x92) s) ∧
    (s.sup.term.toNat < term → leadOk s side = true → x.e.ack = false → electWork x s = complete x.c (refuse 0x91) s) ∧
    (s.sup.term.toNat < term → leadOk s side = true → x.e.ack = true → electWork x s =
      complete x.c { reply := some (term + sideBit side <<< 32) } (takeLead (BitVec.ofNat 32 term) side s)) := by
  intro term side
  refine ⟨fun hle => if_pos hle, fun hlt hlead => ?_, fun hlt hlead hack => ?_, fun hlt hlead hack => ?_⟩
  · refine (if_neg (Nat.not_le.2 hlt)).trans (if_pos ?_)
    rw [hlead]
    rfl
  all_goals
    refine (if_neg (Nat.not_le.2 hlt)).trans ((if_neg ?_).trans ?_)
    · rw [hlead]
      exact Bool.false_ne_true
  · exact if_pos (by rw [hack]; rfl)
  · exact if_neg (by rw [hack]; exact Bool.false_ne_true)

theorem electWork_sameStore (x : Ctx) (s : State) : SameStore s (electWork x s) := by
  have hdone : ∀ o t, SameStore t (complete x.c o t) := fun o t => (complete_completionWork ..).sameStore
  unfold electWork
  dsimp only
  split
  · exact hdone ..
  split
  · exact hdone ..
  split
  · exact hdone ..
  · exact (takeLead_elected ..).toSameStore.trans (hdone ..)

/-- Settles O24: the refusals leave the supervisors as they are, and an election leaves them as `takeLead_elected` says. -/
theorem elections : Obligations.Elections := by
  unfold Obligations.Elections
  intro c e s s1 x h
  extract_lets term side
  have hc := startOf_control h rfl (by decide) (by decide) (fun _ => rfl) (fun _ => rfl) fun _ => rfl
  have hstore := electWork_sameStore x s1
  obtain ⟨i, rfl⟩ := hc.queue
  have hside : electChoice x.par s1 = side := by rw [electChoice_eq, hc.sup]
  obtain ⟨hstale, hineligible, hpartner, helect⟩ := electWork_eq x s1
  rw [hc.sup, hc.ctx] at hstale
  rw [hside, leadOk_sup hc.sup, hc.sup, hc.ctx] at hineligible
  rw [hside, leadOk_sup hc.sup, hc.sup, hc.ctx, hc.circ] at hpartner helect
  have hrefused : ∀ code, refusedAs (complete ⟨.hw 0, i⟩ (refuse code) s1) ⟨.hw 0, i⟩ code ∧
      (complete ⟨.hw 0, i⟩ (refuse code) s1).sup = s.sup := fun code =>
    ⟨complete_refused hc.cmd code, (complete_sup ..).trans hc.sup⟩
  refine ⟨electWork x s1, congrArg Outcome.next (runCmd_start h), hstore.dev, hstore.ob.trans hc.ob, hstore.time.trans hc.time,
    fun hle => ?_, fun hlt hlead => ?_, fun hlt hlead hack => ?_, fun hlt hlead hack => ?_⟩
  · rw [hstale hle]
    exact hrefused _
  · rw [hineligible hlt hlead]
    exact hrefused _
  · rw [hpartner hlt hlead hack]
    exact hrefused _
  · rw [helect hlt hlead hack]
    have hled := takeLead_elected (BitVec.ofNat 32 term) side s1
    obtain ⟨k, hk⟩ := Option.isSome_iff_exists.1 (hled.cmd 0 i (by rw [hc.cmd]; rfl))
    have hterm : (BitVec.ofNat 32 term).toNat = term := by
      rw [BitVec.toNat_ofNat]
      exact Nat.mod_eq_of_lt (fld_lt x.par 31 0)
    refine ⟨complete_done hk rfl, ?_⟩
    simp only [fencedAny, complete_sup]
    refine ⟨?_, hled.leader, ?_, hled.unfenced, hled.cause, hled.recovery, ?_⟩
    · rw [hled.term, hterm]
    · rw [hled.store, hled.term]
    · rw [hled.dstate, hc.sup]

end Sys2Proof.Machine
end

section
/-!
PROOFS. SUP.STATE acts as its table says (R440, R441).
-/
namespace Sys2Proof.Machine
open Host

/-! ### What SUP.STATE leaves as it is -/

/-- A completion leaves every command in its place. -/
theorem complete_keepsPlaces (c : CmdRef) (o : Out) (s : State) : KeepsPlaces s (complete c o s) := by
  refine ⟨(complete_completionWork c o s).sameStore, fun n i hk => ?_⟩
  by_cases hd : (⟨.hw n, i⟩ : CmdRef) = c
  · obtain ⟨k, hk⟩ := Option.isSome_iff_exists.1 hk
    obtain ⟨code, hdone⟩ := cmdOf_complete (o := o) (hd ▸ hk)
    rw [hd, hdone]
    rfl
  · rwa [complete_cmdOf_ne hd]

/-- Term and leader stay, and so do time, device memory, buffers and the places of commands. -/
structure KeepsLead (s t : State) : Prop extends KeepsPlaces s t where
  term : t.sup.term = s.sup.term
  leader : t.sup.leader = s.sup.leader

theorem KeepsLead.refl (s : State) : KeepsLead s s := ⟨⟨.refl s, fun _ _ h => h⟩, rfl, rfl⟩

theorem KeepsLead.trans {s t u : State} (h : KeepsLead s t) (g : KeepsLead t u) : KeepsLead s u :=
  ⟨h.toKeepsPlaces.trans g.toKeepsPlaces, g.term.trans h.term, g.leader.trans h.leader⟩

theorem CompletionWork.keepsLead {s t : State} (h : CompletionWork s t) (hplaces : KeepsPlaces s t) : KeepsLead s t := by
  obtain ⟨_, _, _, _, _, _, _, _, _, _, _, _, _, _, rfl⟩ := h
  exact ⟨hplaces, rfl, rfl⟩

theorem SameCmds.keepsPlaces {s t : State} (h : SameCmds s t) (hstore : SameStore s t) : KeepsPlaces s t :=
  ⟨hstore, fun n i hk => by rwa [h.cmdOf]⟩

theorem complete_keepsLead (c : CmdRef) (o : Out) (s : State) : KeepsLead s (complete c o s) :=
  (complete_completionWork c o s).keepsLead (complete_keepsPlaces c o s)

theorem setDState_keepsLead (d : DState) (s : State) : KeepsLead s (setDState d s) :=
  (setDState_completionWork d s).keepsLead (setDState_keepsPlaces d s)

theorem beginCrossing_keepsLead (s : State) : KeepsLead s (beginCrossing s) :=
  have h := beginCrossing_completionWork s
  h.keepsLead ((beginCrossing_sameCmds s).keepsPlaces h.sameStore)

theorem stopImage_keepsLead (x : Nat × Nat × Option Nat) (s : State) : KeepsLead s (stopImage x s) :=
  have h := stopImage_completionWork x s
  h.keepsLead ((stopImage_sameCmds x s).keepsPlaces h.sameStore)

theorem withoutImage_keepsLead (s : State) : KeepsLead s { s with img := { s.img with run := none } } :=
  ⟨keepsPlaces_of_eq ⟨rfl, rfl, rfl⟩ rfl, rfl, rfl⟩

theorem endImage_keepsLead (x : Nat × Nat × Option Nat) (s : State) : KeepsLead s (endImage x s) := by
  unfold endImage
  split
  · exact .refl s
  split
  · exact stopImage_keepsLead ..
  · exact ((withoutImage_keepsLead s).trans (complete_keepsLead ..)).trans (beginCrossing_keepsLead _)

theorem stopNow_keepsLead (s : State) : KeepsLead s (stopNow s) := by
  unfold stopNow
  split
  · refine KeepsLead.trans (t := sendDom _ { s with freeCtr := s.freeCtr + 1 }) ?_ (endImage_keepsLead ..)
    exact ⟨keepsPlaces_of_eq ⟨rfl, rfl, rfl⟩ rfl, rfl, rfl⟩
  · exact .refl s

theorem setStop_keepsLead (x : Option StopReq) (s : State) : KeepsLead s (setStop x s) := ⟨withSup_keepsPlaces _ s, rfl, rfl⟩

theorem cancelRun_keepsLead (s : State) : KeepsLead s (cancelRun s) := ⟨withSup_keepsPlaces _ s, rfl, rfl⟩

theorem stopLater_keepsLead (x : StopReq) (now : Bool) (s : State) : KeepsLead s (stopLater x now s) := by
  have hnow : KeepsLead s (if now then stopNow (setStop (some x) s) else setStop (some x) s) := by
    split
    · exact (setStop_keepsLead ..).trans (stopNow_keepsLead _)
    · exact setStop_keepsLead ..
  unfold stopLater
  extract_lets s1 s2
  split
  · exact hnow
  · exact KeepsLead.trans hnow (beginCrossing_keepsLead s2)

theorem stateEffect_keepsLead (v : Nat) (s : State) : KeepsLead s (stateEffect v s) := by
  unfold stateEffect
  dsimp only
  split
  · exact ⟨withSup_keepsPlaces _ s, rfl, rfl⟩
  · exact ⟨withSup_keepsPlaces _ s, rfl, rfl⟩
  · exact cancelRun_keepsLead s
  · exact (cancelRun_keepsLead s).trans (setDState_keepsLead ..)
  · exact stopLater_keepsLead ..
  · exact stopLater_keepsLead ..
  · exact stopLater_keepsLead ..
  · exact stopLater_keepsLead ..
  · exact setDState_keepsLead ..
  · split
    · exact .refl s
    · exact beginCrossing_keepsLead s
  · exact .refl s

/-! ### What each operation does to the supervisors -/

/-- The request that an operation makes. -/
def stopOf (op : Nat) : StopReq := if op = 2 then .stop else .park

theorem stateEffect_query {v : Nat} {s : State} (h : fld v 2 0 = 0) : stateEffect v s = s := by
  simp only [stateEffect, h]

theorem stateEffect_run {v : Nat} {s : State} (h : fld v 2 0 = 1) : (stateEffect v s).sup =
    { s.sup with stopReq := none, runReq := s.sup.runReq || s.sup.dstate == .ready, runTest := bit v 3, runMs := fld v 63 32 } := by
  by_cases hready : s.sup.dstate = .ready
  · simp [stateEffect, h, hready, setStop]
  · have hother : stateEffect v s = setStop none { s with sup := { s.sup with runTest := bit v 3, runMs := fld v 63 32 } } := by
      simp [stateEffect, h]
    rw [hother, beq_eq_false_iff_ne.2 hready, Bool.or_false]
    rfl

theorem stateEffect_stop_ready {v : Nat} {s : State} (h : fld v 2 0 = 2) (hd : s.sup.dstate = .ready) :
    stateEffect v s = cancelRun s := by
  simp only [stateEffect, h, hd]

theorem stateEffect_park_ready {v : Nat} {s : State} (h : fld v 2 0 = 3) (hd : s.sup.dstate = .ready) :
    stateEffect v s = setDState .parked (cancelRun s) := by
  simp only [stateEffect, h, hd]

theorem stateEffect_unpark {v : Nat} {s : State} (h : fld v 2 0 = 4) (hd : s.sup.dstate = .parked) :
    stateEffect v s = setDState .ready s := by
  simp only [stateEffect, h, hd]

theorem stateEffect_cross {v : Nat} {s : State} (h : fld v 2 0 = 5) (hd : s.sup.dstate = .running) :
    stateEffect v s = if imageInProgress s then s else beginCrossing s := by
  simp only [stateEffect, h, hd]

/-- STOP and PARK in a run or a crossing. -/
theorem stateEffect_stop {v : Nat} {s : State} (h : fld v 2 0 = 2 ∨ fld v 2 0 = 3)
    (hd : s.sup.dstate = .running ∨ s.sup.dstate = .draining) :
    stateEffect v s = stopLater (stopOf (fld v 2 0)) (bit v 4) s := by
  rcases h with h | h <;> rcases hd with hd | hd <;> simp [stateEffect, h, hd, stopOf]

theorem imageInProgress_of_none {s : State} (h : s.img.run = none) : imageInProgress s = false := by
  rw [imageInProgress, h]
  rfl

theorem imageInProgress_of_begun {s : State} {r : ImgRun} (h : s.img.run = some r) (hbegun : r.begun = true) :
    imageInProgress s = true := by
  rw [imageInProgress, h]
  exact hbegun

/-- Without an image run the end of a run does not wait, IMMEDIATE or not. -/
theorem stopLater_idle {s : State} (h : s.img.run = none) (x : StopReq) (now : Bool) :
    stopLater x now s = beginCrossing (setStop (some x) s) := by
  have hidle : imageInProgress (setStop (some x) s) = false := imageInProgress_of_none h
  have hnow : (if now then stopNow (setStop (some x) s) else setStop (some x) s) = setStop (some x) s := by
    cases now
    · rfl
    · simp [stopNow, hidle]
  unfold stopLater
  extract_lets s1 s2
  rw [show s2 = setStop (some x) s from hnow, hidle]
  rfl

/-- An image run in progress is waited for. -/
theorem stopLater_waits {s : State} (h : imageInProgress s = true) (x : StopReq) : stopLater x false s = setStop (some x) s :=
  if_pos h

/-- An active image run stops: it keeps its begin, with the status that its SCH.RUN completes with, and the device drains
(R409). -/
theorem endImage_active {s : State} {r : ImgRun} (h : s.img.run = some r) (hactive : r.active = true) (hended : r.ended = none)
    (hd : s.sup.dstate = .running) (x : Nat × Nat × Option Nat) :
    (endImage x s).sup.dstate = .draining ∧ (endImage x s).sup.stopReq = s.sup.stopReq ∧
      ∃ u, (endImage x s).img.run = some u ∧ u.begun = r.begun ∧ u.ended = some x := by
  obtain ⟨m, i, l, a, b, hcross⟩ := beginCrossing_spec
    (s := { s with img := { s.img with run := some { r with ended := r.ended <|> some x } } }) hd
  have heq : endImage x s = beginCrossing { s with img := { s.img with run := some { r with ended := r.ended <|> some x } } } := by
    simp only [endImage, stopImage, h, hactive, if_true]
  rw [heq, hcross]
  exact ⟨rfl, rfl, _, rfl, rfl, by rw [hended]; rfl⟩

/-- With IMMEDIATE it is aborted, and its SCH.RUN will complete with SUP_STOPPED (R441). -/
theorem stopLater_aborts {s : State} {r : ImgRun} (h : s.img.run = some r) (hbegun : r.begun = true) (hactive : r.active = true)
    (hended : r.ended = none) (hd : s.sup.dstate = .running) (x : StopReq) :
    (stopLater x true s).sup.dstate = .draining ∧ (stopLater x true s).sup.stopReq = some x ∧
      ∃ u, (stopLater x true s).img.run = some u ∧ u.ended = some (stRefusedState, 0x94, none) := by
  have hbusy : imageInProgress (setStop (some x) s) = true := imageInProgress_of_begun h hbegun
  unfold stopLater
  extract_lets s1 s2
  obtain ⟨hdrain, hstop, u, hrun, hkept, hstatus⟩ : s2.sup.dstate = .draining ∧ s2.sup.stopReq = some x ∧
      ∃ u, s2.img.run = some u ∧ u.begun = r.begun ∧ u.ended = some (stRefusedState, 0x94, none) := by
    rw [show s2 = stopNow (setStop (some x) s) from rfl, stopNow, if_pos hbusy]
    dsimp only
    exact endImage_active (s := sendDom _ { setStop (some x) s with freeCtr := (setStop (some x) s).freeCtr + 1 }) h hactive hended hd _
  rw [if_pos (imageInProgress_of_begun hrun (hkept.trans hbegun))]
  exact ⟨hdrain, hstop, u, hrun, hstatus⟩

/-- Without an image run, STOP and PARK end a run, with the device DRAINING; in a crossing they wait for its end. -/
theorem stopLater_sup {s : State} (h : s.img.run = none) (x : StopReq) (now : Bool) :
    (s.sup.dstate = .running → (stopLater x now s).sup = { s.sup with
      dstate := .draining, run := none, cross := (stopLater x now s).sup.cross, stopReq := some x }) ∧
    (s.sup.dstate = .draining → (stopLater x now s).sup = { s.sup with stopReq := some x }) := by
  rw [stopLater_idle h]
  refine ⟨fun hd => ?_, fun hd => ?_⟩
  · obtain ⟨hsup, -⟩ := beginCrossing_run (s := setStop (some x) s) hd
    rw [hsup]
    rfl
  · rw [beginCrossing, if_neg (by simp [setStop, hd])]
    rfl

theorem stateReply_sup {s t : State} (h : t.sup = s.sup) : stateReply t = stateReply s :=
  congrArg (fun v : Sup => v.dstate.code + v.service <<< 8 + sideBit v.leader <<< 12 + v.term.toNat <<< 16) h

/-- Settles O22: what a start and a completion leave as they are, and each operation's effect by its row of R440. -/
theorem stateCommands : Obligations.StateCommands := by
  unfold Obligations.StateCommands
  intro c e s s1 x h op d req
  have hc := startOf_control h rfl (by decide) (by decide) (fun _ => rfl) (fun _ => rfl) fun _ => rfl
  obtain ⟨i, rfl⟩ := hc.queue
  have hkeep := stateEffect_keepsLead x.par s1
  obtain ⟨k, hk⟩ := Option.isSome_iff_exists.1 (hkeep.cmd 0 i (by rw [hc.cmd]; rfl))
  set u := stateEffect x.par s1 with hu
  have hexec : exec (.supState ⟨.hw 0, i⟩ e) s = .next (complete x.c { reply := some (stateReply u) } u) :=
    congrArg Outcome.next (runCmd_start h)
  rw [hc.ctx] at hexec
  have hends : endsAs _ ⟨.hw 0, i⟩ stOk (stateReply u) := complete_done hk (o := { reply := some (stateReply u) }) rfl
  have hdone := complete_completed i { reply := some (stateReply u) } u
  generalize complete ⟨.hw 0, i⟩ { reply := some (stateReply u) } u = t at hexec hends hdone
  rw [← stateReply_sup hdone.sup] at hends
  have hd1 : s1.sup.dstate = d := by rw [hc.sup]
  obtain ⟨q, himg⟩ := hc.same.img
  have hidle : s.img.run = none → s1.img.run = none := fun hrun => by rw [himg, hrun]; rfl
  refine ⟨t, hexec, hends, hdone.dev.trans hkeep.dev, hdone.ob.trans (hkeep.ob.trans hc.ob),
    hdone.time.trans (hkeep.time.trans hc.time), ?_, ?_, fun hop => ?_, fun hop => ?_, fun hop hd => ?_, fun hop hd => ?_,
    fun hop hd => ?_, fun hop hd hrun => ?_, fun hop hd hrun => ?_, fun hop hd hrun => ?_, fun r hrun hbegun hactive hended hd => ?_⟩
  · rw [hdone.sup, hkeep.term, hc.sup]
  · rw [hdone.sup, hkeep.leader, hc.sup]
  · rw [hdone.sup, hu, stateEffect_query hop, hc.sup]
  · rw [hdone.sup, hu, stateEffect_run hop, hc.sup]
  · rw [hdone.sup, hu, stateEffect_stop_ready hop (hd1.trans hd), cancelRun, hc.sup]
  · rw [hdone.sup, hu, stateEffect_park_ready hop (hd1.trans hd), setDState_sup, cancelRun, hc.sup]
  · rw [hdone.sup, hu, stateEffect_unpark hop (hd1.trans hd), setDState_sup, hc.sup]
  · rw [hdone.sup, hu, stateEffect_stop hop (.inl (hd1.trans hd)), (stopLater_sup (hidle hrun) ..).1 (hd1.trans hd), hc.sup]
    rfl
  · rw [hdone.sup, hu, stateEffect_stop hop (.inr (hd1.trans hd)), (stopLater_sup (hidle hrun) ..).2 (hd1.trans hd), hc.sup]
    rfl
  · rw [hdone.sup, hu, stateEffect_cross hop (hd1.trans hd), imageInProgress_of_none (hidle hrun), if_neg Bool.false_ne_true,
      (beginCrossing_run (hd1.trans hd)).1, hc.sup, hc.time]
  · have hrun1 : s1.img.run = some { r with q := q } := by rw [himg, hrun]; rfl
    have hbusy : imageInProgress s1 = true := imageInProgress_of_begun hrun1 hbegun
    refine ⟨fun hop himm => ?_, fun hop himm => ?_, fun hop => ?_⟩
    · rw [hdone.sup, hu, stateEffect_stop hop (.inl (hd1.trans hd)), himm, stopLater_waits hbusy, setStop, hc.sup]
      rfl
    · rw [hdone.sup, hdone.img, hu, stateEffect_stop hop (.inl (hd1.trans hd)), himm]
      exact stopLater_aborts hrun1 hbegun hactive hended (hd1.trans hd) _
    · rw [hdone.sup, hu, stateEffect_cross hop (hd1.trans hd), if_pos hbusy, hc.sup]

end Sys2Proof.Machine
end

section
/-!
PROOFS. Module flash: reads beside and within what was written, boot records that are written and named (R425 to R428), and the
marks of firmware copies (R433, R434).
-/
namespace Sys2Proof.Machine
open Host

/-! ### Reads of flash -/

theorem leNat_leBytes (n v : Nat) : leNat (leBytes n v) = v % 256 ^ n := by
  induction n generalizing v with
  | zero => rw [Nat.pow_zero, Nat.mod_one]; rfl
  | succ n ih =>
    rw [leBytes, leNat, ih, BitVec.toNat_ofNat, show 256 ^ (n + 1) = 256 * 256 ^ n from Nat.pow_succ', Nat.mod_mul]

/-- Flash, the boot ROM's key and the record in use are as before. -/
structure SameFlash (s t : State) : Prop where
  flash : t.sup.flash = s.sup.flash
  rom : t.sup.rom = s.sup.rom
  slot : t.sup.brSlot = s.sup.brSlot

section
variable {s t : State} (h : SameFlash s t)
include h

theorem SameFlash.flashRead (a n : Nat) : flashRead t a n = flashRead s a n := by rw [Machine.flashRead, h.flash]; rfl

theorem SameFlash.fwHeader (rt copy : Bool) : fwHeader t rt copy = fwHeader s rt copy := h.flashRead ..

theorem SameFlash.copyOk (rt copy : Bool) : copyOk t rt copy = copyOk s rt copy := copyOk_congr h.flash h.rom

theorem SameFlash.bootNow : bootNow t = bootNow s := by rw [Machine.bootNow, h.slot]; exact h.flashRead ..

theorem SameFlash.inactive (rt : Bool) : inactive t rt = inactive s rt := by simp only [Machine.inactive, h.bootNow]

theorem SameFlash.inactiveVersion (rt : Bool) : inactiveVersion rt t = inactiveVersion rt s := by
  simp only [Machine.inactiveVersion, h.inactive, h.fwHeader]

end

theorem SameFlash.trans {s t u : State} (h : SameFlash s t) (g : SameFlash t u) : SameFlash s u :=
  ⟨g.flash.trans h.flash, g.rom.trans h.rom, g.slot.trans h.slot⟩

theorem sameFlash_of_sup {s t : State} (h : t.sup = s.sup) : SameFlash s t := by constructor <;> rw [h]

theorem putFlash_flash (a : Nat) (bs : List Byte) (s : State) : (putFlash a bs s).sup.flash = memWrite 0xFF s.sup.flash a bs := rfl

/-- A number that was written is read back. -/
theorem flashRead_putFlash {s : State} (hwf : Memory.wfOf 0xFF s.sup.flash = true) (a n v : Nat) :
    flashRead (putFlash a (leBytes n v) s) a n = v % 256 ^ n := by
  have hread := memRead_in (bs := leBytes n v) (a := a) hwf
  rw [leBytes_length] at hread
  rw [flashRead, putFlash_flash, hread,
    leNat_leBytes]

/-! ### Boot records (R428) -/

/-- Bits [191:0] of a record: everything but the two MACs. -/
def recordBody (seq : Nat) (i1 rt : Bool) (floor serial : Nat) : Nat :=
  0x4B5A4252 + (seq % 2 ^ 32) <<< 32 + ofBool i1 <<< 64 + ofBool rt <<< 65 + floor <<< 96 + serial <<< 128

theorem recordBody_eq (seq : Nat) (i1 rt : Bool) (floor serial : Nat) : recordBody seq i1 rt floor serial =
    0x4B5A4252 + seq % 2 ^ 32 * 2 ^ 32 + ofBool i1 * 2 ^ 64 + ofBool rt * 2 ^ 65 + floor * 2 ^ 96 + serial * 2 ^ 128 := by
  unfold recordBody
  simp only [Nat.shiftLeft_eq]

theorem ofBool_le (b : Bool) : ofBool b ≤ 1 := by cases b <;> decide

/-- What a record says, from its low bits. -/
theorem record_fields {r seq floor serial : Nat} {i1 rt : Bool} (hfloor : floor < 2 ^ 32)
    (h : r % 2 ^ 192 = recordBody seq i1 rt floor serial) :
    bootSeq r = seq % 2 ^ 32 ∧ bootI1 r = i1 ∧ bootRt r = rt ∧ bootFloor r = floor ∧ bootSerial r = serial := by
  have hi1 := ofBool_le i1
  have hrt := ofBool_le rt
  have hbit : ∀ b : Bool, ∀ n, n = ofBool b → decide (n = 1) = b := fun b n hn => by subst hn; cases b <;> simp [ofBool]
  rw [recordBody_eq] at h
  refine ⟨?_, ?_, ?_, ?_, ?_⟩
  · rw [bootSeq, fld, Nat.shiftRight_eq_div_pow]
    omega
  · rw [bootI1, bit, Nat.testBit_eq_decide_div_mod_eq]
    exact hbit _ _ (by omega)
  · rw [bootRt, bit, Nat.testBit_eq_decide_div_mod_eq]
    exact hbit _ _ (by omega)
  · rw [bootFloor, fld, Nat.shiftRight_eq_div_pow]
    omega
  · rw [bootSerial, fld, Nat.shiftRight_eq_div_pow]
    omega

theorem recordBody_lt {seq floor serial : Nat} (i1 rt : Bool) (hfloor : floor < 2 ^ 32) (hserial : serial < 2 ^ 64) :
    recordBody seq i1 rt floor serial < 2 ^ 192 := by
  have hi1 := ofBool_le i1
  have hrt := ofBool_le rt
  have hseq : seq % 2 ^ 32 < 2 ^ 32 := Nat.mod_lt _ (Nat.two_pow_pos 32)
  rw [recordBody_eq]
  omega

/-- The MACs stand above the rest. -/
theorem makeRecord_low (s : State) {seq floor serial : Nat} (i1 rt : Bool) (hfloor : floor < 2 ^ 32) (hserial : serial < 2 ^ 64) :
    makeRecord s seq i1 rt floor serial % 2 ^ 192 = recordBody seq i1 rt floor serial := by
  have hlt := recordBody_lt (seq := seq) i1 rt hfloor hserial
  have hmake : ∀ b n m : Nat, b < 2 ^ 192 → (b + n <<< 192 + m <<< 448) % 2 ^ 192 = b := fun b n m hb => by
    simp only [Nat.shiftLeft_eq]
    omega
  exact hmake _ _ _ hlt

/-- The record that a write makes: the next number, the serial of the last one (R428). -/
def nextRecord (i1 rt : Bool) (floor : Nat) (s : State) : Nat :=
  makeRecord s (bootSeq (bootNow s) + 1) i1 rt floor (bootSerial (bootNow s))

theorem writeRecord_flash (i1 rt : Bool) (floor : Nat) (s : State) : (writeRecord i1 rt floor s).sup.flash =
    (putFlash (0x10000 * ofBool (!s.sup.brSlot)) (leBytes 128 (nextRecord i1 rt floor s)) s).sup.flash := by
  simp only [writeRecord, putFlash, nextRecord]

theorem writeRecord_slot (i1 rt : Bool) (floor : Nat) (s : State) : (writeRecord i1 rt floor s).sup.brSlot = !s.sup.brSlot := by
  simp only [writeRecord]

/-- The record that a write leaves in use. -/
theorem writeRecord_record {s : State} (hwf : Memory.wfOf 0xFF s.sup.flash = true) (i1 rt : Bool) {floor : Nat}
    (hfloor : floor < 2 ^ 32) :
    let r := bootNow (writeRecord i1 rt floor s)
    bootSeq r = (bootSeq (bootNow s) + 1) % 2 ^ 32 ∧ bootI1 r = i1 ∧ bootRt r = rt ∧ bootFloor r = floor ∧
      bootSerial r = bootSerial (bootNow s) := by
  refine record_fields hfloor ?_
  have hserial : bootSerial (bootNow s) < 2 ^ 64 := fld_lt (bootNow s) 191 128
  have hread : bootNow (writeRecord i1 rt floor s) = nextRecord i1 rt floor s % 256 ^ 128 := by
    rw [bootNow, bootRecord, flashRead, writeRecord_flash, writeRecord_slot, ← flashRead]
    exact flashRead_putFlash hwf _ _ _
  rw [hread, Nat.mod_mod_of_dvd _ (show 2 ^ 192 ∣ 256 ^ 128 from pow_mul 2 8 128 ▸ pow_dvd_pow 2 (by decide)), nextRecord,
    makeRecord_low s i1 rt hfloor hserial]

theorem copyBase_le (rt copy : Bool) : 0x10080 ≤ copyBase rt copy := by cases rt <;> cases copy <;> decide

/-- A write of a record touches the slot that is not in use (R428); what the record says is not to be evaluated. -/
theorem writeRecord_writes (i1 rt : Bool) (floor : Nat) (s : State) : ∃ a bs, a + bs.length ≤ 0x10080 ∧
    (writeRecord i1 rt floor s).sup.flash = memWrite 0xFF s.sup.flash a bs := by
  refine ⟨_, _, ?_, (writeRecord_flash i1 rt floor s).trans (putFlash_flash ..)⟩
  have hslot := ofBool_le (!s.sup.brSlot)
  rw [leBytes_length]
  omega

section
variable {s : State} (hwf : Memory.wfOf 0xFF s.sup.flash = true) (i1 rt : Bool) (floor : Nat)
include hwf

theorem writeRecord_wf : Memory.wfOf 0xFF (writeRecord i1 rt floor s).sup.flash = true := by
  obtain ⟨a, bs, -, hflash⟩ := writeRecord_writes i1 rt floor s
  rw [hflash]
  exact memWrite_wf _ _ hwf

/-- Behind the boot records, flash is as before. -/
theorem memRead_writeRecord {a : Nat} (ha : 0x10080 ≤ a) (n : Nat) :
    memRead 0xFF (writeRecord i1 rt floor s).sup.flash a n = memRead 0xFF s.sup.flash a n := by
  obtain ⟨b, bs, hend, hflash⟩ := writeRecord_writes i1 rt floor s
  rw [hflash]
  exact memRead_out hwf (.inr (hend.trans ha))

theorem fwHeader_writeRecord (b copy : Bool) : fwHeader (writeRecord i1 rt floor s) b copy = fwHeader s b copy := by
  rw [fwHeader, flashRead, memRead_writeRecord hwf i1 rt floor (copyBase_le b copy) 128]
  rfl

theorem copyOk_writeRecord (b copy : Bool) : copyOk (writeRecord i1 rt floor s) b copy = copyOk s b copy := by
  have hspan : ∀ a n, 0x10080 ≤ a → flashSpan (writeRecord i1 rt floor s) a n = flashSpan s a n := fun a n ha => by
    rw [flashSpan, memRead_writeRecord hwf i1 rt floor ha n]
    rfl
  have hrom : (writeRecord i1 rt floor s).sup.rom = s.sup.rom := by simp only [writeRecord, putFlash]
  have hbase := copyBase_le b copy
  simp only [copyOk, fwHeader_writeRecord hwf, hspan _ _ hbase, hspan _ _ (hbase.trans (Nat.le_add_right ..)), hrom]

end

/-! ### The marks of copies (R433, R434) -/

/-- Only what the supervisors hold has changed, and not the device state. -/
structure SupOnly (s t : State) : Prop where
  eq : t = { s with sup := t.sup }
  dstate : t.sup.dstate = s.sup.dstate

theorem SupOnly.trans {s t u : State} (h : SupOnly s t) (g : SupOnly t u) : SupOnly s u :=
  ⟨by rw [g.eq, h.eq], g.dstate.trans h.dstate⟩

theorem SupOnly.cmdOf {s t : State} (h : SupOnly s t) (c : CmdRef) : cmdOf t c = cmdOf s c := by
  obtain ⟨r, i⟩ := c
  rw [h.eq]
  cases r <;> rfl

theorem SupOnly.dom {s t : State} (h : SupOnly s t) : t.dom = s.dom := by rw [h.eq]

theorem SupOnly.sameStore {s t : State} (h : SupOnly s t) : SameStore s t := by
  rw [h.eq]
  exact ⟨rfl, rfl, rfl⟩

/-- Only marks of copies have changed. -/
structure MarksOnly (s t : State) : Prop where
  eq : t = { s with sup := { s.sup with i1Pend := t.sup.i1Pend, rtPend := t.sup.rtPend, i1Ver := t.sup.i1Ver, rtVer := t.sup.rtVer
                                        i1VerPrim := t.sup.i1VerPrim, rtVerPrim := t.sup.rtVerPrim } }

theorem MarksOnly.trans {s t u : State} (h : MarksOnly s t) (g : MarksOnly t u) : MarksOnly s u :=
  ⟨by rw [g.eq, h.eq]⟩

theorem MarksOnly.supOnly {s t : State} (h : MarksOnly s t) : SupOnly s t := by
  rw [h.eq]
  exact ⟨rfl, rfl⟩

theorem MarksOnly.sameFlash {s t : State} (h : MarksOnly s t) : SameFlash s t := by
  rw [h.eq]
  exact ⟨rfl, rfl, rfl⟩

theorem setVerified_marksOnly (rt b : Bool) (s : State) : MarksOnly s (setVerified rt b s) := by cases rt <;> exact ⟨rfl⟩

theorem setVerifiedPrim_marksOnly (rt b : Bool) (s : State) : MarksOnly s (setVerifiedPrim rt b s) := by cases rt <;> exact ⟨rfl⟩

theorem setActivation_marksOnly (rt b : Bool) (s : State) : MarksOnly s (setActivation rt b s) := by cases rt <;> exact ⟨rfl⟩

theorem swapMarks_marksOnly (rt : Bool) (s : State) : MarksOnly s (swapMarks rt s) :=
  (setVerified_marksOnly ..).trans (setVerifiedPrim_marksOnly ..)

@[simp] theorem verified_setVerified (rt b : Bool) (s : State) : verified (setVerified rt b s) rt = b := by cases rt <;> rfl
@[simp] theorem verified_setVerifiedPrim (rt rt' b : Bool) (s : State) : verified (setVerifiedPrim rt b s) rt' = verified s rt' := by
  cases rt <;> rfl
@[simp] theorem verified_setActivation (rt rt' b : Bool) (s : State) : verified (setActivation rt b s) rt' = verified s rt' := by
  cases rt <;> rfl
@[simp] theorem verifiedPrim_setVerifiedPrim (rt b : Bool) (s : State) : verifiedPrim (setVerifiedPrim rt b s) rt = b := by
  cases rt <;> rfl
@[simp] theorem verifiedPrim_setActivation (rt rt' b : Bool) (s : State) :
    verifiedPrim (setActivation rt b s) rt' = verifiedPrim s rt' := by cases rt <;> rfl
@[simp] theorem activation_setActivation (rt b : Bool) (s : State) : activation (setActivation rt b s) rt = b := by cases rt <;> rfl
@[simp] theorem activation_setVerified (rt rt' b : Bool) (s : State) : activation (setVerified rt b s) rt' = activation s rt' := by
  cases rt <;> rfl
@[simp] theorem activation_setVerifiedPrim (rt rt' b : Bool) (s : State) :
    activation (setVerifiedPrim rt b s) rt' = activation s rt' := by cases rt <;> rfl
@[simp] theorem verified_swapMarks (rt : Bool) (s : State) : verified (swapMarks rt s) rt = verifiedPrim s rt := by simp [swapMarks]
@[simp] theorem verifiedPrim_swapMarks (rt : Bool) (s : State) : verifiedPrim (swapMarks rt s) rt = verified s rt := by
  simp [swapMarks]
@[simp] theorem activation_swapMarks (rt rt' : Bool) (s : State) : activation (swapMarks rt s) rt' = activation s rt' := by
  simp [swapMarks]

end Sys2Proof.Machine
end

section
/-!
PROOFS. SUP.FWSTAGE writes, verifies and activates firmware copies and raises the floor (R433, R434, R414).
-/
namespace Sys2Proof.Machine
open Host

/-! ### What the operations leave as it is -/

theorem putFlash_supOnly (a : Nat) (bs : List Byte) (s : State) : SupOnly s (putFlash a bs s) := ⟨rfl, rfl⟩

theorem writeRecord_supOnly (i1 rt : Bool) (floor : Nat) (s : State) : SupOnly s (writeRecord i1 rt floor s) :=
  ⟨by simp only [writeRecord, putFlash], writeRecord_dstate ..⟩

theorem runRuntime_supOnly (copy : Bool) (s : State) : SupOnly s (runRuntime copy s) :=
  ⟨by simp only [runRuntime], runRuntime_dstate ..⟩

theorem unmarkBelow_marksOnly (rt : Bool) (s : State) : MarksOnly s (unmarkBelow rt s) := by
  unfold unmarkBelow
  extract_lets s1
  have h1 : MarksOnly s s1 := by
    simp only [s1]
    split
    · exact setVerified_marksOnly ..
    · exact ⟨rfl⟩
  split
  · exact h1.trans (setVerifiedPrim_marksOnly ..)
  · exact h1

theorem backTo_marksOnly (run : Bool) (s : State) (copy : Bool) : MarksOnly s (backTo run s copy) := by
  unfold backTo
  split
  · exact ⟨rfl⟩
  · exact swapMarks_marksOnly ..

/-- The state after an activation's record (R433): the copies of the stage have changed places. -/
def activated (rt : Bool) (s : State) : State :=
  let r := bootNow s
  setActivation rt true (swapMarks rt
    (if rt then writeRecord (bootI1 r) (!bootRt r) (bootFloor r) s else writeRecord (!bootI1 r) (bootRt r) (bootFloor r) s))

theorem activated_true (s : State) : activated true s =
    setActivation true true (swapMarks true (writeRecord (bootI1 (bootNow s)) (!bootRt (bootNow s)) (bootFloor (bootNow s)) s)) := rfl

theorem activated_false (s : State) : activated false s =
    setActivation false true (swapMarks false (writeRecord (!bootI1 (bootNow s)) (bootRt (bootNow s)) (bootFloor (bootNow s)) s)) := rfl

theorem activated_marks (rt : Bool) (s : State) : ∃ i1 r1,
    MarksOnly (writeRecord i1 r1 (bootFloor (bootNow s)) s) (activated rt s) := by
  cases rt with
  | false => exact ⟨_, _, (swapMarks_marksOnly ..).trans (setActivation_marksOnly ..)⟩
  | true => exact ⟨_, _, (swapMarks_marksOnly ..).trans (setActivation_marksOnly ..)⟩

theorem activated_supOnly (rt : Bool) (s : State) : SupOnly s (activated rt s) := by
  obtain ⟨_, _, h⟩ := activated_marks rt s
  exact (writeRecord_supOnly ..).trans h.supOnly

/-- Buffers, time and device state stay. -/
structure StageFrame (s t : State) : Prop where
  ob : t.mem.ob = s.mem.ob
  time : t.time = s.time
  dstate : t.sup.dstate = s.sup.dstate

theorem StageFrame.trans {s t u : State} (h : StageFrame s t) (g : StageFrame t u) : StageFrame s u :=
  ⟨g.ob.trans h.ob, g.time.trans h.time, g.dstate.trans h.dstate⟩

theorem SupOnly.frame {s t : State} (h : SupOnly s t) : StageFrame s t := ⟨h.sameStore.ob, h.sameStore.time, h.dstate⟩

theorem noteReads_frame (o : Owner) (e : Circ) (l : List (Nat × Nat)) (s : State) : StageFrame s (noteReads o e l s) :=
  ⟨noteReads_ob .., (noteReads_lineWork ..).time, (noteReads_lineWork ..).dstate⟩

section
variable {x : Ctx} {i : Nat} (hx : x.c = ⟨.hw 0, i⟩)
include hx

theorem complete_frame (o : Out) (s : State) : StageFrame s (complete x.c o s) := by
  rw [hx]
  have h := complete_completed i o s
  exact ⟨h.ob, h.time, by rw [h.sup]⟩

theorem flashFault_frame (s : State) : StageFrame s (flashFault x s) :=
  StageFrame.trans (t := logErr (.internal x.c.q x.c.idx) s) ⟨rfl, rfl, rfl⟩ (complete_frame hx ..)

theorem stageWrite_frame (p : FwStage) (s : State) : StageFrame s (stageWrite x p s) := by
  have hread := noteReads_frame x.o x.e [(p.src, p.len)] s
  unfold stageWrite
  split
  · exact hread.trans (complete_frame hx ..)
  extract_lets s0 a s1
  have h0 : StageFrame s s0 := hread.trans (setVerified_marksOnly ..).supOnly.frame
  split
  · exact (h0.trans (putFlash_supOnly ..).frame).trans (flashFault_frame hx _)
  · exact (h0.trans (putFlash_supOnly ..).frame).trans (complete_frame hx ..)

theorem stageVerify_frame (p : FwStage) (s : State) : StageFrame s (stageVerify x p s) := by
  unfold stageVerify
  dsimp only
  split <;> exact (setVerified_marksOnly ..).supOnly.frame.trans (complete_frame hx ..)

theorem loadRuntime_frame (s : State) : StageFrame s (loadRuntime x s) := by
  unfold loadRuntime
  extract_lets copy h s0 s1 r s2
  have h0 : SupOnly s s0 := (setActivation_marksOnly ..).supOnly
  split
  · exact (h0.trans (runRuntime_supOnly ..)).frame.trans (complete_frame hx ..)
  · have h2 : SupOnly s s2 := ((h0.trans (writeRecord_supOnly ..)).trans (setVerifiedPrim_marksOnly ..).supOnly).trans
      (backTo_marksOnly ..).supOnly
    exact h2.frame.trans (complete_frame hx ..)

theorem stageActivate_frame (p : FwStage) (s : State) : StageFrame s (stageActivate x p s) := by
  unfold stageActivate
  split
  · exact complete_frame hx ..
  split
  · exact complete_frame hx ..
  split
  · exact flashFault_frame hx s
  extract_lets r v s1 s2
  have h1 : SupOnly s s1 := activated_supOnly p.rt s
  split
  · exact h1.frame.trans (complete_frame hx ..)
  split
  · exact h1.frame.trans (loadRuntime_frame hx s1)
  · refine h1.frame.trans ⟨congrArg (·.ob) (modCmd_mem ..), modCmd_time .., congrArg (·.dstate) (modCmd_sup ..)⟩

theorem stageRaise_frame (s : State) : StageFrame s (stageRaise x s) := by
  unfold stageRaise
  split
  · exact complete_frame hx ..
  split
  · exact flashFault_frame hx s
  · exact (((writeRecord_supOnly ..).trans (unmarkBelow_marksOnly ..).supOnly).trans
      (unmarkBelow_marksOnly ..).supOnly).frame.trans (complete_frame hx ..)

theorem stageWork_frame (s : State) : StageFrame s (stageWork x s) := by
  unfold stageWork
  dsimp only
  split
  · exact complete_frame hx ..
  split
  · exact stageWrite_frame hx ..
  · exact stageVerify_frame hx ..
  · exact stageActivate_frame hx ..
  · exact stageRaise_frame hx s
  · exact complete_frame hx ..

end

/-! ### Completions with the marks of a stage -/

theorem verified_sup {s t : State} (h : t.sup = s.sup) (rt : Bool) : verified t rt = verified s rt := by rw [verified, h]; rfl
theorem verifiedPrim_sup {s t : State} (h : t.sup = s.sup) (rt : Bool) : verifiedPrim t rt = verifiedPrim s rt := by
  rw [verifiedPrim, h]; rfl
theorem activation_sup {s t : State} (h : t.sup = s.sup) (rt : Bool) : activation t rt = activation s rt := by rw [activation, h]; rfl

theorem stageReply_sup {s t : State} (h : t.sup = s.sup) (v : Nat) (rt : Bool) : stageReply v rt t = stageReply v rt s :=
  congrArg₂ (fun a b => v % 2 ^ 32 + ofBool a <<< 32 + ofBool b <<< 33) (verified_sup h rt) (activation_sup h rt)

/-- A completion with a reply of R433 gives the marks that it leaves. -/
theorem complete_stage {i : Nat} {s : State} {k : Cmd} (hk : cmdOf s ⟨.hw 0, i⟩ = some k) (v : Nat) (rt : Bool) :
    let t := complete ⟨.hw 0, i⟩ { reply := some (stageReply v rt s) } s
    endsAs t ⟨.hw 0, i⟩ stOk (stageReply v rt t) ∧ t.sup = s.sup := by
  have hsup := complete_sup (n := 0) (i := i) { reply := some (stageReply v rt s) } s
  refine ⟨?_, hsup⟩
  rw [stageReply_sup hsup]
  exact complete_done hk rfl

/-- So does a refusal. -/
theorem complete_stageRefused {i : Nat} {s : State} {k : Cmd} (hk : cmdOf s ⟨.hw 0, i⟩ = some k) (code v : Nat) (rt : Bool) :
    let t := complete ⟨.hw 0, i⟩ { status := stRefusedState, code := code, reply := some (stageReply v rt s) } s
    refusedAs t ⟨.hw 0, i⟩ code ∧ (∃ k', cmdOf t ⟨.hw 0, i⟩ = some k' ∧ k'.reply = stageReply v rt t) ∧ t.sup = s.sup := by
  have hsup := complete_sup (n := 0) (i := i) { status := stRefusedState, code := code, reply := some (stageReply v rt s) } s
  obtain ⟨k', hk', hph, hstatus, hcode, hreply⟩ := complete_refusedWith hk code (stageReply v rt s)
  refine ⟨⟨k', hk', hph, hstatus, hcode⟩, ⟨k', hk', ?_⟩, hsup⟩
  rw [stageReply_sup hsup, hreply]

/-! ### The cases of SUP.FWSTAGE (R433) -/

section
variable {x : Ctx} {s : State} {p : FwStage} (hp : FwStage.parse x.par = p)
include hp

theorem stageWork_busy (hop : p.op ≤ 2) (hbusy : activation s p.rt = true) : stageWork x s =
    let v := if p.op = 0 then 0 else inactiveVersion p.rt s
    complete x.c { status := stRefusedState, code := 0x9A, reply := some (stageReply v p.rt s) } s := by
  subst hp
  exact if_pos (by simp [hop, hbusy])

theorem stageWork_write (hop : p.op = 0) (hfree : activation s p.rt = false) : stageWork x s = stageWrite x p s := by
  subst hp
  refine (if_neg (by simp [hfree])).trans ?_
  rw [hop]
  rfl

theorem stageWork_verify (hop : p.op = 1) (hfree : activation s p.rt = false) : stageWork x s = stageVerify x p s := by
  subst hp
  refine (if_neg (by simp [hfree])).trans ?_
  rw [hop]
  rfl

theorem stageWork_activate (hop : p.op = 2) (hfree : activation s p.rt = false) : stageWork x s = stageActivate x p s := by
  subst hp
  refine (if_neg (by simp [hfree])).trans ?_
  rw [hop]
  rfl

theorem stageWork_raise (hop : p.op = 3) : stageWork x s = stageRaise x s := by
  subst hp
  refine (if_neg (by simp [hop])).trans ?_
  rw [hop]
  rfl

theorem stageWork_query (hop : p.op = 4) :
    stageWork x s = complete x.c { reply := some (stageReply (inactiveVersion p.rt s) p.rt s) } s := by
  subst hp
  refine (if_neg (by simp [hop])).trans ?_
  rw [hop]
  rfl

end

/-! ### WRITE and VERIFY -/

theorem LineWork.sameFlash {s t : State} (h : LineWork s t) : SameFlash s t := by
  obtain ⟨_, _, _, _, _, _, _, rfl⟩ := h
  exact ⟨rfl, rfl, rfl⟩

section
variable {x : Ctx} {s : State} {p : FwStage} {i : Nat} {k : Cmd} (hx : x.c = ⟨.hw 0, i⟩) (hk : cmdOf s ⟨.hw 0, i⟩ = some k)
include hx hk

/-- WRITE programs the span that it names and nothing else, and the copy loses its mark. -/
theorem stageWrite_spec (hbad : x.e.flashBad = false) (hread : readFault s x.o x.e p.src p.len = none)
    (hwf : Memory.wfOf 0xFF s.sup.flash = true) :
    let t := stageWrite x p s
    let a := copyBase p.rt (inactive s p.rt) + p.offset
    endsAs t ⟨.hw 0, i⟩ stOk (stageReply p.len p.rt t) ∧ verified t p.rt = false ∧
      memRead 0xFF t.sup.flash a p.len = readBytes s x.o p.src p.len ∧
      ∀ b, b < a ∨ a + p.len ≤ b → memGet 0xFF t.sup.flash b = memGet 0xFF s.sup.flash b := by
  intro t a
  have hnote := noteReads_lineWork x.o x.e [(p.src, p.len)] s
  have hmark := setVerified_marksOnly p.rt false (noteReads x.o x.e [(p.src, p.len)] s)
  set s0 := setVerified p.rt false (noteReads x.o x.e [(p.src, p.len)] s) with hs0
  have hsame : SameFlash s s0 := hnote.sameFlash.trans hmark.sameFlash
  have hlen : (readBytes s x.o p.src p.len).length = p.len := by simp [readBytes]
  have ht : t = complete ⟨.hw 0, i⟩ { reply := some (stageReply p.len p.rt (putFlash a (readBytes s x.o p.src p.len) s0)) }
      (putFlash a (readBytes s x.o p.src p.len) s0) := by
    simp only [t, stageWrite, hread, hbad, ← hs0, hx]
    rfl
  have hcmd : cmdOf (putFlash a (readBytes s x.o p.src p.len) s0) ⟨.hw 0, i⟩ = some k :=
    ((putFlash_supOnly ..).cmdOf _).trans ((hmark.supOnly.cmdOf _).trans ((hnote.cmdOf _).trans hk))
  obtain ⟨hends, hsup⟩ := complete_stage hcmd p.len p.rt
  rw [← ht] at hends hsup
  refine ⟨hends, ?_, ?_, fun b hb => ?_⟩
  · rw [verified_sup hsup]
    exact verified_setVerified ..
  · have hin := memRead_in (a := a) (bs := readBytes s x.o p.src p.len) hwf
    rw [hlen] at hin
    rw [hsup, putFlash_flash, hsame.flash, hin]
  · rw [hsup, putFlash_flash, hsame.flash, memGet_memWrite _ _ _ hwf, hlen, if_neg (by omega)]

end

/-- VERIFY of a copy that passes R427 and lies below the floor is refused; another one takes the result as its mark. -/
theorem stageVerify_eq (x : Ctx) (p : FwStage) (s : State) :
    let v := fwVersion (fwHeader s p.rt (inactive s p.rt))
    let ok := copyOk s p.rt (inactive s p.rt)
    (ok = true ∧ v < s.sup.fwFloor.toNat → stageVerify x p s = complete x.c
      { status := stRefusedState, code := 0x99, reply := some (stageReply v p.rt (setVerified p.rt false s)) }
      (setVerified p.rt false s)) ∧
    (¬ (ok = true ∧ v < s.sup.fwFloor.toNat) → stageVerify x p s = complete x.c
      { reply := some (stageReply v p.rt (setVerified p.rt ok s)) } (setVerified p.rt ok s)) := by
  unfold stageVerify
  dsimp only
  generalize copyOk s p.rt (inactive s p.rt) = ok
  generalize fwVersion (fwHeader s p.rt (inactive s p.rt)) = v
  constructor
  · intro h
    rw [if_pos (by simpa using h)]
  · intro h
    rw [if_neg (by simpa using h)]

section
variable {x : Ctx} {s : State} {p : FwStage} {i : Nat} {k : Cmd} (hx : x.c = ⟨.hw 0, i⟩) (hk : cmdOf s ⟨.hw 0, i⟩ = some k)
include hx hk

/-- VERIFY marks a copy that passes R427 at or above the floor; one below it is refused. -/
theorem stageVerify_spec :
    let t := stageVerify x p s
    let v := fwVersion (fwHeader s p.rt (inactive s p.rt))
    let ok := copyOk s p.rt (inactive s p.rt)
    t.sup.flash = s.sup.flash ∧
      (ok = true → s.sup.fwFloor.toNat ≤ v → endsAs t ⟨.hw 0, i⟩ stOk (stageReply v p.rt t) ∧ verified t p.rt = true) ∧
      (ok = true → v < s.sup.fwFloor.toNat → refusedAs t ⟨.hw 0, i⟩ 0x99 ∧ verified t p.rt = false) ∧
      (ok = false → endsAs t ⟨.hw 0, i⟩ stOk (stageReply v p.rt t) ∧ verified t p.rt = false) := by
  obtain ⟨hbelow, habove⟩ := stageVerify_eq x p s
  intro t v ok
  have hmark := fun b => setVerified_marksOnly p.rt b s
  have hcmd : ∀ b, cmdOf (setVerified p.rt b s) ⟨.hw 0, i⟩ = some k := fun b => ((hmark b).supOnly.cmdOf _).trans hk
  by_cases hlow : ok = true ∧ v < s.sup.fwFloor.toNat
  · obtain ⟨hrefused, -, hsup⟩ := complete_stageRefused (hcmd false) 0x99 v p.rt
    rw [← hx, ← hbelow hlow, hx] at hrefused
    rw [← hx, ← hbelow hlow] at hsup
    obtain ⟨hok, hlt⟩ := hlow
    refine ⟨by rw [hsup, (hmark false).sameFlash.flash], fun _ hle => absurd hlt (Nat.not_lt.2 hle), fun _ _ => ⟨hrefused, ?_⟩,
      fun hno => ?_⟩
    · rw [verified_sup hsup, verified_setVerified]
    · rw [hok] at hno
      cases hno
  · obtain ⟨hends, hsup⟩ := complete_stage (hcmd ok) v p.rt
    rw [← hx, ← habove hlow, hx] at hends
    rw [← hx, ← habove hlow] at hsup
    have hver : verified t p.rt = ok := by rw [verified_sup hsup, verified_setVerified]
    exact ⟨by rw [hsup, (hmark ok).sameFlash.flash], fun hok _ => ⟨hends, hver.trans hok⟩, fun hok hlt => absurd ⟨hok, hlt⟩ hlow,
      fun hno => ⟨hends, hver.trans hno⟩⟩

end

end Sys2Proof.Machine
end

section
/-!
PROOFS. SUP.FWSTAGE, its activations and its raise of the floor (R433, R434, R414).
-/
namespace Sys2Proof.Machine
open Host

/-! ### ACTIVATE -/

section
variable (i1 r1 : Bool) (floor : Nat) (rt : Bool) (s : State)

theorem verified_writeRecord : verified (writeRecord i1 r1 floor s) rt = verified s rt := by
  simp only [verified, writeRecord, putFlash]

theorem verifiedPrim_writeRecord : verifiedPrim (writeRecord i1 r1 floor s) rt = verifiedPrim s rt := by
  simp only [verifiedPrim, writeRecord, putFlash]

theorem writeRecord_seq : (writeRecord i1 r1 floor s).sup.brSeq.toNat = (bootSeq (bootNow s) + 1) % 2 ^ 32 := by
  simp only [writeRecord, BitVec.toNat_ofNat]

theorem writeRecord_floor : (writeRecord i1 r1 floor s).sup.fwFloor = BitVec.ofNat 32 floor := by simp only [writeRecord]

theorem writeRecord_rtCopy : (writeRecord i1 r1 floor s).sup.rtCopy = s.sup.rtCopy := by simp only [writeRecord, putFlash]

theorem writeRecord_fwRt : (writeRecord i1 r1 floor s).sup.fwRt = s.sup.fwRt := by simp only [writeRecord, putFlash]

theorem writeRecord_pend : (writeRecord i1 r1 floor s).sup.pend = s.sup.pend := by simp only [writeRecord, putFlash]

end

section
variable {s t : State} (h : MarksOnly s t)
include h

theorem MarksOnly.brSlot : t.sup.brSlot = s.sup.brSlot := by rw [h.eq]
theorem MarksOnly.brSeq : t.sup.brSeq = s.sup.brSeq := by rw [h.eq]
theorem MarksOnly.fwFloor : t.sup.fwFloor = s.sup.fwFloor := by rw [h.eq]
theorem MarksOnly.rtCopy : t.sup.rtCopy = s.sup.rtCopy := by rw [h.eq]
theorem MarksOnly.fwRt : t.sup.fwRt = s.sup.fwRt := by rw [h.eq]
theorem MarksOnly.pend : t.sup.pend = s.sup.pend := by rw [h.eq]

end

/-- What an activation's record leaves (R433). -/
structure Activated (rt : Bool) (s t : State) : Prop where
  pending : activation t rt = true
  mark : verified t rt = verifiedPrim s rt
  markPrim : verifiedPrim t rt = verified s rt
  slot : t.sup.brSlot = !s.sup.brSlot
  seq : t.sup.brSeq.toNat = (bootSeq (bootNow s) + 1) % 2 ^ 32
  rtCopy : t.sup.rtCopy = s.sup.rtCopy
  fwRt : t.sup.fwRt = s.sup.fwRt
  pend : t.sup.pend = s.sup.pend

theorem activated_spec (rt : Bool) (s : State) : Activated rt s (activated rt s) := by
  obtain ⟨i1, r1, hm⟩ := activated_marks rt s
  have hpending : activation (activated rt s) rt = true := by unfold activated; exact activation_setActivation ..
  obtain ⟨hmark, hprim⟩ : verified (activated rt s) rt = verifiedPrim s rt ∧ verifiedPrim (activated rt s) rt = verified s rt := by
    cases rt <;>
      simp only [activated_true, activated_false, verified_setActivation, verified_swapMarks, verifiedPrim_setActivation,
        verifiedPrim_swapMarks, verified_writeRecord, verifiedPrim_writeRecord, and_self]
  exact ⟨hpending, hmark, hprim, hm.brSlot.trans (writeRecord_slot ..),
    (congrArg BitVec.toNat hm.brSeq).trans (writeRecord_seq ..), hm.rtCopy.trans (writeRecord_rtCopy ..),
    hm.fwRt.trans (writeRecord_fwRt ..), hm.pend.trans (writeRecord_pend ..)⟩

/-- What flash says after the record of a runtime copy's activation. -/
structure RuntimeNamed (s t : State) : Prop where
  wf : Memory.wfOf 0xFF t.sup.flash = true
  seq : bootSeq (bootNow t) = (bootSeq (bootNow s) + 1) % 2 ^ 32
  rt : bootRt (bootNow t) = inactive s true
  floor : bootFloor (bootNow t) = bootFloor (bootNow s)
  header : ∀ copy, fwHeader t true copy = fwHeader s true copy
  ok : ∀ copy, copyOk t true copy = copyOk s true copy

theorem activated_runtimeNamed {s : State} (hwf : Memory.wfOf 0xFF s.sup.flash = true) : RuntimeNamed s (activated true s) := by
  have hmarks := ((swapMarks_marksOnly true (writeRecord (bootI1 (bootNow s)) (!bootRt (bootNow s)) (bootFloor (bootNow s)) s)).trans
    (setActivation_marksOnly true true _)).sameFlash
  rw [← activated_true] at hmarks
  obtain ⟨hseq, -, hrt, hfloor, -⟩ := writeRecord_record (floor := bootFloor (bootNow s)) hwf (bootI1 (bootNow s))
    (!bootRt (bootNow s)) (fld_lt (bootNow s) 127 96)
  constructor
  · rw [hmarks.flash]
    exact writeRecord_wf hwf ..
  · rw [hmarks.bootNow, hseq]
  · rw [hmarks.bootNow, hrt]
    rfl
  · rw [hmarks.bootNow]
    exact hfloor
  · exact fun copy => (hmarks.fwHeader ..).trans (fwHeader_writeRecord hwf ..)
  · exact fun copy => (hmarks.copyOk ..).trans (copyOk_writeRecord hwf ..)

/-- R414: no domain is formed, or the copy implements its level and formats. -/
theorem fitsDomain_iff (s : State) (h : Nat) : fitsDomain s h = true ↔
    formed s = false ∨ (bit h (126 + s.dom.nlDom) = true ∧ ∀ f ∈ s.dom.fmts, bit h (128 + f) = true) := by
  simp only [fitsDomain, Bool.or_eq_true, Bool.not_eq_true', Bool.and_eq_true, List.all_eq_true]

theorem SupOnly.atRest {s t : State} (h : SupOnly s t) : atRest t = atRest s := by rw [Machine.atRest, h.dstate]; rfl

theorem SupOnly.fitsDomain {s t : State} (h : SupOnly s t) (v : Nat) : fitsDomain t v = fitsDomain s v := by
  simp only [Machine.fitsDomain, formed, h.dom]

section
variable {x : Ctx} {s : State} {p : FwStage}

theorem stageActivate_unverified (h : verified s p.rt = false) : stageActivate x p s = complete x.c
    { status := stRefusedState, code := 0x98, reply := some (stageReply (inactiveVersion p.rt s) p.rt s) } s := by
  exact if_pos (by rw [h]; rfl)

variable (hver : verified s p.rt = true) (hack : x.e.ack = true) (hbad : x.e.flashBad = false)
include hver hack hbad

theorem stageActivate_instar1 (hrt : p.rt = false) : stageActivate x p s =
    complete x.c { reply := some (stageReply (inactiveVersion false s) false (activated false s)) } (activated false s) := by
  unfold stageActivate
  rw [hver, hack, hbad, hrt]
  rfl

/-- A runtime copy is loaded at rest where it fits the domain, and waits else. -/
theorem stageActivate_runtime (hrt : p.rt = true) :
    let u := activated true s
    stageActivate x p s = if atRest u && fitsDomain u (fwHeader u true (bootRt (bootNow u))) then loadRuntime x u
      else modCmd x.c (fun k => { k with ph := .crossing }) { u with sup := { u.sup with pend := u.sup.pend ++ [⟨x.c, x.e⟩] } } := by
  unfold stageActivate
  rw [hver, hack, hbad, hrt]
  rfl

end

/-! ### The load of a runtime copy (R434) -/

/-- The runtime copy that the record names passes R427 and lies at or above the record's floor. -/
def runtimeFit (u : State) : Bool :=
  copyOk u true (bootRt (bootNow u)) && decide (bootFloor (bootNow u) ≤ fwVersion (fwHeader u true (bootRt (bootNow u))))

/-- A copy that is taken runs; for one that is not, the record names the running copy again. -/
def loaded (u : State) : State :=
  let copy := bootRt (bootNow u)
  let s0 := setActivation true false u
  if runtimeFit u then runRuntime copy s0
  else backTo u.sup.rtCopy
    (setVerifiedPrim true false (writeRecord (bootI1 (bootNow u)) u.sup.rtCopy (bootFloor (bootNow u)) s0)) copy

theorem loadRuntime_fit {x : Ctx} {u : State} (h : runtimeFit u = true) : loadRuntime x u =
    complete x.c { reply := some (stageReply (fwVersion (fwHeader u true (bootRt (bootNow u)))) true (loaded u)) } (loaded u) := by
  rw [loaded, if_pos h]
  unfold runtimeFit at h
  rw [loadRuntime, if_pos h]

theorem loadRuntime_unfit {x : Ctx} {u : State} (h : runtimeFit u = false) : loadRuntime x u =
    complete x.c { status := stRefusedState, code := 0x98
                   reply := some (stageReply (fwVersion (fwHeader (loaded u) true u.sup.rtCopy)) true (loaded u)) } (loaded u) := by
  have hno : ¬ runtimeFit u = true := by rw [h]; exact Bool.false_ne_true
  rw [loaded, if_neg hno]
  unfold runtimeFit at hno
  rw [loadRuntime, if_neg hno]

theorem loaded_supOnly (u : State) : SupOnly u (loaded u) := by
  have h0 : SupOnly u (setActivation true false u) := (setActivation_marksOnly ..).supOnly
  unfold loaded
  split
  · exact h0.trans (runRuntime_supOnly ..)
  · exact ((h0.trans (writeRecord_supOnly ..)).trans (setVerifiedPrim_marksOnly ..).supOnly).trans (backTo_marksOnly ..).supOnly

theorem activation_writeRecord (i1 r1 : Bool) (floor : Nat) (s : State) (rt : Bool) :
    activation (writeRecord i1 r1 floor s) rt = activation s rt := by simp only [activation, writeRecord, putFlash]

/-- Either way no runtime copy waits any more. -/
theorem loaded_activation (u : State) : activation (loaded u) true = false := by
  unfold loaded backTo
  extract_lets copy s0
  split
  · rfl
  · split
    · rw [activation_setVerifiedPrim, activation_writeRecord, activation_setActivation]
    · rw [activation_swapMarks, activation_setVerifiedPrim, activation_writeRecord, activation_setActivation]

theorem loadRuntime_sup {x : Ctx} {i : Nat} (hx : x.c = ⟨.hw 0, i⟩) (u : State) : (loadRuntime x u).sup = (loaded u).sup := by
  cases h : runtimeFit u with
  | false => rw [loadRuntime_unfit h, hx]; exact complete_sup ..
  | true => rw [loadRuntime_fit h, hx]; exact complete_sup ..

/-- What a copy that runs leaves (R424, R434). -/
theorem loaded_fit {u : State} (h : runtimeFit u = true) :
    verified (loaded u) true = verified u true ∧ (loaded u).sup.rtCopy = bootRt (bootNow u) ∧
      (loaded u).sup.fwRt.toNat = fwVersion (fwHeader u true (bootRt (bootNow u))) ∧ (loaded u).sup.brSlot = u.sup.brSlot := by
  have hheader : ∀ copy, fwHeader (setActivation true false u) true copy = fwHeader u true copy :=
    (setActivation_marksOnly ..).sameFlash.fwHeader true
  rw [loaded, if_pos h]
  refine ⟨rfl, rfl, ?_, rfl⟩
  simp only [runRuntime, hheader, BitVec.toNat_ofNat]
  exact Nat.mod_eq_of_lt (fld_lt _ 95 64)

/-- What is left where the running copy stays (R434). -/
theorem loaded_unfit {u : State} (h : runtimeFit u = false) (hwf : Memory.wfOf 0xFF u.sup.flash = true)
    (hrun : bootRt (bootNow u) ≠ u.sup.rtCopy) :
    let t := loaded u
    verified t true = false ∧ t.sup.rtCopy = u.sup.rtCopy ∧ t.sup.fwRt = u.sup.fwRt ∧
      bootRt (bootNow t) = u.sup.rtCopy ∧ t.sup.brSlot = !u.sup.brSlot ∧
      t.sup.brSeq.toNat = (bootSeq (bootNow u) + 1) % 2 ^ 32 := by
  have h0 := setActivation_marksOnly true false u
  have hwf0 : Memory.wfOf 0xFF (setActivation true false u).sup.flash = true := by rw [h0.sameFlash.flash]; exact hwf
  obtain ⟨-, -, hrt, -, -⟩ := writeRecord_record (floor := bootFloor (bootNow u)) hwf0 (bootI1 (bootNow u)) u.sup.rtCopy
    (fld_lt (bootNow u) 127 96)
  have hslot := writeRecord_slot (bootI1 (bootNow u)) u.sup.rtCopy (bootFloor (bootNow u)) (setActivation true false u)
  have hseq := writeRecord_seq (bootI1 (bootNow u)) u.sup.rtCopy (bootFloor (bootNow u)) (setActivation true false u)
  have hcopy := writeRecord_rtCopy (bootI1 (bootNow u)) u.sup.rtCopy (bootFloor (bootNow u)) (setActivation true false u)
  have hfw := writeRecord_fwRt (bootI1 (bootNow u)) u.sup.rtCopy (bootFloor (bootNow u)) (setActivation true false u)
  rw [loaded, if_neg (by rw [h]; exact Bool.false_ne_true), backTo, if_neg hrun]
  generalize writeRecord (bootI1 (bootNow u)) u.sup.rtCopy (bootFloor (bootNow u)) (setActivation true false u) = w
    at hrt hslot hseq hcopy hfw ⊢
  have hm : MarksOnly w (swapMarks true (setVerifiedPrim true false w)) :=
    (setVerifiedPrim_marksOnly ..).trans (swapMarks_marksOnly ..)
  refine ⟨?_, ?_, ?_, ?_, ?_, ?_⟩
  · rw [verified_swapMarks, verifiedPrim_setVerifiedPrim]
  · rw [hm.rtCopy, hcopy, h0.rtCopy]
  · rw [hm.fwRt, hfw, h0.fwRt]
  · rw [hm.sameFlash.bootNow, hrt]
  · rw [hm.brSlot, hslot, h0.brSlot]
  · rw [hm.brSeq, hseq, h0.sameFlash.bootNow]

/-! ### RAISE -/

/-- A copy of the stage below the floor has no mark any more (R428, R433). -/
theorem unmarkBelow_unmarked (rt : Bool) (s : State) :
    (inactiveVersion rt s < s.sup.fwFloor.toNat → verified (unmarkBelow rt s) rt = false) ∧
      (fwVersion (fwHeader s rt (!inactive s rt)) < s.sup.fwFloor.toNat → verifiedPrim (unmarkBelow rt s) rt = false) := by
  unfold unmarkBelow
  extract_lets s1
  have h1 : MarksOnly s s1 ∧ (inactiveVersion rt s < s.sup.fwFloor.toNat → verified s1 rt = false) := by
    simp only [s1]
    split
    · exact ⟨setVerified_marksOnly .., fun _ => verified_setVerified ..⟩
    · rename_i hno
      exact ⟨⟨rfl⟩, fun hlow => absurd hlow hno⟩
  obtain ⟨hm, hmark⟩ := h1
  rw [hm.fwFloor, hm.sameFlash.inactive, hm.sameFlash.fwHeader]
  split
  · exact ⟨fun hlow => (verified_setVerifiedPrim ..).trans (hmark hlow), fun _ => verifiedPrim_setVerifiedPrim ..⟩
  · rename_i hno
    exact ⟨hmark, fun hlow => absurd hlow hno⟩

/-- The marks of the other stage stay. -/
theorem unmarkBelow_other (s : State) : verified (unmarkBelow true s) false = verified s false ∧
    verifiedPrim (unmarkBelow true s) false = verifiedPrim s false := by
  unfold unmarkBelow
  extract_lets s1
  have h1 : verified s1 false = verified s false ∧ verifiedPrim s1 false = verifiedPrim s false := by
    simp only [s1]
    split <;> exact ⟨rfl, rfl⟩
  split <;> exact h1

/-- After both stages no copy below the floor has a mark. -/
theorem unmarkBelow_both (w : State) (b : Bool) :
    let t := unmarkBelow true (unmarkBelow false w)
    (inactiveVersion b t < t.sup.fwFloor.toNat → verified t b = false) ∧
      (fwVersion (fwHeader t b (!inactive t b)) < t.sup.fwFloor.toNat → verifiedPrim t b = false) := by
  intro t
  have hv := unmarkBelow_marksOnly false w
  have ht := unmarkBelow_marksOnly true (unmarkBelow false w)
  have hall := (hv.trans ht).sameFlash
  rw [hall.inactiveVersion, hall.inactive, hall.fwHeader, (hv.trans ht).fwFloor]
  cases b with
  | false =>
    obtain ⟨hver, hprim⟩ := unmarkBelow_other (unmarkBelow false w)
    rw [hver, hprim]
    exact unmarkBelow_unmarked false w
  | true =>
    have h := unmarkBelow_unmarked true (unmarkBelow false w)
    rw [hv.sameFlash.inactiveVersion, hv.sameFlash.inactive, hv.sameFlash.fwHeader, hv.fwFloor] at h
    exact h

/-- The state after a raise (R433). -/
def raised (s : State) : State :=
  let r := bootNow s
  unmarkBelow true (unmarkBelow false
    (writeRecord (bootI1 r) (bootRt r) (max (bootFloor r) (min s.sup.setI1.toNat s.sup.setRt.toNat)) s))

theorem stageRaise_raised {x : Ctx} (s : State) (hack : x.e.ack = true) (hbad : x.e.flashBad = false) :
    ∃ v, stageRaise x s = complete x.c { reply := some v } (raised s) := by
  unfold stageRaise
  rw [hack, hbad]
  exact ⟨_, rfl⟩

theorem raised_spec (s : State) : (raised s).sup.fwFloor =
      BitVec.ofNat 32 (max (bootFloor (bootNow s)) (min s.sup.setI1.toNat s.sup.setRt.toNat)) ∧
    (raised s).sup.brSlot = !s.sup.brSlot := by
  unfold raised
  dsimp only
  have hm := fun w => (unmarkBelow_marksOnly false w).trans (unmarkBelow_marksOnly true (unmarkBelow false w))
  exact ⟨(hm _).fwFloor.trans (writeRecord_floor ..), (hm _).brSlot.trans (writeRecord_slot ..)⟩

end Sys2Proof.Machine
end

section
/-!
PROOFS. SUP.FWSTAGE as O25 states it (R433, R434, R414).
-/
namespace Sys2Proof.Machine
open Host

theorem activated_inactive {s : State} (hwf : Memory.wfOf 0xFF s.sup.flash = true) :
    runtimeFit (activated true s) = (copyOk s true (inactive s true) &&
      decide (bootFloor (bootNow s) ≤ fwVersion (fwHeader s true (inactive s true)))) := by
  have hn := activated_runtimeNamed hwf
  unfold runtimeFit
  rw [hn.rt, hn.ok, hn.floor, hn.header]

section
variable {x : Ctx} {s : State} {p : FwStage} {i : Nat} {k : Cmd} (hx : x.c = ⟨.hw 0, i⟩) (hk : cmdOf s ⟨.hw 0, i⟩ = some k)
  (hver : verified s p.rt = true) (hack : x.e.ack = true) (hbad : x.e.flashBad = false)
include hx hk hver hack hbad

theorem activateInstar1_spec (hrt : p.rt = false) :
    let t := stageActivate x p s
    endsAs t ⟨.hw 0, i⟩ stOk (stageReply (inactiveVersion false s) false t) ∧ Activated false s t := by
  intro t
  have ha := activated_spec false s
  have hcmd := ((activated_supOnly false s).cmdOf ⟨.hw 0, i⟩).trans hk
  obtain ⟨hends, hsup⟩ := complete_stage hcmd (inactiveVersion false s) false
  have ht : t = complete ⟨.hw 0, i⟩
      { reply := some (stageReply (inactiveVersion false s) false (activated false s)) } (activated false s) := by
    rw [← hx]
    exact stageActivate_instar1 hver hack hbad hrt
  rw [← ht] at hends hsup
  refine ⟨hends, ?_⟩
  constructor
  · rw [activation_sup hsup, ha.pending]
  · rw [verified_sup hsup, ha.mark]
  · rw [verifiedPrim_sup hsup, ha.markPrim]
  · rw [hsup, ha.slot]
  · rw [hsup, ha.seq]
  · rw [hsup, ha.rtCopy]
  · rw [hsup, ha.fwRt]
  · rw [hsup, ha.pend]

variable (hrt : p.rt = true) (hwf : Memory.wfOf 0xFF s.sup.flash = true)
include hrt hwf

omit hx hk in
theorem stageActivate_runtimeAt : stageActivate x p s =
    if atRest s = true ∧ fitsDomain s (fwHeader s true (inactive s true)) = true then loadRuntime x (activated true s)
    else modCmd x.c (fun k => { k with ph := .crossing })
      { activated true s with sup := { (activated true s).sup with pend := (activated true s).sup.pend ++ [⟨x.c, x.e⟩] } } := by
  have hn := activated_runtimeNamed hwf
  have h := stageActivate_runtime hver hack hbad hrt
  dsimp only at h
  rw [h, (activated_supOnly true s).atRest, hn.rt, hn.header, (activated_supOnly true s).fitsDomain]
  simp only [Bool.and_eq_true]

theorem activateRuntime_waits (hwait : ¬ (atRest s = true ∧ fitsDomain s (fwHeader s true (inactive s true)) = true)) :
    let t := stageActivate x p s
    activation t true = true ∧ verified t true = verifiedPrim s true ∧ t.sup.brSlot = (!s.sup.brSlot) ∧
      t.sup.rtCopy = s.sup.rtCopy ∧ t.sup.pend = s.sup.pend ++ [⟨⟨.hw 0, i⟩, x.e⟩] ∧
      ∃ k, cmdOf t ⟨.hw 0, i⟩ = some k ∧ k.ph = .crossing := by
  have ha := activated_spec true s
  have hcmd := ((activated_supOnly true s).cmdOf ⟨.hw 0, i⟩).trans hk
  intro t
  have ht : t = modCmd ⟨.hw 0, i⟩ (fun k => { k with ph := .crossing })
      { activated true s with sup := { (activated true s).sup with
        pend := (activated true s).sup.pend ++ [⟨⟨.hw 0, i⟩, x.e⟩] } } := by
    rw [← hx]
    exact (stageActivate_runtimeAt hver hack hbad hrt hwf).trans (if_neg hwait)
  rw [ht]
  generalize activated true s = u at ha hcmd
  simp only [activation, verified, modCmd_sup]
  refine ⟨ha.pending, ha.mark, ha.slot, ha.rtCopy, by rw [ha.pend], { k with ph := .crossing }, ?_, rfl⟩
  exact (cmdOf_modCmd _ (fun k => { k with ph := .crossing }) (fun _ => rfl) _).trans (congrArg (Option.map _) hcmd)

variable (hnow : atRest s = true ∧ fitsDomain s (fwHeader s true (inactive s true)) = true)
include hnow

omit hk in
theorem activateRuntime_now : activation (stageActivate x p s) true = false := by
  rw [stageActivate_runtimeAt hver hack hbad hrt hwf, if_pos hnow, activation_sup (loadRuntime_sup hx _), loaded_activation]

theorem activateRuntime_runs (hok : copyOk s true (inactive s true) = true)
    (hfloor : bootFloor (bootNow s) ≤ fwVersion (fwHeader s true (inactive s true))) :
    let t := stageActivate x p s
    endsAs t ⟨.hw 0, i⟩ stOk (stageReply (fwVersion (fwHeader s true (inactive s true))) true t) ∧
      t.sup.rtCopy = inactive s true ∧ t.sup.fwRt.toNat = fwVersion (fwHeader s true (inactive s true)) ∧
      verified t true = verifiedPrim s true ∧ t.sup.brSlot = !s.sup.brSlot := by
  have ha := activated_spec true s
  have hn := activated_runtimeNamed hwf
  have hfit : runtimeFit (activated true s) = true := by
    rw [activated_inactive hwf, hok, decide_eq_true hfloor]
    rfl
  obtain ⟨hmark, hcopy, hfw, hslot⟩ := loaded_fit hfit
  have hcmd := (((activated_supOnly true s).trans (loaded_supOnly _)).cmdOf ⟨.hw 0, i⟩).trans hk
  have ht := ((stageActivate_runtimeAt hver hack hbad hrt hwf).trans (if_pos hnow)).trans (loadRuntime_fit hfit)
  rw [hn.rt, hn.header, hx] at ht
  obtain ⟨hends, hsup⟩ := complete_stage hcmd (fwVersion (fwHeader s true (inactive s true))) true
  rw [← ht] at hends hsup
  intro t
  refine ⟨hends, ?_, ?_, ?_, ?_⟩
  · rw [hsup, hcopy, hn.rt]
  · rw [hsup, hfw, hn.rt, hn.header]
  · rw [verified_sup hsup, hmark, ha.mark]
  · rw [hsup, hslot, ha.slot]

theorem activateRuntime_stays (hno : copyOk s true (inactive s true) = false ∨
      fwVersion (fwHeader s true (inactive s true)) < bootFloor (bootNow s)) (hrun : s.sup.rtCopy = bootRt (bootNow s)) :
    let t := stageActivate x p s
    refusedAs t ⟨.hw 0, i⟩ 0x98 ∧ t.sup.rtCopy = s.sup.rtCopy ∧ t.sup.fwRt = s.sup.fwRt ∧
      bootRt (bootNow t) = s.sup.rtCopy ∧ t.sup.brSlot = s.sup.brSlot ∧
      t.sup.brSeq.toNat = (bootSeq (bootNow s) + 2) % 2 ^ 32 ∧ verified t true = false := by
  have ha := activated_spec true s
  have hn := activated_runtimeNamed hwf
  have hfit : runtimeFit (activated true s) = false := by
    rw [activated_inactive hwf, Bool.and_eq_false_iff, decide_eq_false_iff_not, Nat.not_le]
    exact hno
  have hother : bootRt (bootNow (activated true s)) ≠ (activated true s).sup.rtCopy := by
    rw [hn.rt, ha.rtCopy, hrun]
    exact Bool.not_ne_self _
  obtain ⟨hmark, hcopy, hfw, hname, hslot, hseq⟩ := loaded_unfit hfit hn.wf hother
  have hcmd := (((activated_supOnly true s).trans (loaded_supOnly _)).cmdOf ⟨.hw 0, i⟩).trans hk
  have ht := ((stageActivate_runtimeAt hver hack hbad hrt hwf).trans (if_pos hnow)).trans (loadRuntime_unfit hfit)
  rw [hx] at ht
  obtain ⟨hends, -, hsup⟩ := complete_stageRefused hcmd 0x98
    (fwVersion (fwHeader (loaded (activated true s)) true (activated true s).sup.rtCopy)) true
  rw [← ht] at hends hsup
  intro t
  refine ⟨hends, ?_, ?_, ?_, ?_, ?_, ?_⟩
  · rw [hsup, hcopy, ha.rtCopy]
  · rw [hsup, hfw, ha.fwRt]
  · rw [(sameFlash_of_sup hsup).bootNow, hname, ha.rtCopy]
  · rw [hsup, hslot, ha.slot, Bool.not_not]
  · rw [hsup, hseq, hn.seq]
    omega
  · rw [verified_sup hsup, hmark]

end

/-- Settles O25: each operation by what it does at work in `s1`, whose supervisors are those that the row found. -/
theorem firmwareStages : Obligations.FirmwareStages := by
  unfold Obligations.FirmwareStages
  intro c e s s1 x h p
  have hp : FwStage.parse x.par = p := rfl
  clear_value p
  intro hd a r
  have hc := startOf_control h rfl (by decide) (by decide) (fun _ => rfl) (fun _ => rfl) fun _ => rfl
  obtain ⟨i, rfl⟩ := hc.queue
  have hx := hc.ctx
  have hk := hc.cmd
  have hframe := stageWork_frame hx s1
  have hf : SameFlash s s1 := sameFlash_of_sup hc.sup
  have hver : ∀ b, verified s1 b = verified s b := verified_sup hc.sup
  have hprim : ∀ b, verifiedPrim s1 b = verifiedPrim s b := verifiedPrim_sup hc.sup
  have hact : ∀ b, activation s1 b = activation s b := activation_sup hc.sup
  have hreply : ∀ v b, stageReply v b s1 = stageReply v b s := stageReply_sup hc.sup
  have hrest : atRest s1 = atRest s := by rw [atRest, hc.sup]; rfl
  have hfits : ∀ v, fitsDomain s1 v = fitsDomain s v := fun v => by simp only [fitsDomain, formed, hc.same.dom]
  refine ⟨stageWork x s1, congrArg Outcome.next (runCmd_start h), hframe.ob.trans hc.ob, hframe.time.trans hc.time,
    hframe.dstate.trans (by rw [hc.sup]), fun hop => ?_, fun hop hbusy => ?_, fun hop hfree hbad hread hwf => ?_,
    fun hop hfree => ?_, fun hop hfree hno => ?_, fun hop hrt hfree hmark hack hbad => ?_,
    fun hop hrt hfree hmark hack hbad hwf => ?_, fun hop hack hbad => ?_⟩
  case refine_1 =>
    rw [stageWork_query hp hop, hx, hf.inactiveVersion, hreply]
    exact ⟨complete_done hk rfl, (complete_sup ..).trans hc.sup⟩
  case refine_2 =>
    rw [stageWork_busy hp hop ((hact _).trans hbusy), hx]
    obtain ⟨hrefused, ⟨k, hk', hval⟩, hsup⟩ := complete_stageRefused hk 0x9A (if p.op = 0 then 0 else inactiveVersion p.rt s1) p.rt
    refine ⟨hsup.trans hc.sup, hrefused, fun hw => ⟨k, hk', ?_⟩⟩
    exact hval.trans (congrArg (fun v => stageReply v p.rt _) (if_pos hw))
  case refine_3 =>
    rw [stageWork_write hp hop ((hact _).trans hfree)]
    rw [← hc.circ] at hbad hread
    have hspec := stageWrite_spec hx hk hbad hread (by rw [hc.sup]; exact hwf)
    rw [hf.inactive, hf.flash] at hspec
    exact hspec
  case refine_4 =>
    rw [stageWork_verify hp hop ((hact _).trans hfree)]
    have hspec := stageVerify_spec (p := p) hx hk
    simp only [hf.inactive, hf.fwHeader, hf.copyOk, hc.sup] at hspec
    exact hspec
  case refine_5 =>
    rw [stageWork_activate hp hop ((hact _).trans hfree), stageActivate_unverified ((hver _).trans hno), hx]
    obtain ⟨hrefused, -, hsup⟩ := complete_stageRefused hk 0x98 (inactiveVersion p.rt s1) p.rt
    exact ⟨hrefused, hsup.trans hc.sup⟩
  case refine_6 =>
    rw [stageWork_activate hp hop ((hact _).trans (hrt ▸ hfree))]
    rw [← hc.circ] at hack hbad
    obtain ⟨hends, ha⟩ := activateInstar1_spec hx hk ((hver _).trans (hrt ▸ hmark)) hack hbad hrt
    rw [hf.inactiveVersion] at hends
    exact ⟨hends, ha.pending, ha.mark.trans (hprim _), ha.markPrim.trans ((hver _).trans hmark), ha.slot.trans (by rw [hf.slot]),
      ha.seq.trans (by rw [hf.bootNow])⟩
  case refine_7 =>
    intro joins
    rw [stageWork_activate hp hop ((hact _).trans (hrt ▸ hfree))]
    rw [← hc.circ] at hack hbad
    rw [← hf.flash] at hwf
    have hmark1 : verified s1 p.rt = true := (hver _).trans (hrt ▸ hmark)
    have hheader : hd = fwHeader s1 true (inactive s1 true) := by rw [hf.inactive, hf.fwHeader, ← hrt]
    have hnow : (atRest s1 = true ∧ fitsDomain s1 (fwHeader s1 true (inactive s1 true)) = true) ↔ atRest s = true ∧ joins := by
      rw [hrest, hfits, fitsDomain_iff, ← hheader]
    refine ⟨fun hwait => ?_, fun hat hjoins => ?_⟩
    · have hno : ¬ (atRest s = true ∧ joins) := fun ⟨hat, hj⟩ => hwait.elim (fun hb => by rw [hat] at hb; cases hb) (· hj)
      have hspec := activateRuntime_waits hx hk hmark1 hack hbad hrt hwf (hnow.not.2 hno)
      rw [hprim, hc.sup, hc.circ] at hspec
      exact hspec
    · have hgo := hnow.2 ⟨hat, hjoins⟩
      have hruns := activateRuntime_runs hx hk hmark1 hack hbad hrt hwf hgo
      have hstays := activateRuntime_stays hx hk hmark1 hack hbad hrt hwf hgo
      rw [← hheader, hf.inactive, hf.copyOk, hf.bootNow, hprim, hc.sup] at hruns
      rw [← hheader, hf.inactive, hf.copyOk, hf.bootNow, hc.sup] at hstays
      exact ⟨activateRuntime_now hx hmark1 hack hbad hrt hwf hgo, hruns, hstays⟩
  case refine_8 =>
    rw [stageWork_raise hp hop]
    rw [← hc.circ] at hack hbad
    obtain ⟨v, ht⟩ := stageRaise_raised s1 hack hbad
    obtain ⟨hfloor, hslot⟩ := raised_spec s1
    have hsup : (stageRaise x s1).sup = (raised s1).sup := by rw [ht, hx]; exact complete_sup ..
    have hs := sameFlash_of_sup hsup
    rw [hf.bootNow, hc.sup] at hfloor
    rw [hf.slot] at hslot
    refine ⟨by rw [hsup, hfloor], by rw [hsup, hslot], fun b => ?_⟩
    rw [hs.inactiveVersion, hs.inactive, hs.fwHeader, verified_sup hsup, verifiedPrim_sup hsup, hsup]
    exact unmarkBelow_both _ b

end Sys2Proof.Machine
end

section
/-!
PROOFS. SUP.ATTEST, the journals of the signing indices and what they say at the next power-up (R430 to R432).
-/
namespace Sys2Proof.Machine
open Host

/-! ### Memories with a span cleared -/

theorem memGet_filter {z : Byte} (p : Nat → Bool) {m : Mem} (hwf : Memory.wfOf z m = true) (a : Nat) :
    memGet z (m.filter fun x => p x.1) a = if p a = true then memGet z m a else z := by
  induction m with
  | nil => simp [memGet]
  | cons y r ih =>
    obtain ⟨k, b⟩ := y
    have hr := (wfOf_cons.1 hwf).2.2
    have hfilter := filter_wf (fun x => p x.1) hwf
    by_cases hk : p k = true
    · simp only [List.filter_cons, hk, if_true] at hfilter ⊢
      rw [memGet_cons hfilter, memGet_cons hwf, ih hr]
      by_cases ha : a = k
      · rw [if_pos ha, if_pos ha, ha, if_pos hk]
      · rw [if_neg ha, if_neg ha]
    · rw [List.filter_cons, if_neg hk, ih hr, memGet_cons hwf]
      by_cases ha : a = k
      · rw [ha, if_neg hk, if_neg hk]
      · rw [if_neg ha]

/-- A byte outside a cleared span stays. -/
theorem memGet_memClear_out {z : Byte} {m : Mem} (hwf : Memory.wfOf z m = true) {a n b : Nat} (h : b < a ∨ a + n ≤ b) :
    memGet z (memClear m a n) b = memGet z m b := by
  rw [memClear, memGet_filter (fun x => !(decide (a ≤ x) && decide (x < a + n))) hwf, if_pos]
  simp
  omega

/-- A byte that does not read as an unlisted one is listed. -/
theorem mem_of_memGet_ne {z : Byte} {m : Mem} {a : Nat} (h : memGet z m a ≠ z) : ∃ b, (a, b) ∈ m := by
  induction m with
  | nil => exact absurd rfl h
  | cons y r ih =>
    obtain ⟨k, b⟩ := y
    rw [memGet] at h
    split at h
    · rename_i heq
      exact ⟨b, heq ▸ List.mem_cons_self⟩
    split at h
    · exact absurd rfl h
    · obtain ⟨c, hc⟩ := ih h
      exact ⟨c, List.mem_cons_of_mem _ hc⟩

/-! ### Journals (R431) -/

theorem flashRead_congr {s t : State} {a n : Nat}
    (h : ∀ j, j < n → memGet 0xFF t.sup.flash (a + j) = memGet 0xFF s.sup.flash (a + j)) : flashRead t a n = flashRead s a n := by
  have hread : memRead 0xFF t.sup.flash a n = memRead 0xFF s.sup.flash a n :=
    List.map_congr_left fun j hj => h j (List.mem_range.1 hj)
  rw [flashRead, hread]
  rfl

/-- A number that is not all ones has a byte that is not 0xFF. -/
theorem exists_byte_of_flashRead {s : State} {a : Nat} (h : flashRead s a 4 < 2 ^ 32 - 1) :
    ∃ j, j < 4 ∧ memGet 0xFF s.sup.flash (a + j) ≠ 0xFF := by
  by_contra hno
  have hall : ∀ j, j < 4 → memGet 0xFF s.sup.flash (a + j) = 0xFF := fun j hj => by
    by_contra hne
    exact hno ⟨j, hj, hne⟩
  have hread : memRead 0xFF s.sup.flash a 4 = List.replicate 4 0xFF :=
    List.eq_replicate_iff.2 ⟨by simp [memRead], fun b hb => by
      obtain ⟨j, hj, rfl⟩ := List.mem_map.1 hb
      exact hall j (List.mem_range.1 hj)⟩
  rw [flashRead, hread] at h
  exact absurd h (by decide)

/-- The journal lists an entry that was written, by its number. -/
theorem mem_journal {s : State} {d : Side} {i : Nat} (hi : i < 8192) (h : flashRead s (journalBase d + 64 * i) 4 < 2 ^ 32 - 1) :
    (i, flashRead s (journalBase d + 64 * i) 4) ∈ journal s d := by
  obtain ⟨j, hj, hbyte⟩ := exists_byte_of_flashRead h
  obtain ⟨b, hb⟩ := mem_of_memGet_ne hbyte
  refine List.mem_map.2 ⟨i, List.mem_dedup.2 (List.mem_map.2 ⟨_, List.mem_filter.2 ⟨hb, ?_⟩, ?_⟩), rfl⟩
  · simp only [Bool.and_eq_true, decide_eq_true_eq]
    omega
  · dsimp only
    omega

/-- At power-up the indices go on at or past the end that an entry reserves. -/
theorem entry_le_keysAtPowerUp {s : State} {d : Side} {i v : Nat} (h : (i, v) ∈ journal s d) : v ≤ (keysAtPowerUp s d).next := by
  have hmem : v ∈ (journal s d).map (·.2) := List.mem_map.2 ⟨(i, v), h, rfl⟩
  exact (foldl_max_mem (List.ne_nil_of_mem hmem)).2 v hmem

theorem keysAtPowerUp_congr {s t : State} (h : t.sup.flash = s.sup.flash) (d : Side) : keysAtPowerUp t d = keysAtPowerUp s d := by
  have hread : ∀ a n, flashRead t a n = flashRead s a n := fun a n => by rw [flashRead, h]; rfl
  have hjournal : journal t d = journal s d := by simp only [journal, hread, h]
  unfold keysAtPowerUp
  rw [hjournal]

/-- An entry changes flash and nothing else. -/
theorem journalWrite_eq (d : Side) (i stop : Nat) (s : State) :
    ∃ m, journalWrite d i stop s = { s with sup := { s.sup with flash := m } } := by
  unfold journalWrite putFlash
  -- what is written does not matter here, and must not be evaluated
  generalize memWrite 0xFF s.sup.flash _ _ = m
  generalize 64 * (if i = 0 then 4096 else 0) = half
  dsimp only
  split
  · exact ⟨_, rfl⟩
  · exact ⟨_, rfl⟩

theorem journalWrite_supOnly (d : Side) (i stop : Nat) (s : State) : SupOnly s (journalWrite d i stop s) := by
  obtain ⟨m, h⟩ := journalWrite_eq d i stop s
  rw [h]
  exact ⟨rfl, rfl⟩

/-- The bytes of an entry, behind the number that it begins with. -/
theorem flashRead_entry {s : State} (hwf : Memory.wfOf 0xFF s.sup.flash = true) (a : Nat) {stop : Nat} (hstop : stop < 2 ^ 32) :
    flashRead (putFlash a (leBytes 4 stop ++ List.replicate 60 0xFF) s) a 4 = stop := by
  have hfirst := memWrite_wf (leBytes 4 stop) a hwf
  have hread := memRead_in (bs := leBytes 4 stop) (a := a) hwf
  rw [leBytes_length] at hread
  rw [flashRead, putFlash_flash, memWrite_append, leBytes_length, memRead_out hfirst (.inl (Nat.le_refl _)), hread, leNat_leBytes]
  exact Nat.mod_eq_of_lt (hstop.trans_eq (pow_mul 2 8 4))

/-- The entry that was written is there, whether or not the other half is erased with it. -/
theorem journalWrite_entry {s : State} (hwf : Memory.wfOf 0xFF s.sup.flash = true) (d : Side) {i stop : Nat} (hi : i < 8192)
    (hstop : stop < 2 ^ 32) : flashRead (journalWrite d i stop s) (journalBase d + 64 * i) 4 = stop := by
  have hentry := flashRead_entry hwf (journalBase d + 64 * i) hstop
  have hwf1 : Memory.wfOf 0xFF (putFlash (journalBase d + 64 * i) (leBytes 4 stop ++ List.replicate 60 0xFF) s).sup.flash = true := by
    rw [putFlash_flash]
    exact memWrite_wf _ _ hwf
  unfold journalWrite
  dsimp only
  generalize putFlash (journalBase d + 64 * i) (leBytes 4 stop ++ List.replicate 60 0xFF) s = u at hentry hwf1 ⊢
  split
  · rename_i hhalf
    rw [← hentry]
    refine flashRead_congr fun j hj => ?_
    refine memGet_memClear_out hwf1 ?_
    split <;> omega
  · exact hentry

/-! ### The use of an index (R430, R431) -/

theorem keysOf_setKeys (d : Side) (k : Keys) (s : State) : keysOf (setKeys d k s) d = k := by cases d <;> rfl

theorem keysOf_setKeys_other (d : Side) (k : Keys) (s : State) : keysOf (setKeys d k s) (otherSide d) = keysOf s (otherSide d) := by
  cases d <;> rfl

theorem keysOf_journalWrite (d d' : Side) (i stop : Nat) (s : State) : keysOf (journalWrite d i stop s) d' = keysOf s d' := by
  obtain ⟨m, h⟩ := journalWrite_eq d i stop s
  rw [h]
  cases d' <;> rfl

theorem setKeys_supOnly (d : Side) (k : Keys) (s : State) : SupOnly s (setKeys d k s) := by cases d <;> exact ⟨rfl, rfl⟩

theorem setKeys_flash (d : Side) (k : Keys) (s : State) : (setKeys d k s).sup.flash = s.sup.flash := by cases d <;> rfl

theorem useIndex_supOnly (d : Side) (s : State) : SupOnly s (useIndex d s) := by
  unfold useIndex
  dsimp only
  split
  · exact (journalWrite_supOnly ..).trans (setKeys_supOnly ..)
  · exact setKeys_supOnly ..

/-- What the journal promises of a supervisor's keys: its index is within the reservation, and flash holds the reservation. -/
structure Reserved (s : State) (d : Side) : Prop where
  next : (keysOf s d).next ≤ (keysOf s d).reservedEnd
  entry : (keysOf s d).entry < 8192
  flash : (keysOf s d).reservedEnd ≤ (keysAtPowerUp s d).next

/-- The use of an index keeps the promise, and the index lies below the end. -/
theorem useIndex_reserved {s : State} {d : Side} (h : Reserved s d) (hwf : Memory.wfOf 0xFF s.sup.flash = true)
    (hnext : (keysOf s d).next < 2 ^ 30) :
    keysOf (useIndex d s) d = (keysOf s d).used ∧ keysOf (useIndex d s) (otherSide d) = keysOf s (otherSide d) ∧
      (keysOf s d).next < (keysOf s d).used.reservedEnd ∧ Reserved (useIndex d s) d := by
  obtain ⟨hle, hentry, hflash⟩ := h
  have hkeys : keysOf (useIndex d s) d = (keysOf s d).used := keysOf_setKeys ..
  refine ⟨hkeys, ?_, ?_⟩
  · refine (keysOf_setKeys_other ..).trans ?_
    split
    · exact keysOf_journalWrite ..
    · rfl
  have hpower : (keysAtPowerUp (useIndex d s) d).next = (keysAtPowerUp
      (if (keysOf s d).needsEntry then journalWrite d (keysOf s d).entry ((keysOf s d).reservedEnd + 256) s else s) d).next :=
    congrArg Keys.next (keysAtPowerUp_congr (setKeys_flash ..) d)
  by_cases hneed : (keysOf s d).reservedEnd ≤ (keysOf s d).next
  · have hneeds : (keysOf s d).needsEntry = true := decide_eq_true hneed
    have hread := journalWrite_entry (stop := (keysOf s d).reservedEnd + 256) hwf d hentry (by omega)
    have hmem := entry_le_keysAtPowerUp (mem_journal hentry (hread.trans_lt (by omega)))
    rw [if_pos hneeds] at hpower
    rw [hread, ← hpower] at hmem
    simp only [Keys.used, hneeds, if_true] at hkeys ⊢
    refine ⟨by omega, ?_, ?_, ?_⟩ <;> rw [hkeys] <;> dsimp only
    · omega
    · exact Nat.mod_lt _ (by omega)
    · exact hmem
  · have hneeds : (keysOf s d).needsEntry = false := decide_eq_false hneed
    rw [hneeds] at hpower
    simp only [Keys.used, hneeds] at hkeys ⊢
    refine ⟨Nat.not_le.1 hneed, ?_, ?_, ?_⟩ <;> rw [hkeys] <;> dsimp only
    · exact Nat.not_le.1 hneed
    · exact hentry
    · rw [hpower]
      exact hflash

/-! ### SUP.ATTEST -/

/-- The report is made of the supervisors, time and cores of the part (R432). -/
theorem report_congr {s t : State} (hsup : t.sup = s.sup) (htime : t.time = s.time) (hcores : t.cores.usable = s.cores.usable)
    (d : Side) (v : Nat) : report d v t = report d v s := by
  unfold report testRecordBytes
  rw [(sameFlash_of_sup hsup).bootNow, hsup, htime, hcores]

/-- The signature of a report under a supervisor's next index. -/
def reportSignature (d : Side) (v : Nat) (s : State) : List Byte :=
  beBytes 5396 (hssSign (seedOf s d) (keysOf s d).next 256 (beNat (leBytes 256 (report d v s))))

theorem reportSignature_length (d : Side) (v : Nat) (s : State) : (reportSignature d v s).length = 5396 := beBytes_length ..

theorem reportSignature_congr {s t : State} (hsup : t.sup = s.sup) (htime : t.time = s.time)
    (hcores : t.cores.usable = s.cores.usable) (d : Side) (v : Nat) : reportSignature d v t = reportSignature d v s := by
  have hseed : seedOf t d = seedOf s d := by cases d <;> simp only [seedOf, hsup]
  have hkeys : keysOf t d = keysOf s d := by cases d <;> simp only [keysOf, hsup]
  unfold reportSignature
  rw [report_congr hsup htime hcores, hseed, hkeys]

theorem signer_congr {s t : State} (h : t.sup = s.sup) (v : Nat) : signer v t = signer v s := by
  unfold signer
  rw [h]

theorem attestWork_good {x : Ctx} {s : State} (hgood : x.e.flashBad = false) (hh : healthy s x.e) (hcocoon : cocoonOf s x.o = none)
    (hspan : spanKs (fld x.par 47 0) 5652 = true) :
    let d := signer x.par s
    attestWork x s = complete x.c { reply := some (keysOf s d).next }
      (putRaw (fld x.par 47 0) (leBytes 256 (report d x.par s) ++ reportSignature d x.par s) (useIndex d s)) := by
  intro d
  have hu := useIndex_supOnly d s
  have hput : putDev x.o x.e (fld x.par 47 0) (leBytes 256 (report d x.par s) ++ reportSignature d x.par s) (useIndex d s) =
      (putRaw (fld x.par 47 0) (leBytes 256 (report d x.par s) ++ reportSignature d x.par s) (useIndex d s), none) := by
    refine putDev_plain (by rw [hu.eq]; exact hh) (by rw [hu.eq]; cases h : x.o <;> rw [h] at hcocoon <;> exact hcocoon) ?_
    rw [List.length_append, leBytes_length, reportSignature_length]
    exact spanMem_of_spanKs hspan (Nat.le_refl _) (Nat.le_refl _) (by omega)
  unfold attestWork
  dsimp only
  rw [hgood, Bool.and_false, if_neg Bool.false_ne_true]
  unfold reportSignature at hput ⊢
  rw [hput]

/-- What is stored in two parts reads as the parts, and the rest as before. -/
theorem memRead_memWrite_parts {z : Byte} {m : Mem} (hwf : Memory.wfOf z m = true) (a : Nat) {n k : Nat} {u v : List Byte}
    (hu : u.length = n) (hv : v.length = k) :
    memRead z (memWrite z m a (u ++ v)) a n = u ∧ memRead z (memWrite z m a (u ++ v)) (a + n) k = v ∧
      ∀ b, b < a ∨ a + (n + k) ≤ b → memGet z (memWrite z m a (u ++ v)) b = memGet z m b := by
  subst hu
  subst hv
  have hfirst := memWrite_wf u a hwf
  refine ⟨?_, ?_, fun b hb => ?_⟩
  · rw [memWrite_append, memRead_out hfirst (.inl (Nat.le_refl _)), memRead_in hwf]
  · rw [memWrite_append, memRead_in hfirst]
  · rw [memGet_memWrite _ _ _ hwf, List.length_append, if_neg (by omega)]

theorem devWf_of_wf {m : Memory} (h : m.wf = true) : Memory.wfOf 0 m.dev = true := by
  simp only [Memory.wf, Bool.and_eq_true] at h
  obtain ⟨⟨hdev, -⟩, -⟩ := h
  exact hdev

/-- A command that completes once its bytes are stored. -/
theorem complete_stored {s t : State} (h : SupOnly s t) {i : Nat} {k : Cmd} (hk : cmdOf s ⟨.hw 0, i⟩ = some k) (a : Nat)
    (bs : List Byte) (r : Nat) :
    let u := complete ⟨.hw 0, i⟩ { reply := some r } (putRaw a bs t)
    endsAs u ⟨.hw 0, i⟩ stOk r ∧ u.sup = t.sup ∧ u.mem.dev = memWrite 0 s.mem.dev a bs ∧ u.mem.ob = s.mem.ob ∧ u.time = s.time := by
  have hcmd : cmdOf (putRaw a bs t) ⟨.hw 0, i⟩ = some k := (h.cmdOf _).trans hk
  have hc := complete_completed i { reply := some r } (putRaw a bs t)
  have hdev : (putRaw a bs t).mem.dev = memWrite 0 s.mem.dev a bs := congrArg (memWrite 0 · a bs) h.sameStore.dev
  exact ⟨complete_done hcmd rfl, hc.sup, hc.dev.trans hdev, hc.ob.trans h.sameStore.ob, hc.time.trans h.sameStore.time⟩

/-- Settles O26: the index is used as `useIndex_reserved` says, and report and signature are stored with it. -/
theorem attestation : Obligations.Attestation := by
  unfold Obligations.Attestation
  intro c e s s1 x h d k a hgood hh hmem hcocoon hspan hnext hentry hflash hwf
  have hc := startOf_control h rfl (by decide) (by decide) (fun _ => rfl) (fun _ => rfl) fun _ => rfl
  obtain ⟨-, -, -, herrs, -⟩ := id hh
  have hclean := startOf_clean h (fun _ => rfl) (fun _ => rfl) (fun _ => rfl) (by decide) herrs
  obtain ⟨i, rfl⟩ := hc.queue
  obtain ⟨y, hpar, hconsent⟩ := hc.consent
  have hd : signer x.par s1 = d := signer_congr hc.sup _
  have hkeys : ∀ b, keysOf s1 b = keysOf s b := fun b => by cases b <;> simp only [keysOf, hc.sup]
  have hlast : (keysOf s d).next < 2 ^ 30 := by
    simp only [attestFamily, hpar] at hconsent
    split at hconsent
    · cases hconsent
    split at hconsent
    · cases hconsent
    · exact Nat.not_le.1 ‹_›
  have hpower : keysAtPowerUp s1 d = keysAtPowerUp s d := keysAtPowerUp_congr (by rw [hc.sup]) d
  have hreserved : Reserved s1 d :=
    ⟨by rw [hkeys]; exact hnext, by rw [hkeys]; exact hentry, by rw [hkeys, hpower]; exact hflash⟩
  obtain ⟨hused, hother, hbelow, hkept⟩ := useIndex_reserved hreserved (by rw [hc.sup]; exact hwf) (by rw [hkeys]; exact hlast)
  have hwork := attestWork_good (x := x) (hc.circ ▸ hgood) (hc.circ ▸ hh) hcocoon hspan
  dsimp only at hwork
  rw [hd, report_congr hc.sup hc.time hc.same.usable, reportSignature_congr hc.sup hc.time hc.same.usable, hkeys, hc.ctx] at hwork
  obtain ⟨hdone, hsup, hdev, hob, htime⟩ := complete_stored (useIndex_supOnly d s1) hc.cmd a
    (leBytes 256 (report d x.par s) ++ reportSignature d x.par s) (keysOf s d).next
  rw [← hwork] at hdone hsup hdev hob htime
  rw [hclean.mem] at hdev hmem
  have hlater : ∀ b, keysOf (attestWork x s1) b = keysOf (useIndex d s1) b := fun b => by cases b <;> simp only [keysOf, hsup]
  have hpower' : keysAtPowerUp (attestWork x s1) d = keysAtPowerUp (useIndex d s1) d := keysAtPowerUp_congr (by rw [hsup]) d
  obtain ⟨hbody, hsig, hframe⟩ := memRead_memWrite_parts (devWf_of_wf hmem) a (leBytes_length 256 (report d x.par s))
    (reportSignature_length d x.par s)
  rw [← hdev] at hbody hsig hframe
  rw [hkeys] at hused hbelow
  refine ⟨attestWork x s1, congrArg Outcome.next (runCmd_start h), hdone, ?_, ?_, ?_, ?_, ?_, hbody, hsig, hframe, hob.trans hc.ob,
    htime.trans hc.time⟩
  · rw [hlater, hused]
    rfl
  · rw [hlater, hused]
    exact hbelow
  · rw [hlater, hpower']
    exact hkept.flash
  · rw [hlater]
    exact hkept.entry
  · rw [hlater, hother, hkeys]

end Sys2Proof.Machine
end

section
/-!
PROOFS. Start-up (R421 to R424, R427 to R429): the release of MOD_RESET_N, the copy that both supervisors accept, and Instar 0.
-/
namespace Sys2Proof.Machine
open Host

/-! ### The copy of a stage (R422, steps 2 to 4) -/

section
variable {p : Bool} {ok : Bool → Bool}

theorem ok_of_chooseCopy {v : Bool} (h : chooseCopy p ok = some v) : ok v = true := by
  unfold chooseCopy at h
  split at h
  · cases h; assumption
  split at h
  · cases h; assumption
  · cases h

theorem chooseCopy_primary (h : ok p = true) : chooseCopy p ok = some p := if_pos h

theorem chooseCopy_isSome {w : Bool} (h : ok w = true) : ∃ v, chooseCopy p ok = some v := by
  by_cases hp : ok p = true
  · exact ⟨p, chooseCopy_primary hp⟩
  · have hw : w = !p := Bool.eq_not.2 fun hwp => hp (hwp ▸ h)
    exact ⟨!p, (if_neg hp).trans (if_pos (hw ▸ h))⟩

end

/-- Two choices, or where they differ that among the copies which both accept (R422, step 4). -/
def chooseBoth (p q : Bool) (f g : Bool → Bool) : Option Bool :=
  if chooseCopy p f = chooseCopy q g then chooseCopy p f else chooseCopy p fun copy => f copy && g copy

theorem agreeCopy_eq (s : State) (rt : Bool) (n m : Nat) : agreeCopy s rt n m =
    chooseBoth (primaryOf rt n) (primaryOf rt m) (acceptsCopy s rt n) (acceptsCopy s rt m) := rfl

section
variable {p q : Bool} {f g : Bool → Bool}

theorem ok_of_chooseBoth {v : Bool} (h : chooseBoth p q f g = some v) : f v = true ∧ g v = true := by
  unfold chooseBoth at h
  split at h
  · rename_i heq
    exact ⟨ok_of_chooseCopy h, ok_of_chooseCopy (heq ▸ h)⟩
  · have hboth := ok_of_chooseCopy h
    rwa [Bool.and_eq_true] at hboth

theorem chooseBoth_some {w : Bool} (hf : f w = true) (hg : g w = true) :
    ∃ v, chooseBoth p q f g = some v ∧ (p = w → v = w) := by
  -- either way the choice is by `p` among copies with `w` among them
  have hchoice : ∃ ok : Bool → Bool, chooseBoth p q f g = chooseCopy p ok ∧ ok w = true := by
    by_cases heq : chooseCopy p f = chooseCopy q g
    · exact ⟨f, if_pos heq, hf⟩
    · exact ⟨_, if_neg heq, by rw [hf, hg]; rfl⟩
  obtain ⟨ok, hchoose, hok⟩ := hchoice
  obtain ⟨v, hv⟩ := chooseCopy_isSome (p := p) hok
  refine ⟨v, hchoose.trans hv, fun hp => ?_⟩
  subst hp
  exact Option.some.inj (hv.symm.trans (chooseCopy_primary hok))

end

theorem acceptsCopy_iff (s : State) (rt : Bool) (r : Nat) (copy : Bool) : acceptsCopy s rt r copy = true ↔
    copyOk s rt copy = true ∧ bootFloor r ≤ fwVersion (fwHeader s rt copy) := by
  unfold acceptsCopy
  rw [Bool.and_eq_true, decide_eq_true_iff]

/-- A copy passes R427 and lies at or above the floors of both records. -/
def bothAccept (s : State) (rt : Bool) (r z : Nat) (v : Bool) : Prop :=
  copyOk s rt v = true ∧ bootFloor r ≤ fwVersion (fwHeader s rt v) ∧ bootFloor z ≤ fwVersion (fwHeader s rt v)

theorem bothAccept_iff (s : State) (rt : Bool) (r z : Nat) (v : Bool) :
    bothAccept s rt r z v ↔ acceptsCopy s rt r v = true ∧ acceptsCopy s rt z v = true := by
  rw [acceptsCopy_iff, acceptsCopy_iff]
  exact ⟨fun ⟨hok, hr, hz⟩ => ⟨⟨hok, hr⟩, hok, hz⟩, fun ⟨⟨hok, hr⟩, _, hz⟩ => ⟨hok, hr, hz⟩⟩

section
variable {s : State} {rt : Bool} {r z : Nat}

/-- What the supervisors agree on is accepted by both. -/
theorem bothAccept_of_agreeCopy {v : Bool} (h : agreeCopy s rt r z = some v) : bothAccept s rt r z v := by
  rw [agreeCopy_eq] at h
  exact (bothAccept_iff ..).2 (ok_of_chooseBoth h)

theorem agreeCopy_none (h : ∀ v, ¬ bothAccept s rt r z v) : agreeCopy s rt r z = none :=
  Option.eq_none_iff_forall_ne_some.2 fun v hv => h v (bothAccept_of_agreeCopy hv)

/-- Where both accept some copy they agree on one, and on the primary of both records if they accept that. -/
theorem agreeCopy_some {w : Bool} (h : bothAccept s rt r z w) : ∃ v, agreeCopy s rt r z = some v ∧ bothAccept s rt r z v ∧
    (primaryOf rt r = w → primaryOf rt z = w → v = w) := by
  obtain ⟨hr, hz⟩ := (bothAccept_iff ..).1 h
  obtain ⟨v, hv, hprimary⟩ := chooseBoth_some (p := primaryOf rt r) (q := primaryOf rt z) hr hz
  rw [← agreeCopy_eq] at hv
  exact ⟨v, hv, bothAccept_of_agreeCopy hv, fun hp _ => hprimary hp⟩

end

end Sys2Proof.Machine
end

section
/-!
PROOFS. Instar 0 (R422, R428, R429).
-/
namespace Sys2Proof.Machine
open Host

/-! ### The cases of Instar 0 -/

/-- A part whose supervisors have seeds, identities and keys, whatever these are. -/
def withBoot (n m : BitVec 256) (nId sId : Bool) (nKeys sKeys : Keys) (s : State) : State :=
  { s with
    time := { s.time with refOk := true }
    sup := { s.sup with nSeed := n, sSeed := m, nId := nId, sId := sId, nKeys := nKeys, sKeys := sKeys } }

/-- The supervisors with their seeds, identities and keys (R422, R429, R431). -/
def booted (b : BootCheck) (s : State) : State :=
  withBoot (reconstruct s .north b.nDiff) (reconstruct s .south b.sDiff) (seedOk s .north (reconstruct s .north b.nDiff))
    (seedOk s .south (reconstruct s .south b.sDiff)) (keysAtPowerUp s .north) (keysAtPowerUp s .south) s

/-- What follows once the supervisors have their keys: the boot records, and the copy of Instar 1 (R422). -/
def choosesInstar1 (flashOk : Bool) (s : State) : State :=
  let n := if s.sup.nId then acceptSlot s .north else none
  let m := if s.sup.sId then acceptSlot s .south else none
  if flashOk = false then bootFailed 4 s
  else match n <|> m with
    | none => bootFailed 3 s
    | some slot =>
      let r := bootRecord s slot
      let south := (m <|> n).getD slot
      match agreeCopy s false r (bootRecord s south) with
      | none => bootFailed 1 s
      | some c =>
        let h := fwHeader s false c
        { s with sup := { s.sup with
          stage := 1, brSlot := slot, brSouth := south, brSeq := BitVec.ofNat 32 (bootSeq r), fwFloor := BitVec.ofNat 32 (bootFloor r)
          i1Copy := c, fwI1 := BitVec.ofNat 32 (fwVersion h), setI1 := BitVec.ofNat 32 (fld h 127 96) } }

theorem endInstar0_eq (b : BootCheck) (s : State) : endInstar0 b s = choosesInstar1 b.flashOk (booted b s) := by
  rw [endInstar0, choosesInstar1, booted, withBoot]
  -- what is read in flash does not matter here, and must not be evaluated
  obtain ⟨seed, hseed⟩ := exists_name reconstruct
  obtain ⟨ok, hok⟩ := exists_name seedOk
  obtain ⟨keys, hkeys⟩ := exists_name keysAtPowerUp
  obtain ⟨slot, hslot⟩ := exists_name acceptSlot
  obtain ⟨agree, hagree⟩ := exists_name agreeCopy
  obtain ⟨record, hrecord⟩ := exists_name bootRecord
  obtain ⟨header, hheader⟩ := exists_name fwHeader
  rw [hseed, hok, hkeys, hslot, hagree, hrecord, hheader]
  cases b.flashOk <;> rfl

/-- The record that a supervisor with identity accepts. -/
def ownSlot (s : State) (d : Side) : Option Bool := if hasId s d then acceptSlot s d else none

theorem choosesInstar1_noRecord {s : State} (hn : ownSlot s .north = none) (hm : ownSlot s .south = none) :
    choosesInstar1 true s = bootFailed 3 s := by
  unfold ownSlot hasId at hn hm
  rw [choosesInstar1, hn, hm]
  rfl

/-- Instar 0 has taken a record and a copy of Instar 1. -/
structure TookInstar1 (slot south copy : Bool) (floor version : Nat) (s t : State) : Prop where
  eq : t = { s with sup := { s.sup with
    stage := 1, brSlot := slot, brSouth := south, brSeq := t.sup.brSeq, fwFloor := t.sup.fwFloor, i1Copy := copy, fwI1 := t.sup.fwI1
    setI1 := t.sup.setI1 } }
  floor_eq : t.sup.fwFloor.toNat = floor
  version_eq : t.sup.fwI1.toNat = version

theorem choosesInstar1_record {s : State} {i j : Bool} (hi : (ownSlot s .north <|> ownSlot s .south) = some i)
    (hj : (ownSlot s .south <|> ownSlot s .north) = some j) :
    (agreeCopy s false (bootRecord s i) (bootRecord s j) = none → choosesInstar1 true s = bootFailed 1 s) ∧
    ∀ v, agreeCopy s false (bootRecord s i) (bootRecord s j) = some v →
      TookInstar1 i j v (bootFloor (bootRecord s i)) (fwVersion (fwHeader s false v)) s (choosesInstar1 true s) := by
  have hfloor : (BitVec.ofNat 32 (bootFloor (bootRecord s i))).toNat = bootFloor (bootRecord s i) := by
    rw [BitVec.toNat_ofNat]
    exact Nat.mod_eq_of_lt (fld_lt _ 127 96)
  have hversion : ∀ v, (BitVec.ofNat 32 (fwVersion (fwHeader s false v))).toNat = fwVersion (fwHeader s false v) := fun v => by
    rw [BitVec.toNat_ofNat]
    exact Nat.mod_eq_of_lt (fld_lt _ 95 64)
  unfold ownSlot hasId at hi hj
  rw [choosesInstar1]
  -- what is read in flash does not matter here, and must not be evaluated
  obtain ⟨slot, hslot⟩ := exists_name acceptSlot
  obtain ⟨agree, hagree⟩ := exists_name agreeCopy
  obtain ⟨record, hrecord⟩ := exists_name bootRecord
  obtain ⟨header, hheader⟩ := exists_name fwHeader
  obtain ⟨word, hword⟩ := exists_name (BitVec.ofNat 32)
  rw [hslot] at hi hj ⊢
  rw [hrecord, hword] at hfloor
  rw [hheader, hword] at hversion
  rw [hrecord, hheader, hagree, hword]
  dsimp only at hi hj ⊢
  rw [if_neg Bool.noConfusion, hi]
  dsimp only
  rw [hj]
  dsimp only [Option.getD_some]
  refine ⟨fun hv => ?_, fun v hv => ?_⟩
  · rw [hv]
  · rw [hv]
    refine ⟨?_, hfloor, hversion v⟩
    dsimp only

/-! ### What Instar 0 leaves -/

/-- A boot failure changes the device state and its code, and sends the messages of a change (R423). -/
structure FailedBoot (code : Nat) (s t : State) : Prop where
  sup : t.sup = { s.sup with dstate := .faulted, fail := code }
  time : t.time = s.time
  dev : t.mem.dev = s.mem.dev
  ob : t.mem.ob = s.mem.ob
  poison : t.mem.poison = s.mem.poison

theorem bootFailed_spec (code : Nat) (s : State) : FailedBoot code s (bootFailed code s) := by
  obtain ⟨m, i, l, a, b, h⟩ := setDState_spec .faulted { s with sup := { s.sup with fail := code } }
  rw [bootFailed, h]
  exact ⟨rfl, rfl, rfl, rfl, rfl⟩

theorem flashRead_of_flash {s t : State} (h : t.sup.flash = s.sup.flash) (a n : Nat) : flashRead t a n = flashRead s a n := by
  rw [flashRead, h]
  rfl

theorem bootRecord_congr {s t : State} (h : t.sup.flash = s.sup.flash) (slot : Bool) : bootRecord t slot = bootRecord s slot :=
  flashRead_of_flash h ..

theorem fwHeader_congr {s t : State} (h : t.sup.flash = s.sup.flash) (rt copy : Bool) : fwHeader t rt copy = fwHeader s rt copy :=
  flashRead_of_flash h ..

/-- Which records a supervisor accepts rests on flash, its seed and its identity (R428). -/
theorem acceptSlot_congr {s t : State} {d : Side} (hflash : t.sup.flash = s.sup.flash) (hseed : seedOf t d = seedOf s d)
    (hident : identOf t d = identOf s d) : acceptSlot t d = acceptSlot s d := by
  have hmac : bootMac t d = bootMac s d := funext fun r => by rw [bootMac, bootMac, bootKey, bootKey, hseed]
  have hrecord : bootRecord t = bootRecord s := funext fun slot => bootRecord_congr hflash slot
  have hok : recordOk t d = recordOk s d := funext fun slot => by
    rw [recordOk.eq_def, recordOk.eq_def, hrecord, hmac, hident]
  -- what is read in flash does not matter here, and must not be evaluated
  obtain ⟨ok, hname⟩ := exists_name (recordOk s d)
  unfold acceptSlot
  rw [hok, hrecord, hname]

theorem bothAccept_congr {s t : State} (hflash : t.sup.flash = s.sup.flash) (hrom : t.sup.rom = s.sup.rom) (rt : Bool) (r z : Nat)
    (v : Bool) : bothAccept t rt r z v ↔ bothAccept s rt r z v := by
  rw [bothAccept, bothAccept, copyOk_congr hflash hrom, fwHeader_congr hflash]

/-- The supervisors have their seeds (R429). -/
def withSeeds (n m : BitVec 256) (s : State) : State := { s with sup := { s.sup with nSeed := n, sSeed := m } }

/-- Keys, identities and the reference clock do not change which records are accepted. -/
theorem ownSlot_withBoot (n m : BitVec 256) (nId sId : Bool) (nKeys sKeys : Keys) (s : State) :
    ownSlot (withBoot n m nId sId nKeys sKeys s) .north = (if nId = true then acceptSlot (withSeeds n m s) .north else none) ∧
      ownSlot (withBoot n m nId sId nKeys sKeys s) .south = (if sId = true then acceptSlot (withSeeds n m s) .south else none) := by
  have haccept : ∀ d, acceptSlot (withBoot n m nId sId nKeys sKeys s) d = acceptSlot (withSeeds n m s) d := fun d =>
    acceptSlot_congr rfl (by cases d <;> rfl) (by cases d <;> rfl)
  exact ⟨congrArg (fun r => if nId = true then r else none) (haccept .north),
    congrArg (fun r => if sId = true then r else none) (haccept .south)⟩

/-- Within 15 % of the enrolled read, a supervisor has its enrolled seed again (R429). -/
theorem reconstruct_near {s : State} {d : Side} {diff : Nat} (hhelper : (identOf s d).helper = (pufOf s d).helper)
    (hdiff : 100 * diff ≤ 15 * 262144) : reconstruct s d diff = (pufOf s d).seed := by
  rw [reconstruct, if_pos ⟨hhelper, hdiff⟩]

/-- What a part has found when Instar 0 ends, whatever comes of it. -/
structure KeepsBoot (s t : State) : Prop where
  refOk : t.time.refOk = s.time.refOk
  flash : t.sup.flash = s.sup.flash
  nId : t.sup.nId = s.sup.nId
  sId : t.sup.sId = s.sup.sId
  nKeys : t.sup.nKeys = s.sup.nKeys
  sKeys : t.sup.sKeys = s.sup.sKeys
  nSeed : t.sup.nSeed = s.sup.nSeed
  sSeed : t.sup.sSeed = s.sup.sSeed

theorem FailedBoot.keepsBoot {code : Nat} {s t : State} (h : FailedBoot code s t) : KeepsBoot s t := by
  constructor
  · rw [h.time]
  all_goals rw [h.sup]

theorem TookInstar1.keepsBoot {i j v : Bool} {floor version : Nat} {s t : State} (h : TookInstar1 i j v floor version s t) :
    KeepsBoot s t := by
  constructor <;> rw [h.eq]

theorem choosesInstar1_keepsBoot (flashOk : Bool) (s : State) : KeepsBoot s (choosesInstar1 flashOk s) := by
  cases flashOk with
  | false => exact (bootFailed_spec 4 s).keepsBoot
  | true =>
    cases hi : (ownSlot s .north <|> ownSlot s .south) with
    | none =>
      obtain ⟨hn, hm⟩ := (Option.orElse_eq_none ..).1 hi
      rw [choosesInstar1_noRecord hn hm]
      exact (bootFailed_spec 3 s).keepsBoot
    | some i =>
      obtain ⟨j, hj⟩ : ∃ j, (ownSlot s .south <|> ownSlot s .north) = some j := Option.ne_none_iff_exists'.1 fun hnone => by
        obtain ⟨hm, hn⟩ := (Option.orElse_eq_none ..).1 hnone
        rw [hn, hm] at hi
        cases hi
      obtain ⟨hnone, hsome⟩ := choosesInstar1_record hi hj
      cases hv : agreeCopy s false (bootRecord s i) (bootRecord s j) with
      | none =>
        rw [hnone hv]
        exact (bootFailed_spec 1 s).keepsBoot
      | some v => exact (hsome v hv).keepsBoot

theorem exec_instar0Complete {s : State} (b : BootCheck) (h : inStage 0 s = true) :
    exec (.instar0Complete b) s = .next (endInstar0 b s) := by
  refine (show exec (.instar0Complete b) s = execInstar0Complete b s from rfl).trans ?_
  rw [execInstar0Complete, if_pos h]

/-- What the supervisors have found in `t` for the part `s`. -/
structure Found (n m : BitVec 256) (nId sId : Bool) (nKeys sKeys : Keys) (s t : State) : Prop where
  refOk : t.time.refOk = true
  flash : t.sup.flash = s.sup.flash
  rom : t.sup.rom = s.sup.rom
  dstate : t.sup.dstate = s.sup.dstate
  nId_eq : t.sup.nId = nId
  sId_eq : t.sup.sId = sId
  nKeys_eq : t.sup.nKeys = nKeys
  sKeys_eq : t.sup.sKeys = sKeys
  nSeed : t.sup.nSeed = n
  sSeed : t.sup.sSeed = m
  north : ownSlot t .north = if nId = true then acceptSlot (withSeeds n m s) .north else none
  south : ownSlot t .south = if sId = true then acceptSlot (withSeeds n m s) .south else none

theorem withBoot_found (n m : BitVec 256) (nId sId : Bool) (nKeys sKeys : Keys) (s : State) :
    Found n m nId sId nKeys sKeys s (withBoot n m nId sId nKeys sKeys s) := by
  obtain ⟨hnorth, hsouth⟩ := ownSlot_withBoot n m nId sId nKeys sKeys s
  exact ⟨rfl, rfl, rfl, rfl, rfl, rfl, rfl, rfl, rfl, rfl, hnorth, hsouth⟩

theorem booted_found (b : BootCheck) (s : State) : Found (reconstruct s .north b.nDiff) (reconstruct s .south b.sDiff)
    (seedOk s .north (reconstruct s .north b.nDiff)) (seedOk s .south (reconstruct s .south b.sDiff)) (keysAtPowerUp s .north)
    (keysAtPowerUp s .south) s (booted b s) := withBoot_found ..

/-- What comes of Instar 0 once the supervisors have found seeds, identities and keys. -/
theorem choosesInstar1_spec {n m : BitVec 256} {nId sId : Bool} {nKeys sKeys : Keys} {s u : State}
    (hf : Found n m nId sId nKeys sKeys s u) (hinstar : s.sup.dstate = .instar) {slotN slotS : Option Bool}
    (hn : (if nId = true then acceptSlot (withSeeds n m s) .north else none) = slotN)
    (hm : (if sId = true then acceptSlot (withSeeds n m s) .south else none) = slotS) (flashOk : Bool) :
    let t := choosesInstar1 flashOk u
    (flashOk = false → t.sup.dstate = .faulted ∧ t.sup.fail = 4) ∧
      (flashOk = true → slotN = none → slotS = none → t.sup.dstate = .faulted ∧ t.sup.fail = 3) ∧
      ∀ i j, flashOk = true → (slotN <|> slotS) = some i → (slotS <|> slotN) = some j →
        ((∀ v, ¬ bothAccept s false (bootRecord s i) (bootRecord s j) v) → t.sup.dstate = .faulted ∧ t.sup.fail = 1) ∧
        ∀ w, bothAccept s false (bootRecord s i) (bootRecord s j) w →
          ∃ v, bothAccept s false (bootRecord s i) (bootRecord s j) v ∧ t.sup.dstate = .instar ∧ t.sup.stage = 1 ∧
            t.sup.i1Copy = v ∧ t.sup.brSlot = i ∧ t.sup.brSouth = j ∧ t.sup.fwFloor.toNat = bootFloor (bootRecord s i) ∧
            t.sup.fwI1.toNat = fwVersion (fwHeader s false v) ∧
            (bootI1 (bootRecord s i) = w → bootI1 (bootRecord s j) = w → v = w) := by
  have hfailed : ∀ code, (bootFailed code u).sup.dstate = .faulted ∧ (bootFailed code u).sup.fail = code := fun code => by
    rw [(bootFailed_spec code u).sup]
    exact ⟨rfl, rfl⟩
  rw [← hf.north] at hn
  rw [← hf.south] at hm
  refine ⟨fun hno => ?_, fun hyes hnone hnone' => ?_, fun i j hyes hi hj => ?_⟩
  · subst hno
    exact hfailed 4
  · subst hyes
    rw [choosesInstar1_noRecord (hn.trans hnone) (hm.trans hnone')]
    exact hfailed 3
  · subst hyes
    rw [← hn, ← hm] at hi hj
    obtain ⟨hfail, htake⟩ := choosesInstar1_record hi hj
    rw [bootRecord_congr hf.flash, bootRecord_congr hf.flash] at hfail htake
    simp only [← bothAccept_congr hf.flash hf.rom]
    refine ⟨fun hno => ?_, fun w hw => ?_⟩
    · rw [hfail (agreeCopy_none hno)]
      exact hfailed 1
    · obtain ⟨v, hv, hboth, hprimary⟩ := agreeCopy_some hw
      obtain ⟨heq, hfloor, hversion⟩ := htake v hv
      rw [fwHeader_congr hf.flash] at hversion
      generalize choosesInstar1 true u = t at heq hfloor hversion ⊢
      refine ⟨v, hboth, ?_, ?_, ?_, ?_, ?_, hfloor, hversion, hprimary⟩
      · rw [heq]
        exact hf.dstate.trans hinstar
      all_goals rw [heq]

end Sys2Proof.Machine
end

section
/-!
PROOFS. Instar 1 and Instar 2, the release of MOD_RESET_N and the bottom trees (R421 to R424, R430, R447, R448).
-/
namespace Sys2Proof.Machine
open Host

/-! ### Instar 1 -/

/-- After the self-test and its record: memory is zeroed, and each die has its usable cores (R11, R423). -/
structure SelfTested (z : SelfTest) (s t : State) : Prop where
  dev : t.mem.dev = []
  ob : t.mem.ob = []
  poison : t.mem.poison = []
  usable : t.cores.usable = (List.range 16).map (usableOf z)
  dstate : t.sup.dstate = s.sup.dstate

theorem trainLink_eq (gen : BitVec 2) (good : BitVec 32) (s : State) : ∃ l, trainLink gen good s = { s with link := l } := by
  unfold trainLink
  dsimp only
  split
  · exact ⟨_, rfl⟩
  · exact ⟨_, rfl⟩

/-- The last part of the self-test logs stacks and trains the link. -/
theorem trainLink_logs (gen : BitVec 2) (good : BitVec 32) (l : List Nat) (s : State) :
    let t := trainLink gen good (l.foldl (fun u b => logErr (.offline b) u) s)
    t.mem = s.mem ∧ t.cores = s.cores := by
  obtain ⟨k, h⟩ := trainLink_eq gen good (l.foldl (fun u b => logErr (.offline b) u) s)
  have hmem : (l.foldl (fun u b => logErr (.offline b) u) s).mem = s.mem :=
    foldl_keeps (f := fun u b => logErr (.offline b) u) (·.mem) (fun _ _ => rfl) l s
  have hcores : (l.foldl (fun u b => logErr (.offline b) u) s).cores = s.cores :=
    foldl_keeps (f := fun u b => logErr (.offline b) u) (·.cores) (fun _ _ => rfl) l s
  dsimp only
  rw [h]
  exact ⟨hmem, hcores⟩

theorem applySelfTest_tested (z : SelfTest) (s : State) : SelfTested z s (applySelfTest z s) := by
  have hdstate := applySelfTest_dstate z s
  unfold applySelfTest at hdstate ⊢
  dsimp only at hdstate ⊢
  obtain ⟨hmem, hcores⟩ := trainLink_logs z.linkGen z.linkLanes z.badStacks _
  exact ⟨congrArg (·.dev) hmem, congrArg (·.ob) hmem, congrArg (·.poison) hmem, congrArg (·.usable) hcores, hdstate⟩

theorem writeTestRecord_tested {z : SelfTest} {s t : State} (h : SelfTested z s t) (ok : Bool) :
    SelfTested z s (writeTestRecord ok t) := by
  obtain ⟨hdev, hob, hpoison, husable, hdstate⟩ := h
  have hd := (writeTestRecord_dstate ok t).trans hdstate
  -- what the record holds does not matter here, and must not be evaluated
  obtain ⟨bytes, hbytes⟩ := exists_name (testRecordBytes t)
  rw [writeTestRecord, hbytes] at hd ⊢
  split at hd
  · rename_i hno
    rw [if_pos hno]
    exact ⟨hdev, hob, hpoison, husable, hd⟩
  · rename_i hno
    rw [if_neg hno]
    exact ⟨hdev, hob, hpoison, husable, hd⟩

theorem endInstar1_failed {z : SelfTest} {s : State} (h : selfTestFail s z ≠ 0) :
    endInstar1 z s = bootFailed (selfTestFail s z) (applySelfTest z s) := by
  rw [endInstar1]
  exact if_pos h

/-- A runtime copy is taken (R424). -/
def takesRuntime (copy : Bool) (s : State) : State :=
  { runRuntime copy s with sup := { (runRuntime copy s).sup with stage := 2 } }

theorem endInstar1_tested {z : SelfTest} {s s2 : State} (h : selfTestFail s z = 0)
    (hs2 : writeTestRecord z.recordOk (applySelfTest z s) = s2) :
    (agreeCopy s2 true (bootNow s2) (bootRecord s2 s2.sup.brSouth) = none → endInstar1 z s = bootFailed 2 s2) ∧
      ∀ v, agreeCopy s2 true (bootNow s2) (bootRecord s2 s2.sup.brSouth) = some v → endInstar1 z s = takesRuntime v s2 := by
  rw [endInstar1]
  -- what is read in flash does not matter here, and must not be evaluated
  obtain ⟨agree, hagree⟩ := exists_name agreeCopy
  rw [hagree]
  dsimp only
  rw [hs2, if_neg (not_not.2 h)]
  refine ⟨fun hv => ?_, fun v hv => ?_⟩
  · rw [hv]
  · rw [hv]
    rfl

theorem takesRuntime_version (v : Bool) (s : State) : (takesRuntime v s).sup.fwRt.toNat = fwVersion (fwHeader s true v) := by
  simp only [takesRuntime, runRuntime, BitVec.toNat_ofNat]
  exact Nat.mod_eq_of_lt (fld_lt _ 95 64)

theorem exec_instar1Complete {s : State} (z : SelfTest) (h : inStage 1 s = true) :
    exec (.instar1Complete z) s = .next (endInstar1 z s) := by
  refine (show exec (.instar1Complete z) s = execInstar1Complete z s from rfl).trans ?_
  rw [execInstar1Complete, if_pos h]

/-- What comes of Instar 1 whose self-test finds no fault. -/
theorem endInstar1_spec {z : SelfTest} {s s2 : State} (hpass : selfTestFail s z = 0) (hinstar : s.sup.dstate = .instar)
    (hs2 : writeTestRecord z.recordOk (applySelfTest z s) = s2) :
    let t := endInstar1 z s
    let r := bootNow s2
    let q := bootRecord s2 s2.sup.brSouth
    ((∀ v, ¬ bothAccept s2 true r q v) → t.sup.dstate = .faulted ∧ t.sup.fail = 2) ∧
      ∀ w, bothAccept s2 true r q w → ∃ v, bothAccept s2 true r q v ∧ t.sup.dstate = .instar ∧ t.sup.stage = 2 ∧
        t.sup.rtCopy = v ∧ t.sup.fwRt.toNat = fwVersion (fwHeader s2 true v) ∧
        (bootRt r = w → bootRt q = w → v = w) ∧ t.cores.usable = (List.range 16).map (usableOf z) := by
  have htested := writeTestRecord_tested (applySelfTest_tested z s) z.recordOk
  rw [hs2] at htested
  obtain ⟨hfail, htake⟩ := endInstar1_tested hpass hs2
  refine ⟨fun hno => ?_, fun w hw => ?_⟩
  · rw [hfail (agreeCopy_none hno), (bootFailed_spec 2 s2).sup]
    exact ⟨rfl, rfl⟩
  · obtain ⟨v, hv, hboth, hprimary⟩ := agreeCopy_some hw
    have hversion := takesRuntime_version v s2
    have hdstate : (takesRuntime v s2).sup.dstate = .instar := (runRuntime_dstate v s2).trans (htested.dstate.trans hinstar)
    rw [htake v hv]
    exact ⟨v, hboth, hdstate, rfl, rfl, hversion, hprimary, htested.usable⟩

/-- Memory is zeroed whatever comes of Instar 1. -/
theorem endInstar1_mem (z : SelfTest) (s : State) :
    let t := endInstar1 z s
    t.mem.dev = [] ∧ t.mem.ob = [] ∧ t.mem.poison = [] := by
  have hfailed : ∀ code u, SelfTested z s u →
      (bootFailed code u).mem.dev = [] ∧ (bootFailed code u).mem.ob = [] ∧ (bootFailed code u).mem.poison = [] := fun code u hu => by
    have h := bootFailed_spec code u
    rw [h.dev, h.ob, h.poison]
    exact ⟨hu.dev, hu.ob, hu.poison⟩
  have htested := applySelfTest_tested z s
  by_cases hpass : selfTestFail s z = 0
  · obtain ⟨s2, hs2⟩ := exists_name (writeTestRecord z.recordOk (applySelfTest z s))
    have hrecorded := writeTestRecord_tested htested z.recordOk
    rw [hs2] at hrecorded
    obtain ⟨hfail, htake⟩ := endInstar1_tested hpass hs2
    cases hv : agreeCopy s2 true (bootNow s2) (bootRecord s2 s2.sup.brSouth) with
    | none =>
      rw [hfail hv]
      exact hfailed 2 s2 hrecorded
    | some v =>
      rw [htake v hv]
      exact ⟨hrecorded.dev, hrecorded.ob, hrecorded.poison⟩
  · rw [endInstar1_failed hpass]
    exact hfailed _ _ htested

/-! ### Instar 2 -/

theorem exec_instar2Complete {s : State} (p : BitVec 12) (h : inStage 2 s = true) :
    exec (.instar2Complete p) s = .next (endInstar2 p.toNat s) := by
  refine (show exec (.instar2Complete p) s = execInstar2Complete p s from rfl).trans ?_
  rw [execInstar2Complete, if_pos h]

theorem regRead_term (s : State) : regRead s 0x0F0000000008 = some s.sup.term.toNat := rfl

/-- READY under the leader of term 1 (R424). -/
theorem endInstar2_spec (w : Nat) (s : State) :
    let t := endInstar2 w s
    t.sup.dstate = .ready ∧ t.sup.stage = 3 ∧ t.sup.term = 1 ∧ t.sup.storeTerm = List.replicate 4 1 ∧
      t.sup.leader = (if s.sup.nLeadOk = true then .north else .south) ∧ t.sup.startupDue = true ∧
      t.tgl.pBase = max 560 (min w 720) ∧ regRead t 0x0F0000000008 = some 1 ∧ t.mem.dev = s.mem.dev := by
  have hspec := setDState_spec .ready { s with
    sup := { s.sup with
      stage := 3, term := 1, storeTerm := List.replicate 4 1, leader := if s.sup.nLeadOk then .north else .south
      readyTick := (s.time.now.toNat : Int), startupDue := true }
    tgl := { s.tgl with pBase := baseWatts w, window := s.time.now.toNat / 1000000 } }
  obtain ⟨m, i, l, a, b, h⟩ := hspec
  rw [endInstar2, h]
  exact ⟨rfl, rfl, rfl, rfl, rfl, rfl, baseWatts_eq w, regRead_term _, rfl⟩

/-! ### The release of MOD_RESET_N -/

/-- Everything is at its reset value but what flash, silicon, the dies' trip counts and companion hold (R421, R447). -/
structure EnteredInstar (s t : State) : Prop where
  time : t.time = {}
  queues : t.queues = {}
  mem : t.mem = { comp := s.mem.comp, spare := s.mem.spare }
  sup : t.sup = { State.reset.sup with
    flash := s.sup.flash, rom := s.sup.rom, nPuf := s.sup.nPuf, sPuf := s.sup.sPuf, nIdent := s.sup.nIdent, sIdent := s.sup.sIdent
    testNext := s.sup.testNext }
  regs : t.regs = { State.reset.regs with resp := s.regs.resp, errLog := s.regs.errLog }
  cores : t.cores = State.reset.cores
  tgl : t.tgl = { State.reset.tgl with trips := s.tgl.trips }
  dom : t.dom = State.reset.dom
  img : t.img = State.reset.img
  media : t.media = State.reset.media
  link : t.link = State.reset.link
  cocoons : t.cocoons = []
  luna : t.luna = []

theorem enterInstar_entered (good : Bool) (s : State) : EnteredInstar s (enterInstar good s) :=
  ⟨rfl, rfl, rfl, rfl, rfl, rfl, rfl, rfl, rfl, rfl, rfl, rfl, rfl⟩

/-- A stage runs after a correct release with the clock present (R448). -/
theorem inStage_enterInstar (good : Bool) (s : State) : inStage 0 (enterInstar good s) = true ↔ good = true ∧ s.power.refclk = true := by
  have hgood : (enterInstar good s).power.badRelease = !good := rfl
  have hclock : (enterInstar good s).power.refclk = s.power.refclk := rfl
  have hstate : (enterInstar good s).sup.dstate = .instar := rfl
  have hstage : (enterInstar good s).sup.stage = 0 := rfl
  rw [inStage, hgood, hclock, hstate, hstage, Bool.not_not]
  simp

theorem exec_modResetNRelease {s : State} (r : Release) (hreset : s.power.resetN = false) (hinput : s.power.inputOk = true)
    (hen : s.power.modEn = true) (hgood : s.power.pgood = true) : exec (.modResetNRelease r) s =
      .next (enterInstar (r.clockOk && s.power.refclk && r.holdOk && r.pulseOk)
        (setPower { s.power with resetN := true, sbAddr := r.straps } s)) := by
  have hready : ((setPower { s.power with resetN := true, sbAddr := r.straps } s).power.inputOk &&
      (setPower { s.power with resetN := true, sbAddr := r.straps } s).power.modEn &&
      (setPower { s.power with resetN := true, sbAddr := r.straps } s).power.pgood) = true := by
    simp only [setPower, hinput, hen, hgood, Bool.and_self]
  refine (show exec (.modResetNRelease r) s = execModResetNRelease r s from rfl).trans ?_
  rw [execModResetNRelease, if_neg (by rw [hreset]; exact Bool.false_ne_true)]
  exact congrArg Outcome.next (if_pos hready)

/-! ### Bottom trees (R430) -/

theorem identOf_setIdent (d : Side) (k : Ident) (s : State) : identOf (setIdent d k s) d = k := by cases d <;> rfl

theorem identOf_setIdent_other (d : Side) (k : Ident) (s : State) :
    identOf (setIdent d k s) (otherSide d) = identOf s (otherSide d) := by cases d <;> rfl

theorem keysOf_setIdent (d d' : Side) (k : Ident) (s : State) : keysOf (setIdent d k s) d' = keysOf s d' := by
  cases d <;> cases d' <;> rfl

theorem setIdent_eq (d : Side) (k : Ident) (s : State) : setIdent d k s = { s with sup := { s.sup with
    nIdent := (setIdent d k s).sup.nIdent, sIdent := (setIdent d k s).sup.sIdent } } := by cases d <;> rfl

/-- The trees of a supervisor once the one that is due is generated. -/
def treesWith (s : State) (d : Side) : List Nat :=
  insNat (treeDue s d) ((identOf s d).trees.filter fun t => decide ((keysOf s d).next / 32768 ≤ t))

/-- A supervisor has generated the tree that is due. -/
def withTree (d : Side) (s : State) : State := setIdent d { identOf s d with trees := treesWith s d } s

theorem exec_bottomTreeReady {s : State} {d : Side} (hbeat : beating s = true) (hid : hasId s d = true)
    (hdue : treeDue s d < 32768) (hwhen : canSign s d = false ∨ 31744 ≤ (keysOf s d).next % 32768) :
    exec (.bottomTreeReady d) s = .next (withTree d s) := by
  refine congrArg Outcome.next (if_pos ?_)
  rw [hbeat, hid, decide_eq_true hdue]
  simpa using hwhen

theorem withTree_trees (d : Side) (s : State) : (identOf (withTree d s) d).trees = treesWith s d := by
  rw [withTree, identOf_setIdent]

theorem canSign_withTree (d : Side) (s : State) : canSign (withTree d s) d = true ↔ (keysOf s d).next / 32768 ∈ treesWith s d := by
  rw [canSign, withTree_trees, withTree, keysOf_setIdent, List.contains_iff_mem]

theorem mem_treesWith {s : State} {d : Side} {m : Nat} : m ∈ treesWith s d ↔
    m = treeDue s d ∨ (m ∈ (identOf s d).trees ∧ (keysOf s d).next / 32768 ≤ m) := by
  rw [treesWith, mem_insNat, List.mem_filter, decide_eq_true_iff]

theorem treeDue_of_canSign {s : State} {d : Side} (h : canSign s d = true) : treeDue s d = (keysOf s d).next / 32768 + 1 := by
  rw [treeDue, h]
  rfl

theorem treeDue_of_not_canSign {s : State} {d : Side} (h : canSign s d = false) : treeDue s d = (keysOf s d).next / 32768 := by
  rw [treeDue, h]
  rfl

end Sys2Proof.Machine
end

section
/-!
PROOFS. From the release of MOD_RESET_N through Instar to READY, as O53 states it.
-/
namespace Sys2Proof.Machine
open Host

/-- Settles O53: each stage by the lemmas about it; a copy that both records' supervisors accept is `agreeCopy_some`. -/
theorem instarStages : Obligations.InstarStages := by
  unfold Obligations.InstarStages
  refine ⟨⟨?release, ?instar0, ?instar1, ?instar2⟩, ?tree⟩
  case release =>
    intro s r hreset hinput hen hgood
    have h := enterInstar_entered (r.clockOk && s.power.refclk && r.holdOk && r.pulseOk)
      (setPower { s.power with resetN := true, sbAddr := r.straps } s)
    refine ⟨_, exec_modResetNRelease r hreset hinput hen hgood, rfl, h.time, h.queues, h.mem, h.sup, h.regs, h.cores, h.tgl, h.dom,
      h.img, h.media, h.link, h.cocoons, h.luna, rfl, (inStage_enterInstar ..).trans ?_⟩
    simp only [setPower, Bool.and_eq_true]
    tauto
  case instar0 =>
    intro s b hstage s0 nId sId n m
    have hf := booted_found b s
    have hnorth := fun hhelper hdiff => hf.nSeed.trans (reconstruct_near (s := s) (d := .north) (diff := b.nDiff) hhelper hdiff)
    have hsouth := fun hhelper hdiff => hf.sSeed.trans (reconstruct_near (s := s) (d := .south) (diff := b.sDiff) hhelper hdiff)
    have hn : (if nId = true then acceptSlot s0 .north else none) = n := rfl
    have hm : (if sId = true then acceptSlot s0 .south else none) = m := rfl
    have hs0 : s0 = withSeeds (reconstruct s .north b.nDiff) (reconstruct s .south b.sDiff) s := rfl
    have hnId : nId = seedOk s .north (reconstruct s .north b.nDiff) := rfl
    have hsId : sId = seedOk s .south (reconstruct s .south b.sDiff) := rfl
    clear_value n m nId sId s0
    rw [← hnId, ← hsId] at hf
    rw [hs0] at hn hm
    have hkeep := choosesInstar1_keepsBoot b.flashOk (booted b s)
    obtain ⟨hnoFlash, hnoRecord, hrecord⟩ := choosesInstar1_spec hf (dstate_of_inStage hstage) hn hm b.flashOk
    refine ⟨endInstar0 b s, exec_instar0Complete b hstage, ?_⟩
    rw [endInstar0_eq]
    exact ⟨hkeep.refOk.trans hf.refOk, hkeep.flash.trans hf.flash, hkeep.nId.trans hf.nId_eq, hkeep.sId.trans hf.sId_eq,
      hkeep.nKeys.trans hf.nKeys_eq, hkeep.sKeys.trans hf.sKeys_eq, fun hh hd => hkeep.nSeed.trans (hnorth hh hd),
      fun hh hd => hkeep.sSeed.trans (hsouth hh hd), hnoFlash, hnoRecord, hrecord⟩
  case instar1 =>
    intro s z hstage s2 r q ver both
    obtain ⟨hdev, hob, hpoison⟩ := endInstar1_mem z s
    refine ⟨endInstar1 z s, exec_instar1Complete z hstage, hdev, hob, hpoison, fun hfault => ?_, fun hpass => ?_⟩
    · rw [endInstar1_failed hfault, (bootFailed_spec ..).sup]
      exact ⟨rfl, rfl⟩
    · exact endInstar1_spec hpass (dstate_of_inStage hstage) rfl
  case instar2 =>
    exact fun s p hstage => ⟨endInstar2 p.toNat s, exec_instar2Complete p hstage, endInstar2_spec p.toNat s⟩
  case tree =>
    intro s d hbeat hid hlast n
    refine ⟨fun hsign hfew hnext => ?_, fun hsign => ?_⟩
    · have hdue : treeDue s d = n + 1 := treeDue_of_canSign hsign
      have hnow : n ∈ (identOf s d).trees := List.contains_iff_mem.1 hsign
      refine ⟨withTree d s, exec_bottomTreeReady hbeat hid (hdue.trans_lt hnext) (.inr hfew), ?_, ?_, fun m hm => ?_,
        setIdent_eq .., identOf_setIdent_other ..⟩
      · exact (canSign_withTree d s).2 (mem_treesWith.2 (.inr ⟨hnow, Nat.le_refl _⟩))
      · rw [withTree_trees]
        exact mem_treesWith.2 (.inl hdue.symm)
      · rw [withTree_trees] at hm
        rcases mem_treesWith.1 hm with hm | ⟨hm, -⟩
        · exact .inl (hm.trans hdue)
        · exact .inr hm
    · have hdue : treeDue s d = n := treeDue_of_not_canSign hsign
      refine ⟨withTree d s, exec_bottomTreeReady hbeat hid (hdue.trans_lt ?_) (.inl hsign), ?_, setIdent_eq .., identOf_setIdent_other ..⟩
      · show (keysOf s d).next / 32768 < 32768
        omega
      · exact (canSign_withTree d s).2 (mem_treesWith.2 (.inl hdue.symm))

end Sys2Proof.Machine
end
